-- ==== Sys2Proof/Word.lean ====
section
/-! DEFINITION. The plain word types of the model. -/

namespace Sys2Proof

/-- One byte. -/
abbrev Byte := BitVec 8

/-- A 64-bit register, descriptor word or queue field (R349, R98). -/
abbrev Word := BitVec 64

/-- A 32-bit value; also the bits of a binary32 number (R35). -/
abbrev Word32 := BitVec 32

end Sys2Proof
end

