-- ==== Sys2Proof/Syntax.lean ====
section
/-! DEFINITION. The commands of the block: one constructor of `Instr` for each row of spec/opcode_table.json,
with the operands that come from outside the block: the unit or task that acts, the value the host writes, the
frame that arrives, the sample that is measured, the result that a test or a training gives. -/

namespace Sys2Proof

/-- Where an Object Access Protocol frame comes from (R25): the field network, with the sender's address and
port, the requests that wait in the field-network queue as it arrives (R441) and the UDP payload, or the Mailbox
request slot that REQ_HEAD names (R445). -/
inductive OapSrc where
  | field (addr port waiting : Nat) (frame : List Byte)
  | mailbox
  deriving DecidableEq, Repr

/-- A BAR2 access (R350): a read of `n` bytes or a write. -/
inductive Bar2Op where
  | read (n : Nat)
  | write (bytes : List Byte)
  deriving DecidableEq, Repr

/-- The BARs that hold registers (R347). -/
inductive Bar where
  | bar0 | bar4
  deriving DecidableEq, Repr

/-- A ring that raises interrupts under ICOUNT and ITIME (R357, R480). -/
inductive RingId where
  | completion (q : Nat)
  | eventTray
  deriving DecidableEq, Repr

/-- What starts a host-function reset (R367, R515). -/
inductive HostResetCause where
  | flr | hotReset | perst | linkLoss
  deriving DecidableEq, Repr

/-- A helper core by wheel, hoop and physical slot (R4). -/
structure CoreId where
  wheel : Nat
  hoop : Nat
  slot : Nat
  deriving DecidableEq, Repr

/-- A task of an admitted recipe: recipe handle and task index (R171). -/
structure TaskRef where
  recipe : Nat
  task : Nat
  deriving DecidableEq, Repr

/-- Descriptor `idx` (in pool order) of a task (R172). -/
structure DescRef where
  recipe : Nat
  task : Nat
  idx : Nat
  deriving DecidableEq, Repr

/-- What the ECC check of a memory access finds (R126, R134); an uncorrectable one names the word at fault, counted in
8-byte words from the word that holds the first byte of the access. -/
inductive Ecc where
  | clean | corrected | uncorrectable (word : Nat) | onDieReport
  deriving DecidableEq, Repr

/-- A bank of one access cap (R158): a curd bank, or an HBM bank group of a channel. -/
inductive BankId where
  | curd (slice bank : Nat)
  | near (channel group : Nat)
  deriving DecidableEq, Repr

/-- The issuer of a memory request: its wheel, the recipe and the task of it that issue it, and whether it is speculative
(R158, R175, R180, R426). `tag` names the request. -/
structure ReqId where
  wheel : Nat
  recipe : Nat
  task : Nat
  tag : Nat
  spec : Bool
  deriving DecidableEq, Repr

/-- How a served memory request ends: data and ECC result, or no completion yet (R159). -/
inductive Serve where
  | done (e : Ecc)
  | stalled
  deriving DecidableEq, Repr

/-- What a CAS atomic works on (R138). -/
inductive CasWidth where
  | w8 | w32 | w64
  deriving DecidableEq, Repr

/-- What a carry meets on its way (R223): nothing from outside, or an absorbed request (R426). -/
inductive CarryEnd where
  | done | absorbed
  deriving DecidableEq, Repr

/-- The device found on a far port at training (R145 to R147): none, a CXL device or a KZ-CB5, with its capacity
in bytes; `ok` when the link reached 64 GT/s x16 and passed its dwell within two attempts (R418, R419). -/
inductive FarFound where
  | none
  | cxl (bytes : Nat) (multiLogical : Bool) (ok : Bool)
  | cb5 (bytes : Nat) (ok : Bool)
  deriving DecidableEq, Repr

/-- The training of a hinge port (R296, R419): the good-lane masks of both ends, the peer's module ID, and the
lane pairs whose dwell passed (`whole` for all trained lanes, then pair 0-1, pair 2-3). -/
structure HingeTrain where
  trained : Bool
  localMask : Nat
  peerMask : Nat
  peerId : Nat
  whole : Bool
  pair0 : Bool
  pair1 : Bool
  deriving DecidableEq, Repr

/-- A link that is qualified (R418). -/
inductive LinkId where
  | hinge (p : Nat)
  | far (p : Nat)
  deriving DecidableEq, Repr

/-- The result of one qualification dwell (R418, R419). -/
inductive DwellResult where
  | pass
  | fail
  | pairPass (pair : Nat)
  deriving DecidableEq, Repr

/-- Why a hinge port enters RETRAINING (R297). -/
inductive RetrainCause where
  | replayLimit | codewords | alignment | protocolError
  deriving DecidableEq, Repr

/-- One measurement of a vat domain's monitors, in percent, at one tap and rail (R396, R398): its junction temperature,
the smallest margin of the cell monitors, of the forwarding monitors of each segment (row segments 0-3, column segments
4-7) and of the broadcast monitors. -/
structure VatMargins where
  tj : Rat
  cell : Rat
  forward : List Rat
  broadcast : Rat
  deriving DecidableEq, Repr

/-- One measurement of a hoop domain's monitors: the junction temperature, and the smaller margin of each of the 80
hoops' two monitors (R396). -/
structure HoopMargins where
  tj : Rat
  hoops : List Rat
  deriving DecidableEq, Repr

/-- What a replan of one wheel measures (R398, R400): the sweeps of its vat and hoop domains, one measurement for each
tap 0-15 and each of the 51 rails from 0.60 V to 0.85 V; the physical lines and the helper-core positions (hoop, slot)
that fail. -/
structure WheelScan where
  vat : List (List VatMargins)
  hoops : List (List HoopMargins)
  badRows : List Nat
  badCols : List Nat
  badCores : List (Nat × Nat)
  deriving DecidableEq, Repr

/-- What Stage 1 finds of one firmware slot (R494): parts that fail verification or start. -/
structure SlotCheck where
  failedParts : List Nat
  deriving DecidableEq, Repr

/-- What Stage 2 finds (R415): domains whose rail does not come up, and parts that fail the built-in tests. -/
structure Stage2Result where
  failedRails : List Nat
  badRows : List (Nat × Nat)
  badCols : List (Nat × Nat)
  badCores : List CoreId
  badBanks : List (Nat × Nat)
  deriving DecidableEq, Repr

/-- What Stage 4 finds (R416): stacks that train, and channels (32 × stack + channel) that fail the march. -/
structure Stage4Result where
  trained : List Nat
  failed : List Nat
  deriving DecidableEq, Repr

/-- What Stage 5 finds (R417): lines (wheel, physical line) and cores that fail. -/
structure Stage5Result where
  badRows : List (Nat × Nat)
  badCols : List (Nat × Nat)
  badCores : List CoreId
  deriving DecidableEq, Repr

/-- What Stage 6 finds (R418 to R420): the device on each far port, the training of each hinge port, the host
link's width and rate when it trained, whether it qualified, and the worst hinge pre-FEC BER in units of 10^-8. -/
structure Stage6Result where
  far : List FarFound
  hinge : List HingeTrain
  hostLink : Option (Nat × Nat)
  hostQualified : Bool
  worstBer : Nat
  deriving DecidableEq, Repr

/-- The two kinds of a regional limit (R386). -/
inductive PullKind where
  | rail | temperature
  deriving DecidableEq, Repr

/-- The NAND result of reading or writing one entry (R331 to R345). -/
inductive Nand where
  | ok | corrected | uncorrectable
  deriving DecidableEq, Repr

/-- The commands: one constructor for each row of spec/opcode_table.json, in the table's order. -/
inductive Instr where
  -- Host link, queues and admission
  | submissionDoorbell (q tail : Nat)
  | cqHeadWrite (q index : Nat)
  | qcfgWrite (q : Nat) (v : Word)
  | bar2BaseWrite (v : Word)
  | bar2Access (off : Nat) (op : Bar2Op)
  | genericRegisterWrite (bar : Bar) (off : Nat) (bytes : List Byte)
  | invalidSubmissionEntry
  | admitRecipe
  | startStep
  | startStepHeldBegin (recipe : Nat)
  | retireRecipe
  | copy (busError : Option Nat)
  | copyQueuedBegin (busError : Option Nat)
  | snapshotNow
  | restore (nand : Nand)
  | restoreBodyWritten (recipe : Nat)
  | queryCapacity
  | fenceQueue
  | etCfgWrite (v : Word)
  | etHeadWrite (v : Word)
  | eventCollectorWrite (k : Nat)
  | interruptDelayExpiry (ring : RingId)
  | hostFunctionReset (cause : HostResetCause)
  | hostLinkTraining (width rate : Nat) (qualified : Bool)
  -- Warden and Object Access Protocol
  | mailboxDoorbell (v : Word)
  | rspHeadWrite (v : Word)
  | read (src : OapSrc)
  | alertClearingRead (src : OapSrc)
  | write (src : OapSrc)
  | execute (src : OapSrc)
  | probe (src : OapSrc) (allNodes : Bool)
  | abort (src : OapSrc)
  | subscribe (src : OapSrc)
  | blockBegin (src : OapSrc)
  | blockData (src : OapSrc)
  | blockEnd (src : OapSrc)
  | frameDiscard (src : OapSrc)
  | notificationPeriod (k : Nat)
  | subscriptionExpiry (k : Nat)
  | blockSessionTimeout (obj : Nat)
  | capWrite (src : OapSrc)
  | windowWrite (src : OapSrc)
  | deviceEnable (src : OapSrc)
  | deviceDisable (src : OapSrc)
  | wheelEnable (src : OapSrc) (scan : WheelScan)
  | wheelDisable (src : OapSrc)
  | farPortEnable (src : OapSrc) (found : FarFound)
  | farPortDisable (src : OapSrc)
  | hingePortEnable (src : OapSrc) (train : HingeTrain)
  | hingePortDisable (src : OapSrc)
  | rindEnable (src : OapSrc)
  | rindDisable (src : OapSrc)
  | maintenanceRequest (src : OapSrc)
  | maintenanceEntry
  | maintenanceExit (src : OapSrc)
  | caveFlushComplete (portError : Option Nat)
  | ownerLockWrite (src : OapSrc)
  | ownerLockLockoutEnd
  | injectionPermitWrite (src : OapSrc)
  | injectionPointWrite (src : OapSrc)
  | injectionTick (det : Nat)
  | detectorConfigWrite (src : OapSrc)
  | routeEntryWrite (src : OapSrc)
  | regionSizeWrite (src : OapSrc)
  | vatModeOverrideWrite (src : OapSrc)
  | commandEnd
  | activateFirmware (src : OapSrc)
  | replanMargins (src : OapSrc) (scans : List (Nat × WheelScan))
  | restoreRindImage (src : OapSrc) (nand : Nand)
  | reconcileDefectMap (src : OapSrc) (passed : List Nat)
  | qualifyLinks (src : OapSrc)
  | confirmFirmware (src : OapSrc)
  | enterRecovery (src : OapSrc)
  | flushCaveCache (src : OapSrc)
  | deviceReset (src : OapSrc)
  | wheelReset (src : OapSrc)
  -- Recipes, tasks and tumblers
  | taskLoad (recipe wheel : Nat) (spec : Bool)
  | taskStart (t : TaskRef)
  | taskRetire (t : TaskRef)
  | pageReturn (recipe page : Nat)
  | stepComplete (recipe : Nat)
  | stepWatchdogExpiry (recipe : Nat)
  | spanPatienceExpiry (recipe : Nat)
  | completionRingStall (q : Nat)
  -- Helper cores and hoops
  | hoopPick (wheel hoop : Nat)
  | riscvInstruction (c : CoreId)
  | icacheMissFill (c : CoreId)
  | ecallExit (c : CoreId)
  | budgetExceeded (c : CoreId)
  | kzQuant (c : CoreId)
  | kzDequant (c : CoreId)
  | kzEyepickAccumulate (c : CoreId)
  | kzEyepickSelect (c : CoreId)
  | kzTopk (c : CoreId)
  | kzHist (c : CoreId)
  | kzCarry (c : CoreId)
  | carryComplete (c : CoreId) (k : Nat) (e : CarryEnd)
  | kzTadd (c : CoreId)
  | chainAction (k : Nat)
  | kzTwait (c : CoreId)
  | twaitWake (c : CoreId)
  | kzTarm (c : CoreId)
  | kzPost (c : CoreId)
  | kzSpecBegin (c : CoreId)
  | kzSpecEnd (c : CoreId)
  -- Vats and drains
  | mac (d : DescRef)
  | macClear (d : DescRef)
  | drain (d : DescRef)
  | loadAcc (d : DescRef)
  | transpose (d : DescRef)
  | fence (d : DescRef)
  | descriptorSignal (d : DescRef)
  | arrangementReconfigure (vat : Nat)
  | vatChangeApply (vat : Nat)
  | recomputeOpenGrant (recipe entry : Nat)
  | recomputeOpenWaitTimeout (recipe entry : Nat)
  | feederStarvationTimeout (vat : Nat)
  | vatHandshakeStall (vat : Nat) (suspect : Option (Bool × Nat))
  -- Update engines
  | updateNativeApply (d : DescRef)
  | updateMh4Apply (d : DescRef)
  | updateCopiesOnly (d : DescRef)
  | ratioPassNative (d : DescRef)
  | ratioPassMh4 (d : DescRef)
  | updatePacket (d : DescRef) (packet : Nat)
  | emissionUnit (d : DescRef) (record unit : Nat)
  | versionWaitTimeout (t : TaskRef) (wait : Nat)
  | rindWaitTimeout (d : DescRef)
  -- Hinge engines and the Tyandarn link
  | hingePut (d : DescRef)
  | dispatchOrdinary (d : DescRef)
  | dispatchSpeculative (d : DescRef)
  | dispatchResend (d : DescRef)
  | verify (d : DescRef)
  | unpack (d : DescRef)
  | combine (d : DescRef)
  | allReduce (d : DescRef)
  | reduceScatter (d : DescRef)
  | allGather (d : DescRef)
  | span (d : DescRef)
  | nullFlit (port : Nat) (flit : List Byte)
  | flitCrcFailure (port : Nat) (flit : List Byte)
  | linkInit (port : Nat) (flit : List Byte)
  | spanAdd (port : Nat) (flit : List Byte)
  | guard (port : Nat) (flit : List Byte)
  | notice (port : Nat) (flit : List Byte)
  | get (port : Nat) (flit : List Byte)
  | getData (port : Nat) (flit : List Byte)
  | put (port : Nat) (flit : List Byte)
  | putAck (port : Nat) (flit : List Byte)
  | nack (port : Nat) (flit : List Byte)
  | guardAck (port : Nat) (flit : List Byte)
  | portRetrain (port : Nat) (cause : RetrainCause)
  | retrainComplete (port : Nat) (train : HingeTrain)
  | qualificationDwellEnd (link : LinkId) (r : DwellResult)
  | preFecBerWindow (port : Nat) (ber : Rat) (corrected uncorrectable : Nat)
  -- Memory tiers
  | caveDemandRead (t : TaskRef) (addr : Nat)
  | caveFillComplete (recipe segment : Nat) (bad : Option Nat)
  | trackerClose (recipe k : Nat)
  | memoryRead (r : ReqId) (addr len : Nat) (s : Serve)
  | memoryWrite (r : ReqId) (addr : Nat) (bytes : List Byte) (s : Serve)
  | adds32 (addr : Nat) (operand : Word32)
  | add64 (addr : Nat) (operand : Word)
  | maxf32 (addr : Nat) (operand : Word32)
  | cas (width : CasWidth) (addr : Nat) (expected new : Word)
  | bankCapWaitEnd (b : BankId)
  | patrolScrub (addr : Nat) (e : Ecc)
  | bankNoProgress (b : BankId)
  | bankFailed (b : BankId)
  | channelSymbolRateExceeded (channel : Nat)
  -- Planes, power and cooling
  | viewUpdate
  | paceLineRefresh (activity : List Nat)
  | paceLineKeepaliveLoss
  | shuntSample (volts watts : Rat)
  | powerExcursion (joules : Rat) (longerThan10ms : Bool)
  | droopBegin (d : Nat)
  | droopClear (d : Nat)
  | deferredRateStep (d : Nat)
  | junctionSample (d : Nat) (hottest mean : Rat)
  | regionalPullStep (k : PullKind) (a b : Nat)
  | inletSample (celsius outlet : Rat)
  | inletRecoveryTimer
  | flowLoss
  | junctionTrip (d : Nat)
  | trayFlowOkAssert
  | inputLoss
  | inputOvervoltage (volts : Rat)
  | inputReturn (volts : Rat)
  | powerUp (volts : Rat)
  | prechargeComplete
  | holdupMeasurement (ms : Nat)
  -- Ageing and spares
  | monitorSample (d : Nat) (margin : Rat)
  | idleWindowReplan (wheel : Nat) (scan : WheelScan)
  | replanOverdue (wheel : Nat)
  -- Bring-up and resets
  | auxPowerUp (romOk : Bool) (holdupMs : Nat) (recoveryReq : Bool) (slotId : Nat)
  | stage1Firmware (slotA slotB : SlotCheck)
  | stage2Rails (r : Stage2Result)
  | stage3Spares
  | stage4Hbm (r : Stage4Result)
  | stage5Tests (r : Stage5Result)
  | stage6Links (r : Stage6Result)
  | stage7Plan (scans : List (Nat × WheelScan))
  | stage8Decision
  | stageTimeout
  | hostLinkWaitExpiry
  | coreStallDetect (c : CoreId)
  | coreStopTimeout (c : CoreId)
  | hoopPickStall (wheel hoop : Nat)
  | drainEnd (k : Nat)
  | drainDeadline (k : Nat)
  | absorptionComplete (k : Nat)
  | resetEscalation (k : Nat)
  | wheelUsableAgain (wheel : Nat) (r : Stage5Result)
  | lockstepMismatch
  | wardenWatchdogExpiry
  | wardenRestartComplete
  | plcaBeaconLoss
  -- Rind store, tray and errors
  | captureEntry (recipe : Nat) (n : Nand)
  | imageDurable (recipe : Nat)
  | seatLatchedSet
  | seatLatchedClear
  | stby12SenseChange (level : Bool)
  | auxiliarySupplyLoss
  | holdUpChargeThreshold (percent : Nat)
  | hostLinkError (correctable : Bool)
  | caveDeviceErrorReport (port : Nat) (uncorrected : Bool) (addr : Nat)
  | retrainTimeout (port : Nat)
  deriving DecidableEq, Repr

end Sys2Proof
end

