-- ==== Sys2Proof/Decode.lean ====
section
/-! DEFINITION. The reading of a table word. The block decodes no words: spec/opcode_table.json gives no row any
bits, so no word spells a command. (The kz words that helper cores fetch are decoded in
Machine/KzData.lean and Kz.lean, the RISC-V words in Machine/Riscv.lean, RiscvFp.lean and RiscvV.lean; Object Access
Protocol frames in Machine/Oap.lean.) -/

namespace Sys2Proof

/-- The command that a word spells by the table's bits: none, since no row of the table has bits. -/
def decodeTableWord (_nbits _w : Nat) : Option Instr := none

end Sys2Proof
end

