-- ==== Sys2Proof/Machine/Num.lean ====
section
/-! DEFINITION. Exact numbers and their rounding: IEEE formats (R35, R56), the W48 accumulator (R50 to R55), the
magnitude grids of the element types, and stochastic rounding (R67 to R70). -/

namespace Sys2Proof.Machine

/-- A number held exactly: (−1)^neg × m × 2^e, with a signed zero for m = 0; an infinity; a NaN. -/
inductive Val where
  | nan
  | inf (neg : Bool)
  | fin (neg : Bool) (m : Nat) (e : Int)
  deriving DecidableEq, Repr

namespace Val

def zero : Val := .fin false 0 0
def one : Val := .fin false 1 0

/-- The integer n. -/
def ofInt (n : Int) : Val := .fin (decide (n < 0)) n.natAbs 0

/-- 2^k. -/
def pow2 (k : Int) : Val := .fin false 1 k

def neg : Val → Val
  | .nan => .nan
  | .inf s => .inf (!s)
  | .fin s m e => .fin (!s) m e

def abs : Val → Val
  | .nan => .nan
  | .inf _ => .inf false
  | .fin _ m e => .fin false m e

def isZero : Val → Bool
  | .fin _ m _ => m == 0
  | _ => false

def isFinite : Val → Bool
  | .fin _ _ _ => true
  | _ => false

def signBit : Val → Bool
  | .nan => false
  | .inf s => s
  | .fin s _ _ => s

/-- m × 2^e as a signed integer at exponent k ≤ e. -/
def atExp (s : Bool) (m : Nat) (e k : Int) : Int :=
  let n : Int := (m * 2 ^ (e - k).toNat : Nat)
  if s then -n else n

/-- Exact sum; a sum of nonzero terms that is zero is +0, and only −0 + −0 is −0 (R53). -/
def add : Val → Val → Val
  | .nan, _ => .nan
  | _, .nan => .nan
  | .inf a, .inf b => if a == b then .inf a else .nan
  | .inf a, _ => .inf a
  | _, .inf b => .inf b
  | .fin s m e, .fin t n f =>
    let k := min e f
    let x := atExp s m e k + atExp t n f k
    if x = 0 then .fin (s && t && m == 0 && n == 0) 0 0 else .fin (decide (x < 0)) x.natAbs k

def sub (a b : Val) : Val := add a b.neg

/-- Exact product (R51, R55). -/
def mul : Val → Val → Val
  | .nan, _ => .nan
  | _, .nan => .nan
  | .inf a, .inf b => .inf (a != b)
  | .inf a, .fin t n _ => if n = 0 then .nan else .inf (a != t)
  | .fin s m _, .inf b => if m = 0 then .nan else .inf (s != b)
  | .fin s m e, .fin t n f => .fin (s != t) (m * n) (e + f)

/-- Comparison of numbers that are no NaN: a < b. -/
def lt : Val → Val → Bool
  | .nan, _ => false
  | _, .nan => false
  | .inf a, .inf b => a && !b
  | .inf a, _ => a
  | _, .inf b => !b
  | .fin s m e, .fin t n f =>
    let k := min e f
    decide (atExp s m e k < atExp t n f k)

/-- Equality of value; zeros are equal, a NaN equals nothing. -/
def eqv (a b : Val) : Bool := a != .nan && b != .nan && !lt a b && !lt b a

def le (a b : Val) : Bool := lt a b || eqv a b

/-- The larger of two magnitudes. -/
def maxAbs (a b : Val) : Val := if lt a.abs b.abs then b.abs else a.abs

/-- Exponent of the leading bit of a nonzero finite magnitude. -/
def ilog2 : Val → Int
  | .fin _ m e => (Nat.log2 m : Int) + e
  | _ => 0

/-- Integer square root, by digits. -/
def isqrt (n : Nat) : Nat :=
  (List.range (Nat.log2 n / 2 + 1)).reverse.foldl (fun r i =>
    if (r + 2 ^ i) * (r + 2 ^ i) ≤ n then r + 2 ^ i else r) 0

/-- Quotient to `p` bits and a sticky bit: enough to round once to fewer bits. -/
def quo (p : Nat) : Val → Val → Val
  | .nan, _ => .nan
  | _, .nan => .nan
  | .inf _, .inf _ => .nan
  | .inf a, .fin t _ _ => .inf (a != t)
  | .fin s _ _, .inf b => .fin (s != b) 0 0
  | .fin s m e, .fin t n f =>
    if n = 0 then (if m = 0 then .nan else .inf (s != t))
    else if m = 0 then .fin (s != t) 0 0
    else
      let k := p + 2 + Nat.log2 n
      let q := m * 2 ^ k / n
      let r := m * 2 ^ k % n
      .fin (s != t) (2 * q + (if r = 0 then 0 else 1)) (e - f - k - 1)

/-- Square root to `p` bits and a sticky bit. -/
def root (p : Nat) : Val → Val
  | .nan => .nan
  | .inf s => if s then .nan else .inf false
  | .fin s m e =>
    if m = 0 then .fin s 0 0
    else if s then .nan
    else
      let m1 := if e % 2 = 0 then m else 2 * m
      let e1 := if e % 2 = 0 then e else e - 1
      let k := 2 * (p + 2)
      let x := m1 * 2 ^ k
      let r := isqrt x
      .fin false (2 * r + (if r * r = x then 0 else 1)) (e1 / 2 - (p + 2) - 1)

end Val

/-! ### Rounding to a grid -/

/-- m × 2^e in units of 2^q: the integer part and the comparison of the rest with one half (0 none, 1 below, 2 half,
3 above). -/
def units (m : Nat) (e q : Int) : Nat × Nat :=
  if q ≤ e then (m * 2 ^ (e - q).toNat, 0)
  else
    let d := 2 ^ (q - e).toNat
    let r := m % d
    (m / d, if r = 0 then 0 else if 2 * r < d then 1 else if 2 * r = d then 2 else 3)

/-- Round an integer part and its rest by a RISC-V rounding mode: 0 nearest even, 1 toward zero, 2 down, 3 up,
4 nearest away. -/
def roundUnits (rm : Nat) (neg : Bool) (n rest : Nat) : Nat :=
  let up := match rm with
    | 0 => rest == 3 || (rest == 2 && n % 2 == 1)
    | 1 => false
    | 2 => neg && rest != 0
    | 3 => !neg && rest != 0
    | _ => decide (2 ≤ rest)
  if up then n + 1 else n

/-- An IEEE interchange format by exponent bits and fraction bits. -/
structure Ieee where
  eb : Nat
  mb : Nat
  deriving DecidableEq, Repr

def f16 : Ieee := { eb := 5, mb := 10 }
def bf16 : Ieee := { eb := 8, mb := 7 }
def f32 : Ieee := { eb := 8, mb := 23 }
def f64 : Ieee := { eb := 11, mb := 52 }

def Ieee.bias (f : Ieee) : Int := 2 ^ (f.eb - 1) - 1
/-- Exponent of the smallest magnitude. -/
def Ieee.q0 (f : Ieee) : Int := 1 - f.bias - f.mb
def Ieee.infCode (f : Ieee) : Nat := (2 ^ f.eb - 1) * 2 ^ f.mb
def Ieee.nanCode (f : Ieee) : Nat := f.infCode + 2 ^ (f.mb - 1)
def Ieee.signOf (f : Ieee) : Nat := 2 ^ (f.eb + f.mb)

/-- The value of a bit pattern. -/
def Ieee.decode (f : Ieee) (b : Nat) : Val :=
  let s := bitOf b (f.eb + f.mb)
  let x := b % f.signOf
  let e := x / 2 ^ f.mb
  let m := x % 2 ^ f.mb
  if e = 2 ^ f.eb - 1 then (if m = 0 then .inf s else .nan)
  else if e = 0 then .fin s m f.q0
  else .fin s (2 ^ f.mb + m) (f.q0 + e - 1)

/-- Round a value to the format under a rounding mode; the second part is the IEEE flags as in fflags
(NX 1, UF 2, OF 4, DZ 8, NV 16), tininess after rounding. -/
def Ieee.round (f : Ieee) (rm : Nat) (v : Val) : Nat × Nat :=
  match v with
  | .nan => (f.nanCode, 0)
  | .inf s => (bit s * f.signOf + f.infCode, 0)
  | .fin s m e =>
    if m = 0 then (bit s * f.signOf, 0)
    else
      let q := max ((Nat.log2 m : Int) + e - f.mb) f.q0
      let u := units m e q
      let n := roundUnits rm s u.1 u.2
      let code := (q - f.q0).toNat * 2 ^ f.mb + n
      let qn := (Nat.log2 m : Int) + e - f.mb
      let un := units m e qn
      let nn := roundUnits rm s un.1 un.2
      let tiny := decide (qn < f.q0) && decide ((nn : Int) * 2 ^ (qn - f.q0 + 64).toNat < 2 ^ f.mb * 2 ^ 64)
      let nx := u.2 != 0
      if f.infCode ≤ code then
        let toInf := rm == 0 || rm == 4 || (rm == 2 && s) || (rm == 3 && !s)
        (bit s * f.signOf + (if toInf then f.infCode else f.infCode - 1), 5)
      else (bit s * f.signOf + code, (if nx then 1 else 0) + (if nx && tiny then 2 else 0))

/-- Round to nearest even (R56). -/
def Ieee.rne (f : Ieee) (v : Val) : Nat := (f.round 0 v).1

/-- FP32 arithmetic on values, each operation rounded to nearest even (R56). -/
def r32 (v : Val) : Val := f32.decode (f32.rne v)
def add32 (a b : Val) : Val := r32 (a.add b)
def sub32 (a b : Val) : Val := r32 (a.sub b)
def mul32 (a b : Val) : Val := r32 (a.mul b)
def div32 (a b : Val) : Val := r32 (Val.quo 30 a b)
def sqrt32 (a : Val) : Val := r32 (Val.root 30 a)

/-! ### The accumulator W48 (R50 to R55) -/

/-- The value of a W48. -/
def w48Val (w : BitVec 48) : Val :=
  let n := w.toNat
  let s := bitOf n 47
  let e := bitsOf n 46 37
  let f := bitsOf n 36 0
  if e = 0 then .fin s 0 0
  else if e = 1023 then (if f = 0 then .inf s else .nan)
  else .fin s (2 ^ 37 + f) ((e : Int) - 511 - 37)

/-- W48 flush and saturation of a rounding. -/
structure W48Count where
  sat : Nat := 0
  flush : Nat := 0
  deriving DecidableEq, Repr

/-- Round an exact result to W48 (R53), with its flush or saturation. -/
def w48Round (v : Val) : BitVec 48 × W48Count :=
  match v with
  | .nan => (BitVec.ofNat 48 (1023 * 2 ^ 37 + 2 ^ 36), {})
  | .inf s => (BitVec.ofNat 48 (bit s * 2 ^ 47 + 1023 * 2 ^ 37), {})
  | .fin s m e =>
    if m = 0 then (BitVec.ofNat 48 (bit s * 2 ^ 47), {})
    else
      let q := (Nat.log2 m : Int) + e - 37
      let u := units m e q
      let n := roundUnits 0 s u.1 u.2
      let n1 := if n = 2 ^ 38 then 2 ^ 37 else n
      let q1 := if n = 2 ^ 38 then q + 1 else q
      let ex := q1 + 37 + 511
      if ex < 1 then (BitVec.ofNat 48 (bit s * 2 ^ 47), { flush := 1 })
      else if 1022 < ex then (BitVec.ofNat 48 (bit s * 2 ^ 47 + 1022 * 2 ^ 37 + (2 ^ 37 - 1)), { sat := 1 })
      else (BitVec.ofNat 48 (bit s * 2 ^ 47 + ex.toNat * 2 ^ 37 + (n1 - 2 ^ 37)), {})

/-- An addition into W48 (R53, R55). -/
def w48Add (w : BitVec 48) (v : Val) : BitVec 48 × W48Count := w48Round ((w48Val w).add v)

/-! ### Magnitude grids of the element types (R35, R38, R39, R57) -/

/-- A grid of magnitudes by code: fraction bits, exponent of the smallest magnitude, largest finite code. -/
structure Grid where
  mb : Nat
  q0 : Int
  maxCode : Nat
  deriving DecidableEq, Repr

def gE4M3 : Grid := { mb := 3, q0 := -9, maxCode := 0x7E }
def gE5M2 : Grid := { mb := 2, q0 := -16, maxCode := 0x7B }
def gE3M2 : Grid := { mb := 2, q0 := -4, maxCode := 0x1F }
def gE2M3 : Grid := { mb := 3, q0 := -3, maxCode := 0x1F }
def gE2M1 : Grid := { mb := 1, q0 := -1, maxCode := 7 }
def gInt8 : Grid := { mb := 7, q0 := -6, maxCode := 127 }
def gO3 : Grid := { mb := 0, q0 := -1, maxCode := 3 }
def gO2 : Grid := { mb := 0, q0 := 0, maxCode := 1 }
def gBF16 : Grid := { mb := 7, q0 := -133, maxCode := 0x7F7F }
def gFP16 : Grid := { mb := 10, q0 := -24, maxCode := 0x7BFF }
def gFP32 : Grid := { mb := 23, q0 := -149, maxCode := 0x7F7FFFFF }
/-- Moment codes: integers to 127 and to 255 (R47, R48). -/
def gM8 : Grid := { mb := 8, q0 := 0, maxCode := 127 }
def gV8 : Grid := { mb := 8, q0 := 0, maxCode := 255 }

/-- The magnitude of a code. -/
def Grid.value (g : Grid) (c : Nat) : Val :=
  if c < 2 ^ g.mb then .fin false c g.q0
  else .fin false (2 ^ g.mb + c % 2 ^ g.mb) (g.q0 + (c / 2 ^ g.mb : Nat) - 1)

/-- Largest magnitude, vmax. -/
def Grid.vmax (g : Grid) : Val := g.value g.maxCode

/-- vmax + t/2, the saturation threshold of R58. -/
def Grid.satAt (g : Grid) : Val :=
  (g.vmax.add (g.vmax.mul (.pow2 1))).sub (g.value (g.maxCode - 1)) |>.mul (.pow2 (-1))

/-- Unit of the grid at a magnitude. -/
def Grid.unitAt (g : Grid) (m : Nat) (e : Int) : Int := max ((Nat.log2 m : Int) + e - g.mb) g.q0

/-- What narrowing counts for an element. -/
inductive NCount where
  | none | sat | flush
  deriving DecidableEq, Repr

/-- Counts of a magnitude under R58: saturation at vmax + t/2 and above, flush at half the smallest magnitude and
below. -/
def Grid.count (g : Grid) (y : Val) : NCount :=
  if y.isZero then .none
  else if g.satAt.le y.abs then .sat
  else if y.abs.le (.pow2 (g.q0 - 1)) then .flush
  else .none

/-- Round a finite value's magnitude to the grid, nearest even, at most the largest code (R58). -/
def Grid.rne (g : Grid) (y : Val) : Nat :=
  match y with
  | .fin _ m e =>
    if m = 0 then 0
    else
      let q := g.unitAt m e
      let u := units m e q
      min ((q - g.q0).toNat * 2 ^ g.mb + roundUnits 0 false u.1 u.2) g.maxCode
  | _ => 0

/-- Round stochastically with the 24 bits u (R67). -/
def Grid.stochastic (g : Grid) (u : Nat) (y : Val) : Nat :=
  match y with
  | .fin _ m e =>
    if m = 0 then 0
    else
      let q := g.unitAt m e
      let n := (units m e q).1
      let a := (q - g.q0).toNat * 2 ^ g.mb + n
      if g.maxCode ≤ a then g.maxCode
      else
        let d := (units m e (q - 24)).1 - n * 2 ^ 24
        if 2 ^ 24 ≤ d + u then a + 1 else a
  | _ => 0

/-- O3 over the intervals of R59. -/
def o3Round (y : Val) : Nat :=
  let a := y.abs
  if a.le (.pow2 (-2)) then 0
  else if a.lt (.fin false 3 (-2)) then 1
  else if a.lt (.fin false 3 (-1)) then 2
  else 3

/-- O2 over the intervals of R59. -/
def o2Round (y : Val) : Nat := if y.abs.le (.pow2 (-1)) then 0 else 1

/-! ### Stochastic rounding words (R68) -/

/-- Constants of a round (R68). -/
def srConst : Nat → Word
  | 0 => 0x9E3779B97F4A7C15#64
  | 1 => 0xBF58476D1CE4E5B9#64
  | 2 => 0x94D049BB133111EB#64
  | _ => 0x2545F4914F6CDD1D#64

/-- One round of sr_word. -/
def srRound (tensor : Word) (x : Word) (r : Nat) : Word :=
  let k := if r = 1 then srConst r ^^^ tensor else if r = 3 then srConst r ^^^ (tensor <<< 32) else srConst r
  let y := (x ^^^ k) * 0x0000100000100001#64
  y ^^^ y.rotateRight 28

/-- sr_word (R68). -/
def srWord (seed tensor index purpose : Nat) : Word :=
  let x := BitVec.ofNat 64 seed ^^^ BitVec.ofNat 64 index ^^^ (BitVec.ofNat 64 purpose <<< 48)
  [0, 1, 2, 3].foldl (srRound (BitVec.ofNat 64 tensor)) x

/-- u of R67: bits [63:40]. -/
def srBits (w : Word) : Nat := w.toNat / 2 ^ 40

end Sys2Proof.Machine
end

