-- ==== Sys2Proof/Config.lean ====
section
/-! DEFINITION. The free values: results that the spec leaves open, as constants without a body, so that no proof
can see what they are (log entry 7). Each is applied to the free-value counter of the state, or to the operands it
depends on. -/

namespace Sys2Proof.Config

/-- A byte the spec leaves open, by free-value index and position. -/
opaque freeByte : Nat → Nat → Byte

/-- What a byte of the cave holds after its contents became undefined (R149), by how often they have and by address. -/
opaque caveByte : Nat → Nat → Byte

/-- A number the spec leaves open, by free-value index. -/
opaque freeNat : Nat → Nat

/-- The halfword of the hoop supervisor's image at an address, none outside the image (R199, R203): the spec gives neither
its bytes nor its place. -/
opaque supervisorHalf : Nat → Option (BitVec 16)

/-- A choice the spec leaves open, by free-value index. -/
opaque freeBool : Nat → Bool

/-- The bank group of an HBM channel offset: the spec names bank groups (R158) and does not place them. -/
opaque bankGroup : Nat → Nat → Nat

/-- FP64 power b^t as its 64 bits, by the bits of b and t (R265): only its accuracy is given. -/
opaque fp64Pow : BitVec 64 → Nat → BitVec 64

/-- The coefficients of a ROM function table, as its 4,160-byte image, by table number (R241, R245). -/
opaque romTable : Nat → List Byte

/-- Energy per event of a domain in pJ, by domain, rail in mV and junction temperature (R380). -/
opaque eventEnergy : Nat → Nat → Rat → Nat

/-- Static power of a domain in mW, by domain, rail in mV and junction temperature (R380). -/
opaque staticPower : Nat → Nat → Rat → Nat

/-- Fixed share of an ungoverned domain in mW, by domain and whether the HBM islands run at 6.4 Gb/s (R380, R381). -/
opaque fixedShare : Nat → Bool → Nat

/-- Conversion loss in W, by the current of the 54 V bus in A (R380). -/
opaque conversionLoss : Rat → Nat

/-- ECDSA P-384 verification of a signature over a message with root key n (R491): the keys are not given. -/
opaque signatureValid : Nat → List Byte → List Byte → Bool

/-- A function table of a firmware set keeps within the bound of R245 for its ROM_ID, by ROM_ID and image (R491): the
exact functions are real-valued, and their comparison in FP64 is the Warden's. -/
opaque tableBound : Nat → List Byte → Bool

/-- A result of a standard RISC-V instruction that its own manual leaves open, by instruction word and operands. -/
opaque riscvOpen : Nat → List (BitVec 64) → BitVec 64

end Sys2Proof.Config
end

