-- ==== Sys2Proof/Machine/State.lean ====
section
/-! DEFINITION. The state of the block, as plain data: everything the spec gives the module, and the queue of
commands. Each field's docstring ends with its width, the rule and file of spec/ that name it, and its value in
`State.reset`, which is an unpowered module as shipped (log entry 2). -/

namespace Sys2Proof.Machine

/-- Bytes by address, sorted by address, no entry zero (an unlisted address reads zero, log entry 3). -/
abbrev Memory := List Host.Cell

/-! ### Enumerations -/

/-- Device state (R413). -/
inductive DevState where
  | off | staging | ready | readyDegraded | failed | recovery | haltedCoolant | maintenance
  deriving DecidableEq, Repr

/-- State of a resource in the admission view (R19). -/
inductive Fence where
  | usable | fencing | fenced
  deriving DecidableEq, Repr

/-- Mark of a hoop in the admission view (R19, R410): its 16th core is being withdrawn, or the hoop is FENCING or
FENCED. -/
inductive HoopMark where
  | usable | core16 | fencing | fenced
  deriving DecidableEq, Repr

/-- Wheel state (OD 20.1w4, R462). -/
inductive WheelState where
  | usable | fencing | fenced | disabled
  deriving DecidableEq, Repr

/-- Hinge port state (R295, OD 22.2pp). -/
inductive PortState where
  | down | up4 | up2 | retraining | fencing | fenced
  deriving DecidableEq, Repr

/-- Far port state (OD 21.1p2, R462). -/
inductive FarState where
  | off | usable | fencing | fenced | training
  deriving DecidableEq, Repr

/-- Firmware slot state (R469, R493). -/
inductive SlotState where
  | empty | loaded | active | pending | onTrial | failed
  deriving DecidableEq, Repr

/-- Halt cause (OD 10.030, R394). -/
inductive HaltCause where
  | none | flowLost | junctionTrip
  deriving DecidableEq, Repr

/-- Replan state of a wheel (OD 12.012, R411). -/
inductive ReplanState where
  | none | done | interrupted | aborted | due | overdue
  deriving DecidableEq, Repr

/-- Image state in the directory (OD 40.030, R468). -/
inductive ImageState where
  | capturing | durable | restorable | bad | oldFormat
  deriving DecidableEq, Repr

/-- What a task of a step has come to (R174 to R178): loaded in a slot, started, or ended with a status code of R178. -/
inductive TaskPhase where
  | loaded | started | ended (status : Nat)
  deriving DecidableEq, Repr

/-- What a descriptor of a started task has come to: waiting, begun, its work complete and its signal due (R104),
signalled, or ended by a fault (R119). -/
inductive DescPhase where
  | waiting | begun | worked | signalled | faulted
  deriving DecidableEq, Repr

/-- State of a stash entry (R232, R236). -/
inductive StashState where
  | planned | openForward | openRecompute | demoted | released
  deriving DecidableEq, Repr

/-- Reset, disable, fence or end of a step: what runs drain then absorb (R426). -/
inductive DrainKind where
  | reset | disable | fence | stepEnd | retire | hostReset
  deriving DecidableEq, Repr

/-- A scope of drain then absorb (R425, R426, R428). -/
inductive Scope where
  | core (c : CoreId)
  | hoop (wheel hoop : Nat)
  | wheel (w : Nat)
  | device
  | deviceOff
  | port (p : Nat)
  | cave
  | recipe (handle : Nat)
  | capture
  deriving DecidableEq, Repr

/-- A resource that a recipe names and that the management plane withdraws (R19, R410). -/
inductive Res where
  | wheel (w : Nat)
  | vat (w : Nat)
  | shape (w rows cols : Nat)
  | hoop (w h : Nat)
  | core16 (w h : Nat)
  | port (p : Nat)
  | cave
  | near
  | updateEngines
  | cap (ceiling : Nat)
  deriving DecidableEq, Repr

/-- One change that an applied view update makes to the admission view (R18). -/
inductive ViewChange where
  | vatShape (w rows cols : Nat)
  | vatFence (w : Nat) (f : Fence)
  | wheel (w : Nat) (s : WheelState)
  | hoopCores (w h n : Nat)
  | port (p : Nat) (s : PortState)
  | far (p : Nat) (s : FarState)
  | caveCapacity (n : Nat)
  | nearUsable (n : Nat)
  | curdUsable (w n : Nat)
  | updateEngines (f : Fence)
  | capCeiling (n : Nat)
  | inletHot (b : Bool)
  /-- the cave as one resource (R149). -/
  | cave (f : Fence)
  /-- the mark of a hoop. -/
  | hoopMark (w h : Nat) (m : HoopMark)
  /-- a hoop takes a position map and its list of bad slots (R5, R400). -/
  | hoopMap (w h : Nat) (posMap bad : List Nat)
  /-- a vat takes the segment orders of its line map (R400, R406). -/
  | lineMap (w rowOrder colOrder : Nat)
  /-- the panes that a smaller shape withdraws are FENCING, or no pane is (R89, R410). -/
  | shrink (w : Nat) (shape : Option (Nat × Nat))
  deriving DecidableEq, Repr

/-- A pending update of the admission view (R18, R19): the resource it withdraws, whose recipes it bars; the changes;
the scope whose drain begins once it is applied; the event posted on application (detector, unit, detail). -/
structure ViewUpdate where
  bar : Option Res
  changes : List ViewChange
  drain : Option Scope
  post : Option (Nat × Nat × List Byte)
  deriving DecidableEq, Repr

/-! ### Event Tray and detectors -/

/-- An event record (R476). -/
structure EventRec where
  time : Nat
  det : Nat
  unit : Nat
  sev : Nat
  code : Nat
  alert : Bool
  lostRec : Bool
  warden : Bool
  inj : Bool
  detail : List Byte
  deriving DecidableEq, Repr

/-- An injection point (R471, R485). -/
structure InjPoint where
  /-- MODE. [2 bits | R471 17_object_dictionary | 0] -/
  mode : Nat
  /-- N. [24 bits | R471 17_object_dictionary | 0] -/
  n : Nat
  /-- ticks since the write. [counter | R485 18_detectors_events_injection | 0] -/
  ticks : Nat
  /-- injections since the write. [32 bits | R485 18_detectors_events_injection | 0] -/
  seq : Nat
  deriving DecidableEq, Repr

/-- The Event Tray, the detectors and the Warden's event log. -/
structure Events where
  /-- ET_BASE. [64 bits | R478 18_detectors_events_injection | 0] -/
  base : Word
  /-- ET_CFG. [64 bits | R478 18_detectors_events_injection | 0] -/
  cfg : Word
  /-- ET_STATUS EN as applied. [1 bit | R478 18_detectors_events_injection | 0] -/
  en : Bool
  /-- ET_STATUS CFGERR. [1 bit | R478 18_detectors_events_injection | 0] -/
  cfgErr : Bool
  /-- ET_STATUS FULL. [1 bit | R478, R480 18_detectors_events_injection | 0] -/
  full : Bool
  /-- ET_TAIL. [20 bits | R478 18_detectors_events_injection | 0] -/
  tail : Nat
  /-- ET_HEAD. [20 bits | R478 18_detectors_events_injection | 0] -/
  head : Nat
  /-- ET_LOST and OD 70.002. [64 bits | R478 18_detectors_events_injection, R472 17_object_dictionary | 0] -/
  lost : Nat
  /-- records lost since the last overflow record. [64 bits | R480 18_detectors_events_injection | 0] -/
  lostSince : Nat
  /-- TIME of the first of them. [64 bits | R480 18_detectors_events_injection | 0] -/
  firstLost : Nat
  /-- records not yet signalled by an interrupt. [8 bits | R480 18_detectors_events_injection, R357 12_host_link_and_admission | 0] -/
  unsignalled : Nat
  /-- device time of the first of them. [64 bits | R480 18_detectors_events_injection | none] -/
  firstUnsignalled : Option Nat
  /-- records detected and not yet at the collector. [list of R476 records | R480 18_detectors_events_injection | empty] -/
  transit : List EventRec
  /-- the Warden's backlog, at most 256. [list of R476 records | R481 18_detectors_events_injection | empty] -/
  backlog : List EventRec
  /-- the Warden's event log OD 70.000, at most 65,536; its length is OD 70.001. [list of R476 records | R472 17_object_dictionary | empty] -/
  log : List EventRec
  /-- MODULE_ALERT_N driven low. [1 bit | R484 18_detectors_events_injection, R507 20_module_connectors_and_environment | 0] -/
  alertLow : Bool
  /-- OD 60.001, real occurrences by detector. [64 bits each | R470 17_object_dictionary | 0] -/
  counts : List (Nat × Nat)
  /-- OD 60.003, device time of the last post by detector. [64 bits each | R470 17_object_dictionary | 0] -/
  lastPost : List (Nat × Nat)
  /-- OD 60.004, injected events by detector. [32 bits each | R470 17_object_dictionary | 0] -/
  injCounts : List (Nat × Nat)
  /-- OD 60.002 where it differs from the catalogue's default. [2 bits each | R470 17_object_dictionary, R482 18_detectors_events_injection | empty] -/
  detCfg : List (Nat × Nat)
  /-- fixed windows of "count above a limit in a period": detector, unit, window number, count. [counters | R484 18_detectors_events_injection | empty] -/
  windows : List ((Nat × Nat) × (Nat × Nat))
  /-- episodes that have begun: detector, unit, and the device time since which the condition is absent, none while it
  holds. [list | R484 18_detectors_events_injection | empty] -/
  episodes : List ((Nat × Nat) × Option Nat)
  /-- OD 60.000, injection permitted. [1 bit | R470 17_object_dictionary | 0] -/
  permit : Bool
  /-- active injection points OD 61.ddd. [32 bits each | R471 17_object_dictionary | empty] -/
  points : List (Nat × InjPoint)
  deriving DecidableEq, Repr

/-! ### Host interface -/

/-- One queue: a submission ring and a completion ring (R352). -/
structure Queue where
  /-- EN as applied (QCFG, QSTAT). [1 bit | R352 12_host_link_and_admission | 0] -/
  en : Bool
  /-- CFGERR. [1 bit | R352 12_host_link_and_admission | 0] -/
  cfgErr : Bool
  /-- CQFULL. [1 bit | R352, R357 12_host_link_and_admission | 0] -/
  cqFull : Bool
  /-- QCFG DRAIN, in 100 µs. [16 bits | R352 12_host_link_and_admission | 0] -/
  drain : Nat
  /-- QCFG ITIME. [8 bits | R352 12_host_link_and_admission | 0] -/
  itime : Nat
  /-- QCFG ICOUNT. [8 bits | R352 12_host_link_and_admission | 0] -/
  icount : Nat
  /-- QCFG VECTOR. [6 bits | R352 12_host_link_and_admission | 0] -/
  vector : Nat
  /-- QCFG SIZE. [13 bits | R352 12_host_link_and_admission | 0] -/
  size : Nat
  /-- SQ_TAIL. [12 bits | R352 12_host_link_and_admission | 0] -/
  sqTail : Nat
  /-- CQ_HEAD. [12 bits | R352 12_host_link_and_admission | 0] -/
  cqHead : Nat
  /-- SQ_HEAD. [12 bits | R352 12_host_link_and_admission | 0] -/
  sqHead : Nat
  /-- CQ_TAIL. [12 bits | R352 12_host_link_and_admission | 0] -/
  cqTail : Nat
  /-- phase of the pass around the completion ring. [1 bit | R353, R356 12_host_link_and_admission | 0] -/
  phase : Bool
  /-- completion entries held while the ring is full, oldest first. [64 bytes each | R357 12_host_link_and_admission | empty] -/
  held : List (List Byte)
  /-- entries not yet signalled by an interrupt. [counter | R357 12_host_link_and_admission | 0] -/
  unsignalled : Nat
  /-- device time of the first of them. [64 bits | R357 12_host_link_and_admission | none] -/
  firstUnsignalled : Option Nat
  /-- device time since which the ring has been full. [64 bits | R357 12_host_link_and_admission | none] -/
  fullSince : Option Nat
  /-- 0x541 posted for the present stall. [1 bit | R357 12_host_link_and_admission | 0] -/
  stallPosted : Bool
  deriving DecidableEq, Repr

/-- A command taken from a queue and not completed (R355). -/
structure HostCmd where
  q : Nat
  cid : Nat
  opc : Nat
  recipe : Nat
  /-- order of taking (R355). -/
  order : Nat
  /-- begun, or held or waiting. -/
  begun : Bool
  /-- the 64-byte entry (R354). -/
  entry : List Byte
  deriving DecidableEq, Repr

/-- Power states of the host function (R346). -/
inductive HostPower where
  | d0 | d3hot
  deriving DecidableEq, Repr

/-- The PCIe function: registers, queues, commands in progress, link. -/
structure HostIf where
  /-- power state of the function. [1 bit | R346 12_host_link_and_admission | D0 (PRESUMED, log entry 78)] -/
  hostPower : HostPower
  /-- HIF_STATUS RDY. [1 bit | R349 12_host_link_and_admission | 0] -/
  rdy : Bool
  /-- HIF_STATUS RESET. [1 bit | R349 12_host_link_and_admission | 0] -/
  resetting : Bool
  /-- BAR2_BASE. [64 bits | R349 12_host_link_and_admission | 0] -/
  bar2Base : Word
  /-- DROPPED_DB. [64 bits | R349 12_host_link_and_admission | 0] -/
  droppedDb : Nat
  /-- submission rings, completion rings and MSI-X table, by BAR0 offset. [bytes | R348 12_host_link_and_admission | zero, every MSI-X vector masked (PRESUMED, log entry 8)] -/
  bar0 : Memory
  /-- MSI-X pending bits. [64 bits | R348 12_host_link_and_admission | 0] -/
  pba : BitVec 64
  /-- MSI-X messages sent, newest last. [6 bits each | R357 12_host_link_and_admission | empty] -/
  interrupts : List Nat
  /-- the 16 queues. [16 | R352 12_host_link_and_admission | each at reset] -/
  queues : List Queue
  /-- commands taken and not completed. [list | R355 12_host_link_and_admission | empty] -/
  cmds : List HostCmd
  /-- queue whose turn is next. [4 bits | R355 12_host_link_and_admission | 0 (DESIGN CHOICE, log entry 8)] -/
  turn : Nat
  /-- order number of the next command taken. [counter | R355 12_host_link_and_admission | 0] -/
  nextOrder : Nat
  /-- device time until which each of the four copy engines is busy. [4 × 64 bits | R355, R358 12_host_link_and_admission | 0] -/
  copyEngines : List Nat
  /-- host link trained. [1 bit | R346, R420 12_host_link_and_admission | 0] -/
  linkUp : Bool
  /-- OD 23.020, host link qualified. [1 bit | R465 17_object_dictionary | 0] -/
  qualified : Bool
  /-- OD 23.000, width. [8 bits | R465 17_object_dictionary | 0 (DESIGN CHOICE, log entry 4)] -/
  width : Nat
  /-- OD 23.001, rate. [8 bits | R465 17_object_dictionary | 0 (DESIGN CHOICE, log entry 4)] -/
  rate : Nat
  /-- OD 23.011, correctable errors. [32 bits | R465 17_object_dictionary | 0] -/
  corrErr : Nat
  /-- OD 23.012, uncorrectable errors. [32 bits | R465 17_object_dictionary | 0] -/
  uncorrErr : Nat
  /-- data of the last BAR2 read, as returned to the host. [bytes | R350 12_host_link_and_admission | empty] -/
  readData : List Byte
  /-- EP of that completion. [1 bit | R346, R350 12_host_link_and_admission | 0] -/
  readEp : Bool
  /-- the second of device time in which 0x421 last posted. [64 bits | R368 12_host_link_and_admission | none] -/
  beyondSecond : Option Nat
  deriving DecidableEq, Repr

/-! ### Admission view and drains -/

/-- The admission view (R18, R366, R467). -/
structure View where
  /-- advertised rows and columns of each vat. [2 × 16 bits × 8 | R366 12_host_link_and_admission, R406 14_ageing_and_spares | 0 until bring-up] -/
  shapes : List (Nat × Nat)
  /-- FENCE of each vat. [2 bits × 8 | R366 12_host_link_and_admission | usable] -/
  vatFence : List Fence
  /-- state of each wheel, OD 20.1w4. [2 bits × 8 | R462 17_object_dictionary | fenced until bring-up (DESIGN CHOICE, log entry 4)] -/
  wheels : List WheelState
  /-- active cores of each hoop by global hoop index, 0 for a fenced hoop (OD 30.004). [640 × 8 bits | R467 17_object_dictionary | 0] -/
  hoopCores : List Nat
  /-- usable near-tier bytes after pending map-out (OD 21.001). [64 bits | R137 05_memory_tiers, R462 17_object_dictionary | 0] -/
  nearUsable : Nat
  /-- cave capacity (OD 21.040). [64 bits | R148 05_memory_tiers | 0] -/
  caveCapacity : Nat
  /-- usable bytes of each curd slice (OD 21.020). [8 × 32 bits | R125 05_memory_tiers | 0] -/
  curdUsable : List Nat
  /-- hinge port states. [32 × 3 bits | R295 10_hinge_fabric_and_experts | DOWN] -/
  ports : List PortState
  /-- far port states. [4 × 3 bits | R366 12_host_link_and_admission | off] -/
  far : List FarState
  /-- update-engine complex. [2 bits | R253 09_update_engines | usable] -/
  updateEngines : Fence
  /-- cap ceiling at the Gate (OD 30.001). [16 bits | R376 13_power_and_cooling | 8,000] -/
  capCeiling : Nat
  /-- recipes not run for the inlet. [1 bit | R390 13_power_and_cooling | 0] -/
  inletHot : Bool
  /-- the cave as one resource. [2 bits | R149 05_memory_tiers | usable (DESIGN CHOICE, log entry 4)] -/
  cave : Fence
  /-- mark of each hoop by global hoop index. [640 × 2 bits | R19 01_planes_and_a_training_step, R410 14_ageing_and_spares | usable (DESIGN CHOICE, log entry 4)] -/
  hoopMarks : List HoopMark
  /-- the shape that each vat shrinks to while panes of it are FENCING. [8 × optional shape | R410 14_ageing_and_spares | none (DESIGN CHOICE, log entry 4)] -/
  shrink : List (Option (Nat × Nat))
  deriving DecidableEq, Repr

/-- A drain then absorb in progress (R426). -/
structure Drain where
  scope : Scope
  kind : DrainKind
  /-- it has begun: the view update that comes before it, where there is one, has been applied (R19, R426). -/
  begun : Bool
  /-- device time at which it began. -/
  began : Nat
  /-- the deadline OD 20.010 that held when it began, in µs. -/
  deadline : Nat
  /-- draining, or absorbing. -/
  absorbing : Bool
  /-- requests, granules and tasks absorbed (R427). -/
  requests : Nat
  granules : Nat
  tasks : Nat
  /-- the view updates that follow absorption. -/
  after : List ViewUpdate
  deriving DecidableEq, Repr

/-- The Admission Gate. -/
structure Gate where
  /-- view generation (VIEW_GEN, OD 30.000). [64 bits | R18 01_planes_and_a_training_step, R349 12_host_link_and_admission | 0] -/
  gen : Nat
  /-- view updates waiting at the Gate, oldest first. [list | R18 01_planes_and_a_training_step | empty] -/
  pending : List ViewUpdate
  /-- the view. [record | R18 01_planes_and_a_training_step | as its fields] -/
  view : View
  /-- drains in progress. [list | R426 15_bringup_and_resets | empty] -/
  drains : List Drain
  /-- next recipe handle. [32 bits | R363 12_host_link_and_admission | 1 (DESIGN CHOICE, log entry 8)] -/
  nextHandle : Nat
  deriving DecidableEq, Repr

/-! ### Recipes, tasks and tumblers -/

/-- A tumbler (R163). -/
structure Tumbler where
  /-- logical handle. [16 bits | R164 06_recipes_tasks_tumblers | -] -/
  handle : Nat
  /-- VALUE. [64 bits | R163 06_recipes_tasks_tumblers | 0] -/
  value : Nat
  /-- KIND. [2 bits | R163 06_recipes_tasks_tumblers | 0 count] -/
  kind : Nat
  /-- ARMED. [1 bit | R163 06_recipes_tasks_tumblers | 0] -/
  armed : Bool
  /-- TARGET. [64 bits | R163 06_recipes_tasks_tumblers | 0] -/
  target : Nat
  /-- ACTION. [2 bits | R163 06_recipes_tasks_tumblers | 0] -/
  action : Nat
  /-- CHAIN. [16 bits | R163 06_recipes_tasks_tumblers | 0] -/
  chain : Nat
  /-- CINC. [16 bits | R163 06_recipes_tasks_tumblers | 0] -/
  cinc : Nat
  /-- RESET_AT_STEP. [1 bit | R163 06_recipes_tasks_tumblers | 0] -/
  reset : Bool
  /-- PRIVATE. [1 bit | R163 06_recipes_tasks_tumblers | 0] -/
  priv : Bool
  /-- OWNER. [32 bits | R163 06_recipes_tasks_tumblers | 0] -/
  owner : Nat
  deriving DecidableEq, Repr

/-- A chained add on its way to its CHAIN tumbler (R166). -/
structure Chain where
  recipe : Nat
  handle : Nat
  inc : Nat
  /-- cascade level, 1-8. -/
  level : Nat
  /-- issuing task, none for a restore. -/
  task : Option Nat
  /-- the owner of the restored PRIVATE tumbler that fired it, for a restore at an owner's start (R170). -/
  blame : Option Nat
  unit : Nat
  /-- ACTION 2: a span contribution to every member (R309). -/
  span : Bool
  deriving DecidableEq, Repr

/-- A leaf of a recipe's translation store (R142, R143). -/
structure Leaf where
  cave : Bool
  /-- first byte, as an offset in the window. -/
  base : Nat
  size : Nat
  pa : Nat
  ra : Bool
  w : Bool
  deriving DecidableEq, Repr

/-- A wait of a task record (R172). -/
structure TWait where
  stride : Nat
  val : Nat
  handle : Nat
  deriving DecidableEq, Repr

/-- A task record T0-T7, parsed (R171, R172). -/
structure Task where
  cls : Nat
  home : Nat
  unit : Nat
  layer : Nat
  mb : Nat
  spec : Bool
  alt : Bool
  vread : Bool
  credMask : Nat
  waits : List TWait
  /-- INC and HANDLE of the outputs used. -/
  outs : List (Nat × Nat)
  dcount : Nat
  npages : Nat
  descOff : Nat
  gstride : Nat
  gval : Nat
  guard : Nat
  deriving DecidableEq, Repr

/-- A shadow page of a speculative task or of a landing (R181, R317): the declared page's window address, the shadow's
physical address and the granules written. -/
structure Shadow where
  page : Nat
  pa : Nat
  written : List Nat
  deriving DecidableEq, Repr

/-- A deferred fault (R519): its code, the translation subcode for 0x14, the unit that recorded it and the detail of that
unit's own layout (R144). -/
structure Deferred where
  code : Nat
  sub : Nat
  unit : Nat
  detail : List Byte
  deriving DecidableEq, Repr

/-- A descriptor of a started task. -/
structure DescRun where
  phase : DescPhase
  /-- order in which it began (R76, R116). -/
  began : Nat
  /-- order in which its wait was satisfied (R76), 0 while it is not. -/
  ready : Nat
  /-- device time at which its task started, from which it waits (R192). -/
  waitFrom : Nat
  /-- update descriptor: packets done (R252). -/
  packets : List Nat
  /-- update descriptor: emission units done (record, unit). -/
  units : List (Nat × Nat)
  /-- update apply held by a ledger verdict: acts as MODE 2 (R277). -/
  heldCopies : Bool
  /-- update apply waiting on a rind-pending bit, since this device time (R278). -/
  rindWait : Option Nat
  rindPosted : Bool
  /-- update descriptor: counts not yet added to their records (R64): engine and record, saturations, flushes, NaN. -/
  counted : List ((Nat × Nat) × List Nat)
  /-- hinge operation: stages done of a collective or a COMBINE (R307, R315). -/
  stage : Nat
  /-- hinge operation: transfers sent and not answered (tags). -/
  awaiting : List Nat
  /-- hinge operation: destinations whose segment did not land (R317). -/
  refused : List Nat
  deriving DecidableEq, Repr

/-- A task of the running step that has been loaded (R174). -/
structure TaskRun where
  idx : Nat
  phase : TaskPhase
  /-- order of becoming ready (R175), none while not ready. -/
  ready : Option Nat
  /-- device time of loading, and the wait found unsatisfied last (R173, stall statistics). -/
  loadedAt : Nat
  missing : Option Nat
  /-- order of starting (R252). [counter | R252 09_update_engines | -] -/
  startOrder : Nat
  /-- the hoop that ran the last launch record of a hoop task (R170). -/
  hoop : Nat
  /-- runs speculatively (R181), or as an ordinary task. -/
  specRun : Bool
  /-- verdict of its guard (R183): true COMMIT, false DISCARD. -/
  verdict : Option Bool
  descs : List DescRun
  /-- launch record in progress (R209). -/
  record : Nat
  shadows : List Shadow
  /-- kz.post adds held until the verdict, in issue order: handle, increment, issuing core's unit ID (R170, R182). -/
  heldPosts : List (Nat × Nat × Nat)
  deferred : Option Deferred
  /-- its wait for free shadow pages has been counted (R181). -/
  shadowWaited : Bool
  /-- passed-over count (R211). -/
  passedOver : Nat
  /-- device time of loading with every wait but VWIDX satisfied: version wait (R271), by wait. -/
  versionWait : List (Nat × Nat)
  /-- version waits whose threshold post is made. -/
  versionPosted : List Nat
  /-- device time since which a span wait is outstanding (R192). -/
  spanSince : Option Nat
  deriving DecidableEq, Repr

/-- The first fault of a step (R179). -/
structure FaultInfo where
  task : Nat
  unit : Nat
  tstatus : Nat
  ufault : Nat
  deriving DecidableEq, Repr

/-- A ledger entry named in the step (R274): its address, packets counted. -/
structure LedgerRun where
  addr : Nat
  count : Nat
  final : Bool
  deriving DecidableEq, Repr

/-- How the running step was started (R169, R341). -/
inductive StepOrigin where
  | command (q cid : Nat)
  | restore (q cid : Nat)
  | wardenRestore
  deriving DecidableEq, Repr

/-- A running step. -/
structure StepRun where
  /-- s. [64 bits | R169 06_recipes_tasks_tumblers | -] -/
  ordinal : Nat
  /-- step seed. [64 bits | R68, R169 06_recipes_tasks_tumblers | -] -/
  seed : Nat
  /-- data-order seed. [64 bits | R329 11_rind_snapshots | -] -/
  dataSeed : Nat
  origin : StepOrigin
  start : Nat
  /-- snapshot step (R326). -/
  snapshot : Bool
  /-- UPDATED (R179). -/
  updated : Bool
  /-- the update phase has begun (R327). -/
  updatePhase : Bool
  /-- the loss-bound wait began at this device time (R327). -/
  lossWait : Option Nat
  runs : List TaskRun
  fault : Option FaultInfo
  nFurther : Nat
  ledgers : List LedgerRun
  /-- rind-pending bits set in this step, by capture index (R332). -/
  pendingSet : List Nat
  /-- landings refused in this step (R324, 0x930). -/
  refusedLandings : Nat
  /-- SPEC tasks whose verdict was COMMIT before they started: they left the speculative pool and are loaded, or will
  be, as ordinary tasks (R184). -/
  early : List Nat
  /-- time that the watchdog has not counted so far, ns (R192). -/
  pausedNs : Nat
  /-- device time since which the watchdog does not count (R192). -/
  pausedSince : Option Nat
  /-- the image of this step has been abandoned: none is taken at it any more (R333). -/
  imageLost : Bool
  deriving DecidableEq, Repr

/-- An open that waits at the stash arbiter (R233): its place in the age order, since when, and whether it is a
recompute open. -/
structure OpenWait where
  order : Nat
  since : Nat
  rc : Bool
  deriving DecidableEq, Repr

/-- A stash entry: its record (R230) and its state. -/
structure StashEntry where
  wpage : Nat
  layer : Nat
  mb : Nat
  mandatory : Bool
  checkpoint : Bool
  sized : Bool
  rcFirst : Nat
  decision : Nat
  sizeHandle : Nat
  maxPages : Nat
  rowBytes : Nat
  release : Nat
  rstride : Nat
  rval : Nat
  /-- state in the present step. [3 bits | R232, R236 08_backward_pass | PLANNED] -/
  state : StashState
  /-- stands demoted for later steps. [1 bit | R237 08_backward_pass | 0] -/
  standsDemoted : Bool
  /-- physical pages mapped, in window order. [list | R229 08_backward_pass | empty] -/
  pages : List Nat
  /-- an open of the entry that waits. [record | R233 08_backward_pass | none] -/
  waiting : Option OpenWait
  /-- 0x722 posted for the wait. [1 bit | R233 08_backward_pass | 0] -/
  waitPosted : Bool
  deriving DecidableEq, Repr

/-- The stash of a recipe: its plan (R229) and its arbiter (R233). -/
structure Stash where
  pa : Nat
  npages : Nat
  headroom : Nat
  window : Nat
  windowPages : Nat
  restoreHandle : Nat
  status : Nat
  entries : List StashEntry
  /-- stash pages in no mapping. [list | R229 08_backward_pass | all pages] -/
  freePages : List Nat
  /-- pages removed from translation and not yet returned. [list | R239 08_backward_pass, R185 06_recipes_tasks_tumblers | empty] -/
  returning : List Nat
  /-- M. [pages | R233 08_backward_pass | 0] -/
  m : Nat
  /-- F. [pages | R233 08_backward_pass | 0] -/
  f : Nat
  /-- U. [pages | R233 08_backward_pass | 0] -/
  u : Nat
  /-- PEAK. [32 bits | R236 08_backward_pass | 0] -/
  peak : Nat
  /-- RC_WAITS. [32 bits | R236 08_backward_pass | 0] -/
  rcWaits : Nat
  /-- DROPPED. [64 bits | R236 08_backward_pass | 0] -/
  dropped : Nat
  /-- RESTORE_MARK. [64 bits | R236 08_backward_pass | 0] -/
  mark : Nat
  /-- STEP. [32 bits | R236 08_backward_pass | 0] -/
  step : Nat
  deriving DecidableEq, Repr

/-- A function table as loaded: a ROM table or an image (R241, R242). -/
inductive TableSrc where
  | rom (id : Nat)
  | image (bytes : List Byte)
  deriving DecidableEq, Repr

/-- A cave-cache segment of a recipe's share (R153). -/
structure Segment where
  /-- cave physical address / 64 KiB. -/
  seg : Nat
  filling : Bool
  /-- prefetched and not yet read. -/
  prefetched : Bool
  dirty : Bool
  poisoned : Bool
  /-- last use, for replacement. -/
  used : Nat
  deriving DecidableEq, Repr

/-- A stream tracker (R154). -/
structure Tracker where
  /-- the next segment; none for a descending tracker past segment 0. -/
  next : Option Nat
  up : Bool
  lead : Nat
  hits : Nat
  stalls : Nat
  layer : Nat
  firstPage : Nat
  /-- device time of the last demand read; least recently used. -/
  used : Nat
  /-- ordinal of the step in which it was opened (R156). -/
  step : Nat
  /-- its layer's late-wait entry had risen at that step's end (R156). -/
  risen : Bool
  deriving DecidableEq, Repr

/-- A saved lead of a tracker (R154, R156): its first page, the lead, the cap that held, and its layer and step. -/
structure SavedLead where
  page : Nat
  lead : Nat
  cap : Nat
  layer : Nat
  step : Nat
  deriving DecidableEq, Repr

/-- The cave-cache share of a recipe (R152 to R156). -/
structure CaveShare where
  /-- share in MiB. [32 bits | R152 05_memory_tiers | from the reservation] -/
  mib : Nat
  /-- segments held. [list, at most 16 per MiB | R153 05_memory_tiers | empty] -/
  segments : List Segment
  /-- stream trackers. [list, at most 64 | R154 05_memory_tiers | empty] -/
  trackers : List Tracker
  /-- the last 16 misses. [list | R154 05_memory_tiers | empty] -/
  misses : List Nat
  /-- leads saved in the present step, newest first. [list | R154 05_memory_tiers | empty] -/
  savedLeads : List SavedLead
  /-- leads saved in the previous step, which give the start leads of the present one. [list | R154 05_memory_tiers | empty] -/
  prevLeads : List SavedLead
  /-- fills that wait for a way, oldest first: segment, prefetched. [list | R153 05_memory_tiers | empty] -/
  fillWaits : List (Nat × Bool)
  /-- run-ahead stops. [counter | R155 05_memory_tiers | 0] -/
  runAheadStops : Nat
  /-- stalls, hits and lead changes counted. [counters | R154 05_memory_tiers | 0] -/
  stallCount : Nat
  hitCount : Nat
  leadChanges : Nat
  /-- use order. [counter | R153 05_memory_tiers | 0] -/
  clock : Nat
  deriving DecidableEq, Repr

/-- A rind capture table entry (R331). -/
structure CaptEntry where
  tensor : Nat
  mode : Nat
  rows : Nat
  cols : Nat
  master : Nat
  m : Nat
  ms : Nat
  v : Nat
  vs : Nat
  deriving DecidableEq, Repr

/-- A job block (R301). -/
structure Job where
  tag : Nat
  n : Nat
  rank : Nat
  members : List Nat
  hops : Nat
  spanHe : Nat
  tSw : Nat
  minLanes : Nat
  deriving DecidableEq, Repr

/-- A landing slot with a live shadow (R317, R321). -/
structure Landing where
  slot : Nat
  src : Nat
  x : Nat
  shadows : List Shadow
  complete : Bool
  deriving DecidableEq, Repr

/-- A RESTORE in progress (R341, R344). -/
structure RestoreRun where
  origin : StepOrigin
  image : Nat
  /-- STEP of the image. -/
  step : Nat
  /-- the replay has started. -/
  replaying : Bool
  /-- LOSS of the journal record of the replayed step. -/
  loss : Nat
  exact : Bool
  /-- body read from NAND with an uncorrectable error. -/
  nandBad : Bool
  deriving DecidableEq, Repr

/-- Layer statistics (R173, R271, R278): layer, token stall time, credit stall time, version waits, rind waits, in ns. -/
structure LayerStat where
  layer : Nat
  tokenStall : Nat
  creditStall : Nat
  versionWait : Nat
  rindWait : Nat
  deriving DecidableEq, Repr

/-- An admitted recipe: what admission read of its image, what it reserved, and its state. -/
structure Recipe where
  /-- handle. [32 bits | R363 12_host_link_and_admission | -] -/
  handle : Nat
  /-- WHEELS. [8 bits | R361 12_host_link_and_admission | -] -/
  wheels : Nat
  /-- STAMP. [64 bits | R361 12_host_link_and_admission | -] -/
  stamp : Nat
  /-- image CRC. [32 bits | R361 12_host_link_and_admission | -] -/
  crc : Nat
  /-- view generation at admission. [64 bits | R363 12_host_link_and_admission | -] -/
  gen : Nat
  /-- admitted in MAINTENANCE. [1 bit | R150 05_memory_tiers | -] -/
  maint : Bool
  /-- translation store. [list of leaves | R143 05_memory_tiers | -] -/
  leaves : List Leaf
  /-- pages exchanged by commits: window page, physical address. [list | R185 06_recipes_tasks_tumblers | empty] -/
  remap : List (Nat × Nat)
  /-- the descriptor pool as read at admission, POOL_VA. [bytes | R98 04_vat_descriptors, R361 12_host_link_and_admission | -] -/
  pool : List Byte
  poolVa : Nat
  /-- task table. [64 bytes each | R171 06_recipes_tasks_tumblers | -] -/
  tasks : List Task
  /-- tumbler initialisation records. [32 bytes each | R168 06_recipes_tasks_tumblers | -] -/
  tinit : List Tumbler
  /-- tumblers that differ from VALUE 0 count, unarmed. [list | R163 06_recipes_tasks_tumblers | from the records] -/
  tumblers : List Tumbler
  /-- rounded tumbler count of each wheel. [8 × 16 bits | R164 06_recipes_tasks_tumblers | -] -/
  tumbCounts : List Nat
  /-- physical tumbler block of each logical block: wheel, logical block, physical block. [list | R164 06_recipes_tasks_tumblers | -] -/
  tumbBlocks : List (Nat × Nat × Nat)
  /-- curd extent base and size of each wheel, in 64 KiB. [8 × 2 × 16 bits | R129 05_memory_tiers, R362 12_host_link_and_admission | -] -/
  curd : List (Nat × Nat)
  /-- task slots of each wheel. [8 × 16 bits | R362 12_host_link_and_admission | -] -/
  taskSlots : List Nat
  /-- request slots of each wheel. [8 × 16 bits | R362 12_host_link_and_admission | -] -/
  reqSlots : List Nat
  /-- CORES of each wheel. [8 × 16 bits | R362 12_host_link_and_admission | -] -/
  cores : List Nat
  /-- VATMODE of each wheel. [8 × 8 bits | R362 12_host_link_and_admission | -] -/
  vatMode : List Nat
  /-- CRIT of each wheel. [8 × 2 bits | R362, R382 12_host_link_and_admission | -] -/
  crit : List Nat
  /-- owned near-tier extents: base, length. [list | R362 12_host_link_and_admission | -] -/
  owned : List (Nat × Nat)
  /-- POWER_W. [32 bits | R362 12_host_link_and_admission | -] -/
  powerW : Nat
  /-- HE_CTX. [8 × 8 bits | R362 12_host_link_and_admission | -] -/
  heCtx : List Nat
  /-- LATE_WAIT. [64 bits | R362 12_host_link_and_admission | -] -/
  lateWait : Nat
  /-- free shadow pages, physical. [list | R181 06_recipes_tasks_tumblers | all] -/
  shadowFree : List Nat
  /-- shadow pages on their way back: physical. [list | R185 06_recipes_tasks_tumblers | empty] -/
  shadowReturning : List Nat
  /-- function tables: logical slot, physical slot per vat, source, FORM. [list | R241 08_backward_pass | -] -/
  tables : List (Nat × TableSrc × Nat)
  stash : Stash
  /-- version-flip list: WIN_A, WIN_B, NPAGES. [list | R272 09_update_engines | -] -/
  flips : List (Nat × Nat × Nat)
  /-- counter records listed, near-window addresses. [list | R64 02_number_formats_and_eyes | -] -/
  crecs : List Nat
  /-- capture table. [list | R331 11_rind_snapshots | -] -/
  capt : List CaptEntry
  /-- step record, physical. [64 bits | R329 11_rind_snapshots | -] -/
  stepRec : Nat
  job : Option Job
  /-- SPEC_SHARE. [5 bits | R180 06_recipes_tasks_tumblers | -] -/
  specShare : Nat
  /-- discard threshold. [7 bits | R188 06_recipes_tasks_tumblers | -] -/
  discard : Nat
  /-- WDOG_K, SPAN_PATIENCE, CPT, D, H. [header fields | R192 06_recipes_tasks_tumblers | -] -/
  wdogK : Nat
  patience : Nat
  cpt : Nat
  d : Nat
  h : Nat
  cave : CaveShare
  /-- throttle level c. [5 bits | R180, R188 06_recipes_tasks_tumblers | 16] -/
  throttle : Nat
  /-- verdicts and discards of the present window of 64. [2 × 7 bits | R188 06_recipes_tasks_tumblers | 0] -/
  winVerdicts : Nat
  winDiscards : Nat
  /-- guards resolved in the step: handle, G, verdict. [list | R183 06_recipes_tasks_tumblers | empty] -/
  verdicts : List (Nat × Nat × Bool)
  /-- tasks that waited for shadow pages, counted. [counter | R181 06_recipes_tasks_tumblers | 0] -/
  shadowWaits : Nat
  /-- ordinal of the last step begun, none before the first. [64 bits | R169 06_recipes_tasks_tumblers | none] -/
  lastOrdinal : Option Nat
  /-- ordinal of the first step after admission. [64 bits | R327 11_rind_snapshots | 0] -/
  firstOrdinal : Nat
  /-- ordinal that the next START_STEP takes after a RESTORE. [64 bits | R169 06_recipes_tasks_tumblers | none] -/
  nextOrdinal : Option Nat
  running : Option StepRun
  /-- halted (R179): the halting step's ordinal and its UPDATED. [record | R179 06_recipes_tasks_tumblers | none] -/
  halted : Option (Nat × Bool)
  /-- bar of R19: reason code 0x0608 or 0x0619. [16 bits | R19 01_planes_and_a_training_step | none] -/
  bar : Option Nat
  /-- SNAPSHOT_NOW accepted for the next step. [1 bit | R326 11_rind_snapshots | 0] -/
  snapNow : Bool
  restoring : Option RestoreRun
  /-- d, the ordinal of the newest durable image plus one (0 stands for -1). [64 bits | R327 11_rind_snapshots | s0] -/
  durable : Nat
  /-- ordinal of the last completed step plus one, 0 for none. [64 bits | R327 11_rind_snapshots | 0] -/
  completed : Nat
  /-- rind-pending bits by capture index, in set order. [list | R278 09_update_engines, R332 11_rind_snapshots | empty] -/
  rindPending : List Nat
  landings : List Landing
  layerStats : List LayerStat
  deriving DecidableEq, Repr

/-! ### Vats and helper cores -/

/-- What the vat keeps of one bank of one sixteenth of its cells (the finest pane, of which every other is made up,
R85): product count since it was replaced (R54), poison code and its subcode (R119, R120). -/
structure BankRec where
  /-- sixteenth 0-15. -/
  block : Nat
  odd : Bool
  count : Nat
  /-- 0 for not poisoned. -/
  poison : Nat
  /-- subcode of R144 of a poison 0x14. -/
  sub : Nat
  deriving DecidableEq, Repr

/-- A vat. -/
structure Vat where
  /-- arrangement. [3 bits | R85, R97 03_vats | 0 full] -/
  arr : Nat
  /-- accumulators that are not zero: bank (true odd), row, column, W48 bits. [48 bits each | R50 02_number_formats_and_eyes, R97 03_vats | 0] -/
  cells : List ((Bool × Nat × Nat) × BitVec 48)
  banks : List BankRec
  /-- operand mode in force: broadcast. [1 bit | R79, R97 03_vats | pipelined] -/
  broadcast : Bool
  /-- held in broadcast by condition 1 of R79. [1 bit | R79, R399 03_vats, 14_ageing_and_spares | 0] -/
  heldMargin : Bool
  /-- held in broadcast by condition 2 of R79. [1 bit | R79, R406 03_vats, 14_ageing_and_spares | 0] -/
  heldGap : Bool
  /-- condition 3: the running recipe selects broadcast. [1 bit | R79, R97 03_vats | 0] -/
  recipeBroadcast : Bool
  /-- a change of mode, shape or panes is pending: rows, columns. [record | R80 03_vats | none] -/
  pendingShape : Option (Nat × Nat)
  pendingMode : Bool
  /-- physical function-table slots in use: slot, recipe, logical slot. [16 slots | R241 08_backward_pass | empty] -/
  slots : List (Nat × Nat × Nat)
  /-- OD 20.1w5, starvation episodes. [64 bits | R82 03_vats, R462 17_object_dictionary | 0] -/
  starvation : Nat
  /-- panes that wait with a descriptor pending and none ready: arrangement and pane; since when, recipe and layer.
  [list | R156 05_memory_tiers | empty] -/
  paneWaits : List ((Nat × Nat) × (Nat × Nat × Nat))
  deriving DecidableEq, Repr

/-- A carry in a core's queue (R222, R224). -/
structure Carry where
  src : Nat
  dst : Nat
  len : Nat
  rows : Nat
  zero : Bool
  spitch : Nat
  dpitch : Nat
  /-- the issuing kz.carry waits for it: destination register. -/
  waiting : Option Nat
  /-- issued inside a kz.spec region. -/
  inRegion : Bool
  /-- cave segments that its reads have demanded of the recipe's share, each with its arrival: poisoned or not (R152, R153,
  R223). -/
  demanded : List (Nat × Option Bool)
  deriving DecidableEq, Repr

/-- Privilege mode of a helper core (R196): a task runs in U-mode, its hoop's supervisor in M-mode (R205). -/
inductive Priv where
  | user | machine
  deriving DecidableEq, Repr

/-- Why a core does not execute: a kz.twait, a full carry queue or a wait for carries, an instruction-cache miss. -/
inductive CoreWait where
  | none
  /-- with the device time since which it waits. -/
  | tumbler (handle v rd since : Nat)
  | carryAll (rd : Nat)
  | carryOne (rd : Nat)
  | carryFull
  | specEnd (rd : Nat)
  | icache (line : Nat)
  deriving DecidableEq, Repr

/-- A helper core that runs a launch record, with its architectural state (R196, R208). -/
structure Core where
  id : CoreId
  recipe : Nat
  task : Nat
  rank : Nat
  ncores : Nat
  /-- x registers. [32 × 64 bits | R196, R208 07_helper_cores | R208] -/
  x : List Word
  /-- f registers. [32 × 64 bits | R196, R208 07_helper_cores | 0] -/
  f : List Word
  /-- v registers, VLEN 512. [32 × 512 bits | R196, R208 07_helper_cores | 0] -/
  v : List (BitVec 512)
  /-- pc. [64 bits | R208 07_helper_cores | CODE + ENTRY] -/
  pc : Word
  /-- frm. [3 bits | R56 02_number_formats_and_eyes, R208 07_helper_cores | 0] -/
  frm : Nat
  /-- fflags. [5 bits | R198, R208 07_helper_cores | 0] -/
  fflags : Nat
  /-- vtype; vill is bit 63. [64 bits | R208 07_helper_cores | vill] -/
  vtype : Word
  /-- vl. [64 bits | R208 07_helper_cores | 0] -/
  vl : Nat
  /-- vstart. [64 bits | R196 07_helper_cores | 0] -/
  vstart : Nat
  /-- vxrm. [2 bits | R208 07_helper_cores | 0] -/
  vxrm : Nat
  /-- vxsat. [1 bit | R208 07_helper_cores | 0] -/
  vxsat : Bool
  /-- LR reservation, scratch address. [64 bits | R201 07_helper_cores | none] -/
  resv : Option Nat
  /-- executed handshake beats of this launch (cycle). [64 bits | R196, R210 07_helper_cores | 0] -/
  beats : Nat
  /-- instret. [64 bits | R196 07_helper_cores | 0] -/
  instret : Nat
  /-- mhpmcounter3-5: instruction-cache misses, kz.twait beats, carry-stall beats. [3 × 64 bits | R196 07_helper_cores | 0] -/
  hpm : List Nat
  /-- BUDGET × 1,024, 0 for none. [50 bits | R206, R210 07_helper_cores | L5] -/
  budget : Nat
  codeVa : Nat
  codeLen : Nat
  entry : Nat
  wait : CoreWait
  /-- carry queue, at most 8. [list | R224 07_helper_cores | empty] -/
  carries : List Carry
  /-- kz.spec region open. [1 bit | R226 07_helper_cores | 0] -/
  region : Bool
  /-- lines of ways 1-7 of the instruction cache, most recently used first: window line address, bytes. [14 KiB | R203 07_helper_cores | empty] -/
  icache : List (Nat × List Byte)
  /-- has exited (R205). -/
  exited : Bool
  /-- privilege mode. [1 bit | R196, R205 07_helper_cores | U-mode at the launch] -/
  priv : Priv
  /-- the registers of M-mode's traps by CSR number: mstatus, mie, mtvec, mscratch, mepc, mcause, mtval; one not listed is
  zero. [64 bits each | R196, R205 07_helper_cores, log entry 93 | 0] -/
  mcsr : List (Nat × Nat)
  deriving DecidableEq, Repr

/-- A hoop: its position map and its pick logic (R5, R204, R211). -/
structure Hoop where
  wheel : Nat
  hoop : Nat
  /-- physical slot at each position 0-15; a missing last entry is position 15 vacant. [17 slots | R5 00_scope | 0-15] -/
  posMap : List Nat
  /-- slots known bad. [17 bits | R204 07_helper_cores | none] -/
  bad : List Nat
  fenced : Bool
  /-- task pinned: recipe, task. [record | R211 07_helper_cores | none] -/
  pin : Option (Nat × Nat)
  deriving DecidableEq, Repr

/-- A wheel (R13). -/
structure Wheel where
  vat : Vat
  /-- hoops that differ from sixteen good cores in slots 0-15. [80 hoops | R204 07_helper_cores | empty] -/
  hoops : List Hoop
  /-- recipe that last used each core's scratch, by logical index. [list | R208 07_helper_cores | empty] -/
  scratchOwner : List (Nat × Nat)
  /-- physical curd banks of the slice in list order. [256 of 264 | R124, R125 05_memory_tiers | empty until Stage 3] -/
  bankList : List Nat
  /-- curd banks failed in service. [list | R125, R159 05_memory_tiers | empty] -/
  failedBanks : List Nat
  /-- row and column ordering index, OD 12.021 and 12.022. [2 × 3 bits | R406, R411 14_ageing_and_spares | 0] -/
  rowOrder : Nat
  colOrder : Nat
  /-- device time at which the wheel last ran a step. [64 bits | R400 14_ageing_and_spares | 0] -/
  idleSince : Nat
  /-- wheel reset in its Stage 5 test. [1 bit | R425 15_bringup_and_resets | 0] -/
  resetTest : Bool
  deriving DecidableEq, Repr

/-! ### Memory tiers -/

/-- An outstanding memory request that its bank has not completed, or one that waits at its source (R158, R159). -/
structure MemReq where
  id : ReqId
  bank : BankId
  addr : Nat
  len : Nat
  /-- data of a write. -/
  data : Option (List Byte)
  /-- holds a shared slot, or waits at its source. -/
  held : Bool
  deriving DecidableEq, Repr

/-- The memory tiers' control state. -/
structure Tiers where
  /-- near-tier channel list, ascending 32 × stack + channel (OD 21.004). [10 bits each | R131 05_memory_tiers | empty] -/
  channels : List Nat
  /-- usable hbmStacks. [20 bits | R416 15_bringup_and_resets | none] -/
  hbmStacks : List Nat
  /-- near tier placed by Stage 4 of the present bring-up. [1 bit | R479 18_detectors_events_injection | 0] -/
  placed : Bool
  /-- cave-cache region in force, GiB. [16 bits | R140 05_memory_tiers, R464 17_object_dictionary | 0 until Stage 4] -/
  caveRegion : Nat
  /-- device region in force, GiB. [8 bits | R140 05_memory_tiers, R464 17_object_dictionary | 0 until Stage 4] -/
  devRegion : Nat
  /-- poisoned near-tier granules, by physical granule number. [set | R135 05_memory_tiers | empty] -/
  poisonNear : List Nat
  /-- poisoned curd words, by address / 8. [set | R135 05_memory_tiers | empty] -/
  poisonCurd : List Nat
  /-- poisoned cave segments, by segment number. [set | R135, R146 05_memory_tiers | empty] -/
  poisonCave : List Nat
  /-- poisoned granules of each channel since the last device reset. [counters | R136 05_memory_tiers | empty] -/
  poisonCount : List (Nat × Nat)
  /-- requests outstanding at a bank or waiting for one. [list | R158 05_memory_tiers | empty] -/
  requests : List MemReq
  /-- banks in an episode of no progress, with the device time at which they next completed a request.
  [list | R159 05_memory_tiers, R484 18_detectors_events_injection | empty] -/
  stalls : List (BankId × Option Nat)
  /-- data of the last read returned, and ABSORBED or poisoned. [bytes | R126 05_memory_tiers | empty] -/
  lastRead : List Byte
  lastPoisoned : Bool
  /-- old value returned by the last atomic. [64 bits | R138 05_memory_tiers | 0] -/
  lastAtomic : Nat
  /-- patrol-scrub position. [64 bits | R134 05_memory_tiers | 0] -/
  scrub : Nat
  /-- the MODEL's own field: how often the contents of the cave have become undefined. [counter | R149 05_memory_tiers, log
  entry 17 | 0] -/
  caveGen : Nat
  deriving DecidableEq, Repr

/-- A far port (R145 to R149). -/
structure FarPort where
  /-- state, OD 21.1p2. [3 bits | R462 17_object_dictionary | off] -/
  state : FarState
  /-- capacity of the attached device, OD 21.1p1. [64 bits | R462 17_object_dictionary | 0] -/
  capacity : Nat
  deriving DecidableEq, Repr

/-! ### Hinge -/

/-- A flit held in a replay buffer: link sequence number and its 256 bytes (R288). -/
structure ReplayFlit where
  lseq : Nat
  flit : List Byte
  deriving DecidableEq, Repr

/-- A hinge port. -/
structure HingePort where
  /-- state, OD 22.2pp. [3 bits | R295 10_hinge_fabric_and_experts | DOWN] -/
  state : PortState
  /-- good-lane masks of both ends. [2 × 4 bits | R296 10_hinge_fabric_and_experts | 0] -/
  localMask : Nat
  peerMask : Nat
  /-- peer module ID, OD 22.3pp. [12 bits | R465 17_object_dictionary | 0xFFF] -/
  peerId : Nat
  /-- width before a retrain. [3 bits | R297 10_hinge_fabric_and_experts | DOWN] -/
  before : PortState
  /-- next link sequence number to send. [12 bits | R284 10_hinge_fabric_and_experts | 0] -/
  txSeq : Nat
  /-- next link sequence number expected. [12 bits | R288 10_hinge_fabric_and_experts | 0] -/
  rxSeq : Nat
  /-- dropping until the replay arrives. [1 bit | R288 10_hinge_fabric_and_experts | 0] -/
  replayWanted : Bool
  /-- credits held for each VC. [4 × 11 bits | R286 10_hinge_fabric_and_experts | 0 until trained] -/
  credits : List Nat
  /-- credits that the peer's LINK_INIT advertised for each VC. [4 × 16 bits | R285, R286 10_hinge_fabric_and_experts | 32, 64, 256, 1,024 (DESIGN CHOICE, log entry 4)] -/
  advertised : List Nat
  /-- virtual channel granted last (R286). [2 bits | R193 06_recipes_tasks_tumblers | 3 (DESIGN CHOICE, log entry 4)] -/
  lastVc : Nat
  /-- credits of freed receive buffers not yet returned, by VC. [4 × 11 bits | R286 10_hinge_fabric_and_experts | 0] -/
  owed : List Nat
  /-- bulk flits sent whose credit has not returned: the recipe of a speculative one, 0 for others. [list | R180 06_recipes_tasks_tumblers | empty] -/
  bulkOut : List Nat
  /-- replay buffer, at most 1,024 flits. [list | R288 10_hinge_fabric_and_experts | empty] -/
  replay : List ReplayFlit
  /-- replays of one LSEQ without progress; device times of recent replays. [counters | R288 10_hinge_fabric_and_experts | 0] -/
  sameReplays : Nat
  lastReplaySeq : Nat
  replayTimes : List Nat
  /-- device times of recent retrains. [list | R297 10_hinge_fabric_and_experts | empty] -/
  retrainTimes : List Nat
  retrainStart : Nat
  /-- dwells failed in the present qualification; requalifying under OD 7F.005. [counters | R419 15_bringup_and_resets | 0] -/
  dwellFails : Nat
  /-- OD 22.5pp: pre-FEC BER, corrected and uncorrectable codewords, replays. [32 bytes | R465 17_object_dictionary | 0] -/
  ber : Rat
  corrected : Nat
  uncorrectable : Nat
  replays : Nat
  /-- flits waiting for a credit or for a port back in service, oldest first. [list | R286 10_hinge_fabric_and_experts | empty] -/
  waiting : List (List Byte)
  /-- flits sent, newest last. [list | R284 10_hinge_fabric_and_experts | empty] -/
  sent : List (List Byte)
  /-- frame sequence number of the frame being filled. [16 bits | R283 10_hinge_fabric_and_experts | 0 (DESIGN CHOICE, log entry 4)] -/
  frameSeq : Nat
  /-- flits of the frame being filled, fewer than five. [list | R283 10_hinge_fabric_and_experts | empty] -/
  frame : List (List Byte)
  /-- frames sent, newest last: the framing word and five flits. [list | R283 10_hinge_fabric_and_experts | empty] -/
  frames : List (List Byte)
  deriving DecidableEq, Repr

/-- What an outstanding transfer is for (R305). -/
inductive XferKind where
  | put | segment | returnRows | collective (chunk phase : Nat) | getRequest | guardMsg
  deriving DecidableEq, Repr

/-- A transfer of this module that is not answered yet (R287, R306). -/
structure Xfer where
  tag : Nat
  recipe : Nat
  task : Nat
  idx : Nat
  /-- destination rank and module. -/
  rank : Nat
  dst : Nat
  port : Nat
  kind : XferKind
  /-- MODE of its put header: 1 for a speculative landing. -/
  mode : Nat
  /-- requester's destination of a GET. -/
  addr : Nat
  len : Nat
  /-- bytes received of a GET_DATA response. -/
  got : Nat
  deriving DecidableEq, Repr

/-- A transfer being received (R289, R290). -/
structure RxXfer where
  src : Nat
  tag : Nat
  port : Nat
  recipe : Nat
  /-- destination of the transfer's first byte. -/
  base : Nat
  /-- next destination byte and bytes left of the present piece, bytes left of the transfer. -/
  dest : Nat
  left : Nat
  total : Nat
  rhandle : Nat
  rinc : Nat
  mode : Nat
  ls : Nat
  slot : Nat
  more : Bool
  /-- sunk after a NACK of this status. -/
  sunk : Option Nat
  deriving DecidableEq, Repr

/-- The hinge fabric. -/
structure Hinge where
  /-- tags of the speculative PUTs whose flits may still leave, with their recipes. [list | R180, R317 10_hinge_fabric_and_experts
  | empty] -/
  specTags : List (Nat × Nat)
  /-- the 32 ports. [32 | R281, R295 10_hinge_fabric_and_experts | each at reset] -/
  ports : List HingePort
  /-- transfers sent and not answered. [list | R306 10_hinge_fabric_and_experts | empty] -/
  xfers : List Xfer
  /-- transfers being received. [list | R289 10_hinge_fabric_and_experts | empty] -/
  rx : List RxXfer
  /-- next transfer tag. [16 bits | R284 10_hinge_fabric_and_experts | 0 (DESIGN CHOICE, log entry 8)] -/
  nextTag : Nat
  /-- arrivals that no operation has used yet: recipe, arrival or return handle, destination address. [list | R308, R315 10_hinge_fabric_and_experts | empty] -/
  arrived : List (Nat × Nat × Nat)
  deriving DecidableEq, Repr

/-! ### Rind store -/

/-- One tensor section of an image (R334). -/
structure ImgTensor where
  tensor : Nat
  mode : Nat
  rows : Nat
  cols : Nat
  bytes : List Byte
  deriving DecidableEq, Repr

/-- A rind image (R334). -/
structure Image where
  no : Nat
  step : Nat
  stamp : Nat
  crc : Nat
  jobTag : Nat
  n : Nat
  rank : Nat
  shapes : List (Nat × Nat)
  tensors : List ImgTensor
  tumblers : List Tumbler
  captureNs : Nat
  waitNs : Nat
  state : ImageState
  format : Nat
  /-- the bytes of the image in the store, once it is durable. [list | R334 11_rind_snapshots | -] -/
  raw : List Byte
  deriving DecidableEq, Repr

/-- A journal record (R330). -/
structure JournalRec where
  step : Nat
  seed : Nat
  dataSeed : Nat
  loss : Nat
  lossValid : Bool
  completed : Bool
  faulted : Bool
  updated : Bool
  replay : Bool
  crc : Nat
  stamp : Nat
  endNs : Nat
  imageNo : Nat
  deriving DecidableEq, Repr

/-- A capture in progress (R332, R333). -/
structure Capture where
  recipe : Nat
  image : Nat
  /-- capture indices read so far. -/
  done : List Nat
  firstPending : Nat
  deriving DecidableEq, Repr

/-- The rind store. -/
structure Rind where
  /-- images, ascending IMAGE_NO (OD 40.030). [list | R336 11_rind_snapshots | empty] -/
  images : List Image
  /-- journal, oldest first. [64 bytes each | R330 11_rind_snapshots | empty] -/
  journal : List JournalRec
  captures : List Capture
  /-- next IMAGE_NO. [64 bits | R334 11_rind_snapshots | 1] -/
  nextImage : Nat
  /-- commits before acknowledging (charge below 70%). [1 bit | R339 11_rind_snapshots | 0] -/
  commitFirst : Bool
  /-- directory and journals committed to NAND. [1 bit | R338, R339 11_rind_snapshots | 1] -/
  committed : Bool
  deriving DecidableEq, Repr

/-! ### Power, cooling and ageing -/

/-- The power train, the governor and the coolant. -/
structure Power where
  /-- input voltage, OD 10.000. [F32 | R394 13_power_and_cooling | 0] -/
  volts : Rat
  /-- input present at the pre-charge contacts. [1 bit | R370 13_power_and_cooling | 0] -/
  input : Bool
  /-- hot-swap switch closed. [1 bit | R370 13_power_and_cooling | 0] -/
  hotSwap : Bool
  /-- auxiliary 12 V in regulation. [1 bit | R370 13_power_and_cooling | 0] -/
  aux : Bool
  /-- main rails on. [1 bit | R370, R371 13_power_and_cooling | 0] -/
  rails : Bool
  /-- device time at which the main rails came on. [64 bits | R411 14_ageing_and_spares | 0] -/
  railsSince : Nat
  /-- the input is lost, or was, and bring-up has not restarted. [1 bit | R372 13_power_and_cooling | 0] -/
  lost : Bool
  /-- wheels whose rails are switched off by a disable. [8 bits | R428 15_bringup_and_resets | none] -/
  wheelsOff : List Nat
  /-- TRAY_FLOW_OK as sampled, OD 10.021. [1 bit | R507 20_module_connectors_and_environment | 0] -/
  flowOk : Bool
  /-- device time at which it was asserted. [64 bits | R392 13_power_and_cooling | 0] -/
  flowSince : Nat
  /-- SEAT_LATCHED, and device time since which it is set, OD 01.031. [1 + 64 bits | R507, R461 20_module_connectors_and_environment | 0] -/
  seated : Bool
  seatSince : Nat
  /-- bring-up waits for SEAT_LATCHED, which cleared with the main rails on. [1 bit | R511 20_module_connectors_and_environment | 0] -/
  seatWait : Bool
  /-- RECOVERY_REQ as sampled. [1 bit | R507 20_module_connectors_and_environment | 0] -/
  recoveryReq : Bool
  /-- STBY12_SENSE present. [1 bit | R509 20_module_connectors_and_environment | 0] -/
  stby12 : Bool
  /-- the last ten 1 Hz inlet samples, newest first. [10 × F32 | R389 13_power_and_cooling | empty] -/
  inletSamples : List Rat
  /-- outlet temperature, OD 10.023. [F32 | R394 13_power_and_cooling | 0] -/
  outlet : Rat
  /-- T at the last applied change of the inlet limit. [F32 | R389 13_power_and_cooling | none] -/
  inletApplied : Option Rat
  /-- inlet limit, OD 10.005. [32 bits | R389 13_power_and_cooling | 9,000] -/
  inletLimit : Nat
  /-- recipes not run; device time since which T is at or below 49 °C. [1 + 64 bits | R390 13_power_and_cooling | 0] -/
  inletHot : Bool
  coolSince : Option Nat
  /-- cap ceiling C, OD 10.004. [32 bits | R376 13_power_and_cooling | 8,000] -/
  ceiling : Nat
  /-- credit B, J. [real | R377 13_power_and_cooling | 0] -/
  credit : Rat
  /-- P_lim, W. [real | R377 13_power_and_cooling | 0] -/
  pLim : Rat
  /-- estimate P, W. [real | R380 13_power_and_cooling | 0] -/
  estimate : Rat
  /-- the estimate before the gain, W. [real | R380 13_power_and_cooling | 0] -/
  unscaled : Rat
  /-- measured input power, W. [real | R380 13_power_and_cooling | 0] -/
  measured : Rat
  /-- gain g, OD 10.050. [F32 | R380 13_power_and_cooling | 1] -/
  gain : Rat
  /-- samples of the measurement and of the estimate P of the last 100 ms and the last 10 s, with their times, newest
  first, for OD 10.001 to 10.003. [lists of reals | R394 13_power_and_cooling | empty] -/
  measHist : List (Nat × Rat)
  estHist : List (Nat × Rat)
  /-- running sums of measurement and estimate over the present second, samples in it. [reals | R380 13_power_and_cooling | 0] -/
  sumMeasured : Rat
  sumEstimate : Rat
  nSamples : Nat
  /-- detector 0x010 active; device time since which the disagreement is below 4%. [1 + 64 bits | R380 13_power_and_cooling | 0] -/
  disagree : Bool
  agreeSince : Option Nat
  /-- device time since which the 1 s averages have differed by more than 8%. [64 bits | R380 13_power_and_cooling | none] -/
  differSince : Option Nat
  /-- device time at which B ran out, for 0x000. [64 bits | R395 13_power_and_cooling | none] -/
  creditOut : Option Nat
  /-- common target v_c, mV. [mV | R381 13_power_and_cooling | 720 (DESIGN CHOICE, log entry 6)] -/
  vc : Nat
  /-- rail target of each domain, OD 10.040, mV. [34 × F32 | R374 13_power_and_cooling | 0 while off] -/
  railTarget : List Nat
  /-- issue-gate duty of domains 0-15, percent of the Pace Line value × 10. [16 | R381 13_power_and_cooling | 1000] -/
  duty : List Nat
  /-- the duties are half of what P_lim allows. [1 bit | R377 13_power_and_cooling | 0] -/
  halved : Bool
  /-- HBM islands at 6.4 Gb/s. [1 bit | R381 13_power_and_cooling | 0] -/
  hbmSlow : Bool
  /-- Pace Line keep-alive lost. [1 bit | R24 01_planes_and_a_training_step | 0] -/
  paceLost : Bool
  /-- device time of the last Pace Line refresh. [64 bits | R24 01_planes_and_a_training_step | 0] -/
  lastRefresh : Nat
  /-- activity counts of the last refresh. [34 | R23 01_planes_and_a_training_step | empty] -/
  activity : List Nat
  /-- issue-gate duty of domains 0-15 while those counts were made. [16 × number | R24 01_planes_and_a_training_step, R381 13_power_and_cooling | 1000 (DESIGN CHOICE, log entry 4)] -/
  activityDuty : List Nat
  /-- input-power excursion in progress or counted. [counter | R378 13_power_and_cooling | 0] -/
  excursions : Nat
  /-- domains in droop; by domain the present second, its episodes, and the minute of the last post plus one.
  [16 | R387 13_power_and_cooling | empty] -/
  droop : List Nat
  droopCount : List (Nat × Nat × Nat × Nat)
  /-- rate steps deferred by droop: domain, step in mV (negative: down) or HBM clock, device time of deferral. [list | R388 13_power_and_cooling | empty] -/
  deferred : List (Nat × Int × Nat)
  /-- device time at which droop of a domain last cleared. [16 × 64 bits | R388 13_power_and_cooling | empty] -/
  droopClear : List (Nat × Nat)
  /-- hottest and mean junction of each domain, OD 11.000 and 11.001. [34 × 2 × F32 | R385 13_power_and_cooling | empty] -/
  junction : List (Nat × Rat × Rat)
  /-- domains over the soft limit. [set | R385 13_power_and_cooling | empty] -/
  hot : List Nat
  /-- neighbour pairs being pulled together. [set | R386 13_power_and_cooling | empty] -/
  pulled : List (PullKind × Nat × Nat)
  /-- device time of each domain's last step for a junction or regional limit. [16 × 64 bits | R385, R386 13_power_and_cooling | empty] -/
  limitAt : List (Nat × Nat)
  /-- last halt cause, OD 10.030, and whether injected, OD 10.031. [8 + 1 bits | R394 13_power_and_cooling | none] -/
  haltCause : HaltCause
  haltInjected : Bool
  /-- hold-up charge in percent, OD 10.020. [8 bits | R373 13_power_and_cooling, R518 20_module_connectors_and_environment | 0] -/
  charge : Nat
  /-- hold-up capacity measured last, ms at 300 W. [32 bits | R373 13_power_and_cooling | 0 (DESIGN CHOICE, log entry 4)] -/
  holdupMs : Nat
  /-- issue gates closed. [1 bit | R372, R391 13_power_and_cooling | 1 (DESIGN CHOICE, log entry 4)] -/
  gatesClosed : Bool
  deriving DecidableEq, Repr

/-- The margin plan of one domain (R398, R411). -/
structure Plan where
  /-- tap, OD 12.000. [4 bits | R411 14_ageing_and_spares | 6 (DESIGN CHOICE, log entry 6)] -/
  tap : Nat
  /-- rail floor, OD 12.001. [mV | R411 14_ageing_and_spares | 600 (DESIGN CHOICE, log entry 6)] -/
  floor : Nat
  /-- smallest counted margin, OD 12.002. [F32 % | R411 14_ageing_and_spares | 0] -/
  minMargin : Rat
  /-- remaining share, OD 12.003. [% | R404 14_ageing_and_spares | 100 (DESIGN CHOICE, log entry 6)] -/
  remaining : Nat
  /-- projected years, OD 12.004. [F32 | R404 14_ageing_and_spares | -1] -/
  years : Rat
  /-- M_ref, OD 12.005. [F32 % | R404 14_ageing_and_spares | 0] -/
  mRef : Rat
  /-- replans: powered hours, device time, M_ref. [list | R404 14_ageing_and_spares | empty] -/
  history : List (Nat × Nat × Rat)
  deriving DecidableEq, Repr

/-- A defect-map entry (R408). -/
structure Defect where
  unit : Nat
  part : Nat
  fused : Bool
  field : Bool
  failed : Bool
  suspect : Bool
  /-- a suspect that no test has failed and no Stage 3 has taken yet (R405, R407). -/
  waiting : Bool
  firstH : Nat
  deriving DecidableEq, Repr

/-- Ageing, plans and defect maps. -/
structure Ageing where
  plans : List Plan
  /-- OD 12.010 in ns, main rails on, up to the last switch-off. [64 bits | R411 14_ageing_and_spares | 0] -/
  poweredNs : Nat
  /-- OD 12.011. [8 × 32 bits | R411 14_ageing_and_spares | 0] -/
  lastReplan : List Nat
  /-- OD 12.012. [8 × 8 bits | R411 14_ageing_and_spares | none] -/
  replan : List ReplanState
  /-- powered hours at which a replan of the wheel became due. [8 | R401 14_ageing_and_spares | none] -/
  dueSince : List (Option Nat)
  /-- field defect map, OD 12.100, at most 4,096 entries. [16 bytes each | R407, R408 14_ageing_and_spares | empty] -/
  field : List Defect
  /-- parts beside the map that count as bad: those that found no room in it, in the present power-on, and with `field`
  set those that a reconcile has removed, until the next device reset. [list | R408, R409 14_ageing_and_spares | empty] -/
  unstored : List Defect
  /-- fused-bad parts that failed a test in this start. [set | R408 14_ageing_and_spares | empty] -/
  fusedFailed : List (Nat × Nat)
  /-- 0x211 posted for the due replan of the wheel. [8 × 1 bit | R401 14_ageing_and_spares | 0] -/
  overduePosted : List Bool
  /-- 0x241 posted in this power-on. [1 bit | R412 14_ageing_and_spares | 0] -/
  fullPosted : Bool
  /-- handshake stalls and core faults by unit and part, with device times. [list | R405 14_ageing_and_spares | empty] -/
  suspects : List ((Nat × Nat) × List Nat)
  deriving DecidableEq, Repr

/-! ### Life cycle -/

/-- A stage report (R422). -/
structure StageReport where
  start : Nat
  stage : Nat
  /-- 0 PASS, 1 DEGRADED, 2 FAIL, 3 ABORTED. -/
  result : Nat
  durationUs : Nat
  firstUnit : Option Nat
  firstDet : Option Nat
  counts : List Nat
  bringup : Nat
  deriving DecidableEq, Repr

/-- Device state and bring-up. -/
structure Life where
  /-- OD 01.000. [8 bits | R413, R430 15_bringup_and_resets | 0 OFF] -/
  state : DevState
  /-- device time at which it last changed, for OD 01.002. [64 bits | R461 17_object_dictionary | 0] -/
  stateSince : Nat
  /-- OD 01.001, degraded causes. [32 bits | R423 15_bringup_and_resets | 0] -/
  causes : BitVec 32
  /-- READY_DEGRADED has been entered since Stage 8 last decided. [1 bit | R423 15_bringup_and_resets | 0] -/
  wasDegraded : Bool
  /-- stage that runs or waits next; none outside bring-up. [4 bits | R414 15_bringup_and_resets | none] -/
  stage : Option Nat
  /-- device time at which the present stage began. [64 bits | R422 15_bringup_and_resets | 0] -/
  stageStart : Nat
  /-- conditions of Stage 2 already reported missing. [set | R371 13_power_and_cooling | empty] -/
  stage2Posted : List Nat
  /-- stage reports of the present bring-up, OD 70.100. [9 × 64 bytes | R422 15_bringup_and_resets | empty] -/
  reports : List StageReport
  /-- reports of the last 16 bring-ups, OD 70.120. [list | R472 17_object_dictionary | empty] -/
  history : List StageReport
  /-- OD 70.110, bring-up number. [32 bits | R430 15_bringup_and_resets | 0] -/
  bringup : Nat
  /-- domains whose rail failed at Stage 2. [set | R415 15_bringup_and_resets | empty] -/
  failedRails : List Nat
  /-- units and parts that failed the built-in tests of Stage 2, for Stage 3. [list | R407 14_ageing_and_spares, R415 15_bringup_and_resets | empty] -/
  stage2Bad : List (Nat × Nat)
  /-- wheels that are fenced. [set | R415 15_bringup_and_resets | empty] -/
  fencedWheels : List Nat
  /-- vats that are fenced. [set | R399, R406 14_ageing_and_spares | empty] -/
  fencedVats : List Nat
  /-- the Warden ROM failed its self-test. [1 bit | R414 15_bringup_and_resets | 0] -/
  romFailed : Bool
  /-- the present bring-up has reached READY, READY_DEGRADED or MAINTENANCE. [1 bit | R349 12_host_link_and_admission, R420 15_bringup_and_resets | 0 (DESIGN CHOICE, log entry 4)] -/
  reached : Bool
  /-- MAINTENANCE is requested and waits for running steps. [1 bit | R424 15_bringup_and_resets | 0] -/
  maintenanceWaiting : Bool
  /-- way 0 of every instruction cache holds the supervisor image, locked. [1 bit | R203 07_helper_cores | 0 until Stage 5] -/
  supervisorLoaded : Bool
  /-- a device reset is to enter RECOVERY (OD 7F.007). [1 bit | R500 19_firmware_slots | 0] -/
  toRecovery : Bool
  /-- the host-link wait of Stage 6 has expired. [1 bit | R420 15_bringup_and_resets | 0] -/
  hostWaitExpired : Bool
  /-- SLOT_ID latched, OD 00.025. [6 bits | R508 20_module_connectors_and_environment | 0 (DESIGN CHOICE, log entry 4)] -/
  slotId : Nat
  /-- SLOT_ID is latched since the auxiliary supply came on. [1 bit | R508 20_module_connectors_and_environment | 0] -/
  slotLatched : Bool
  deriving DecidableEq, Repr

/-! ### Warden -/

/-- The stored objects with no home elsewhere in the state: the parameter store (R457). -/
structure Stored where
  /-- OD 00.022. [8 bits | R454 16_warden_and_field_network | 0] -/
  plcaId : Nat
  /-- OD 00.023. [8 bits | R454 16_warden_and_field_network | 32] -/
  plcaTimer : Nat
  /-- OD 00.024. [16 bits | R454 16_warden_and_field_network | 48,020] -/
  udpPort : Nat
  /-- OD 01.010. [8 bits | R430 15_bringup_and_resets | 0] -/
  target : Nat
  /-- OD 10.010. [32 bits | R394 13_power_and_cooling | 8,000] -/
  cap : Nat
  /-- OD 10.011. [32 bits | R394 13_power_and_cooling | 4] -/
  window : Nat
  /-- OD 10.060. [16 bits | R394 13_power_and_cooling | 40] -/
  shift : Nat
  /-- OD 10.061. [16 bits | R394 13_power_and_cooling | 850] -/
  railMax : Nat
  /-- OD 11.011. [8 bits | R394 13_power_and_cooling | 105] -/
  softLimit : Nat
  /-- OD 20.000. [1 bit | R430 15_bringup_and_resets | 1] -/
  devEnable : Bool
  /-- OD 20.010. [32 bits | R430 15_bringup_and_resets | 2,000] -/
  deadline : Nat
  /-- OD 20.1w0. [8 × 1 bit | R430 15_bringup_and_resets | 1] -/
  wheelEnable : List Bool
  /-- OD 20.1w2. [8 × 8 bits | R462 17_object_dictionary | 0] -/
  vatMode : List Nat
  /-- OD 21.003, pending map-out set. [16 bits each | R462 17_object_dictionary | empty] -/
  mapOut : List Nat
  /-- OD 21.010. [16 bits | R462 17_object_dictionary | 8] -/
  poisonLimit : Nat
  /-- OD 21.011. [32 bits | R462 17_object_dictionary | 1,000] -/
  symbolLimit : Nat
  /-- OD 21.030. [16 bits | R462 17_object_dictionary | 64] -/
  caveGiB : Nat
  /-- OD 21.031. [8 bits | R462 17_object_dictionary | 4] -/
  devGiB : Nat
  /-- OD 21.1p0 MODE. [4 × 2 bits | R463 17_object_dictionary | 0] -/
  farMode : List Nat
  /-- OD 21.1p0 EN. [4 × 1 bit | R463 17_object_dictionary | 0] -/
  farEnable : List Bool
  /-- OD 22.0pp. [32 × 1 bit | R465 17_object_dictionary | 0] -/
  portEnable : List Bool
  /-- OD 22.040. [16 bits | R465 17_object_dictionary | 0xFFF] -/
  moduleId : Nat
  /-- OD 22.100 and 22.101, entries that are not zero. [4,096 × 64 bits | R465, R292 17_object_dictionary | 0] -/
  routes : List (Nat × Word)
  /-- OD 22.4pp. [32 × 8 bits | R465 17_object_dictionary | 0] -/
  pmd : List Nat
  /-- OD 23.010. [32 bits | R430 15_bringup_and_resets | 60] -/
  hostWait : Nat
  /-- OD 40.000. [1 bit | R325 11_rind_snapshots | 0] -/
  rindEnable : Bool
  /-- OD 40.010, N. [32 bits | R325 11_rind_snapshots | 100] -/
  lossBound : Nat
  /-- OD 40.011, F32 bits. [32 bits | R325 11_rind_snapshots | 1.0e-3 (0x3A83_126F)] -/
  tolerance : Word32
  /-- OD 40.012, c. [32 bits | R325 11_rind_snapshots | 0] -/
  period : Nat
  /-- OD 40.013. [8 bits | R325 11_rind_snapshots | 2] -/
  retained : Nat
  /-- OD 50.000. [1 bit | R454 16_warden_and_field_network | 0] -/
  lock : Bool
  /-- owner code. [32 bits | R453 16_warden_and_field_network | 0] -/
  ownerCode : Nat
  deriving DecidableEq, Repr

/-- A part of a firmware set as held in a slot (R488, R490). -/
structure FwPart where
  n : Nat
  image : List Byte
  deriving DecidableEq, Repr

/-- A firmware slot (R469, R493). -/
structure FwSlot where
  /-- state, OD 50.011 or 50.012. [8 bits | R469 17_object_dictionary | A active, B empty (DESIGN CHOICE, log entry 5)] -/
  state : SlotState
  /-- manifest. [864 bytes | R489 19_firmware_slots | factory manifest of the active set (DESIGN CHOICE, log entry 5)] -/
  manifest : List Byte
  parts : List FwPart
  deriving DecidableEq, Repr

/-- Who sent a request: path and, on the field network, address and port (R442). -/
structure Peer where
  mailbox : Bool
  addr : Nat
  port : Nat
  deriving DecidableEq, Repr

/-- A cached response (R442). -/
structure Cached where
  peer : Peer
  seq : Nat
  time : Nat
  frame : List Byte
  deriving DecidableEq, Repr

/-- A subscription (R444). -/
structure Sub where
  peer : Peer
  obj : Nat
  period : Nat
  lifetime : Nat
  /-- device time of the start or last renewal, and of the last notification. -/
  since : Nat
  lastSent : Nat
  seq : Nat
  number : Nat
  lastValue : List Byte
  deriving DecidableEq, Repr

/-- An open BLOCK session (R443). -/
structure Session where
  obj : Nat
  total : Nat
  data : List Byte
  lastOff : Nat
  lastChunk : List Byte
  lastTime : Nat
  deriving DecidableEq, Repr

/-- The long operation that runs (R447, R448). -/
structure RunOp where
  obj : Nat
  /-- started by EXECUTE, or a WRITE that is a long operation. -/
  exec : Bool
  peer : Peer
  seq : Nat
  start : Nat
  progress : Nat
  /-- past its commit point (R434). -/
  committed : Bool
  /-- an ABORT granted at a later boundary: its peer and SEQ. -/
  aborting : Option (Peer × Nat)
  /-- the work is complete and the end is due: result, reason, DETAIL. -/
  ending : Option (Nat × Nat × List Byte)
  /-- wheels not yet replanned (7F.002), ports to qualify (7F.005), or entries that passed (7F.004). -/
  todo : List Nat
  done : List Nat
  /-- sweeps for the wheels to do (7F.002). -/
  scans : List (Nat × WheelScan)
  /-- counts for DETAIL. -/
  tally : List Nat
  deriving DecidableEq, Repr

/-- The last command result OD 70.200 (R449). -/
structure CmdResult where
  obj : Nat
  mailbox : Bool
  result : Nat
  reason : Nat
  seq : Nat
  start : Nat
  finish : Nat
  detail : List Byte
  deriving DecidableEq, Repr

/-- The Warden: firmware, dictionary, Object Access Protocol, Mailbox. -/
structure Warden where
  stored : Stored
  /-- copies of the parameter store kept for other STORE_VERs. [copies | R497, R498 19_firmware_slots | empty] -/
  otherStores : List (Nat × Stored)
  /-- STORE_VER of the store in use. [32 bits | R497 19_firmware_slots | 1 (DESIGN CHOICE, log entry 5)] -/
  storeVer : Nat
  /-- ageing plans and field defect map kept in another HIST_FORMAT: format, copies. [copies | R499 19_firmware_slots | empty] -/
  otherHist : List (Nat × List Plan × List Defect)
  /-- HIST_FORMAT of the copies in use. [16 bits | R499 19_firmware_slots | 1 (DESIGN CHOICE, log entry 5)] -/
  histFormat : Nat
  /-- Warden firmware runs (not in restart). [1 bit | R433 16_warden_and_field_network | 0] -/
  up : Bool
  /-- device times of recent restarts. [list | R494 19_firmware_slots | empty] -/
  restarts : List Nat
  /-- detector owed by the restart in progress: 0xA00 or 0xA01. [12 bits | R433 16_warden_and_field_network | none] -/
  restartDet : Option Nat
  run : Option RunOp
  /-- OD 70.200. [48 bytes | R449 16_warden_and_field_network | none] -/
  result : Option CmdResult
  /-- response cache, newest first, at most 32. [list | R442 16_warden_and_field_network | empty] -/
  cache : List Cached
  subs : List Sub
  /-- next subscription number. [32 bits | R440 16_warden_and_field_network | 1 (DESIGN CHOICE, log entry 8)] -/
  nextSub : Nat
  sessions : List Session
  /-- device times of wrong owner codes; end of the lockout. [list, 64 bits | R453 16_warden_and_field_network | empty, none] -/
  wrongCodes : List Nat
  lockout : Option Nat
  /-- OD 70.201. [32 bits | R454 16_warden_and_field_network | 0] -/
  queueFull : Nat
  /-- OD 70.202. [32 bits | R454 16_warden_and_field_network | 0] -/
  discarded : Nat
  /-- field-network frames sent, newest last: destination and bytes. [list | R436 16_warden_and_field_network | empty] -/
  fieldOut : List (Nat × Nat × List Byte)
  /-- PLCA node ID, transmit opportunity timer and UDP port in force until `netUntil`, before values just written take effect. [3 × 16 bits | R454 16_warden_and_field_network | 0, 32, 48020] -/
  netBefore : Nat × Nat × Nat
  /-- when the written values of OD 00.022 to 00.024 take effect. [time | R454 16_warden_and_field_network | 0] -/
  netUntil : Nat
  /-- CSMA/CD fallback. [1 bit | R435 16_warden_and_field_network | 0] -/
  csma : Bool
  /-- MB_CFG. [64 bits | R446 16_warden_and_field_network | 0] -/
  mbCfg : Word
  /-- REQ_TAIL. [6 bits | R446 16_warden_and_field_network | 0] -/
  reqTail : Nat
  /-- REQ_HEAD. [6 bits | R446 16_warden_and_field_network | 0] -/
  reqHead : Nat
  /-- RSP_TAIL. [6 bits | R446 16_warden_and_field_network | 0] -/
  rspTail : Nat
  /-- RSP_HEAD. [6 bits | R446 16_warden_and_field_network | 0] -/
  rspHead : Nat
  /-- NTF_TAIL. [8 bits | R446 16_warden_and_field_network | 0] -/
  ntfTail : Nat
  /-- NTF_HEAD. [8 bits | R446 16_warden_and_field_network | 0] -/
  ntfHead : Nat
  /-- notifications dropped, MB_STATUS [63:32]. [32 bits | R446 16_warden_and_field_network | 0] -/
  ntfDropped : Nat
  /-- the Mailbox rings by BAR4 offset. [bytes | R445 16_warden_and_field_network | zero (DESIGN CHOICE, log entry 3)] -/
  bar4 : Memory
  /-- OD 50.010: slot B is the active slot. [1 bit | R468 17_object_dictionary | 0 A] -/
  slotB : Bool
  fwA : FwSlot
  fwB : FwSlot
  /-- security counter fused. [6 bits | R491 19_firmware_slots | 0 (DESIGN CHOICE, log entry 5)] -/
  secCounter : Nat
  /-- key-revocation mask fused. [4 bits | R491 19_firmware_slots | 0 (DESIGN CHOICE, log entry 5)] -/
  revoked : BitVec 4
  /-- the firmware activation whose result is owed after the bring-up: fall-back taken. [1 bit | R494 19_firmware_slots | 0] -/
  fellBack : Bool
  deriving DecidableEq, Repr

/-- Factory data (fuses and factory flash, R457). -/
structure Factory where
  /-- OD 00.002 is OLV-MH8-1280, else OLV-MH8-960. [STR | R461 17_object_dictionary | 1 (DESIGN CHOICE, log entry 5)] -/
  code1280 : Bool
  /-- OD 00.003. [STR | R461 17_object_dictionary | DESIGN CHOICE, log entry 5] -/
  serial : List Byte
  /-- OD 00.004. [16 bits | R461 17_object_dictionary | DESIGN CHOICE, log entry 5] -/
  board : Nat
  /-- OD 00.006. [32 bits | R461 17_object_dictionary | DESIGN CHOICE, log entry 5] -/
  date : Nat
  /-- OD 00.013. [32 bits | R461 17_object_dictionary | DESIGN CHOICE, log entry 5] -/
  romVersion : Nat
  /-- OD 00.014. [32 bits | R461 17_object_dictionary | DESIGN CHOICE, log entry 5] -/
  tableSet : Nat
  /-- OD 00.020. [6 bytes | R454 16_warden_and_field_network | DESIGN CHOICE, log entry 5] -/
  mac : List Byte
  /-- OD 23.002 and 23.003. [2 × 16 bits | R465 17_object_dictionary | DESIGN CHOICE, log entry 5] -/
  pciVendor : Nat
  pciDevice : Nat
  /-- M_0 of each domain 0-15, percent. [16 | R404 14_ageing_and_spares | DESIGN CHOICE, log entry 5] -/
  m0 : List Rat
  /-- fuse defect map, OD 12.101. [16 bytes each | R407, R408 14_ageing_and_spares | empty (DESIGN CHOICE, log entry 5)] -/
  fuses : List Defect
  deriving DecidableEq, Repr

/-! ### The whole state -/

/-- The state of the block. -/
structure State where
  /-- commands waiting, first in first out. [list | the model's queue | empty] -/
  pending : List Instr
  /-- device time base, OD 01.020, ns. [64 bits | R20 01_planes_and_a_training_step, R454 16_warden_and_field_network | 0 (DESIGN CHOICE, log entry 4)] -/
  now : Nat
  /-- physical near tier. [bytes | R131 05_memory_tiers | zero (DESIGN CHOICE, log entry 3)] -/
  near : Memory
  /-- curd store and helper scratch at their device addresses. [bytes | R122 05_memory_tiers | zero (DESIGN CHOICE, log entry 3)] -/
  dev : Memory
  /-- physical cave. [bytes | R148 05_memory_tiers | zero (DESIGN CHOICE, log entry 3)] -/
  cave : Memory
  /-- host bus memory. [bytes | R359 12_host_link_and_admission | zero (DESIGN CHOICE, log entry 3)] -/
  hostMem : Memory
  host : HostIf
  events : Events
  gate : Gate
  /-- admitted recipes, in admission order, at most 64. [list | R363 12_host_link_and_admission | empty] -/
  recipes : List Recipe
  /-- chained adds on their way. [list | R166 06_recipes_tasks_tumblers | empty] -/
  chains : List Chain
  /-- the eight wheels. [8 | R13 01_planes_and_a_training_step | each at reset] -/
  wheels : List Wheel
  /-- helper cores that run a launch record; every other core is idle. [10,880 built | R196, R204 07_helper_cores | empty] -/
  cores : List Core
  tiers : Tiers
  /-- the four far ports. [4 | R145 05_memory_tiers | off] -/
  farPorts : List FarPort
  /-- dirty segments of the cave cache as a whole are in the recipes' shares; this is a flush in progress: device time. [record | R151 05_memory_tiers | none] -/
  flushing : Option Nat
  hinge : Hinge
  rind : Rind
  power : Power
  ageing : Ageing
  life : Life
  warden : Warden
  factory : Factory
  /-- the MODEL's own field: order number of the next task that becomes ready or descriptor that is ready or begins
  (R76, R116, R175, R211). [counter | log entry 8 | 1] -/
  seq : Nat
  /-- the MODEL's own field: index of the next free value (Config), not the spec's. [counter | log entry 7 | 0 (DESIGN CHOICE, log entry 7)] -/
  free : Nat
  deriving DecidableEq, Repr

/-! ### Reset -/

/-- A queue at reset (R352). -/
def Queue.reset : Queue :=
  { en := false, cfgErr := false, cqFull := false, drain := 0, itime := 0, icount := 0, vector := 0, size := 0,
    sqTail := 0, cqHead := 0, sqHead := 0, cqTail := 0, phase := false, held := [], unsignalled := 0,
    firstUnsignalled := none, fullSince := none, stallPosted := false }

/-- The MSI-X table after reset: the vector control of each of the 64 vectors masks it (R348; PRESUMED from PCIe, log
entry 8). -/
def msixReset : Memory := (List.range 64).map (fun v => (0x20000 + 16 * v + 12, 1#8))

/-- The host interface at reset (R349). -/
def HostIf.reset : HostIf :=
  { hostPower := .d0, rdy := false, resetting := false, bar2Base := 0, droppedDb := 0, bar0 := msixReset, pba := 0, interrupts := [],
    queues := List.replicate 16 Queue.reset, cmds := [], turn := 0, nextOrder := 0, copyEngines := [0, 0, 0, 0],
    linkUp := false, qualified := false, width := 0, rate := 0, corrErr := 0, uncorrErr := 0, readData := [],
    readEp := false, beyondSecond := none }

/-- The Event Tray and the detectors at reset (R478, R470). -/
def Events.reset : Events :=
  { base := 0, cfg := 0, en := false, cfgErr := false, full := false, tail := 0, head := 0, lost := 0,
    lostSince := 0, firstLost := 0, unsignalled := 0, firstUnsignalled := none, transit := [], backlog := [],
    log := [], alertLow := false, counts := [], lastPost := [], injCounts := [], detCfg := [], windows := [],
    episodes := [], permit := false, points := [] }

/-- The admission view before bring-up. -/
def View.reset : View :=
  { shapes := List.replicate 8 (0, 0), vatFence := List.replicate 8 .usable,
    wheels := List.replicate 8 .fenced, hoopCores := List.replicate 640 0, nearUsable := 0, caveCapacity := 0,
    curdUsable := List.replicate 8 0, ports := List.replicate 32 .down, far := List.replicate 4 .off,
    updateEngines := .usable, capCeiling := 8000, inletHot := false, cave := .usable,
    hoopMarks := List.replicate 640 .usable, shrink := List.replicate 8 none }

/-- The Gate at reset. -/
def Gate.reset : Gate :=
  { gen := 0, pending := [], view := View.reset, drains := [], nextHandle := 1 }

/-- A vat at reset (R97). -/
def Vat.reset : Vat :=
  { arr := 0, cells := [], banks := [], broadcast := false, heldMargin := false, heldGap := false, recipeBroadcast := false,
    pendingShape := none, pendingMode := false, slots := [], starvation := 0, paneWaits := [] }

/-- A wheel at reset. -/
def Wheel.reset : Wheel :=
  { vat := Vat.reset, hoops := [], scratchOwner := [], bankList := [], failedBanks := [], rowOrder := 0,
    colOrder := 0, idleSince := 0, resetTest := false }

/-- The tiers before Stage 4. -/
def Tiers.reset : Tiers :=
  { channels := [], hbmStacks := [], placed := false, caveRegion := 0, devRegion := 0, poisonNear := [],
    poisonCurd := [], poisonCave := [], poisonCount := [], requests := [], stalls := [], lastRead := [], lastPoisoned := false,
    lastAtomic := 0, scrub := 0, caveGen := 0 }

/-- A hinge port at reset. -/
def HingePort.reset : HingePort :=
  { state := .down, localMask := 0, peerMask := 0, peerId := 0xFFF, before := .down, txSeq := 0, rxSeq := 0,
    replayWanted := false, credits := [0, 0, 0, 0], advertised := [32, 64, 256, 1024], lastVc := 3, owed := [0, 0, 0, 0], bulkOut := [], replay := [], sameReplays := 0, lastReplaySeq := 0,
    replayTimes := [], retrainTimes := [], retrainStart := 0, dwellFails := 0, ber := 0, corrected := 0,
    uncorrectable := 0, replays := 0, waiting := [], sent := [], frameSeq := 0, frame := [], frames := [] }

/-- The hinge fabric at reset. -/
def Hinge.reset : Hinge :=
  { ports := List.replicate 32 HingePort.reset, specTags := [], xfers := [], rx := [], nextTag := 0, arrived := [] }

/-- The rind store as shipped. -/
def Rind.reset : Rind :=
  { images := [], journal := [], captures := [], nextImage := 1, commitFirst := false, committed := true }

/-- The power train with no input. -/
def Power.reset : Power :=
  { volts := 0, input := false, hotSwap := false, aux := false, rails := false, railsSince := 0, lost := false, wheelsOff := [],
    flowOk := false, flowSince := 0, seated := false, seatSince := 0, seatWait := false, recoveryReq := false, stby12 := false,
    inletSamples := [], outlet := 0, inletApplied := none, inletLimit := 9000, inletHot := false,
    coolSince := none, ceiling := 8000, credit := 0, pLim := 0, estimate := 0, unscaled := 0, measured := 0, gain := 1,
    measHist := [], estHist := [], sumMeasured := 0, sumEstimate := 0, nSamples := 0, disagree := false, agreeSince := none, differSince := none, creditOut := none,
    vc := 720, railTarget := List.replicate 34 0, duty := List.replicate 16 1000, halved := false, hbmSlow := false,
    paceLost := false, lastRefresh := 0, activity := [], activityDuty := List.replicate 16 1000, excursions := 0, droop := [], droopCount := [], deferred := [],
    droopClear := [], junction := [], hot := [], pulled := [], limitAt := [], haltCause := .none, haltInjected := false,
    charge := 0, holdupMs := 0, gatesClosed := true }

/-- The plan of a domain as shipped. -/
def Plan.reset : Plan :=
  { tap := 6, floor := 600, minMargin := 0, remaining := 100, years := -1, mRef := 0, history := [] }

/-- Ageing as shipped. -/
def Ageing.reset : Ageing :=
  { plans := List.replicate 16 Plan.reset, poweredNs := 0, lastReplan := List.replicate 8 0,
    replan := List.replicate 8 .none, dueSince := List.replicate 8 none, field := [], unstored := [],
    fusedFailed := [], overduePosted := List.replicate 8 false, fullPosted := false, suspects := [] }

/-- The life cycle with no auxiliary supply. -/
def Life.reset : Life :=
  { state := .off, stateSince := 0, causes := 0, wasDegraded := false, stage := none, stageStart := 0, stage2Posted := [], reports := [],
    history := [], bringup := 0, failedRails := [], stage2Bad := [], fencedWheels := [], fencedVats := [], romFailed := false,
    reached := false, maintenanceWaiting := false, supervisorLoaded := false, toRecovery := false, hostWaitExpired := false, slotId := 0, slotLatched := false }

/-- The stored objects at their defaults. -/
def Stored.reset : Stored :=
  { plcaId := 0, plcaTimer := 32, udpPort := 48020, target := 0, cap := 8000, window := 4, shift := 40,
    railMax := 850, softLimit := 105, devEnable := true, deadline := 2000, wheelEnable := List.replicate 8 true,
    vatMode := List.replicate 8 0, mapOut := [], poisonLimit := 8, symbolLimit := 1000, caveGiB := 64,
    devGiB := 4, farMode := List.replicate 4 0, farEnable := List.replicate 4 false,
    portEnable := List.replicate 32 false, moduleId := 0xFFF, routes := [], pmd := List.replicate 32 0,
    hostWait := 60, rindEnable := false, lossBound := 100, tolerance := 0x3A83126F#32, period := 0, retained := 2,
    lock := false, ownerCode := 0 }

/-- The manifest of the factory set: MAGIC, FORMAT 1, NPARTS 10, and version 1 of SCHEMA, STORE_VER, RIND_FORMAT,
HIST_FORMAT and MIN_ROM, SETVER "1" (R489; log entry 5). -/
def factoryManifest : List Byte :=
  [0x4B#8, 0x5A#8, 0x4D#8, 0x46#8, 1#8, 0#8, 0#8, 10#8, 0#8, 0#8, 0#8, 0#8, 1#8, 0#8, 0#8, 0#8, 1#8, 0#8, 0#8, 0#8,
   1#8, 0#8, 1#8, 0#8, 1#8, 0#8, 0#8, 0#8, 0#8, 0#8, 0#8, 0#8, 0x31#8] ++ List.replicate 831 0#8

/-- The Warden as shipped: slot A active, slot B empty. -/
def Warden.reset : Warden :=
  { stored := Stored.reset, otherStores := [], storeVer := 1, otherHist := [], histFormat := 1, up := false, restarts := [],
    restartDet := none, run := none, result := none, cache := [], subs := [], nextSub := 1, sessions := [],
    wrongCodes := [], lockout := none, queueFull := 0, discarded := 0, fieldOut := [],
    netBefore := (0, 32, 48020), netUntil := 0, csma := false, mbCfg := 0, reqTail := 0, reqHead := 0, rspTail := 0, rspHead := 0, ntfTail := 0, ntfHead := 0,
    ntfDropped := 0, bar4 := [], slotB := false, fwA := { state := .active, manifest := factoryManifest, parts := [] },
    fwB := { state := .empty, manifest := [], parts := [] }, secCounter := 0, revoked := 0, fellBack := false }

/-- Factory data of the modelled module. -/
def Factory.reset : Factory :=
  { code1280 := true, serial := [0x30#8], board := 0x0100, date := 0x20240101, romVersion := 1, tableSet := 1,
    mac := [0x02#8, 0#8, 0#8, 0#8, 0#8, 0x01#8], pciVendor := 0, pciDevice := 0, m0 := List.replicate 16 20,
    fuses := [] }

/-- The machine at reset: an unpowered module as shipped, with no command waiting. -/
def State.reset : State :=
  { pending := [], now := 0, near := [], dev := [], cave := [], hostMem := [], host := HostIf.reset,
    events := Events.reset, gate := Gate.reset, recipes := [], chains := [], wheels := List.replicate 8 Wheel.reset,
    cores := [], tiers := Tiers.reset, farPorts := List.replicate 4 { state := .off, capacity := 0 },
    flushing := none, hinge := Hinge.reset, rind := Rind.reset, power := Power.reset, ageing := Ageing.reset,
    life := Life.reset, warden := Warden.reset, factory := Factory.reset, seq := 1, free := 0 }

/-! ### Faults and refusals -/

/-- Faults. No meaning of the model raises one: every fault of the spec is an effect on the state (a task status, a
completion entry, an event, a response status). The constructor stands for a command queue whose front is not
served, which the model never has; it is safe, since it stops and claims nothing. -/
inductive Fault where
  /-- raised by no meaning; safe. -/
  | none
  deriving DecidableEq, Repr

/-- Refusals. -/
inductive Refusal where
  /-- raised by the dispatch for a command that has no meaning yet, with its mnemonic; safe: the model stops. -/
  | notModelled (mnemonic : String)
  deriving DecidableEq, Repr

end Sys2Proof.Machine
end

