-- ==== Sys2Proof/Machine/Ops.lean ====
section
/-! DEFINITION. Operations that every family shares: the byte stores, the passing of time, free values, the posting
of a detector (R470, R476, R482 to R484), view updates waiting at the Gate (R18, R19), and the changes of one part of
the state. -/

namespace Sys2Proof.Machine

/-! ### Byte stores -/

/-- The canonical form of a store: addresses rising, no byte zero. -/
def Memory.wf : Memory → Bool
  | [] => true
  | [c] => c.2 != 0
  | c :: d :: m => c.2 != 0 && c.1 < d.1 && Memory.wf (d :: m)

/-- The byte at an address; an address not listed reads zero (log entry 3). -/
def memGet : Memory → Nat → Byte
  | [], _ => 0
  | (b, v) :: m, a => if b = a then v else memGet m a

/-- Write one byte, keeping the canonical form. -/
def memSet : Memory → Nat → Byte → Memory
  | [], a, v => if v = 0 then [] else [(a, v)]
  | (b, w) :: m, a, v =>
    if a < b then (if v = 0 then (b, w) :: m else (a, v) :: (b, w) :: m)
    else if a = b then (if v = 0 then m else (b, v) :: m)
    else (b, w) :: memSet m a v

/-- `n` bytes from an address. -/
def memRead (m : Memory) (a : Nat) : Nat → List Byte
  | 0 => []
  | n + 1 => memGet m a :: memRead m (a + 1) n

/-- Write bytes from an address up. -/
def memWrite (m : Memory) (a : Nat) : List Byte → Memory
  | [] => m
  | b :: bs => memWrite (memSet m a b) (a + 1) bs

/-- Set the bytes of an address range to zero. -/
def memClear (m : Memory) (lo n : Nat) : Memory := m.filter (fun c => !(decide (lo ≤ c.1) && decide (c.1 < lo + n)))

/-- The little-endian number of `n` bytes at an address. -/
def memLe (m : Memory) (a n : Nat) : Nat := ofLe (memRead m a n)

/-! ### Time and free values -/

/-- A step with no command: the device time base advances by one nanosecond (R20; log entry 1). -/
def idle (s : State) : State := { s with now := (s.now + 1) % 2 ^ 64 }

/-- Use up one free-value index (log entry 7). -/
def State.drawn (s : State) : State := { s with free := s.free + 1 }

/-! ### Changes of one part of the state -/

def State.onHost (f : HostIf → HostIf) (s : State) : State := { s with host := f s.host }
def State.onEvents (f : Events → Events) (s : State) : State := { s with events := f s.events }
def State.onGate (f : Gate → Gate) (s : State) : State := { s with gate := f s.gate }
def State.onView (f : View → View) (s : State) : State := { s with gate := { s.gate with view := f s.gate.view } }
def State.onTiers (f : Tiers → Tiers) (s : State) : State := { s with tiers := f s.tiers }
def State.onHinge (f : Hinge → Hinge) (s : State) : State := { s with hinge := f s.hinge }
def State.onRind (f : Rind → Rind) (s : State) : State := { s with rind := f s.rind }
def State.onPower (f : Power → Power) (s : State) : State := { s with power := f s.power }
def State.onAgeing (f : Ageing → Ageing) (s : State) : State := { s with ageing := f s.ageing }
def State.onLife (f : Life → Life) (s : State) : State := { s with life := f s.life }
def State.onWarden (f : Warden → Warden) (s : State) : State := { s with warden := f s.warden }
def State.onStored (f : Stored → Stored) (s : State) : State :=
  { s with warden := { s.warden with stored := f s.warden.stored } }

/-- Change one wheel. -/
def State.onWheel (w : Nat) (f : Wheel → Wheel) (s : State) : State := { s with wheels := modAt s.wheels w f }

/-- Change one vat. -/
def State.onVat (w : Nat) (f : Vat → Vat) (s : State) : State :=
  s.onWheel w (fun x => { x with vat := f x.vat })

/-- Wheel `w`. -/
def State.wheel (s : State) (w : Nat) : Wheel := nth s.wheels w Wheel.reset

/-- Vat `w`. -/
def State.vat (s : State) (w : Nat) : Vat := (s.wheel w).vat

/-- Change one hinge port. -/
def State.onPort (p : Nat) (f : HingePort → HingePort) (s : State) : State :=
  s.onHinge (fun h => { h with ports := modAt h.ports p f })

/-- Hinge port `p`. -/
def State.port (s : State) (p : Nat) : HingePort := nth s.hinge.ports p HingePort.reset

/-- Change one far port. -/
def State.onFar (p : Nat) (f : FarPort → FarPort) (s : State) : State :=
  { s with farPorts := modAt s.farPorts p f }

/-- Change the recipe of a handle. -/
def State.onRecipe (h : Nat) (f : Recipe → Recipe) (s : State) : State :=
  { s with recipes := modFirst (fun r => r.handle == h) f s.recipes }

/-- The recipe of a handle. -/
def State.recipe? (s : State) (h : Nat) : Option Recipe := s.recipes.find? (fun r => r.handle == h)

/-- Change the running step of a recipe. -/
def State.onStep (h : Nat) (f : StepRun → StepRun) (s : State) : State :=
  s.onRecipe h (fun r => { r with running := r.running.map f })

/-- Change a loaded task of the running step of a recipe. -/
def State.onTask (h t : Nat) (f : TaskRun → TaskRun) (s : State) : State :=
  s.onStep h (fun u => { u with runs := modFirst (fun x => x.idx == t) f u.runs })

/-- The run of a task of the running step. -/
def Recipe.run? (r : Recipe) (t : Nat) : Option TaskRun :=
  match r.running with
  | none => none
  | some u => u.runs.find? (fun x => x.idx == t)

/-- Change a descriptor of a loaded task. -/
def State.onDesc (h t i : Nat) (f : DescRun → DescRun) (s : State) : State :=
  s.onTask h t (fun x => { x with descs := modAt x.descs i f })

/-- Change a core that runs a launch record. -/
def State.onCore (c : CoreId) (f : Core → Core) (s : State) : State :=
  { s with cores := modFirst (fun x => x.id == c) f s.cores }

/-- The core of an identity, where it runs a launch record. -/
def State.core? (s : State) (c : CoreId) : Option Core := s.cores.find? (fun x => x.id == c)

/-- Enter a device state (R413), keeping the time of a change (OD 01.002, R461). -/
def State.enter (d : DevState) (s : State) : State :=
  s.onLife (fun l => { l with state := d, stateSince := if l.state = d then l.stateSince else s.now })

/-- The device is READY, READY_DEGRADED or MAINTENANCE, where the queues run (R349, R364). -/
def State.serving (s : State) : Bool :=
  s.life.state == .ready || s.life.state == .readyDegraded || s.life.state == .maintenance

/-- The firmware slot that OD 50.010 names (R493). -/
def State.activeFw (s : State) : FwSlot := if s.warden.slotB then s.warden.fwB else s.warden.fwA

/-- The firmware slot that it does not name. -/
def State.otherFw (s : State) : FwSlot := if s.warden.slotB then s.warden.fwA else s.warden.fwB

/-- STORE_VER, RIND_FORMAT and HIST_FORMAT of a set, by its manifest (R489). -/
def FwSlot.storeVer (f : FwSlot) : Nat := leAt f.manifest 16 4
def FwSlot.rindFormat (f : FwSlot) : Nat := leAt f.manifest 20 2
def FwSlot.histFormat (f : FwSlot) : Nat := leAt f.manifest 22 2

/-! ### Detectors -/

/-- The detectors of the catalogue (R483). -/
def detectors : List Nat :=
  [0x000, 0x001, 0x002, 0x010, 0x011, 0x012, 0x020, 0x030, 0x031, 0x040, 0x041,
   0x100, 0x101, 0x102, 0x110, 0x111, 0x112, 0x120, 0x121,
   0x200, 0x201, 0x210, 0x211, 0x220, 0x230, 0x231, 0x232, 0x233, 0x234, 0x240, 0x241, 0x242,
   0x300, 0x301, 0x310, 0x311, 0x312, 0x313, 0x320, 0x321, 0x322,
   0x400, 0x401, 0x402, 0x403, 0x404, 0x405, 0x406, 0x407, 0x408, 0x409,
   0x420, 0x421, 0x422, 0x423, 0x424, 0x425] ++
  [0x510, 0x520, 0x521, 0x522, 0x523, 0x530, 0x531, 0x540, 0x541, 0x542, 0x543, 0x544, 0x545, 0x546,
   0x550, 0x551, 0x552,
   0x600, 0x601, 0x602, 0x603, 0x604, 0x605, 0x606, 0x607, 0x609, 0x60A,
   0x710, 0x720, 0x721, 0x722, 0x7E0, 0x7E1, 0x7E2, 0x7E4, 0x7E5, 0x7E6, 0x7E8, 0x7E9,
   0x800, 0x803, 0x804, 0x810, 0x811, 0x812, 0x820,
   0x900, 0x901, 0x920, 0x921, 0x930, 0x931,
   0xA00, 0xA01, 0xA10, 0xA11, 0xA20, 0xA21, 0xA30,
   0xB00, 0xB01, 0xB02, 0xB10, 0xB11, 0xB20, 0xB21, 0xB30]

/-- Severity of a detector (R482). -/
def severity (d : Nat) : Nat :=
  if d ∈ [0x012, 0x100, 0x101] then 5
  else if d ∈ [0x041, 0x111, 0x201, 0x232, 0x233, 0x234, 0x241, 0x301, 0x311, 0x313, 0x321, 0x403, 0x404, 0x405,
      0x406, 0x408, 0x409, 0x422, 0x424, 0x425, 0x510, 0x550, 0xA00, 0xA01, 0xA11, 0xB02, 0xB11, 0xB20] then 4
  else if d ∈ [0x322, 0x407, 0x521, 0x522, 0x523, 0x530, 0x531, 0x540, 0x543, 0x544, 0x609, 0x710, 0x722, 0x920,
      0xA10] ∨ (0x7E0 ≤ d ∧ d ≤ 0x7E9) ∨ (0x800 ≤ d ∧ d ≤ 0x820) then 3
  else if d ∈ [0x000, 0x001, 0x010, 0x011, 0x020, 0x030, 0x031, 0x040, 0x102, 0x110, 0x120, 0x121, 0x200, 0x210,
      0x211, 0x240, 0x242, 0x400, 0x401, 0x420, 0x520, 0x541, 0x542, 0x545, 0x546, 0x552, 0x60A, 0x720, 0x900,
      0x930, 0x931, 0xA20, 0xB01, 0xB30] ∨ (0x600 ≤ d ∧ d ≤ 0x607) then 2
  else 1

/-- OD 60.002 of a detector: bit 0 POST, bit 1 ALERT; the default is POST 1 and ALERT at severity 5 (R470, R482). -/
def detConfig (e : Events) (d : Nat) : Nat := look e.detCfg d (if severity d = 5 then 3 else 1)

/-- POST of a detector. -/
def postsOf (e : Events) (d : Nat) : Bool := detConfig e d % 2 == 1

/-- ALERT of a detector. -/
def alertsOf (e : Events) (d : Nat) : Bool := detConfig e d / 2 % 2 == 1

/-- The event record of a real occurrence at the present time (R476, R482). -/
def mkRecord (s : State) (warden : Bool) (det unit code : Nat) (detail : List Byte) : EventRec :=
  { time := s.now, det := det, unit := unit, sev := severity det, code := code, alert := alertsOf s.events det,
    lostRec := false, warden := warden, inj := false, detail := padTo 16 detail }

/-- Count a real occurrence of a detector (OD 60.001) without posting it. -/
def countDet (det : Nat) (s : State) : State :=
  s.onEvents (fun e => { e with counts := put e.counts det (satAdd 64 (look e.counts det 0) 1) })

/-- Send a record on its way to the event collector, when POST is set (R470, R480). -/
def sendRec (r : EventRec) (s : State) : State :=
  if postsOf s.events r.det then
    s.onEvents (fun e => { e with transit := e.transit ++ [r], lastPost := put e.lastPost r.det r.time })
  else s

/-- A detector of the data or control plane fires: every occurrence is counted and posted (R484). -/
def post (det unit code : Nat) (detail : List Byte) (s : State) : State :=
  sendRec (mkRecord s false det unit code detail) (countDet det s)

/-- A detector fires and the Warden writes the record (R15, R480; which detectors those are: log entry 10). -/
def wpost (det unit code : Nat) (detail : List Byte) (s : State) : State :=
  sendRec (mkRecord s true det unit code detail) (countDet det s)

/-- An episode of a detector and unit goes on: its condition holds, or has been absent for less than 1 s (R484). -/
def episodeOn (s : State) (det unit : Nat) : Bool :=
  s.events.episodes.any (fun x => x.1 == (det, unit) && (match x.2 with
    | none => true
    | some t => decide (s.now < t + 10 ^ 9)))

/-- The condition of an episode holds (R484). -/
def episodeHolds (det unit : Nat) (s : State) : State :=
  s.onEvents (fun e => { e with episodes := put e.episodes (det, unit) none })

/-- Post once per episode: only where no episode of the detector and unit goes on (R484). -/
def postEpisode (warden : Bool) (det unit code : Nat) (detail : List Byte) (s : State) : State :=
  if episodeOn s det unit then episodeHolds det unit (countDet det s)
  else sendRec (mkRecord s warden det unit code detail) (episodeHolds det unit (countDet det s))

/-- A sampled condition holds: it occurs where it did not hold at the sample before, and a sample that finds it still
holding is no further occurrence (R484; log entry 10). -/
def postArising (warden : Bool) (det unit code : Nat) (detail : List Byte) (s : State) : State :=
  if look s.events.episodes (det, unit) (some 0) = none then s else postEpisode warden det unit code detail s

/-- The episode of a detector and unit ends at the detector's own clearing condition (R484). -/
def endEpisode (det unit : Nat) (s : State) : State :=
  s.onEvents (fun e => { e with episodes := e.episodes.filter (fun x => x.1 != (det, unit)) })

/-- The condition of an episode of a detector without a clearing condition of its own is absent: the episode ends when
it has been so for 1 s (R484). -/
def absentEpisode (det unit : Nat) (s : State) : State :=
  s.onEvents (fun e => { e with episodes := e.episodes.map (fun x =>
    if x.1 = (det, unit) ∧ x.2 = none then (x.1, some s.now) else x) })

/-- Count `n` occurrences in the fixed window of `period` ns; the occurrence that takes the unit's count above the
limit is posted, once per window (R484). -/
def postAbove (warden : Bool) (limit period n : Nat) (det unit code : Nat) (detail : List Byte) (s : State) : State :=
  let w := s.now / period
  let old := look s.events.windows (det, unit) (w, 0)
  let before := if old.1 = w then old.2 else 0
  let s1 := s.onEvents (fun e => { e with
    windows := put e.windows (det, unit) (w, before + n),
    counts := put e.counts det (satAdd 64 (look e.counts det 0) n) })
  if before ≤ limit ∧ limit < before + n then sendRec (mkRecord s warden det unit code detail) s1 else s1

/-- Unit IDs (R477). -/
def unitId (cls wheel index : Nat) : Nat := cls % 16 * 2 ^ 16 + wheel % 8 * 2 ^ 13 + index % 2 ^ 13

/-- The unit ID of a helper core: its physical position. -/
def coreUnit (c : CoreId) : Nat := unitId 3 c.wheel (17 * c.hoop + c.slot)

/-! ### View updates -/

/-- Put a view update at the Gate behind those waiting (R18). -/
def queueUpdate (u : ViewUpdate) (s : State) : State := s.onGate (fun g => { g with pending := g.pending ++ [u] })

/-- A view update that only changes the view. -/
def viewChange (cs : List ViewChange) : ViewUpdate := { bar := none, changes := cs, drain := none, post := none }

/-! ### Outcomes -/

/-- A command whose condition holds has its effect; one whose condition does not hold does not come about and
changes nothing (log entry 1). -/
def occurs (cond : Bool) (effect : State → State) (s : State) : Host.Outcome State Fault Refusal :=
  .next (if cond then effect s else s)

end Sys2Proof.Machine
end

