-- ==== Sys2Proof/Machine/Tier.lean ====
section
/-! DEFINITION. The memory tiers (05_memory_tiers): the device address map, placement in banks and channels, poison,
translation, requests to banks and channels with their caps, atomics and scrub. -/

namespace Sys2Proof.Machine

/-! ### Sizes and placement -/

def KiB : Nat := 1024
def MiB : Nat := 1024 * 1024
def GiB : Nat := 1024 * 1024 * 1024

/-- A 2 MiB page. -/
def pageBytes : Nat := 2 * MiB

/-- Bases of the regions (R122). -/
def scratchBase : Nat := 0x000200000000
def scratchEnd : Nat := 0x000228000000
def nearBase : Nat := 0x010000000000
def nearEnd : Nat := 0x030000000000
def caveBase : Nat := 0x100000000000
def caveEnd : Nat := 0x300000000000

/-- Granules of a channel, G_c (R130). -/
def granulesPerChannel (s : State) : Nat := if s.factory.code1280 then 488280 else 366208

/-- Near-tier capacity of a channel count. -/
def capacityOf (s : State) (n : Nat) : Nat := n * granulesPerChannel s * 4096

/-- Near-tier capacity in force (R130). -/
def nearCapacity (s : State) : Nat := capacityOf s s.tiers.channels.length

/-- Bytes of the cave-cache and device regions in force (R140). -/
def regionBytes (s : State) : Nat := (s.tiers.caveRegion + s.tiers.devRegion) * GiB

/-- Host space in force (R140); none before the near tier is placed. -/
def hostSpace (s : State) : Nat := if s.tiers.placed then nearCapacity s - regionBytes s else 0

/-- Host space after pending map-out, by the admission view (R137, R160). -/
def hostSpaceView (s : State) : Nat := if s.tiers.placed then s.gate.view.nearUsable - regionBytes s else 0

/-- near_place (R131): channel and channel offset of a physical near-tier address. -/
def nearPlace (s : State) (a : Nat) : Option (Nat × Nat) :=
  let nc := s.tiers.channels.length
  if nc = 0 then none
  else
    let n := a / 4096
    let q := n / nc
    if q < granulesPerChannel s then
      some (nth s.tiers.channels ((n % nc + (q * 263) % nc) % nc) 0, q * 4096 + a % 4096)
    else none

/-- Usable bytes of a curd slice (R125). -/
def curdUsable (s : State) (w : Nat) : Nat := min ((s.wheel w).bankList.length * 4 * MiB) GiB

/-- Slice, physical bank and row of a curd-store address (R124). -/
def curdPlace (s : State) (a : Nat) : Option (Nat × Nat × Nat) :=
  let w := a / GiB
  let o := a % GiB
  let nb := (s.wheel w).bankList.length
  if w < 8 ∧ o < curdUsable s w then
    let g := o / 256
    some (w, nth (s.wheel w).bankList ((g % nb + g / nb) % nb) 0, g / nb)
  else none

/-- The bank that serves a device address (curd store, or near tier as near-window base plus physical address); no unit
addresses the device and cave-cache regions (R140). -/
def bankOf (s : State) (a : Nat) : Option BankId :=
  if a < scratchBase then (curdPlace s a).map (fun p => BankId.curd p.1 p.2.1)
  else if nearBase ≤ a ∧ a < nearEnd ∧ a - nearBase < hostSpace s then
    (nearPlace s (a - nearBase)).map (fun p => BankId.near p.1 (Config.bankGroup p.1 p.2))
  else none

/-! ### Poison -/

/-- A place in a store: a physical near-tier address, a curd-store address, a scratch address, a cave address. -/
inductive Loc where
  | near (a : Nat)
  | curd (a : Nat)
  | scratch (a : Nat)
  | cave (a : Nat)
  deriving DecidableEq, Repr

/-- Whether a channel is in the pending map-out set (R136). -/
def mapOutPending (s : State) (ch : Nat) : Bool := ch ∈ s.warden.stored.mapOut

/-- Whether the poison of a near-tier granule stays on a full write (R135). -/
def poisonStays (s : State) (g : Nat) : Bool :=
  match nearPlace s (g * 4096) with
  | some (ch, _) => mapOutPending s ch
  | none => false

/-- Whether the poison of a curd word stays on a full write: its bank failed in service (R125, R135). -/
def curdPoisonStays (s : State) (a : Nat) : Bool :=
  match curdPlace s a with
  | some (w, b, _) => b ∈ (s.wheel w).failedBanks
  | none => false

/-- Whether any unit of poison that `n` bytes from a place touch is poisoned (R135). -/
def poisoned (s : State) (l : Loc) (n : Nat) : Bool :=
  match l with
  | .near a => s.tiers.poisonNear.any (fun g => decide (g * 4096 < a + n) && decide (a < g * 4096 + 4096))
  | .curd a => s.tiers.poisonCurd.any (fun g => decide (g * 8 < a + n) && decide (a < g * 8 + 8))
  | .scratch _ => false
  | .cave a => s.tiers.poisonCave.any (fun g => decide (g * 65536 < a + n) && decide (a < g * 65536 + 65536))

/-- Clear the poison of every granule or word that `n` bytes from a place write in full (R135). -/
def clearPoison (l : Loc) (n : Nat) (s : State) : State :=
  match l with
  | .near a => s.onTiers (fun t => { t with poisonNear := t.poisonNear.filter (fun g =>
      !(decide (a ≤ g * 4096) && decide (g * 4096 + 4096 ≤ a + n)) || poisonStays s g) })
  | .curd a => s.onTiers (fun t => { t with poisonCurd := t.poisonCurd.filter (fun g =>
      !(decide (a ≤ g * 8) && decide (g * 8 + 8 ≤ a + n)) || curdPoisonStays s (g * 8)) })
  | .scratch _ => s
  | .cave a => s.onTiers (fun t => { t with poisonCave := t.poisonCave.filter (fun g =>
      !(decide (a ≤ g * 65536) && decide (g * 65536 + 65536 ≤ a + n))) })

/-- What a byte of the cave that nothing has written reads as: zero at first (log entry 3), a free value once the contents
have become undefined (R149). -/
def caveFree (s : State) (a : Nat) : Byte :=
  if s.tiers.caveGen = 0 then 0 else Config.caveByte s.tiers.caveGen a

/-- Bytes of the cave as they stand in the store, or back: apart from what an unwritten byte reads as. -/
def caveMask (s : State) (a : Nat) (bs : List Byte) : List Byte := bs.zipIdx.map (fun p => p.1 ^^^ caveFree s (a + p.2))

/-- Read bytes at a place. -/
def locRead (s : State) (l : Loc) (n : Nat) : List Byte :=
  match l with
  | .near a => memRead s.near a n
  | .curd a => memRead s.dev a n
  | .scratch a => memRead s.dev a n
  | .cave a => caveMask s a (memRead s.cave a n)

/-- Write bytes at a place, clearing the poison of what is written in full (R127, R135). -/
def locWrite (l : Loc) (bs : List Byte) (s : State) : State :=
  clearPoison l bs.length (match l with
    | .near a => { s with near := memWrite s.near a bs }
    | .curd a => { s with dev := memWrite s.dev a bs }
    | .scratch a => { s with dev := memWrite s.dev a bs }
    | .cave a => { s with cave := memWrite s.cave a (caveMask s a bs) })

/-! ### Map-out (R136, R137) -/

/-- Channels that remain after the pending set (R137): a stack that keeps fewer than 16 loses them all (R416). -/
def channelsAfter (s : State) : Nat :=
  let keep := s.tiers.channels.filter (fun c => !mapOutPending s c)
  (keep.filter (fun c => decide (16 ≤ (keep.filter (fun d => d / 32 == c / 32)).length))).length

/-- Channels that remain under R416's rule: Stage 4 never leaves 263 or 526. -/
def ruleCount (n : Nat) : Nat := if n = 263 ∨ n = 526 then n - 1 else n

/-- Schedule a channel for map-out: the pending set, detector 0x313 and view update 1 (R136, R137). -/
def scheduleMapOut (ch : Nat) (s : State) : State :=
  if mapOutPending s ch then s
  else
    let s1 := s.onStored (fun t => { t with mapOut := insertAsc ch t.mapOut })
    let s2 := wpost 0x313 (unitId 6 0 ch) 0 [] s1
    queueUpdate { bar := some .near, changes := [.nearUsable (capacityOf s2 (ruleCount (channelsAfter s2)))],
                  drain := none, post := none } s2

/-- Poison the granule of a physical near-tier address and count it against its channel, once while it stays poisoned
(R134 to R136). -/
def poisonGranule (a : Nat) (s : State) : State :=
  if a / 4096 ∈ s.tiers.poisonNear then s else
  let s1 := s.onTiers (fun t => { t with poisonNear := insertNew t.poisonNear (a / 4096) })
  match nearPlace s1 a with
  | none => s1
  | some (ch, _) =>
    let n := look s1.tiers.poisonCount ch 0 + 1
    let s2 := s1.onTiers (fun t => { t with poisonCount := put t.poisonCount ch n })
    if s2.warden.stored.poisonLimit ≤ n then scheduleMapOut ch s2 else s2

/-! ### Translation -/

/-- Ordinal by which the version windows stand (R272). -/
def Recipe.ordinal (r : Recipe) : Nat :=
  match r.running with
  | some u => u.ordinal
  | none => r.lastOrdinal.getD 0

/-- The window page that a page translates as, after the version flips of the step's ordinal (R272). -/
def flipPage (r : Recipe) (off : Nat) : Nat :=
  if r.ordinal % 2 = 0 then off
  else
    match r.flips.find? (fun f =>
        (decide (f.1 - nearBase ≤ off) && decide (off < f.1 - nearBase + f.2.2 * pageBytes)) ||
        (decide (f.2.1 - nearBase ≤ off) && decide (off < f.2.1 - nearBase + f.2.2 * pageBytes))) with
    | none => off
    | some (a, b, n) =>
      if a - nearBase ≤ off ∧ off < a - nearBase + n * pageBytes then off - (a - nearBase) + (b - nearBase)
      else off - (b - nearBase) + (a - nearBase)

/-- The leaf of a window offset (R142). -/
def leafAt (r : Recipe) (cave : Bool) (off : Nat) : Option Leaf :=
  r.leaves.find? (fun l => l.cave == cave && decide (l.base ≤ off) && decide (off < l.base + l.size))

/-- The stash entry whose window holds a near-window address, with the page index in it (R230). -/
def stashAt (r : Recipe) (a : Nat) : Option (Nat × Nat) :=
  if r.stash.window ≤ a ∧ a < r.stash.window + r.stash.windowPages * pageBytes then
    let p := (a - r.stash.window) / pageBytes
    match r.stash.entries.findIdx? (fun e => decide (e.wpage ≤ p) && decide (p < e.wpage + e.maxPages)) with
    | some i => (r.stash.entries[i]?).map (fun e => (i, p - e.wpage))
    | none => none
  else none

/-- Whether an address lies in the stash window. -/
def inStash (r : Recipe) (a : Nat) : Bool :=
  decide (r.stash.window ≤ a) && decide (a < r.stash.window + r.stash.windowPages * pageBytes) &&
    decide (0 < r.stash.windowPages)

/-- Translation of a near-window address, without shadows (R123, R144, R185, R229, R272). -/
def nearTranslate (r : Recipe) (a : Nat) (write : Bool) : Except Nat Loc :=
  if inStash r a then
    match stashAt r a with
    | some (i, k) =>
      match r.stash.entries[i]? with
      | some e =>
        match e.pages[k]? with
        | some pa => .ok (.near (pa + a % pageBytes))
        | none => .error 1
      | none => .error 1
    | none => .error 1
  else
    let off := flipPage r (a - nearBase)
    match leafAt r false off with
    | none => .error 1
    | some l =>
      if write ∧ ¬ l.w then .error 2
      else
        match r.remap.find? (fun m => m.1 == off / pageBytes * pageBytes) with
        | some m => .ok (.near (m.2 + off % pageBytes))
        | none => .ok (.near (l.pa + (off - l.base)))

/-- Cave writes are refused in the service states (R150). -/
def caveReadOnly (s : State) : Bool := s.life.state == .ready || s.life.state == .readyDegraded

/-- Translation of a recipe unit's address outside helper scratch (R123, R129, R144, R150). An address in
control-register space, or in helper scratch by a unit that may not reach it, lies in no region open to the unit and has
subcode 0x05 (DESIGN CHOICE, log entry 59: R123 names only an address outside every region). In a maintenance state a
write to a cave page by a recipe not admitted in MAINTENANCE has subcode 0x03 (DESIGN CHOICE, log entry 91: R150 says only
which writes are permitted). -/
def translate (s : State) (r : Recipe) (a : Nat) (write : Bool) : Except Nat Loc :=
  if a < scratchBase then
    let w := a / GiB
    let e := nth r.curd w (0, 0)
    if bitOf r.wheels w ∧ e.1 * 65536 ≤ a % GiB ∧ a % GiB < (e.1 + e.2) * 65536 then .ok (.curd a) else .error 6
  else if nearBase ≤ a ∧ a < nearEnd then nearTranslate r a write
  else if caveBase ≤ a ∧ a < caveEnd then
    match leafAt r true (a - caveBase) with
    | none => .error 1
    | some l =>
      if write ∧ (caveReadOnly s ∨ ¬ r.maint) then .error 3
      else if write ∧ ¬ l.w then .error 2
      else .ok (.cave (l.pa + (a - caveBase - l.base)))
  else .error 5

/-- The pieces of a byte range that cross no 4 KiB boundary. -/
def pieces : Nat → Nat → Nat → List (Nat × Nat)
  | 0, _, _ => []
  | fuel + 1, a, n =>
    if n = 0 then []
    else
      let k := min n (4096 - a % 4096)
      (a, k) :: pieces fuel (a + k) (n - k)

/-- The pieces of a byte range. -/
def piecesOf (a n : Nat) : List (Nat × Nat) := pieces (n / 4096 + 2) a n

/-- Post a translation fault: CODE holds 0x14 and the subcode (R144). -/
def postTranslation (unit sub : Nat) (detail : List Byte) (s : State) : State :=
  post 0x710 unit (0x14 + 256 * sub) detail s

/-! ### Requests to banks and channels (R126, R127, R134, R158) -/

/-- Cap of a bank or bank group, and of speculative requests at it (R158, R180). -/
def bankCap : BankId → Bool → Nat
  | .curd _ _, spec => if spec then 16 else 64
  | .near _ _, spec => if spec then 64 else 256

/-- Requests of a bank that hold shared slots. -/
def heldAt (s : State) (b : BankId) : Nat := (s.tiers.requests.filter (fun q => q.held && q.bank == b)).length

/-- Speculative ones of them. -/
def heldSpecAt (s : State) (b : BankId) : Nat :=
  (s.tiers.requests.filter (fun q => q.held && q.bank == b && q.id.spec)).length

/-- Shared slots that a wheel's requests hold. -/
def heldBy (s : State) (w : Nat) : Nat := (s.tiers.requests.filter (fun q => q.held && q.id.wheel == w)).length

/-- Request slots of a recipe on a wheel: its speculative pool at throttle level c, or its ordinary slots (R180). -/
def reqPool (r : Recipe) (w : Nat) (spec : Bool) : Nat :=
  let rs := nth r.reqSlots w 0
  if spec then rs * r.specShare * r.throttle / 1024 else rs - rs * r.specShare * 16 / 1024

/-- Slots of that pool that its requests hold. -/
def heldPool (s : State) (id : ReqId) : Nat :=
  (s.tiers.requests.filter (fun q => q.held && q.id.wheel == id.wheel && q.id.recipe == id.recipe &&
    q.id.spec == id.spec)).length

/-- The pool that a recipe's request draws on has a free slot (R175, R180). -/
def poolRoom (s : State) (id : ReqId) : Bool :=
  match s.recipe? id.recipe with
  | some r => decide (heldPool s id < reqPool r id.wheel id.spec)
  | none => true

/-- The caps of the bank, the wheel's shared pool and the recipe's pool leave room for a request (R158, R180). -/
def slotRoom (s : State) (id : ReqId) (b : BankId) : Bool :=
  decide (heldAt s b < bankCap b false) && (!id.spec || decide (heldSpecAt s b < bankCap b true)) &&
    decide (heldBy s id.wheel < 16384) && poolRoom s id

/-- A new request finds a shared slot: there is room, and no older request of the bank waits for one (R158). -/
def slotFree (s : State) (id : ReqId) (b : BankId) : Bool :=
  slotRoom s id b && !s.tiers.requests.any (fun q => q.bank == b && !q.held)

/-- The place of a device address that a bank serves. -/
def locOf (a : Nat) : Loc := if a < scratchBase then .curd a else .near (a - nearBase)

/-- What the ECC check of an access to `n` bytes finds, with its effect (R126, R134). -/
def eccEffect (e : Ecc) (a n : Nat) (s : State) : State :=
  if a < scratchBase then
    let w := a / GiB
    match e with
    | .corrected => postAbove false 1000 (3600 * 10 ^ 9) 1 0x300 (unitId 4 w 0x1FFF) 0 [] s
    | .uncorrectable i =>
      let b := match curdPlace s a with
        | some p => p.2.1
        | none => 0x1FFF
      post 0x301 (unitId 4 w b) 0 [] (s.onTiers (fun t => { t with
        poisonCurd := insertNew t.poisonCurd (a / 8 + min i ((a % 8 + n - 1) / 8)) }))
    | _ => s
  else
    let ch := match nearPlace s (a - nearBase) with
      | some p => p.1
      | none => 0
    match e with
    | .clean => s
    | .corrected => postAbove false 1000 (3600 * 10 ^ 9) 1 0x310 (unitId 6 0 ch) 0 [] s
    | .onDieReport => postAbove false 1000 (3600 * 10 ^ 9) 1 0x312 (unitId 5 0 (ch / 32)) 0 [] s
    | .uncorrectable _ => poisonGranule (a - nearBase) (post 0x311 (unitId 6 0 ch) 0 [] s)

/-- Data of a served read: never returned as valid where poisoned (R135). -/
def returnRead (a n : Nat) (s : State) : State :=
  if poisoned s (locOf a) n then s.onTiers (fun t => { t with lastRead := [], lastPoisoned := true })
  else s.onTiers (fun t => { t with lastRead := locRead s (locOf a) n, lastPoisoned := false })

/-- A request that its bank does not complete now joins the bank's list, or waits at its source (R158). -/
def enqueueReq (r : ReqId) (b : BankId) (a n : Nat) (data : Option (List Byte)) (held : Bool) (s : State) : State :=
  let q : MemReq := { id := r, bank := b, addr := a, len := n, data := data, held := held }
  s.onTiers (fun t => { t with requests := t.requests ++ [q] })

/-- Remove an outstanding request. -/
def dropReq (q : MemReq) (s : State) : State :=
  s.onTiers (fun t => { t with requests := t.requests.erase q })

/-- A bank completes a request: its condition of no progress is absent from the first completion on (R159, R484). -/
def progress (b : BankId) (s : State) : State :=
  s.onTiers (fun t => { t with stalls := t.stalls.map (fun x =>
    if x.1 = b ∧ x.2.isNone then (b, some s.now) else x) })

/-- Serve a request now (R126, R127, R134, R135). -/
def serveReq (b : BankId) (e : Ecc) (a n : Nat) (data : Option (List Byte)) (s : State) : State :=
  match data with
  | none => returnRead a n (eccEffect e a n (progress b s))
  | some bs => locWrite (locOf a) bs (eccEffect e a n (progress b s))

/-- A request reaches its bank: one already outstanding under the same name completes once it is the bank's oldest;
a new one waits at its source beyond a cap or behind one that waits, stands behind older ones, or is served (R158). -/
def requestStep (r : ReqId) (b : BankId) (a n : Nat) (data : Option (List Byte)) (sv : Serve) (s : State) : State :=
  match s.tiers.requests.find? (fun q => q.bank == b) with
  | some q =>
    if s.tiers.requests.any (fun x => x.id == r) then
      match sv with
      | .done e => if q.id == r && q.held then serveReq b e q.addr q.len q.data (dropReq q s) else s
      | .stalled => s
    else enqueueReq r b a n data (slotFree s r b) s
  | none =>
    if !slotFree s r b then enqueueReq r b a n data false s
    else match sv with
      | .stalled => enqueueReq r b a n data true s
      | .done e => serveReq b e a n data s

/-- A request's range lies in one granule of one bank (R124, R131). -/
def oneGranule (a n : Nat) : Bool :=
  decide (0 < n) && (if a < scratchBase then decide (a % 256 + n ≤ 256) else decide (a % 4096 + n ≤ 4096))

/-- Detector and unit of a bank that makes no progress (R159, R162). -/
def stallDet : BankId → Nat × Nat
  | .curd w k => (0x530, unitId 4 w k)
  | .near ch _ => (0x531, unitId 6 0 ch)

/-- The episode of a bank's stall goes on: the bank has completed nothing since, or began to less than 1 s ago
(R484). -/
def stallGoesOn (s : State) (b : BankId) : Bool :=
  s.tiers.stalls.any (fun x => x.1 == b && (match x.2 with
    | none => true
    | some t => decide (s.now < t + 10 ^ 9)))

/-- BANK_NO_PROGRESS (R159): outstanding requests and none completed for 100 µs; it is posted once per episode of that
bank or bank group, and every occurrence is counted (R162, R484). -/
def execBankNoProgress (b : BankId) (s : State) : Host.Outcome State Fault Refusal :=
  occurs (decide (0 < heldAt s b)) (fun s =>
    let d := stallDet b
    (if stallGoesOn s b then countDet d.1 s else post d.1 d.2 0 [] s).onTiers (fun t =>
      { t with stalls := put t.stalls b none })) s

/-- Complete a request poisoned (R135, R159). -/
def completePoisoned (q : MemReq) (s : State) : State :=
  let s1 := if q.addr < scratchBase then
      let ws := (List.range ((q.addr % 8 + q.len + 7) / 8)).map (fun i => q.addr / 8 + i)
      s.onTiers (fun t => { t with poisonCurd := ws.foldl insertNew t.poisonCurd })
    else poisonGranule (q.addr - nearBase) s
  match q.data with
  | some _ => s1
  | none => s1.onTiers (fun t => { t with lastRead := [], lastPoisoned := true })

/-- CHANNEL_SYMBOL_RATE_EXCEEDED (R136): above OD 21.011 for 60 s. -/
def execChannelSymbolRateExceeded (channel : Nat) (s : State) : Host.Outcome State Fault Refusal :=
  occurs (s.tiers.channels.contains channel) (scheduleMapOut channel) s

/-- PATROL_SCRUB (R134): the scrub reads the sector at a physical address. -/
def execPatrolScrub (addr : Nat) (e : Ecc) (s : State) : Host.Outcome State Fault Refusal :=
  occurs (s.tiers.placed && (nearPlace s addr).isSome) (fun s =>
    (eccEffect e (nearBase + addr) 32 s).onTiers (fun t => { t with scrub := addr / 32 * 32 + 32 })) s

/-! ### Atomics (R138) -/

/-- A near-tier operand that a unit may name: naturally aligned, in host space (R138, R140). -/
def atomicPlace (s : State) (addr n : Nat) : Bool :=
  addr % n == 0 && decide (addr + n ≤ hostSpace s) && (nearPlace s addr).isSome

/-- An operand that is not poisoned. -/
def atomicOk (s : State) (addr n : Nat) : Bool := atomicPlace s addr n && !poisoned s (.near addr) n

/-- Apply an atomic to `n` bytes of a physical near-tier address and return the old value. -/
def atomic (n : Nat) (f : Nat → Nat) (addr : Nat) (s : State) : State :=
  let old := memLe s.near addr n
  (locWrite (.near addr) (leBytes n (f old)) s).onTiers (fun t => { t with lastAtomic := old })

/-- A poisoned operand: the read returns no valid data and nothing is written (R135). -/
def atomicPoisoned (s : State) (addr n : Nat) : Bool :=
  atomicPlace s addr n && poisoned s (.near addr) n

/-- An atomic with its alignment and its poison case. -/
def atomicStep (n : Nat) (f : Nat → Nat) (addr : Nat) (s : State) : Host.Outcome State Fault Refusal :=
  .next (if atomicOk s addr n then atomic n f addr s
    else if atomicPoisoned s addr n then s.onTiers (fun t => { t with lastPoisoned := true })
    else s)

/-- ADDS32 (R138): unsigned add, saturating. -/
def execAdds32 (addr : Nat) (operand : Word32) (s : State) : Host.Outcome State Fault Refusal :=
  atomicStep 4 (fun o => satAdd 32 o operand.toNat) addr s

/-- ADD64 (R138): add modulo 2^64. -/
def execAdd64 (addr : Nat) (operand : Word) (s : State) : Host.Outcome State Fault Refusal :=
  atomicStep 8 (fun o => (o + operand.toNat) % 2 ^ 64) addr s

/-- An F32 bit pattern is a NaN. -/
def isNan32 (v : Nat) : Bool := decide (0x7F800000 < v % 2 ^ 31)

/-- Order of F32 bit patterns that are no NaN, as integers; −0 and +0 compare equal. -/
def ord32 (v : Nat) : Int := if v < 2 ^ 31 then (v : Int) else -((v - 2 ^ 31 : Nat) : Int)

/-- The larger of the old and new F32 values under R138. -/
def maxF32 (old new : Nat) : Nat :=
  if isNan32 new then old
  else if isNan32 old then new
  else if ord32 old < ord32 new then new
  else old

/-- MAXF32 (R138). -/
def execMaxf32 (addr : Nat) (operand : Word32) (s : State) : Host.Outcome State Fault Refusal :=
  atomicStep 4 (fun o => maxF32 o operand.toNat) addr s

/-- Bytes of a compare and exchange. -/
def casBytes : CasWidth → Nat
  | .w8 => 1
  | .w32 => 4
  | .w64 => 8

/-- CAS8, CAS32, CAS64 (R138). -/
def execCas (width : CasWidth) (addr : Nat) (expected new : Word) (s : State) : Host.Outcome State Fault Refusal :=
  let n := casBytes width
  atomicStep n (fun o => if o = expected.toNat % 2 ^ (8 * n) then new.toNat % 2 ^ (8 * n) else o) addr s

/-! ### The cave's interleave (R148) -/

/-- The ports that are enabled and trained, ascending. -/
def cavePorts (s : State) : List Nat :=
  (List.range 4).filter (fun p => match s.farPorts[p]? with
    | some f => f.state == .usable || f.state == .fencing
    | none => false)

/-- Port and port offset of a physical cave address: granule n lies on port n mod P at offset ⌊n / P⌋ × 4 KiB (R148). -/
def cavePlace (s : State) (a : Nat) : Option (Nat × Nat) :=
  let ps := cavePorts s
  let n := a / 4096
  (ps[n % ps.length]?).map (fun p => (p, n / ps.length * 4096 + a % 4096))

/-- The physical cave address of a port's offset. -/
def caveAddr (s : State) (port off : Nat) : Option Nat :=
  let ps := cavePorts s
  (ps.findIdx? (· == port)).map (fun i => (off / 4096 * ps.length + i) * 4096 + off % 4096)

/-- A cave segment is poisoned: in the cave and in every share that holds it (R135, R146). -/
def poisonSegment (m : Nat) (s : State) : State :=
  let mark := fun (g : Segment) => if g.seg = m then { g with poisoned := true } else g
  { s with recipes := s.recipes.map (fun r => { r with cave := { r.cave with segments := r.cave.segments.map mark } }),
           tiers := { s.tiers with poisonCave := insertNew s.tiers.poisonCave m } }

/-- CAVE_DEVICE_ERROR_REPORT (R146, R162): a device on a far port reports an error at one of its offsets; an uncorrected
one poisons the segment. -/
def execCaveDeviceErrorReport (port : Nat) (uncorrected : Bool) (addr : Nat) (s : State) :
    Host.Outcome State Fault Refusal :=
  match caveAddr s port addr with
  | none => .next s
  | some a => .next (
    if uncorrected then post 0x321 (unitId 0xA 0 port) 0 [] (poisonSegment (a / 65536) s)
    else postAbove false 1000 (3600 * 10 ^ 9) 1 0x320 (unitId 0xA 0 port) 0 [] s)

end Sys2Proof.Machine
end

