-- ==== Sys2Proof/Machine/Tumblers.lean ====
section
/-! DEFINITION. Tumblers (R163 to R170): their operations, misuse, chain actions on their way, guard verdicts (R183),
the speculation throttle (R188), and the recording of a task fault (R179 step 1). -/

namespace Sys2Proof.Machine

/-- Who issues a tumbler operation (R165, R167, R170). -/
structure Issuer where
  /-- the issuing task, none for a restore. -/
  task : Option Nat
  /-- with no issuing task: the task that the completion entry of a misuse names, the owner of a restored PRIVATE tumbler
  (R170). -/
  blame : Option Nat
  /-- the unit ID of a misuse event. -/
  unit : Nat
  /-- a hinge control message, which alone may add to a span tumbler. -/
  span : Bool
  /-- may add to a version tumbler. -/
  version : Bool
  /-- operation of the misuse detail: 0 ADD, 1 ARM, 2 access, 3 chain add. -/
  op : Nat
  /-- cascade level of the add, 0 for one that no chain action made. -/
  level : Nat
  /-- a restore or the stash, which the PRIVATE rule does not bind. -/
  exempt : Bool
  deriving DecidableEq, Repr

/-- The issuer of an operation of a task. -/
def Issuer.ofTask (t unit : Nat) (version : Bool) : Issuer :=
  { task := some t, blame := none, unit := unit, span := false, version := version, op := 0, level := 0, exempt := false }

/-- A handle within the reservation (R164). -/
def handleOk (r : Recipe) (h : Nat) : Bool :=
  bitOf r.wheels (h / 8192) && decide (h % 8192 < nth r.tumbCounts (h / 8192) 0) && decide (h < 65536)

/-- A tumbler that no record names (R168). -/
def Tumbler.plain (h : Nat) : Tumbler :=
  { handle := h, value := 0, kind := 0, armed := false, target := 0, action := 0, chain := 0, cinc := 0,
    reset := false, priv := false, owner := 0 }

/-- The tumbler of a handle. -/
def Recipe.tumbler (r : Recipe) (h : Nat) : Tumbler :=
  match r.tumblers.find? (fun t => t.handle == h) with
  | some t => t
  | none => Tumbler.plain h

/-- Set a tumbler. -/
def Recipe.setTumbler (r : Recipe) (t : Tumbler) : Recipe :=
  if r.tumblers.any (fun x => x.handle == t.handle) then
    { r with tumblers := modFirst (fun x => x.handle == t.handle) (fun _ => t) r.tumblers }
  else { r with tumblers := r.tumblers ++ [t] }

/-- VALUE of a tumbler. -/
def Recipe.value (r : Recipe) (h : Nat) : Nat := (r.tumbler h).value

/-- A threshold VAL + s × STRIDE modulo 2^64 (R172). -/
def threshold (val stride ord : Nat) : Nat := (val + ord * stride) % 2 ^ 64

/-- WAIT (R165): VALUE ≥ v. -/
def Recipe.reached (r : Recipe) (h v : Nat) : Bool := decide (v ≤ r.value h)

/-! ### Faults of a step (R179) -/

/-- Stop the cores of a task and free its hoop (R179, R186, R214). A carry of a stopped core that has not completed is
dropped whole (DESIGN CHOICE, log entry 80: R426 leaves each granule it touches old or new). -/
def stopCores (h t : Nat) (s : State) : State :=
  let hs := (s.cores.filter (fun c => c.recipe == h && c.task == t)).map (fun c => (c.id.wheel, c.id.hoop))
  let s1 := { s with cores := s.cores.filter (fun c => !(c.recipe == h && c.task == t)) }
  { s1 with wheels := s1.wheels.mapIdx (fun w x => { x with hoops := x.hoops.map (fun q =>
      if (w, q.hoop) ∈ hs ∧ q.pin = some (h, t) then { q with pin := none } else q) }) }

/-- End a task with a status (R178). -/
def endTask (h t status : Nat) (s : State) : State :=
  s.onTask h t (fun x => { x with phase := .ended status })

/-- A task of the running step has not ended. -/
def taskLive (s : State) (h t : Nat) : Bool :=
  match (s.recipe? h).bind (fun r => r.run? t) with
  | some x => (match x.phase with
    | .ended _ => false
    | _ => true)
  | none => false

/-- End a task that has not ended, such as by the misuse of its own last add (R170, R178). -/
def closeTask (h t status : Nat) (s : State) : State := if taskLive s h t then endTask h t status s else s

/-- A drain on a scope: begun, or to begin when the view update that comes before it is applied (R19, R426). -/
def addDrain (scope : Scope) (kind : DrainKind) (begun : Bool) (after : List ViewUpdate) (s : State) : State :=
  let d : Drain := { scope := scope, kind := kind, begun := begun, began := s.now, deadline := s.warden.stored.deadline,
                     absorbing := false, requests := 0, granules := 0, tasks := 0, after := after }
  s.onGate (fun g => { g with drains := g.drains ++ [d] })

/-- A drain begins on a scope (R426). -/
def beginDrain (scope : Scope) (kind : DrainKind) (after : List ViewUpdate) (s : State) : State :=
  addDrain scope kind true after s

/-- The view update before the drain of a scope is applied: the drain begins, with the deadline that holds now (R19,
R426). -/
def startDrain (scope : Scope) (s : State) : State :=
  s.onGate (fun g => { g with drains := g.drains.map (fun d =>
    if d.scope == scope && !d.begun then { d with begun := true, began := s.now, deadline := s.warden.stored.deadline }
    else d) })

/-- A drain of a whole wheel, or of every wheel, is in progress (R426 step 1). -/
def drainsWheel (s : State) (w : Nat) : Bool :=
  s.gate.drains.any (fun d => d.begun && (d.scope == .wheel w || d.scope == .device || d.scope == .deviceOff))

/-- A drain that has begun covers the bank: that of its curd slice's wheel (R426). -/
def bankDrains (s : State) : BankId → Bool
  | .curd w _ => drainsWheel s w
  | .near _ _ => false

/-- Units outside any wheel start nothing: a drain of the device (R426, R428). -/
def drainsDevice (s : State) : Bool :=
  s.gate.drains.any (fun d => d.begun && (d.scope == .device || d.scope == .deviceOff))

/-- The units of a wheel may begin work: its issue gates are open, it is in service, and no drain covers it (R391,
R415, R426, R428). -/
def wheelIssues (s : State) (w : Nat) : Bool :=
  !s.power.gatesClosed && !drainsWheel s w && nth s.gate.view.wheels w .fenced == .usable

/-- The update and hinge engines may begin work. -/
def enginesIssue (s : State) : Bool := !s.power.gatesClosed && !drainsDevice s

/-- The step of a recipe faults with no task fault of its own: loading and starting stop and the drain of R179
begins; a later fault of the step is counted. -/
def stepFault (h : Nat) (f : FaultInfo) (s : State) : State :=
  match (s.recipe? h).bind (fun r => r.running) with
  | none => s
  | some u =>
    match u.fault with
    | none => beginDrain (.recipe h) .stepEnd [] (s.onStep h (fun u => { u with fault := some f }))
    | some _ => s.onStep h (fun u => { u with nFurther := satAdd 16 u.nFurther 1 })

/-- Started and not ended. -/
def TaskRun.started (x : TaskRun) : Bool := x.phase == .started

/-- Not ended. -/
def TaskRun.live (x : TaskRun) : Bool :=
  match x.phase with
  | .ended _ => false
  | _ => true

/-- The fault of a step that no task of it made: the watchdog, a stall of a completion ring, an end from outside (R179,
R192, R425). The spec names no task and no unit for its completion entry: two free values (log entry 41). -/
def outsideFault (s : State) (status : Nat) : FaultInfo :=
  { task := Config.freeNat s.free % 2 ^ 32, unit := Config.freeNat (s.free + 1) % 2 ^ 20, tstatus := status, ufault := 0 }

/-- The step ends with such a fault. -/
def stepFaultOutside (h status : Nat) (s : State) : State := stepFault h (outsideFault s status) s.drawn.drawn

/-- A task faults (R179): it ends with its status, its cores stop, and the step faults. -/
def taskFault (h t unit status ufault : Nat) (s : State) : State :=
  stepFault h { task := t, unit := unit, tstatus := status, ufault := ufault } (stopCores h t (endTask h t status s))

/-! ### Misuse (R170) -/

/-- DETAIL of a misuse event (R170). -/
def misuseDetail (tumb op : Nat) (task : Option Nat) (value : Nat) : List Byte :=
  leBytes 2 tumb ++ leBytes 1 op ++ [0] ++ leBytes 4 (task.getD 0xFFFFFFFF) ++ leBytes 8 value

/-- A misuse: the detector posts, and the issuing task, or the step, faults TUMBLER_MISUSE (R170). -/
def misuse (h det tumb : Nat) (iss : Issuer) (s : State) : State :=
  let v := match s.recipe? h with
    | some r => r.value tumb
    | none => 0
  let s1 := post det iss.unit 0 (misuseDetail tumb iss.op iss.task v) s
  match iss.task with
  | some t => taskFault h t iss.unit 0x15 0 s1
  | none => stepFault h { task := iss.blame.getD 0xFFFFFFFF, unit := iss.unit, tstatus := 0x15, ufault := 0 } s1

/-- The detector of a misused access, if it is one (R167, R170): a PRIVATE tumbler admits only the descriptors and
instructions of its owner, and no chain add (R168). -/
def accessMisuse (r : Recipe) (tumb : Nat) (iss : Issuer) : Option Nat :=
  if ¬ handleOk r tumb then some 0x820
  else if (r.tumbler tumb).priv ∧ ¬ iss.exempt ∧ (0 < iss.level ∨ iss.task ≠ some (r.tumbler tumb).owner) then some 0x810
  else none

/-- The detector of a misused ADD, if it is one (R167, R170). -/
def addMisuse (r : Recipe) (tumb n : Nat) (iss : Issuer) : Option Nat :=
  match accessMisuse r tumb iss with
  | some d => some d
  | none =>
    let t := r.tumbler tumb
    if t.kind = 2 ∧ ¬ iss.span then some 0x811
    else if t.kind = 1 ∧ ¬ iss.version then some 0x812
    else if t.kind = 0 ∧ iss.span then some 0x811
    else if 2 ^ 64 ≤ t.value + n then some 0x800
    else none

/-! ### Guards and the throttle (R183, R188) -/

/-- Discard threshold, in sixty-fourths; 0 means 26 (R188). -/
def discardThreshold (r : Recipe) : Nat := if r.discard = 0 then 26 else r.discard

/-- Count one verdict of a SPEC task in the window of 64 (R188). -/
def throttle (h : Nat) (commit : Bool) (s : State) : State :=
  match s.recipe? h with
  | none => s
  | some r =>
    let n := r.winVerdicts + 1
    let d := r.winDiscards + bit (!commit)
    if n < 64 then s.onRecipe h (fun r => { r with winVerdicts := n, winDiscards := d })
    else if discardThreshold r < d then
      post 0x900 0 0 [] (s.onRecipe h (fun r => { r with
        winVerdicts := 0, winDiscards := 0, throttle := max (r.throttle / 2) 1 }))
    else
      let c := min (r.throttle + 2) 16
      let s1 := s.onRecipe h (fun r => { r with winVerdicts := 0, winDiscards := 0, throttle := c })
      if c = 16 ∧ r.throttle ≠ 16 then post 0x901 0 0 [] s1 else s1

/-- The threshold G of a SPEC or ALT task's guard (R183). -/
def guardG (k : Task) (ord : Nat) : Nat := threshold k.gval k.gstride ord

/-- Give a loaded task its verdict, and count a SPEC task's (R183, R188). -/
def giveVerdict (h t : Nat) (spec commit : Bool) (s : State) : State :=
  let s1 := s.onTask h t (fun x => { x with verdict := some commit })
  if spec then throttle h commit s1 else s1

/-- Record the verdict of a guard and G and give it to every loaded task that names them (R183). -/
def resolveGuard (h tumb g : Nat) (commit : Bool) (s : State) : State :=
  match s.recipe? h with
  | none => s
  | some r =>
    if r.verdicts.any (fun v => v.1 == tumb && v.2.1 == g) then s
    else
      let s1 := s.onRecipe h (fun r => { r with verdicts := r.verdicts ++ [(tumb, g, commit)] })
      let runs := match r.running with
        | some u => u.runs
        | none => []
      forEach runs (fun x s =>
        match r.tasks[x.idx]? with
        | some k =>
          if (k.spec || k.alt) && k.guard == tumb && guardG k r.ordinal == g && x.verdict == none then
            giveVerdict h x.idx k.spec commit s
          else s
        | none => s) s1

/-- The verdicts that an ADD taking a tumbler from `old` to `new` gives (R183). -/
def resolveGuards (h tumb old new : Nat) (s : State) : State :=
  match s.recipe? h with
  | none => s
  | some r =>
    let gs := (r.tasks.filter (fun k => (k.spec || k.alt) && k.guard == tumb)).map (fun k => guardG k r.ordinal)
    forEach gs (fun g s => if old < g ∧ g ≤ new then resolveGuard h tumb g (new == g) s else s) s

/-! ### Deferred faults (R182, R519) -/

/-- Record a deferred fault of a speculative task: the first stands (R182, R519). -/
def deferFault (h t : Nat) (d : Deferred) (s : State) : State :=
  s.onTask h t (fun x => { x with deferred := some (x.deferred.getD d) })

/-- A breach of R182: dropped, recorded as deferred fault 0x1E, detector 0x920. -/
def breach (h t unit : Nat) (s : State) : State :=
  deferFault h t { code := 0x1E, sub := 0, unit := unit, detail := [] } (post 0x920 unit 0 [] s)

/-- Task `t` runs speculatively. -/
def specRunning (s : State) (h t : Nat) : Bool :=
  match (s.recipe? h).bind (fun r => r.run? t) with
  | some x => x.specRun
  | none => false

/-- A breach of R182 by a SPEC task that runs as an ordinary one: its task ends FAULT, with the code of the breach
(R184; log entry 58). -/
def breachFault (h t unit : Nat) (s : State) : State := taskFault h t unit 0x10 0x1E (post 0x920 unit 0 [] s)

/-- Task `t` is a SPEC task that runs as an ordinary one, its guard having committed before it started (R184). -/
def bornOrdinary (r : Recipe) (t : Nat) : Bool :=
  match r.tasks[t]?, r.run? t with
  | some k, some x => k.spec && x.phase == .started && !x.specRun
  | _, _ => false

/-- How an operation of a task on a tumbler stands to R182: it is within the rule, a breach that is deferred, or the
ordinary fault of a SPEC task whose guard committed before it started (R184). -/
inductive AddRule where
  | allowed | deferred | fault
  deriving DecidableEq, Repr

/-- R182 for an operation of a task on a tumbler: a speculative one may work only on a tumbler PRIVATE to it. -/
def addRule (s : State) (h t tumb : Nat) : AddRule :=
  match s.recipe? h with
  | none => .allowed
  | some r =>
    let own := (r.tumbler tumb).priv && (r.tumbler tumb).owner == t
    if own then .allowed
    else if specRunning s h t then .deferred
    else if bornOrdinary r t then .fault
    else .allowed

/-- An operation of a task on a tumbler under R182: carried out, dropped, or a fault. -/
def underR182 (h t unit tumb : Nat) (f : State → State) (s : State) : State :=
  match addRule s h t tumb with
  | .allowed => f s
  | .deferred => breach h t unit s
  | .fault => breachFault h t unit s

/-! ### Operations (R165) -/

/-- The action of a tumbler that has fired (R163, R165, R166, R309). What a PRIVATE tumbler of a task fires stands to R182
as the task's own adds do: a chain add, or a span contribution, to a tumbler that is not PRIVATE is a breach; a chain add
to a PRIVATE one is the misuse of R170 when it is made. -/
def fire (h : Nat) (t : Tumbler) (iss : Issuer) (s : State) : State :=
  let c : Chain := { recipe := h, handle := t.chain, inc := t.cinc, level := iss.level + 1, task := iss.task,
                     blame := iss.blame, unit := iss.unit, span := t.action == 2 }
  let send := fun (s : State) =>
    let priv := t.action == 1 && (match s.recipe? h with
      | some r => (r.tumbler t.chain).priv
      | none => false)
    match iss.task with
    | some k => if !t.priv || priv then { s with chains := s.chains ++ [c] }
      else underR182 h k iss.unit t.chain (fun s => { s with chains := s.chains ++ [c] }) s
    | none => { s with chains := s.chains ++ [c] }
  if t.action = 1 then
    if 8 < iss.level + 1 then misuse h 0x804 t.chain { iss with op := 3 } s else send s
  else if t.action = 2 then send s
  else s

/-- ADD (R165), where it is no misuse. -/
def addGood (h tumb n : Nat) (iss : Issuer) (s : State) : State :=
  match s.recipe? h with
  | none => s
  | some r =>
    let t := r.tumbler tumb
    let v := t.value + n
    let hit := t.armed && decide (t.target ≤ v)
    let s1 := s.onRecipe h (fun r => r.setTumbler { t with value := v, armed := t.armed && !hit })
    let s2 := resolveGuards h tumb t.value v s1
    if hit then fire h t iss s2 else s2

/-- ADD (R165): with its misuse (R170). -/
def tAdd (h tumb n : Nat) (iss : Issuer) (s : State) : State :=
  match s.recipe? h with
  | none => s
  | some r =>
    match addMisuse r tumb n iss with
    | some d => misuse h d tumb iss s
    | none => addGood h tumb n iss s

/-- ARM (R165): with its misuse (R170); the action runs at once where VALUE has reached the target. -/
def tArm (h tumb target action chain cinc : Nat) (iss : Issuer) (s : State) : State :=
  match s.recipe? h with
  | none => s
  | some r =>
    match accessMisuse r tumb { iss with op := 1 } with
    | some d => misuse h d tumb { iss with op := 1 } s
    | none =>
      let t := r.tumbler tumb
      if t.armed then misuse h 0x803 tumb { iss with op := 1 } s
      else
        let now := decide (target ≤ t.value)
        let t1 := { t with target := target, action := action, chain := chain, cinc := cinc, armed := !now }
        let s1 := s.onRecipe h (fun r => r.setTumbler t1)
        if now then fire h t1 iss s1 else s1

/-- Restore a tumbler from its initialisation record: VALUE and arming, with an action that runs at once
(R167, R169). -/
def tRestore (h : Nat) (rec : Tumbler) (iss : Issuer) (s : State) : State :=
  let now := rec.armed && decide (rec.target ≤ rec.value)
  let s1 := s.onRecipe h (fun r => r.setTumbler { rec with armed := rec.armed && !now })
  if now then fire h rec iss s1 else s1

/-- The issuer of a restore (R170): none; `owner` where a PRIVATE tumbler is restored as its owner starts. -/
def Issuer.restore (owner : Option Nat) : Issuer :=
  { task := none, blame := owner, unit := 0, span := false, version := true, op := 3, level := 0, exempt := true }

end Sys2Proof.Machine
end

