-- ==== Sys2Proof/Machine/Stash.lean ====
section
/-! DEFINITION. The stash and its arbiter (R229 to R240), and the memory accesses of a recipe's tasks: shadows
(R181, R182), stash windows (R232) and ordinary translation. -/

namespace Sys2Proof.Machine

/-! ### The status block (R236) -/

/-- The status byte of an entry. -/
def stashByte : StashState → Nat
  | .planned => 0
  | .openForward => 1
  | .openRecompute => 2
  | .demoted => 3
  | .released => 4

/-- The status block's bytes. -/
def stashStatus (t : Stash) : List Byte :=
  leBytes 4 t.step ++ leBytes 4 (t.entries.filter (fun e => e.state == .demoted)).length ++ leBytes 4 t.peak ++
    leBytes 4 t.rcWaits ++ leBytes 8 t.dropped ++ leBytes 4 t.mark ++ zeros 36 ++
    t.entries.map (fun e => BitVec.ofNat 8 (stashByte e.state))

/-- Change the stash of a recipe and write its status block. -/
def onStash (h : Nat) (f : Stash → Stash) (s : State) : State :=
  let s1 := s.onRecipe h (fun r => { r with stash := f r.stash })
  match s1.recipe? h with
  | none => s1
  | some r => locWrite (.near r.stash.status) (stashStatus r.stash) s1

/-- Change one entry. -/
def Stash.onEntry (t : Stash) (i : Nat) (f : StashEntry → StashEntry) : Stash :=
  { t with entries := modAt t.entries i f }

/-! ### Opens and demotion (R233, R235) -/

/-- Pages of an entry, with VALUE of SIZE read when it opens (R230). -/
def entryPages (r : Recipe) (e : StashEntry) : Nat :=
  if e.sized then min e.maxPages (max 1 ((r.value e.sizeHandle * e.rowBytes + pageBytes - 1) / pageBytes))
  else e.maxPages

/-- Take `n` pages for an entry, with the counts changed by `f`. -/
def openEntry (i n : Nat) (st : StashState) (f : Stash → Stash) (t : Stash) : Stash :=
  let t1 := f { t.onEntry i (fun e => { e with state := st, pages := t.freePages.take n, waiting := none })
    with freePages := t.freePages.drop n }
  { t1 with peak := max t1.peak (t1.m + t1.f + t1.u) }

/-- Demote every non-mandatory checkpoint entry that is still PLANNED (R235). -/
def demote (h : Nat) (s : State) : State :=
  match s.recipe? h with
  | none => s
  | some r =>
    let ids := (List.range r.stash.entries.length).filter (fun i =>
      match r.stash.entries[i]? with
      | some e => e.state == .planned && e.checkpoint && !e.mandatory
      | none => false)
    let layers := ids.filterMap (fun i => (r.stash.entries[i]?).map (fun e => e.layer))
    let fall := fun (e : StashEntry) => { e with state := .demoted, standsDemoted := true,
                                                 waiting := e.waiting.filter (fun w => w.rc) }
    let s1 := onStash h (fun t =>
      { forEach ids (fun i t => t.onEntry i fall) t with mark := r.value r.stash.restoreHandle }) s
    let s2 := forEach ids (fun i s => match r.stash.entries[i]? with
      | some e => tAdd h e.decision 2 { Issuer.restore none with version := false, op := 0 } s
      | none => s) s1
    post 0x720 0 0 (leBytes 4 r.ordinal ++ leBytes 4 ids.length ++ leBytes 2 (layers.foldl min 65535) ++
      leBytes 2 (layers.foldl max 0) ++ leBytes 4 (nth ids 0 0)) s2

/-- What the arbiter answers to a write. -/
inductive StashOut where
  | go | fault | dropped | wait
  deriving DecidableEq, Repr

/-- Post 0x722 once for a recompute open that has waited more than 1 ms (R233). -/
def openWaitPost (h i : Nat) (s : State) : State :=
  match (s.recipe? h).bind (fun r => r.stash.entries[i]?) with
  | some e =>
    match e.waiting with
    | some w =>
      if w.rc ∧ w.since + 10 ^ 6 < s.now ∧ ¬ e.waitPosted then
        post 0x722 0 0 [] (onStash h (fun t => t.onEntry i (fun e => { e with waitPosted := true })) s)
      else s
    | none => s
  | none => s

/-- An open of the kind given waits at an entry. -/
def StashEntry.waits (e : StashEntry) (rc : Bool) : Bool := e.waiting.any (fun w => w.rc == rc)

/-- An open that waits is decided before every younger one (R233): one older than that of entry e still waits. -/
def olderOpen (t : Stash) (e : StashEntry) : Bool :=
  t.entries.any (fun x => match x.waiting, e.waiting with
    | some a, some b => decide (a.order < b.order)
    | some _, none => true
    | none, _ => false)

/-- An open of an entry waits from now on, behind those that wait already; a recompute open is counted (R233). -/
def waitOpen (h i : Nat) (rc : Bool) (s : State) : State :=
  match (s.recipe? h).bind (fun r => r.stash.entries[i]?) with
  | none => s
  | some e =>
    if e.waiting.isSome then openWaitPost h i s
    else
      let mark := fun (x : StashEntry) =>
        { x with waiting := some { order := s.seq, since := s.now, rc := rc }, waitPosted := false }
      onStash h (fun t => { t.onEntry i mark with rcWaits := t.rcWaits + bit rc }) { s with seq := s.seq + 1 }

/-- A recompute open of an entry (R233): it succeeds, or waits in age order; a write to an entry whose forward open waits
waits for that open. -/
def recomputeOpen (h i : Nat) (s : State) : State × StashOut :=
  match s.recipe? h with
  | none => (s, .fault)
  | some r =>
    match r.stash.entries[i]? with
    | none => (s, .fault)
    | some e =>
      let n := entryPages r e
      if e.waits false then (s, .wait)
      else if r.stash.m + r.stash.f + r.stash.u + n ≤ r.stash.npages ∧ n ≤ r.stash.freePages.length ∧
          ¬ olderOpen r.stash e then
        (onStash h (openEntry i n .openRecompute (fun t => { t with u := t.u + n })) (openWaitPost h i s), .go)
      else (waitOpen h i true s, .wait)

/-- A forward open of an entry (R233): a write to an entry whose recompute open waits waits for it; else it succeeds and adds 1 to DECISION, or the stash is full and demotes; an older
open that waits is decided first. One within F + n ≤ P − M − H that finds fewer than n free pages waits (DESIGN CHOICE,
log entry 92: R233 says that it succeeds, and gives it no pages). -/
def forwardOpen (h i : Nat) (s : State) : State × StashOut :=
  match s.recipe? h with
  | none => (s, .fault)
  | some r =>
    match r.stash.entries[i]? with
    | none => (s, .fault)
    | some e =>
      let n := entryPages r e
      if e.waits true then (s, .wait)
      else if olderOpen r.stash e then (waitOpen h i false s, .wait)
      else if r.stash.f + n + r.stash.m + r.stash.headroom ≤ r.stash.npages then
        if r.stash.freePages.length < n then (waitOpen h i false s, .wait)
        else
          let s1 := onStash h (openEntry i n .openForward (fun t => { t with f := t.f + n })) s
          (if e.mandatory then s1
           else tAdd h e.decision 1 { Issuer.restore none with version := false, op := 0 } s1, .go)
      else (demote h s, .dropped)

/-- A write of `n` bytes of a task into an entry's window (R232). -/
def stashWrite (h i task n : Nat) (s : State) : State × StashOut :=
  match (s.recipe? h).bind (fun r => r.stash.entries[i]?) with
  | none => (s, .fault)
  | some e =>
    let rc := decide (e.rcFirst ≤ task)
    let count := fun s => onStash h (fun t => { t with dropped := t.dropped + n }) s
    match e.state with
    | .planned =>
      if rc then recomputeOpen h i s
      else if e.checkpoint then
        match forwardOpen h i s with
        | (s1, .dropped) => (count s1, .dropped)
        | o => o
      else (s, .fault)
    | .openForward => (s, .go)
    | .openRecompute => (s, .go)
    | .demoted => if rc then recomputeOpen h i s else (count s, .dropped)
    | .released => (s, .fault)

/-! ### Release and step start (R233, R237, R239) -/

/-- Release an entry (R239): its translations are removed; its pages return after the accesses translated before. -/
def releaseEntry (h i : Nat) (s : State) : State :=
  onStash h (fun t =>
    match t.entries[i]? with
    | none => t
    | some e =>
      let n := e.pages.length
      let t1 := { t.onEntry i (fun e => { e with state := .released, pages := [], waiting := none })
        with returning := t.returning ++ e.pages }
      if e.mandatory then { t1 with m := 0 }
      else if e.state == .openForward then { t1 with f := t1.f - n }
      else if e.state == .openRecompute then { t1 with u := t1.u - n }
      else t1) s

/-- An entry is OPEN. -/
def StashEntry.isOpen (e : StashEntry) : Bool := e.state == .openForward || e.state == .openRecompute

/-- Release every entry whose RELEASE tumbler has reached its threshold, whether it was opened or not (R239). -/
def releaseDue (h : Nat) (s : State) : State :=
  match s.recipe? h with
  | none => s
  | some r =>
    if r.running.isNone then s
    else forEach (List.range r.stash.entries.length) (fun i s =>
      match r.stash.entries[i]? with
      | some e =>
        if e.state != .released && r.reached e.release (threshold e.rval e.rstride r.ordinal) then releaseEntry h i s else s
      | none => s) s

/-- No open of the recipe's stash waits any more: the step that made it has ended. -/
def dropOpens (h : Nat) (s : State) : State :=
  s.onRecipe h (fun r => { r with stash := { r.stash with
    entries := r.stash.entries.map (fun e => { e with waiting := none }) } })

/-- Release every entry still OPEN (R239). -/
def releaseAll (h : Nat) (s : State) : State :=
  match s.recipe? h with
  | none => s
  | some r => dropOpens h (forEach (List.range r.stash.entries.length) (fun i s =>
      match r.stash.entries[i]? with
      | some e => if e.isOpen then releaseEntry h i s else s
      | none => s) s)

/-- The stash at START_STEP (R233, R237): demotions that stand, or the plan restored; the mandatory entry mapped. The whole
64-bit VALUE of the RESTORE tumbler is kept and compared; the status block's U32 holds its low bits (DESIGN CHOICE, log entry
92). -/
def stashStart (h : Nat) (s : State) : State :=
  match s.recipe? h with
  | none => s
  | some r =>
    let stands := r.stash.entries.any (fun e => e.standsDemoted)
    let restore := stands && decide (r.stash.mark < r.value r.stash.restoreHandle)
    let clear := fun (t : Stash) => { t with
      m := 0, f := 0, u := 0, peak := 0, rcWaits := 0, dropped := 0, step := r.ordinal % 2 ^ 32,
      freePages := t.freePages ++ t.returning ++ (t.entries.map (fun e => e.pages)).flatten,
      returning := [],
      entries := t.entries.map (fun e => { e with
        state := if e.standsDemoted && !restore then .demoted else .planned,
        standsDemoted := e.standsDemoted && !restore, pages := [], waiting := none, waitPosted := false }) }
    let s1 := onStash h clear s
    let s2 := if restore then post 0x721 0 0 [] s1 else s1
    let s3 := match r.stash.entries.findIdx? (fun e => e.mandatory) with
      | some i =>
        match r.stash.entries[i]? with
        | some e => onStash h (openEntry i e.maxPages .openForward (fun t => { t with m := e.maxPages })) s2
        | none => s2
      | none => s2
    if restore then s3
    else forEach r.stash.entries (fun e s =>
      if e.standsDemoted then tAdd h e.decision 2 { Issuer.restore none with version := false, op := 0 } s else s) s3

/-! ### Accesses of tasks -/

/-- What an access comes to. -/
inductive Access where
  | ok
  /-- translation fault with its subcode (R144). -/
  | fault (sub : Nat)
  /-- a poisoned read (R135). -/
  | poisoned
  /-- dropped: a demoted stash write (R232), or a breach of R182. -/
  | dropped
  /-- waits for a stash open (R233) or for a cave segment (R150, R153). -/
  | wait
  /-- a breach of R182 by a task whose guard committed before it started: an ordinary fault (R184). -/
  | breach
  /-- a completion ABSORBED at the boundary of another wheel's slice that drains (R128, R426). -/
  | absorbed
  deriving DecidableEq, Repr

/-- An access of a task to the curd slice of another wheel that drains completes ABSORBED (R128, R426). A task of an
update engine or a hinge engine is of no wheel. -/
def absorbedAt (s : State) (h t : Nat) (l : Loc) : Bool :=
  match l with
  | .curd a => drainsWheel s (a / GiB) && (match (s.recipe? h).bind (fun r => r.tasks[t]?) with
    | some k => k.home != a / GiB || decide (2 ≤ k.cls)
    | none => true)
  | _ => false

/-- Bytes of a descriptor of a class (R172). -/
def descSize (cls : Nat) : Nat := if cls = 1 then 64 else 128

/-- The page entries of a SPEC task (R172). -/
def pageEntries (r : Recipe) (k : Task) : List Nat :=
  (List.range k.npages).map (fun i => leAt r.pool (k.descOff + k.dcount * descSize k.cls + 8 * i) 8)

/-- A write of such a task would breach R182: outside helper scratch and its declared pages. -/
def writeBreach (r : Recipe) (t a : Nat) : Bool :=
  bornOrdinary r t && !(decide (scratchBase ≤ a) && decide (a < scratchEnd)) &&
    !(match r.tasks[t]? with
      | some k => (pageEntries r k).any (fun p => decide (p ≤ a) && decide (a < p + pageBytes))
      | none => false)

/-- The shadow of a task for a near-window address. -/
def shadowAt (x : TaskRun) (a : Nat) : Option Shadow :=
  x.shadows.find? (fun p => decide (p.page ≤ a) && decide (a < p.page + pageBytes))

/-- The landing shadow that a speculative task reads in place of a declared page: a granule written in a slot whose
round has the task's guard (R321). -/
def landingAt (r : Recipe) (t a : Nat) : Option Loc :=
  match r.run? t, r.tasks[t]? with
  | some x, some k =>
    if x.specRun then
      ((r.landings.filter (fun l => l.x == k.guard)).findSome? (fun l => l.shadows.find? (fun p =>
        decide (p.page ≤ a) && decide (a < p.page + pageBytes) && decide ((a - p.page) / 4096 ∈ p.written)))).map
        (fun p => .near (p.pa + (a - p.page)))
    else none
  | _, _ => none

/-- Where a task's read of an address goes: its own writes for a granule written in a shadow, a landing shadow, else
the committed contents (R181, R321). -/
def readPlace (s : State) (h t a : Nat) : Except Nat Loc :=
  match s.recipe? h with
  | none => .error 1
  | some r =>
    match (r.run? t).bind (fun x => shadowAt x a) with
    | some p =>
      if (a - p.page) / 4096 ∈ p.written then .ok (.near (p.pa + (a - p.page))) else translate s r a false
    | none =>
      match landingAt r t a with
      | some l => .ok l
      | none => translate s r a false

/-! ### The cave-cache share (R152, R153) -/

/-- Change the share of a recipe. -/
def onShare (h : Nat) (f : CaveShare → CaveShare) (s : State) : State :=
  s.onRecipe h (fun r => { r with cave := f r.cave })

/-- A segment is resident: held and not filling. -/
def CaveShare.resident (c : CaveShare) (m : Nat) : Bool := c.segments.any (fun g => g.seg == m && !g.filling)

/-- A segment is held, filling or not. -/
def CaveShare.held (c : CaveShare) (m : Nat) : Bool := c.segments.any (fun g => g.seg == m)

/-- The way that a fill replaces: least recently used, passing over filling segments and those prefetched and not yet
read (R153). -/
def victim (ways : List Segment) : Option Segment :=
  (ways.filter (fun g => !g.filling && !g.prefetched)).foldl (fun (acc : Option Segment) g => match acc with
    | none => some g
    | some b => if g.used < b.used then some g else acc) none

/-- Begin the fill of a segment: in a free way of its set, or over the victim; with no eligible way it waits for one
(R153). A demand takes over a prefetch that waits. -/
def CaveShare.fill (c : CaveShare) (m : Nat) (prefetched : Bool) : CaveShare :=
  if c.held m ∨ c.mib = 0 then c
  else
    let rest := c.fillWaits.filter (fun w => w.1 != m)
    let ways := c.segments.filter (fun g => g.seg % c.mib == m % c.mib)
    let g : Segment := { seg := m, filling := true, prefetched := prefetched, dirty := false, poisoned := false,
                         used := c.clock }
    if ways.length < 16 then { c with segments := g :: c.segments, fillWaits := rest }
    else match victim ways with
      | some v => { c with segments := g :: c.segments.filter (fun x => x.seg != v.seg), fillWaits := rest }
      | none =>
        match c.fillWaits.find? (fun w => w.1 == m) with
        | none => { c with fillWaits := c.fillWaits ++ [(m, prefetched)] }
        | some _ => { c with fillWaits := c.fillWaits.map (fun w => if w.1 = m then (m, w.2 && prefetched) else w) }

/-- The fills that wait for a way are tried again, oldest first (R153). -/
def CaveShare.retry (c : CaveShare) : CaveShare := c.fillWaits.foldl (fun c w => c.fill w.1 w.2) c

/-- The share after the lookup of segment m by a demand read: a hit makes it the most recently used, a miss begins its
fill (R153, R154). -/
def lookUp (m : Nat) (c : CaveShare) : CaveShare :=
  let c1 := { c with clock := c.clock + 1 }
  if c.resident m then
    let touch := fun (g : Segment) => { g with prefetched := false, used := c1.clock }
    ({ c1 with hitCount := c1.hitCount + 1, segments := modFirst (fun g => g.seg == m) touch c1.segments } : CaveShare).retry
  else { c1.fill m false with stallCount := c1.stallCount + 1, misses := (m :: c1.misses).take 16 }

/-- A place that a recipe's unit reads holds poison: a cave segment by the recipe's own share, anything else by the
store (R135, R152). -/
def badFor (s : State) (r : Recipe) (l : Loc) (n : Nat) : Bool :=
  match l with
  | .cave p => r.cave.segments.any (fun g => g.poisoned && decide (g.seg * 65536 < p + n) && decide (p < g.seg * 65536 + 65536))
  | l => poisoned s l n

/-- A cave read waits for its segment to be resident in the recipe's share (R152, R153). -/
def awaitsFill (r : Recipe) (l : Loc) : Bool :=
  match l with
  | .cave p => !r.cave.resident (p / 65536)
  | _ => false

/-- Read bytes as a task, piece by piece (R123, R135, R152). -/
def taskRead (s : State) (h t a n : Nat) : Except Access (List Byte) :=
  (piecesOf a n).foldl (fun acc q =>
    match acc with
    | .error e => .error e
    | .ok bs =>
      match readPlace s h t q.1, s.recipe? h with
      | .error sub, _ => .error (.fault sub)
      | .ok _, none => .error (.fault 1)
      | .ok l, some r =>
        if absorbedAt s h t l then .error .absorbed
        else if awaitsFill r l then .error .wait
        else if badFor s r l q.2 then .error .poisoned else .ok (bs ++ locRead s l q.2)) (.ok [])

/-- The granule at a declared page's address is copied to a physical one, with its poison (R135, R181, R185). -/
def copyPage (s : State) (r : Recipe) (va pa : Nat) : State :=
  match translate s r va false with
  | .ok l =>
    let s1 := locWrite (.near pa) (locRead s l 4096) s
    if poisoned s l 4096 then s1.onTiers (fun t => { t with poisonNear := insertNew t.poisonNear (pa / 4096) }) else s1
  | .error _ => s

/-- The first write of a task into a granule of a shadow copies the granule's committed contents (R181). -/
def copyGranule (h t a : Nat) (p : Shadow) (s : State) : State :=
  let g := (a - p.page) / 4096
  if g ∈ p.written then s
  else
    let s1 := match s.recipe? h with
      | none => s
      | some r =>
        copyPage s r (p.page + g * 4096) (p.pa + g * 4096)
    let mark := fun (q : Shadow) => { q with written := insertAsc g q.written }
    s1.onTask h t (fun x => { x with shadows := modFirst (fun q => q.page == p.page) mark x.shadows })

/-- A write has reached a resident segment: it is dirty, and used last (R150, R153). -/
def CaveShare.dirtied (c : CaveShare) (m : Nat) : CaveShare :=
  ({ c with
     clock := c.clock + 1,
     segments := modFirst (fun g => g.seg == m)
       (fun g => { g with dirty := true, prefetched := false, used := c.clock + 1 }) c.segments }).retry

/-- A write of a recipe to a cave place, in a maintenance state (R150): into its share's segment, which becomes dirty; a
segment that is filling, or that is allocated now, is waited for. -/
def caveWrite (h p : Nat) (bs : List Byte) (s : State) : State × Access :=
  let m := p / 65536
  match s.recipe? h with
  | none => (s, .fault 1)
  | some r =>
    if r.cave.resident m then (onShare h (fun c => c.dirtied m) (locWrite (.cave p) bs s), .ok)
    else (onShare h (fun c => c.fill m false) s, .wait)

/-- A segment is resident at once, for a command that waits for the fill within its own run: its set's least recently
used way is taken where none is eligible (DESIGN CHOICE, log entry 95). -/
def fillNow (bad : Bool) (m : Nat) (c0 : CaveShare) : CaveShare :=
  let c := c0.fill m false
  let g : Segment := { seg := m, filling := false, prefetched := false, dirty := false, poisoned := bad, used := c.clock }
  if c.mib = 0 ∨ c.resident m then c
  else if c.held m then { c with segments := modFirst (fun x => x.seg == m) (fun _ => g) c.segments }
  else
    let ways := c.segments.filter (fun x => x.seg % c.mib == m % c.mib)
    let old := ways.foldl (fun (acc : Option Segment) x => match acc with
      | none => some x
      | some b => if x.used < b.used then some x else acc) none
    { c with segments := g :: c.segments.filter (fun x => old.all (fun o => o.seg != x.seg)),
             fillWaits := c.fillWaits.filter (fun w => w.1 != m) }

/-- A write of a COPY or of received data to a cave place through a recipe's share (R150, R152, R359): the segment is
resident and dirty when the write has landed. -/
def caveCopyWrite (h p : Nat) (bs : List Byte) (s : State) : State :=
  let m := p / 65536
  onShare h (fun c => (fillNow (decide (m ∈ s.tiers.poisonCave)) m c).dirtied m) (locWrite (.cave p) bs s)

/-- A read of a peer's GET at a cave place goes through the recipe's share, which then holds the segment (R152). -/
def caveGet (h p : Nat) (s : State) : State :=
  let m := p / 65536
  onShare h (fun c => fillNow (decide (m ∈ s.tiers.poisonCave)) m (lookUp m c)) s

/-- Write one piece, within a 4 KiB granule, as a task (R127, R181, R182, R232). -/
def taskWritePiece (h t unit a : Nat) (bs : List Byte) (s : State) : State × Access :=
  match s.recipe? h with
  | none => (s, .fault 1)
  | some r =>
    if specRunning s h t then
      match (r.run? t).bind (fun x => shadowAt x a) with
      | some p => (locWrite (.near (p.pa + (a - p.page))) bs (copyGranule h t a p s), .ok)
      | none =>
        if a < scratchBase ∨ (nearBase ≤ a ∧ a < nearEnd) ∨ (caveBase ≤ a ∧ a < caveEnd) then
          (breach h t unit s, .dropped)
        else (s, .fault 5)
    else if writeBreach r t a then (s, .breach)
    else if inStash r a then
      match stashAt r a with
      | none => (s, .fault 1)
      | some (i, _) =>
        match stashWrite h i t bs.length s with
        | (s1, .go) =>
          match s1.recipe? h with
          | none => (s1, .fault 1)
          | some r1 =>
            match translate s1 r1 a true with
            | .ok l => (locWrite l bs s1, .ok)
            | .error sub => (s1, .fault sub)
        | (s1, .fault) => (s1, .fault 1)
        | (s1, .dropped) => (s1, .dropped)
        | (s1, .wait) => (s1, .wait)
    else
      match translate s r a true with
      | .ok (.cave p) => caveWrite h p bs s
      | .ok l => if absorbedAt s h t l then (s, .absorbed) else (locWrite l bs s, .ok)
      | .error sub => (s, .fault sub)

/-- Write bytes as a task, piece by piece; the first piece that does not succeed ends the write, except that a
dropped piece does not. -/
def taskWrite (h t unit a : Nat) (bs : List Byte) (s : State) : State × Access :=
  (piecesOf a bs.length).foldl (fun acc q =>
    match acc.2 with
    | .fault e => (acc.1, .fault e)
    | .wait => (acc.1, .wait)
    | .breach => (acc.1, .breach)
    | .poisoned => (acc.1, .poisoned)
    | .absorbed => (acc.1, .absorbed)
    | _ =>
      match taskWritePiece h t unit q.1 (slice bs (q.1 - a) q.2) acc.1 with
      | (s1, .ok) => (s1, acc.2)
      | o => o) (s, .ok)

end Sys2Proof.Machine
end

