-- ==== Sys2Proof/Machine/Formats.lean ====
section
/-! DEFINITION. Format codes, blocks, scales and eye streams (R31 to R49), narrowing (R57 to R61), and the counter
records of tensors (R63 to R66). -/

namespace Sys2Proof.Machine

/-! ### Formats (R31) -/

/-- Bits of an element. -/
def elemBits (fmt : Nat) : Nat :=
  match fmt with
  | 0 => 16
  | 1 => 16
  | 4 => 6
  | 5 => 6
  | 6 => 4
  | 8 => 4
  | 9 => 3
  | 10 => 2
  | 11 => 32
  | _ => 8

/-- A defined format code. -/
def fmtKnown (fmt : Nat) : Bool := decide (fmt ≤ 0x0D)

/-- A format stored in blocks with scales. -/
def isBlocked (fmt : Nat) : Bool := fmt != 0 && fmt != 1 && fmt != 11

/-- Elements of a block along k. -/
def blockLen (fmt : Nat) : Nat :=
  match fmt with
  | 0 => 1
  | 1 => 1
  | 10 => 64
  | 11 => 1
  | 12 => 128
  | 13 => 128
  | _ => 32

/-- Bytes of a block unit (R36); of one element where the format has no blocks. -/
def unitBytes (fmt : Nat) : Nat := elemBits fmt * blockLen fmt / 8

/-- A narrow format, which may have an eye list. -/
def isNarrow (fmt : Nat) : Bool := fmt == 8 || fmt == 9 || fmt == 10

/-- An FP8-class format (R44): 8-bit and 6-bit blocked elements. -/
def isFp8Class (fmt : Nat) : Bool := fmt == 2 || fmt == 3 || fmt == 4 || fmt == 5 || fmt == 7

/-- The E2M1 class: MXFP4, O4 and O3, and O2 beside them (R38, R52). -/
def isE2M1Class (fmt : Nat) : Bool := fmt == 6 || fmt == 8 || fmt == 9

/-- The magnitude grid of a format's elements. -/
def gridOf (fmt : Nat) : Grid :=
  match fmt with
  | 0 => gBF16
  | 1 => gFP16
  | 2 => gE4M3
  | 3 => gE5M2
  | 4 => gE3M2
  | 5 => gE2M3
  | 6 => gE2M1
  | 7 => gInt8
  | 8 => gE2M1
  | 9 => gO3
  | 10 => gO2
  | _ => gFP32

/-- emax of R57. -/
def emaxOf (fmt : Nat) : Int :=
  match fmt with
  | 2 => 8
  | 3 => 15
  | 4 => 4
  | 7 => 0
  | 9 => 1
  | 10 => 0
  | _ => 2

/-! ### Reading elements -/

/-- The value of a bare element code (R35, R38, R39); a code of O2 that is invalid reads as 0. -/
def elemVal (fmt c : Nat) : Val :=
  match fmt with
  | 0 => bf16.decode c
  | 1 => f16.decode c
  | 11 => f32.decode c
  | 2 => if c % 128 = 0x7F then .nan else
      match gE4M3.value (c % 128) with
      | .fin _ m e => .fin (bitOf c 7) m e
      | v => v
  | 3 =>
    let x := c % 128
    if x = 0x7C then .inf (bitOf c 7)
    else if 0x7C < x then .nan
    else match gE5M2.value x with
      | .fin _ m e => .fin (bitOf c 7) m e
      | v => v
  | 7 => let n : Int := if c < 128 then c else (c : Int) - 256
      .fin (decide (n < 0)) n.natAbs (-6)
  | 10 => if c = 1 then .one else if c = 3 then .fin true 1 0 else .zero
  | _ =>
    let w := elemBits fmt
    match (gridOf fmt).value (c % 2 ^ (w - 1)) with
    | .fin _ m e => if fmt = 9 ∧ m = 0 then .zero else .fin (bitOf c (w - 1)) m e
    | v => v

/-- The value of an E8M0 scale byte (R33). -/
def e8m0 (b : Nat) : Val := if b = 0xFF then .nan else .pow2 ((b : Int) - 127)

/-- Element times scale, exactly; a NaN scale makes every element NaN (R34). -/
def scaled (v sc : Val) : Val := if sc = .nan then .nan else if v.isFinite ∨ v = .nan then v.mul sc else v

/-- Bit string of bytes, as a number. -/
def elemAt (fmt : Nat) (bs : List Byte) (i : Nat) : Nat :=
  ofLe bs / 2 ^ (elemBits fmt * i) % 2 ^ elemBits fmt

/-- The codes of a block unit (R36). -/
def unpackUnit (fmt : Nat) (bs : List Byte) : List Nat :=
  let n := ofLe bs
  (List.range (blockLen fmt)).map (fun i => n / 2 ^ (elemBits fmt * i) % 2 ^ elemBits fmt)

/-- Pack codes into bytes, element i at bits w·i (R36). -/
def packUnit (fmt : Nat) (cs : List Nat) : List Byte :=
  let w := elemBits fmt
  let n := cs.foldr (fun c acc => c % 2 ^ w + 2 ^ w * acc) 0
  leBytes (w * cs.length / 8) n

/-- Invalid O2 codes of a block (R39). -/
def invalidCodes (fmt : Nat) (cs : List Nat) : Nat := if fmt = 10 then (cs.filter (· == 2)).length else 0

/-! ### Counts (R58, R63) -/

/-- What a descriptor or instruction counts for one tensor. -/
structure Counts where
  sat : Nat := 0
  flush : Nat := 0
  invalid : Nat := 0
  nanInf : Nat := 0
  wsat : Nat := 0
  wflush : Nat := 0
  samples : Nat := 0
  exceed : Nat := 0
  maxE : Nat := 0
  deriving DecidableEq, Repr

/-- Sum of counts; the sentinel maximum is the larger. -/
def Counts.add (a b : Counts) : Counts :=
  { sat := a.sat + b.sat, flush := a.flush + b.flush, invalid := a.invalid + b.invalid,
    nanInf := a.nanInf + b.nanInf, wsat := a.wsat + b.wsat, wflush := a.wflush + b.wflush,
    samples := a.samples + b.samples, exceed := a.exceed + b.exceed, maxE := maxF32 a.maxE b.maxE }

def Counts.none (a : Counts) : Bool := a == {}

/-- The counts of one element. -/
def NCount.counts : NCount → Counts
  | .none => {}
  | .sat => { sat := 1 }
  | .flush => { flush := 1 }

def W48Count.counts (w : W48Count) : Counts := { wsat := w.sat, wflush := w.flush }

/-! ### Scales (R57) -/

/-- The exponent of a scale before the clamp, for the largest magnitude a > 0. -/
def scaleExp (rule : Nat) (emax : Int) (vmax a : Val) : Int :=
  if rule = 0 then a.ilog2 - emax
  else
    let k := a.ilog2 - vmax.ilog2
    if a.le (vmax.mul (.pow2 (k - 1))) then k - 1
    else if a.le (vmax.mul (.pow2 k)) then k
    else k + 1

/-- The clamp to −127 … +127. -/
def clampExp (x : Int) : Int := max (-127) (min 127 x)

/-- The scale of values: its byte, its exponent and the exponent before the clamp. -/
structure Scale where
  byte : Nat
  exp : Int
  raw : Int
  deriving DecidableEq, Repr

/-- The scale of a set of values by rule and element type (R57). -/
def scaleOf (rule fmt : Nat) (vs : List Val) : Scale :=
  let a := vs.foldl (fun m v => if v.isFinite then Val.maxAbs m v else m) .zero
  if a.isZero then { byte := 0, exp := -127, raw := -127 }
  else
    let x := scaleExp rule (emaxOf fmt) (gridOf fmt).vmax a
    let c := clampExp x
    { byte := (c + 127).toNat, exp := c, raw := x }

/-! ### Narrowing one element (R58, R59, R61) -/

/-- How an element is rounded: nearest even, or stochastically with 24 bits. -/
inductive Rounding where
  | nearest
  | stochastic (u : Nat)
  deriving DecidableEq, Repr

/-- A magnitude code with its sign, as an element code. -/
def signCode (fmt : Nat) (neg : Bool) (mag : Nat) : Nat :=
  match fmt with
  | 0 => bit neg * 2 ^ 15 + mag
  | 1 => bit neg * 2 ^ 15 + mag
  | 11 => bit neg * 2 ^ 31 + mag
  | 7 => if neg then (256 - mag) % 256 else mag
  | 9 => if mag = 0 then 0 else bit neg * 4 + mag
  | 10 => if mag = 0 then 0 else if neg then 3 else 1
  | _ => bit neg * 2 ^ (elemBits fmt - 1) + mag

/-- Round a magnitude to a format's grid. -/
def roundMag (fmt : Nat) (r : Rounding) (y : Val) : Nat :=
  match r with
  | .stochastic u => (gridOf fmt).stochastic u y
  | .nearest => if fmt = 9 then o3Round y else if fmt = 10 then o2Round y else (gridOf fmt).rne y

/-- The zero interval of O3 and O2 (R59). -/
def zeroInterval (fmt : Nat) (y : Val) : Bool := y.abs.le (if fmt = 9 then .pow2 (-2) else .pow2 (-1))

/-- Counts of a finite element y = x / scale (R58): O3 and O2 count a flush only where the clamp at 0x00 made it. -/
def elemCount (fmt : Nat) (sc : Scale) (x y : Val) : Counts :=
  if fmt = 9 ∨ fmt = 10 then
    if (if fmt = 9 then Val.le (.fin false 5 (-1)) y.abs else Val.le (.fin false 3 (-1)) y.abs) then { sat := 1 }
    else if sc.raw < -127 ∧ zeroInterval fmt y ∧ ¬ zeroInterval fmt (x.mul (.pow2 (-sc.raw))) then { flush := 1 }
    else {}
  else ((gridOf fmt).count y).counts

/-- Narrow one element of a block: code and counts. An infinity is ±vmax, or ±∞ in E5M2; a NaN is the canonical NaN
of E4M3 and E5M2 (R61). -/
def narrowElem (fmt : Nat) (r : Rounding) (sc : Scale) (x : Val) : Nat × Counts :=
  match x with
  | .nan => (if fmt = 3 then 0x7E else if fmt = 2 then 0x7F else 0, { nanInf := 1 })
  | .inf s => (if fmt = 3 then bit s * 128 + 0x7C else signCode fmt s (gridOf fmt).maxCode, { nanInf := 1 })
  | .fin s _ _ =>
    let y := x.mul (.pow2 (-sc.exp))
    (signCode fmt s (roundMag fmt r y), elemCount fmt sc x y)

/-- Narrow to BF16, FP16 or FP32: out of range saturates to the largest finite value (R58); NaN and infinity are
kept (R61). -/
def narrowPlain (fmt : Nat) (r : Rounding) (x : Val) : Nat × Counts :=
  match x with
  | .nan => (if fmt = 0 then 0x7FC0 else if fmt = 1 then 0x7E00 else 0x7FC00000, { nanInf := 1 })
  | .inf s => (signCode fmt s ((gridOf fmt).maxCode + 1), { nanInf := 1 })
  | .fin s _ _ => (signCode fmt s (roundMag fmt r x), ((gridOf fmt).count x).counts)

/-- A type without NaN (R34). -/
def hasNan (fmt : Nat) : Bool := fmt == 2 || fmt == 3

/-- Narrow the values of one block: scale byte, codes, counts (R57, R58, R61). `none` marks an eye index, whose slot
is written zero and takes no part in the scale (R43). -/
def narrowBlock (fmt rule : Nat) (rs : List Rounding) (xs : List (Option Val)) : Nat × List Nat × Counts :=
  let vs := xs.filterMap id
  if vs.any (· == .nan) ∧ ¬ hasNan fmt then
    (0xFF, xs.map (fun _ => 0), { nanInf := (vs.filter (fun v => !v.isFinite)).length })
  else
    let sc := scaleOf rule fmt vs
    let es := (xs.zip rs).map (fun p => match p.1 with
      | none => (0, ({} : Counts))
      | some v => narrowElem fmt p.2 sc v)
    (sc.byte, es.map (·.1), es.foldl (fun c e => c.add e.2) {})

/-- Nearest-even rounding for `n` elements. -/
def allNearest (n : Nat) : List Rounding := List.replicate n .nearest

/-! ### Eye lists and records (R41 to R43) -/

/-- Bit k of an eye list. -/
def eyeBit (eyes : List Byte) (k : Nat) : Bool := bitOf (leAt eyes (k / 8) 1) (k % 8)

/-- Eye indices of segment s. -/
def eyesOf (eyes : List Byte) (seg : Nat) : List Nat :=
  ((List.range 1024).map (· + 1024 * seg)).filter (eyeBit eyes)

/-- A list is well formed for a padded k extent: at most 64 bits in each segment, none at or beyond the extent. -/
def eyesOk (eyes : List Byte) (k : Nat) : Bool :=
  (List.range ((k + 1023) / 1024)).all (fun seg =>
    decide ((eyesOf eyes seg).length ≤ 64) && (eyesOf eyes seg).all (fun i => decide (i < k)))

/-- Record size of a segment with n eye channels (R42). -/
def eyeRecSize (n : Nat) : Nat := if n = 0 then 0 else 8 * ((n + 8) / 8)

/-- The eye record of a line in a segment: scale, values, zero padding (R42, R43). -/
def eyeRecord (rule : Nat) (rs : List Rounding) (vs : List Val) : List Byte × Counts :=
  if vs.isEmpty then ([], {})
  else
    let p := narrowBlock 2 rule rs (vs.map some)
    (padTo (eyeRecSize vs.length) (BitVec.ofNat 8 p.1 :: p.2.1.map (BitVec.ofNat 8)), p.2.2)

/-- The eye values that a record holds, for n channels. -/
def eyeVals (n : Nat) (rec : List Byte) : List Val :=
  let sc := e8m0 (leAt rec 0 1)
  (List.range n).map (fun i => scaled (elemVal 2 (leAt rec (1 + i) 1)) sc)

/-! ### Moments (R47 to R49) -/

/-- m of an M8 code and its block scale. -/
def m8Val (c q : Nat) : Val :=
  let n : Int := if q < 128 then q else if q = 128 then -127 else (q : Int) - 256
  div32 (mul32 (.ofInt n) (f16.decode c)) (.ofInt 127)

/-- s = √v of a V8 code and its block scale; v is its square. -/
def v8Root (c u : Nat) : Val := div32 (mul32 (.ofInt u) (f16.decode c)) (.ofInt 255)
def v8Val (c u : Nat) : Val := mul32 (v8Root c u) (v8Root c u)

/-- The FP16 scale of a moment block: the largest magnitude rounded toward +∞, at most 65,504; the flag tells that it
was clamped (R49). A skipped element whose stored moment is itself NaN stands for 0 in the maximum (DESIGN CHOICE, log
entry 91: the spec is silent). -/
def momentScale (a : Val) : Nat × Bool :=
  if a.isZero then (0, false)
  else
    let c := (f16.round 3 a).1
    if 0x7C00 ≤ c then (0x7BFF, true) else (c, false)

/-- One code of a moment block: y rounded stochastically within the grid (R49, R58). A stored moment that is NaN is
re-encoded as code 0 (DESIGN CHOICE, log entry 91: the spec is silent). -/
def momentCode (g : Grid) (full : Int) (c u : Nat) (x : Val) : Nat × Counts :=
  if c = 0 then (0, {})
  else
    let y := div32 (mul32 x (.ofInt full)) (f16.decode c)
    let mag := match y with
      | .inf _ => full.toNat
      | _ => g.stochastic u y
    let sat := Val.le (.fin false (2 * full.toNat + 1) (-1)) y.abs
    let flush := !y.isZero && Val.le y.abs (.pow2 (-1))
    (mag, if sat then { sat := 1 } else if flush then { flush := 1 } else {})

/-- An M8 block: scale, codes and counts. -/
def m8Block (us : List Nat) (ms : List Val) : Nat × List Nat × Counts :=
  let p := momentScale (ms.foldl Val.maxAbs .zero)
  let es := (ms.zip us).map (fun q =>
    let e := momentCode gM8 127 p.1 q.2 q.1
    (if q.1.signBit then (256 - e.1) % 256 else e.1, e.2))
  (p.1, es.map (·.1), es.foldl (fun c e => c.add e.2) { sat := bit p.2 })

/-- A V8 block from the second moments v: s = √v. -/
def v8Block (us : List Nat) (vs : List Val) : Nat × List Nat × Counts :=
  let ss := vs.map sqrt32
  let p := momentScale (ss.foldl Val.maxAbs .zero)
  let es := (ss.zip us).map (fun q => momentCode gV8 255 p.1 q.2 q.1)
  (p.1, es.map (·.1), es.foldl (fun c e => c.add e.2) { sat := bit p.2 })

/-! ### Counter records (R63 to R66) -/

/-- Offsets of a record: count, threshold and mark of each counter, and its detector. -/
structure CtrField where
  count : Nat
  thr : Nat
  mark : Nat
  det : Nat
  deriving DecidableEq, Repr

/-- Add n to one counter of a record at a physical address, with its threshold post (R64, R65). -/
def countField (pa ord unit n : Nat) (f : CtrField) (s : State) : State :=
  if n = 0 then s
  else
    let old := memLe s.near (pa + f.count) 4
    let new := satAdd 32 old n
    let thr := memLe s.near (pa + f.thr) 4
    let want := ord % 255 + 1
    let s1 := locWrite (.near (pa + f.count)) (leBytes 4 new) s
    if thr ≠ 0 ∧ old < thr ∧ thr ≤ new ∧ memLe s1.near (pa + f.mark) 1 ≠ want then
      post f.det unit 0 (leBytes 4 (memLe s.near pa 4) ++ leBytes 4 new ++ leBytes 4 thr ++ leBytes 4 ord)
        (locWrite (.near (pa + f.mark)) (leBytes 1 want) s1)
    else s1

/-- Add counts to the counter record at a physical address (R63 to R66). A record in a poisoned granule is not taken as
valid (R135): the counts are dropped (DESIGN CHOICE, log entry 92). -/
def countRecord (pa ord unit : Nat) (c : Counts) (s : State) : State :=
  if poisoned s (.near pa) 64 then s else
  let s1 := countField pa ord unit (c.sat + c.wsat)
    { count := 8, thr := 36, mark := 56, det := if c.wsat = 0 then 0x600 else 0x605 } s
  let s2 := countField pa ord unit (c.flush + c.wflush)
    { count := 12, thr := 40, mark := 57, det := if c.wflush = 0 then 0x601 else 0x606 } s1
  let s3 := countField pa ord unit c.invalid { count := 16, thr := 44, mark := 58, det := 0x602 } s2
  let s4 := countField pa ord unit c.nanInf { count := 20, thr := 48, mark := 59, det := 0x604 } s3
  let s5 := if c.samples = 0 then s4
    else locWrite (.near (pa + 24)) (leBytes 4 (satAdd 32 (memLe s4.near (pa + 24) 4) c.samples)) s4
  let s6 := countField pa ord unit c.exceed { count := 28, thr := 52, mark := 60, det := 0x603 } s5
  if c.maxE = 0 then s6
  else locWrite (.near (pa + 32)) (leBytes 4 (maxF32 (memLe s6.near (pa + 32) 4) c.maxE)) s6

/-- Add counts to the record at a near-window address of a recipe; address zero names no record (R63). -/
def countInto (h rec unit : Nat) (c : Counts) (s : State) : State :=
  if rec = 0 ∨ c.none then s
  else
    match s.recipe? h with
    | none => s
    | some r =>
      match translate s r rec true with
      | .ok (.near pa) => countRecord pa r.ordinal unit c s
      | _ => s

/-- Clear the counts, the maximum and the marks of a record whose flags bit 0 is set (R64), and that no poisoned granule
holds (R135; DESIGN CHOICE, log entry 92). -/
def clearRecord (pa : Nat) (s : State) : State :=
  if poisoned s (.near pa) 64 then s
  else if bitOf (memLe s.near (pa + 4) 2) 0 then
    locWrite (.near (pa + 56)) (zeros 5) (locWrite (.near (pa + 8)) (zeros 28) s)
  else s

end Sys2Proof.Machine
end

