-- ==== Sys2Proof/Machine/Vat.lean ====
section
/-! DEFINITION. The vats (R71 to R97) and vat descriptors (R98 to R121): panes, the check on read, reading operands,
accumulation, the drain chain with function tables (R241 to R244), loads, and the faults. The order in which
descriptors begin stands in Machine/VatControl.lean. -/

namespace Sys2Proof.Machine

/-! ### Panes (R85, R89) -/

/-- Number of panes of an arrangement. -/
def paneCount (arr : Nat) : Nat :=
  match arr with
  | 0 => 1
  | 1 => 2
  | 2 => 2
  | 3 => 4
  | 4 => 16
  | _ => 0

/-- First row, first column, rows and columns of pane p (R85). -/
def paneRect (arr p : Nat) : Nat × Nat × Nat × Nat :=
  match arr with
  | 1 => (0, 512 * p, 1024, 512)
  | 2 => (512 * p, 0, 512, 1024)
  | 3 => (512 * (p / 2), 512 * (p % 2), 512, 512)
  | 4 => (256 * (p / 4), 256 * (p % 4), 256, 256)
  | _ => (0, 0, 1024, 1024)

/-- The rectangle of an offered pane at an advertised shape (R89); none for one withdrawn. -/
def offeredPane (shape : Nat × Nat) (arr p : Nat) : Option (Nat × Nat × Nat × Nat) :=
  if p < paneCount arr ∧ 256 ≤ shape.1 ∧ 256 ≤ shape.2 then
    if arr = 0 then some (0, 0, shape.1, shape.2)
    else
      let q := paneRect arr p
      if q.1 + q.2.2.1 ≤ shape.1 ∧ q.2.1 + q.2.2.2 ≤ shape.2 then some q else none
  else none

/-- Two rectangles share a cell. -/
def overlaps (a b : Nat × Nat × Nat × Nat) : Bool :=
  decide (a.1 < b.1 + b.2.2.1) && decide (b.1 < a.1 + a.2.2.1) && decide (a.2.1 < b.2.1 + b.2.2.2) &&
    decide (b.2.1 < a.2.1 + a.2.2.2)

/-! ### Descriptor words (R98 to R115) -/

/-- The words of a 128-byte descriptor. -/
def descWords (bs : List Byte) : List Nat := (List.range 16).map (fun i => leAt bs (8 * i) 8)

/-- A descriptor's bytes in the pool: offset DESC_OFF + i × size. -/
def descBytes (r : Recipe) (k : Task) (i size : Nat) : List Byte := slice r.pool (k.descOff + i * size) size

/-- Word i. -/
def wd (ws : List Nat) (i : Nat) : Nat := nth ws i 0

def opOf (ws : List Nat) : Nat := bitsOf (wd ws 0) 7 0
def arrOf (ws : List Nat) : Nat := bitsOf (wd ws 0) 14 12
def paneOf (ws : List Nat) : Nat := bitsOf (wd ws 0) 19 16
def bankBit (ws : List Nat) : Bool := bitOf (wd ws 0) 20
def fscope (ws : List Nat) : Bool := bitOf (wd ws 0) 21
def rowsOf (ws : List Nat) : Nat := bitsOf (wd ws 0) 42 32
def colsOf (ws : List Nat) : Nat := bitsOf (wd ws 0) 53 43
def waitVal (ws : List Nat) : Nat := bitsOf (wd ws 1) 63 16
def waitId (ws : List Nat) : Nat := bitsOf (wd ws 1) 15 0
def sigInc (ws : List Nat) : Nat := bitsOf (wd ws 2) 31 16
def sigId (ws : List Nat) : Nat := bitsOf (wd ws 2) 15 0
def tagOf (ws : List Nat) : Nat := bitsOf (wd ws 2) 63 48
def fmtA (ws : List Nat) : Nat := bitsOf (wd ws 3) 29 25
def fmtB (ws : List Nat) : Nat := bitsOf (wd ws 3) 34 30
def eyeA (ws : List Nat) : Bool := bitOf (wd ws 3) 35
def eyeB (ws : List Nat) : Bool := bitOf (wd ws 3) 36
def kOf (ws : List Nat) : Nat := bitsOf (wd ws 3) 24 0
def lo24 (w : Nat) : Nat := bitsOf w 23 0
def hi24 (w : Nat) : Nat := bitsOf w 47 24
def orient (ws : List Nat) : Nat := bitsOf (wd ws 3) 1 0
def fmtO0 (ws : List Nat) : Nat := bitsOf (wd ws 3) 6 2
def fmtO1 (ws : List Nat) : Nat := bitsOf (wd ws 3) 11 7
def srule (ws : List Nat) : Nat := bitsOf (wd ws 3) 12 12
def srow (ws : List Nat) : Bool := bitOf (wd ws 3) 13
def scol (ws : List Nat) : Bool := bitOf (wd ws 3) 14
def biasOn (ws : List Nat) : Bool := bitOf (wd ws 3) 15
def fnOf (ws : List Nat) : Nat := bitsOf (wd ws 3) 17 16
def slotOf (ws : List Nat) : Nat := bitsOf (wd ws 3) 21 18
def resOn (ws : List Nat) : Bool := bitOf (wd ws 3) 22
def fmtRes (ws : List Nat) : Nat := bitsOf (wd ws 3) 27 23
def stashOn (ws : List Nat) : Bool := bitOf (wd ws 3) 28
def fmtSt (ws : List Nat) : Nat := bitsOf (wd ws 3) 33 29
def fmtL (ws : List Nat) : Nat := bitsOf (wd ws 3) 4 0
def lorient (ws : List Nat) : Bool := bitOf (wd ws 3) 5
def fmtTO (ws : List Nat) : Nat := bitsOf (wd ws 3) 10 6
def sruleT (ws : List Nat) : Nat := bitsOf (wd ws 3) 11 11

/-- Formats of the vat-operand column, the drain-output column and the stash column of R32. -/
def vatOperand (f : Nat) : Bool := decide (f ≤ 10)
def drainOutput (f : Nat) : Bool := decide (f ≤ 11)
def stashFmt (f : Nat) : Bool := f == 0 || f == 1 || f == 2 || f == 11

/-- A mask of bits [hi:lo]. -/
def maskBits (hi lo : Nat) : Nat := (2 ^ (hi + 1 - lo) - 1) * 2 ^ lo

/-- A DRAIN uses W11: it writes the stash or reads it. -/
def stashUsed (ws : List Nat) : Bool := stashOn ws || fnOf ws == 2

/-- A blocked stream is written, so SRULE has a meaning (R110). -/
def blockedOut (ws : List Nat) : Bool :=
  isBlocked (fmtO0 ws) || (orient ws == 2 && isBlocked (fmtO1 ws)) || (stashOn ws && fmtSt ws == 2)

/-- Bits of word i that a descriptor uses; every other bit has to be zero (R99). -/
def usedMask (ws : List Nat) (i : Nat) : Nat :=
  let op := opOf ws
  let addr := maskBits 47 0
  let on := fun (b : Bool) (m : Nat) => if b then m else 0
  match i with
  | 0 => maskBits 63 60 + maskBits 7 0 +
      (if op = 6 then maskBits 21 21 + on (!fscope ws) (maskBits 14 12 + maskBits 19 16)
       else maskBits 53 32 + maskBits 20 16 + maskBits 14 12)
  | 1 => maskBits 63 0
  | 2 => maskBits 63 48 + maskBits 31 0
  | _ =>
    if op = 1 ∨ op = 2 then
      match i with
      | 3 => maskBits 36 0
      | 4 => addr
      | 5 => on (isBlocked (fmtA ws)) addr
      | 6 => on (eyeA ws) addr
      | 7 => on (eyeA ws) addr
      | 8 => addr
      | 9 => on (isBlocked (fmtB ws)) addr
      | 10 => on (eyeB ws) addr
      | 11 => on (eyeB ws) addr
      | 12 => on (fmtA ws == 10) addr
      | 13 => on (fmtB ws == 10) addr
      | _ => maskBits 47 0
    else if op = 3 then
      match i with
      | 3 => maskBits 6 0 + on (orient ws == 2) (maskBits 11 7) + on (blockedOut ws) (maskBits 12 12) +
          maskBits 17 13 + on (fnOf ws != 0) (maskBits 21 18) + maskBits 22 22 + on (resOn ws) (maskBits 27 23) +
          maskBits 28 28 + on (stashUsed ws) (maskBits 33 29)
      | 4 => addr
      | 5 => on (isBlocked (fmtO0 ws)) addr
      | 6 => on (orient ws == 2) addr
      | 7 => on (orient ws == 2 && isBlocked (fmtO1 ws)) addr
      | 8 => on (srow ws || scol ws || biasOn ws) addr
      | 9 => on (resOn ws) addr
      | 10 => on (resOn ws && fmtRes ws == 2) addr
      | 11 => on (stashUsed ws) addr
      | 12 => on (stashUsed ws && fmtSt ws == 2) addr
      | 13 => addr
      | 14 => maskBits 23 0 + on (orient ws == 2) (maskBits 47 24)
      | _ => on (resOn ws) (maskBits 23 0) + on (stashUsed ws) (maskBits 47 24)
    else if op = 4 ∨ op = 5 then
      let t := op == 5
      match i with
      | 3 => maskBits 5 0 + on t (maskBits 10 6) + on (t && isBlocked (fmtTO ws)) (maskBits 11 11)
      | 4 => on t addr
      | 5 => on (t && isBlocked (fmtTO ws)) addr
      | 6 => addr
      | 7 => on (fmtL ws == 2) addr
      | 13 => on t addr
      | 14 => maskBits 47 24 + on t (maskBits 23 0)
      | _ => 0
    else 0

/-- Alignment of the stream in word i (R105). -/
def streamAlign (op i : Nat) : Nat :=
  if op = 1 ∨ op = 2 then
    match i with
    | 4 => 4
    | 8 => 4
    | 6 => 128
    | 10 => 128
    | 7 => 8
    | 11 => 8
    | 12 => 64
    | 13 => 64
    | _ => 1
  else
    match i with
    | 4 => 4
    | 6 => 4
    | 8 => 64
    | 9 => 4
    | 11 => 4
    | 13 => 64
    | _ => 1

/-- Word i names a counter record, which lies in the near tier only and may be zero for none. -/
def isCounterWord (op i : Nat) : Bool :=
  if op = 1 ∨ op = 2 then i == 12 || i == 13 else i == 13

/-- Words that a descriptor uses for streams. -/
def streamWords (ws : List Nat) : List Nat :=
  if opOf ws = 6 then [] else
    [4, 5, 6, 7, 8, 9, 10, 11, 12, 13].filter (fun i => usedMask ws i != 0 && !(isCounterWord (opOf ws) i && wd ws i == 0))

/-- The region of a stream is permitted (R105). -/
def streamRegionOk (op i a : Nat) : Bool :=
  (decide (nearBase ≤ a) && decide (a < nearEnd)) || (decide (a < scratchBase) && !isCounterWord op i)

/-- A check that fails: the word it is placed at, the fault code, and the value reported (R118; log entry 53). -/
structure Fail where
  word : Nat
  code : Nat
  value : Nat
  deriving DecidableEq, Repr

/-- A check that fails when b holds. -/
def failIf (b : Bool) (word code value : Nat) : List Fail := if b then [{ word := word, code := code, value := value }] else []

/-- The checks of a list of fields: the first field at fault. -/
def failAny (l : List (Bool × Nat)) (word code : Nat) : List Fail :=
  match l.find? (fun p => p.1) with
  | some p => [{ word := word, code := code, value := p.2 }]
  | none => []

/-- The value of the lowest field of w that has to be zero and is not, where mask holds the bits that may be set. -/
def strayField (w mask : Nat) : Nat :=
  let stray := w - (w &&& mask)
  match (List.range 64).find? (fun i => bitOf stray i) with
  | none => stray
  | some b =>
    let lo := match (List.range b).reverse.find? (fun i => bitOf mask i) with
      | some i => i + 1
      | none => 0
    let hi := match (List.range (64 - b)).find? (fun i => bitOf mask (b + i)) with
      | some i => b + i - 1
      | none => 63
    bitsOf w hi lo

/-- Reserved bits or unused fields that are set (R99, R260, R303). -/
def maskFail (ws : List Nat) (i mask : Nat) : List Fail :=
  failIf (wd ws i != wd ws i &&& mask) i 3 (strayField (wd ws i) mask)

/-- The check of R118 on read: every check that fails. -/
def vatFaults (r : Recipe) (shape : Nat × Nat) (ws : List Nat) : List Fail :=
  let op := opOf ws
  let mac := op == 1 || op == 2
  let ld := op == 4 || op == 5
  let p := offeredPane shape (arrOf ws) (paneOf ws)
  let K := kOf ws
  let blk := if fmtA ws = 10 ∨ fmtB ws = 10 then 64 else if isBlocked (fmtA ws) ∨ isBlocked (fmtB ws) then 32 else 1
  let w3 := wd ws 3
  let past := fun (n first act : Nat) => decide (0 < n) && decide (n < first + act)
  let lines := if mac then
      failIf (decide (lo24 (wd ws 14) = 0) || decide (hi24 (wd ws 14) = 0)) 14 0x13 0 ++
      failAny [(past (lo24 (wd ws 14)) (lo24 (wd ws 15)) (rowsOf ws), rowsOf ws),
        (past (hi24 (wd ws 14)) (hi24 (wd ws 15)) (colsOf ws), colsOf ws)] 0 0x13
    else []
  let fmts :=
    if mac then
      failAny [(!vatOperand (fmtA ws), fmtA ws), (!vatOperand (fmtB ws), fmtB ws)] 3 4 ++
      failIf (K == 0 || decide (2 ^ 24 < K) || K % blk != 0) 3 5 K ++
      failIf ((eyeA ws && !isNarrow (fmtA ws)) || (eyeB ws && !isNarrow (fmtB ws))) 3 8 w3
    else if op = 3 then
      failAny [(!drainOutput (fmtO0 ws), fmtO0 ws), (orient ws == 2 && !drainOutput (fmtO1 ws), fmtO1 ws),
        (resOn ws && !stashFmt (fmtRes ws), fmtRes ws), (stashUsed ws && !stashFmt (fmtSt ws), fmtSt ws)] 3 4 ++
      failAny [(orient ws == 3, 3), (fnOf ws == 3, 3)] 3 6 ++
      failIf ((fnOf ws == 1 || fnOf ws == 2) && !r.tables.any (fun t => t.1 == slotOf ws)) 3 7 (slotOf ws) ++
      failIf ((fnOf ws == 2 && stashOn ws) || (stashUsed ws && wd ws 11 == 0)) 3 8 w3
    else if ld then
      failAny [(!stashFmt (fmtL ws), fmtL ws), (op == 5 && !drainOutput (fmtTO ws), fmtTO ws)] 3 4
    else []
  let streams := ((streamWords ws).map (fun i =>
    let a := wd ws i % 2 ^ 48
    failIf (!streamRegionOk op i a) i 0x10 a ++ failIf (a % streamAlign op i != 0) i 0x11 a)).flatten
  let pane := match p with
    | none => failIf true 0 0x22 (if paneCount (arrOf ws) = 0 then arrOf ws else paneOf ws)
    | some q => failAny [(op != 6 && decide (q.2.2.1 < rowsOf ws), rowsOf ws),
        (op != 6 && decide (q.2.2.2 < colsOf ws), colsOf ws)] 0 0x22
  failIf (bitsOf (wd ws 0) 63 60 != 1) 0 0 (bitsOf (wd ws 0) 63 60) ++ failIf (op == 0 || decide (6 < op)) 0 1 op ++
    ((List.range 16).map (fun i => maskFail ws i (usedMask ws i))).flatten ++
    failIf (op != 6 && (rowsOf ws == 0 || colsOf ws == 0)) 0 6 0 ++
    (if op = 6 ∧ fscope ws then [] else pane) ++
    failIf (!handleOk r (waitId ws)) 1 0x30 (waitId ws) ++ failIf (!handleOk r (sigId ws)) 2 0x30 (sigId ws) ++
    failIf (handleOk r (sigId ws) && (r.tumbler (sigId ws)).kind == 2) 2 0x31 (sigId ws) ++ fmts ++ lines ++ streams

/-- The first of a list of faults: VER (kept as code 0) and OP first, then by word and code (R118). -/
def firstFault (l : List Fail) : Option Fail :=
  let key := fun (p : Fail) => if p.code ≤ 1 then p.code else 2 + p.word * 256 + p.code
  l.foldl (fun acc p => match acc with
    | none => some p
    | some q => if key p < key q then some p else some q) none

/-- The code reported: 0x02 for VER. -/
def reported (p : Fail) : Fail := { p with code := if p.code = 0 then 2 else p.code }

/-- The fault found on read (R118). -/
def vatCheck (r : Recipe) (shape : Nat × Nat) (ws : List Nat) : Option Fail :=
  (firstFault (vatFaults r shape ws)).map reported

/-! ### Fault reports (R118 to R121) -/

/-- Detector of a descriptor fault (R121, R280, R323 for the codes they share). -/
def faultDetector (code : Nat) : Nat :=
  if code ≤ 0x08 then 0x7E0 else if code = 0x14 then 0x710 else if code < 0x20 then 0x7E1
  else if code < 0x30 then 0x7E2 else 0x820

/-- The detail of a vat descriptor fault event (R118). -/
def vatFaultDetail (tag code word off value : Nat) : List Byte :=
  leBytes 2 tag ++ leBytes 1 code ++ leBytes 1 word ++ leBytes 4 off ++ leBytes 8 value

/-- Mark a descriptor's phase. -/
def setPhase (h t i : Nat) (p : DescPhase) (s : State) : State := s.onDesc h t i (fun d => { d with phase := p })

/-- A descriptor ends with a fault: its event, and the task's fault (R118, R119, R179). -/
def vatFault (h t i unit : Nat) (ws : List Nat) (off code word value sub : Nat) (s : State) : State :=
  let d := vatFaultDetail (tagOf ws) code word off value
  let s1 := if code = 0x14 then postTranslation unit sub d s else post (faultDetector code) unit code d s
  taskFault h t unit 0x10 code (setPhase h t i .faulted s1)

/-- A task ends MEMORY_ERROR for a poisoned read; UFAULT is 0 and no event is posted (R135). -/
def memoryError (h t i unit : Nat) (s : State) : State := taskFault h t unit 0x11 0 (setPhase h t i .faulted s)

/-! ### Banks (R54, R76, R119, R120) -/

/-- The sixteenths that a pane covers (R85). -/
def paneBlocks (arr p : Nat) : List Nat := (List.range 16).filter (fun b => overlaps (paneRect 4 b) (paneRect arr p))

/-- The record of a bank of a sixteenth. -/
def bankRec (v : Vat) (odd : Bool) (b : Nat) : BankRec :=
  (v.banks.find? (fun x => x.block == b && x.odd == odd)).getD { block := b, odd := odd, count := 0, poison := 0, sub := 0 }

/-- The records of a bank of a pane. -/
def bankRecs (v : Vat) (arr p : Nat) (odd : Bool) : List BankRec := (paneBlocks arr p).map (bankRec v odd)

/-- Product count and poison code of a bank of a pane: the largest count of its cells, and the poison of the first
poisoned sixteenth. -/
def bankState (v : Vat) (arr p : Nat) (odd : Bool) : Nat × Nat :=
  let bs := bankRecs v arr p odd
  (bs.foldl (fun m b => max m b.count) 0, bs.foldl (fun c b => if c = 0 then b.poison else c) 0)

/-- The subcode kept with the poison of a bank of a pane (R144). -/
def bankSub (v : Vat) (arr p : Nat) (odd : Bool) : Nat :=
  ((bankRecs v arr p odd).find? (fun b => b.poison != 0)).elim 0 (fun b => b.sub)

/-- Change the records of a bank over the cells of a pane. -/
def modBank (arr p : Nat) (odd : Bool) (f : BankRec → BankRec) (v : Vat) : Vat :=
  let keep := v.banks.filter (fun b => !(b.odd == odd && (paneBlocks arr p).contains b.block))
  { v with banks := keep ++ ((bankRecs v arr p odd).map f).filter (fun b => b.count != 0 || b.poison != 0) }

/-- A bank is replaced: its count and its poison are set (R54, R102, R119). -/
def BankRec.replaced (count poison sub : Nat) (b : BankRec) : BankRec :=
  { b with count := count, poison := poison, sub := sub }

/-- K products are added to each cell of a bank (R54). -/
def BankRec.grown (n : Nat) (b : BankRec) : BankRec := { b with count := b.count + n }

/-- A bank becomes poisoned with a code; one that a deferred fault marks keeps the code it has (R119, R120). -/
def BankRec.poisonedBy (code sub : Nat) (b : BankRec) : BankRec :=
  if b.poison = 0 then { b with poison := code, sub := sub } else b

/-- A cell's accumulator. -/
def cellOf (v : Vat) (odd : Bool) (r c : Nat) : BitVec 48 := look v.cells (odd, r, c) 0#48

/-- Replace the accumulators of a rectangle, given in row order. -/
def setCells (odd : Bool) (r0 c0 rows cols : Nat) (f : Nat → Nat → BitVec 48) (v : Vat) : Vat :=
  let keep := v.cells.filter (fun x => !(x.1.1 == odd && decide (r0 ≤ x.1.2.1) && decide (x.1.2.1 < r0 + rows) &&
    decide (c0 ≤ x.1.2.2) && decide (x.1.2.2 < c0 + cols)))
  let new := ((List.range rows).map (fun r => (List.range cols).filterMap (fun c =>
    if f r c = 0#48 then none else some ((odd, r0 + r, c0 + c), f r c)))).flatten
  { v with cells := keep ++ new }

/-! ### Reading streams (R105, R106, R120) -/

/-- Bytes read by a vat with the first problem met: a faulting or poisoned piece reads as zeros (R120). -/
structure Got where
  bytes : List Byte
  bad : Option (Access × Nat)
  deriving DecidableEq, Repr

/-- Read `n` bytes at an address as a task. -/
def vatRead (s : State) (h t a n : Nat) : Got :=
  (piecesOf a n).foldl (fun g q =>
    match readPlace s h t q.1 with
    | .error sub => { bytes := g.bytes ++ zeros q.2, bad := some (g.bad.getD (.fault sub, q.1)) }
    | .ok l =>
      if absorbedAt s h t l then { bytes := g.bytes ++ zeros q.2, bad := some (g.bad.getD (.absorbed, q.1)) }
      else if poisoned s l q.2 then { bytes := g.bytes ++ zeros q.2, bad := some (g.bad.getD (.poisoned, q.1)) }
      else { g with bytes := g.bytes ++ locRead s l q.2 }) { bytes := [], bad := none }

/-- The first problem of several reads, with the word of the stream. -/
def firstBad (l : List (Nat × Got)) : Option (Nat × Access × Nat) :=
  (l.find? (fun p => p.2.bad.isSome)).bind (fun p => p.2.bad.map (fun b => (p.1, b.1, b.2)))

/-! ### Function tables (R241 to R245) -/

/-- The image of a table source: the recipe's image, or the ROM table (its coefficients: Config). -/
def tableImage : TableSrc → List Byte
  | .rom id => Config.romTable id
  | .image bs => bs

/-- The table of a ROM_ID in a function-table set (R245, R491): its image, where the set carries one. -/
def tableIn (set : List Byte) (id : Nat) : Option (List Byte) :=
  ((List.range (leAt set 0 2)).find? (fun i => leAt set (2 + 4168 * i) 2 == id)).map (fun i =>
    slice set (2 + 4168 * i + 8) 4160)

/-- A ROM table, or the one that the active function-table set replaces it with (R245). -/
def romTable (s : State) (id : Nat) : TableSrc :=
  match s.activeFw.parts.find? (fun p => p.n == 8) with
  | some p => match tableIn p.image id with
    | some bs => .image bs
    | none => .rom id
  | none => .rom id

/-- A signed byte of a table header. -/
def i8 (n : Nat) : Int := if n < 128 then n else (n : Int) - 256

/-- EMIN, EMAX and MBITS of a table (R242); a ROM table's are those of R245. -/
def tableGeom (t : TableSrc) : Int × Int × Nat :=
  match t with
  | .image bs => (i8 (leAt bs 2 1), i8 (leAt bs 3 1), leAt bs 4 1)
  | .rom id =>
    match id with
    | 1 => (-4, 2, 4)
    | 2 => (-4, 2, 4)
    | 7 => (-4, 2, 4)
    | 8 => (-4, 2, 4)
    | 9 => (-3, 3, 4)
    | 10 => (-3, 3, 4)
    | 13 => (-20, 41, 1)
    | 14 => (-20, 41, 1)
    | _ => (-3, 4, 3)

/-- NEGNAN (R242, R245). -/
def tableNegNan (t : TableSrc) : Bool :=
  match t with
  | .image bs => bitOf (leAt bs 5 1) 4
  | .rom id => id == 13 || id == 14

/-- What a ROM table gives in its outer segments and at the infinities (R245): for x ≥ the outer bound, and for
x ≤ minus it. -/
def romOuter (id : Nat) (neg : Bool) (x : Val) : Val :=
  let x' := match x with
    | .inf s => Val.inf s
    | v => v
  match id with
  | 1 => if neg then .zero else x'
  | 2 => if neg then .zero else .one
  | 3 => if neg then .zero else x'
  | 4 => if neg then .zero else .one
  | 5 => if neg then .zero else .one
  | 6 => .zero
  | 7 => if neg then .fin true 1 0 else .one
  | 8 => .zero
  | 9 => if neg then .zero else .inf false
  | 10 => if neg then .zero else .inf false
  | 11 => if neg then .zero else x'
  | 12 => if neg then .zero else .one
  | _ => if neg then .nan else .zero

/-- A ROM table gives an exact value in the inner segment: +∞ for 0x0D and −∞ for 0x0E (R245). -/
def romInner (id : Nat) : Option Val :=
  if id = 13 then some (.inf false) else if id = 14 then some (.inf true) else none

/-- A coefficient of a table as FP32. -/
def coeff (bs : List Byte) (seg i : Nat) : Val := f32.decode (leAt bs (64 + 16 * seg + 4 * i) 4)

/-- ((c3·t + c2)·t + c1)·t + c0 in FP32 (R243). -/
def cubic (bs : List Byte) (seg : Nat) (t : Val) : Val :=
  add32 (mul32 (add32 (mul32 (add32 (mul32 (coeff bs seg 3) t) (coeff bs seg 2)) t) (coeff bs seg 1)) t) (coeff bs seg 0)

/-- MODES of a table image. -/
def tableModes (bs : List Byte) : Nat := leAt bs 5 1

/-- A segment 0 or 127 of a half is constant (R242). -/
def segConstant (modes j h : Nat) : Bool :=
  (j == 0 && bitOf modes (if h = 0 then 0 else 2)) || (j == 127 && bitOf modes (if h = 0 then 1 else 3))

/-- table_eval of R243 on an FP32 value. -/
def tableEval (t : TableSrc) (x : Val) : Val :=
  let g := tableGeom t
  let bs := tableImage t
  match x with
  | .nan => .nan
  | .inf s =>
    match t with
    | .image bs => f32.decode (leAt bs (if s then 12 else 8) 4)
    | .rom id => romOuter id s x
  | .fin s m e =>
    if tableNegNan t ∧ s ∧ m ≠ 0 then .nan
    else
      let neg := s && !tableNegNan t
      let h := if neg then 128 else 0
      let a := Val.fin false m e
      if m = 0 ∨ a.lt (.pow2 g.1) then
        match t with
        | .rom id =>
          match romInner id with
          | some v => v
          | none => cubic bs h (x.mul (.pow2 (-g.1)))
        | .image bs =>
          if segConstant (tableModes bs) 0 h then coeff bs h 0 else cubic bs h ((Val.fin neg m e).mul (.pow2 (-g.1)))
      else if Val.le (.pow2 (g.2.1 + 1)) a then
        match t with
        | .rom id => romOuter id neg x
        | .image bs => if segConstant (tableModes bs) 127 h then coeff bs (h + 127) 0 else cubic bs (h + 127) x
      else
        let ex := a.ilog2
        let mm := (units m e (ex - g.2.2)).1 % 2 ^ g.2.2
        let j := 1 + (ex - g.1).toNat * 2 ^ g.2.2 + mm
        let lo := Val.fin false (2 ^ g.2.2 + mm) (ex - g.2.2)
        cubic bs (h + j) ((a.sub lo).mul (.pow2 ((g.2.2 : Int) - ex)))

/-! ### Operands of a MAC (R44, R72 to R75, R84, R109) -/

/-- An operand stream of a MAC: format, element and scale streams, LINES, FIRST, active lines, eye list and records. -/
structure OpStream where
  fmt : Nat
  elems : Nat
  scales : Nat
  lines : Nat
  first : Nat
  active : Nat
  eyes : Bool
  list : Nat
  recs : Nat
  deriving DecidableEq, Repr

def streamA (ws : List Nat) : OpStream :=
  { fmt := fmtA ws, elems := wd ws 4, scales := wd ws 5, lines := lo24 (wd ws 14), first := lo24 (wd ws 15),
    active := rowsOf ws, eyes := eyeA ws, list := wd ws 6, recs := wd ws 7 }

def streamB (ws : List Nat) : OpStream :=
  { fmt := fmtB ws, elems := wd ws 8, scales := wd ws 9, lines := hi24 (wd ws 14), first := hi24 (wd ws 15),
    active := colsOf ws, eyes := eyeB ws, list := wd ws 10, recs := wd ws 11 }

/-- Bytes of the eye list's bitmaps for K elements. -/
def eyeListBytes (K : Nat) : Nat := 128 * ((K + 1023) / 1024)

/-- The list cut to K (R108): bits at or beyond K are not used. -/
def eyesBelow (eyes : List Byte) (K seg : Nat) : List Nat := (eyesOf eyes seg).filter (fun k => decide (k < K))

/-- One line of an operand: element codes by k, scale bytes by block, and the eye values by k. -/
structure Line where
  codes : List Nat
  scales : List Nat
  eyes : List (Nat × Val)
  deriving DecidableEq, Repr

/-- The base of each segment's records: B_0, then LINES × the size of the segment before (R109). B_0 lies FIRST records
below the address given, so below 0 where that address is low. -/
def segBases (o : OpStream) (eyes : List Byte) (K : Nat) : List Int :=
  let sizes := (List.range ((K + 1023) / 1024)).map (fun sg => eyeRecSize (eyesOf eyes sg).length)
  let b0 := (o.recs : Int) - (o.first * nth sizes 0 0 : Nat)
  (sizes.foldl (fun (acc : List Int × Int) z => (acc.1 ++ [acc.2], acc.2 + (o.lines * z : Nat))) ([], b0)).1

/-- Read one line of an operand, with the problems met in its three streams. -/
def readLine (s : State) (h t : Nat) (o : OpStream) (K : Nat) (eyes : List Byte) (we : Nat) (j : Nat) :
    Line × List (Nat × Got) :=
  let g := blockLen o.fmt
  let ub := if isBlocked o.fmt then unitBytes o.fmt else elemBits o.fmt / 8
  let nb := K / g
  let us := (List.range nb).map (fun b => vatRead s h t (o.elems + (b * o.lines + j) * ub) ub)
  let ss := if isBlocked o.fmt then (List.range nb).map (fun b => vatRead s h t (o.scales + b * o.lines + j) 1) else []
  let bases := segBases o eyes K
  let rs := if o.eyes then (List.range ((K + 1023) / 1024)).map (fun sg =>
      let n := (eyesOf eyes sg).length
      (sg, n, vatRead s h t (nth bases sg 0 + ((o.first + j) * eyeRecSize n : Nat)).toNat (eyeRecSize n))) else []
  let codes := if isBlocked o.fmt then (us.map (fun g => unpackUnit o.fmt g.bytes)).flatten
    else us.map (fun g => ofLe g.bytes)
  ({ codes := codes, scales := ss.map (fun g => ofLe g.bytes),
     eyes := (rs.map (fun p => (eyesOf eyes p.1).zip (eyeVals p.2.1 p.2.2.bytes))).flatten },
   us.map (fun g => (we, g)) ++ ss.map (fun g => (we + 1, g)) ++ rs.map (fun p => (we + 3, p.2.2)))

/-- The value that an operand line supplies at k: its eye value, or its element with its block scale (R44). -/
def Line.valAt (l : Line) (fmt k : Nat) : Val :=
  match l.eyes.find? (fun e => e.1 == k) with
  | some e => e.2
  | none =>
    let v := elemVal fmt (nth l.codes k 0)
    if isBlocked fmt then scaled v (e8m0 (nth l.scales (k / blockLen fmt) 0)) else v

/-- The bare element value at k. -/
def Line.bareAt (l : Line) (fmt k : Nat) : Val := elemVal fmt (nth l.codes k 0)

/-- Add products one by one into W48 (R53). -/
def accumulate (w : BitVec 48) (ps : List Val) : BitVec 48 := ps.foldl (fun w p => (w48Add w p).1) w

/-- Both operands are narrow in the sense of R73: E2M1 class or O2 on both sides, so that beats carry several
products and fold (R45, R52). -/
def foldsBlocks (fa fb : Nat) : Bool := (isE2M1Class fa || fa == 10) && (isE2M1Class fb || fb == 10)

/-- One block of a narrow × narrow product in the order of R45: the sub-accumulator and its fold, then the eye
indices of the union in ascending k. -/
def foldBlock (fa fb : Nat) (a b : Line) (eyes : List Nat) (k0 len : Nat) (w : BitVec 48) : BitVec 48 :=
  let ks := (List.range len).map (· + k0)
  let narrow := ks.filter (fun k => !(k ∈ eyes))
  let sum := narrow.foldl (fun acc k => acc.add ((a.bareAt fa k).mul (b.bareAt fb k))) Val.zero
  let sc := (e8m0 (nth a.scales (k0 / blockLen fa) 0)).mul (e8m0 (nth b.scales (k0 / blockLen fb) 0))
  let w1 := if narrow.isEmpty then w else (w48Add w (sum.mul sc)).1
  accumulate w1 ((ks.filter (fun k => k ∈ eyes)).map (fun k => (a.valAt fa k).mul (b.valAt fb k)))

/-- One cell of a MAC: K products into the accumulator (R45, R72 to R74). -/
def macCell (fa fb K : Nat) (a b : Line) (eyes : List Nat) (w : BitVec 48) : BitVec 48 :=
  if foldsBlocks fa fb then
    let len := if fa = 10 ∧ fb = 10 then 64 else 32
    (List.range (K / len)).foldl (fun w i => foldBlock fa fb a b eyes (i * len) len w) w
  else accumulate w ((List.range K).map (fun k => (a.valAt fa k).mul (b.valAt fb k)))

/-- Invalid codes that the lines of an O2 operand hold, outside its own eye indices (R39, R43). -/
def opInvalid (o : OpStream) (ls : List Line) : Nat :=
  if o.fmt = 10 then
    (ls.map (fun l => (l.codes.zipIdx.filter (fun c => c.1 == 2 && !l.eyes.any (fun e => e.1 == c.2))).length)).sum
  else 0

/-- Everything a MAC reads: its lines, the problem met, a malformed list. -/
structure MacRead where
  a : List Line
  b : List Line
  eyes : List Nat
  bad : Option (Nat × Access × Nat)
  malformed : Option (Nat × Nat)
  deriving DecidableEq, Repr

/-- Read the operands of a MAC (R81 to R84, R109). -/
def macRead (s : State) (h t : Nat) (ws : List Nat) : MacRead :=
  let K := kOf ws
  let oa := streamA ws
  let ob := streamB ws
  let la := if oa.eyes then vatRead s h t oa.list (eyeListBytes K) else { bytes := [], bad := none }
  let lb := if ob.eyes then vatRead s h t ob.list (eyeListBytes K) else { bytes := [], bad := none }
  let segs := List.range ((K + 1023) / 1024)
  let as := (List.range oa.active).map (readLine s h t oa K la.bytes 4)
  let bs := (List.range ob.active).map (readLine s h t ob K lb.bytes 8)
  { a := as.map (·.1), b := bs.map (·.1),
    eyes := (segs.map (fun sg => eyesBelow la.bytes K sg ++ eyesBelow lb.bytes K sg)).flatten.dedup,
    bad := firstBad ([(6, la), (10, lb)] ++ (as.map (·.2)).flatten ++ (bs.map (·.2)).flatten),
    malformed :=
      let crowded := fun (l : List Byte) => segs.any (fun sg => decide (64 < (eyesOf l sg).length))
      if oa.eyes && crowded la.bytes then some (6, oa.list) else if ob.eyes && crowded lb.bytes then some (10, ob.list) else none }

/-! ### The drain (R90 to R92, R111 to R113) -/

/-- What one readout of a cell gives: the tap value, the value to narrow, the W48 counts. -/
structure Readout where
  tap : Val
  out : Val
  counts : Counts
  deriving DecidableEq, Repr

/-- The side streams of a drain. -/
structure DrainSide where
  srow : List Val
  scol : List Val
  bias : List Val
  /-- residual and saved input by row and column. -/
  res : List (List Val)
  z : List (List Val)
  table : Option TableSrc
  deriving DecidableEq, Repr

/-- Element (r, c) of a list of rows. -/
def at2 (l : List (List Val)) (r c : Nat) : Val := nth (nth l r []) c .zero

/-- The drain chain on one value, stages 1 to 4 (R91, R244). -/
def chain (ws : List Nat) (d : DrainSide) (r c : Nat) (w : BitVec 48) : Readout :=
  let step := fun (p : Val × Counts) (on : Bool) (f : Val → Val) =>
    if on then
      let q := w48Round (f p.1)
      (w48Val q.1, p.2.add q.2.counts)
    else p
  let p0 : Val × Counts := (w48Val w, {})
  let p1 := step p0 (srow ws) (fun v => v.mul (nth d.srow r .one))
  let p2 := step p1 (scol ws) (fun v => v.mul (nth d.scol c .one))
  let p3 := step p2 (biasOn ws) (fun v => v.add (nth d.bias c .zero))
  let p4 := match d.table with
    | none => p3
    | some t =>
      if fnOf ws = 1 then (tableEval t (r32 p3.1), p3.2)
      else if fnOf ws = 2 then step p3 true (fun v => v.mul (tableEval t (at2 d.z r c)))
      else p3
  let p5 := step p4 (resOn ws) (fun v => v.add (at2 d.res r c))
  { tap := p3.1, out := p5.1, counts := p5.2 }

/-- One write of a descriptor or of a carry: address, bytes, and the word of the stream it belongs to (R118). -/
structure Put where
  addr : Nat
  bytes : List Byte
  word : Nat
  deriving DecidableEq, Repr

/-- Narrow a matrix of rows × cols values (by row) to a format in one orientation, from an element and a scale
address with LINES, whose streams are those of words we and we + 1: the writes in readout order and the counts, NaN and
infinity apart (R92, R94, R106, R113). -/
def narrowMatrix (fmt rule : Nat) (colMajor : Bool) (we ea sa lines rows cols : Nat) (f : Nat → Nat → Val) :
    List Put × Counts :=
  let axis := if colMajor then cols else rows
  let other := if colMajor then rows else cols
  let v := fun (a o : Nat) => if colMajor then f o a else f a o
  if isBlocked fmt then
    let g := blockLen fmt
    let cells := (List.range ((axis + g - 1) / g)).map (fun b => (List.range other).map (fun o =>
      let xs := (List.range g).map (fun i => if b * g + i < axis then some (v (b * g + i) o) else none)
      let p := narrowBlock fmt rule (allNearest g) xs
      ([{ addr := ea + (b * lines + o) * unitBytes fmt, bytes := packUnit fmt p.2.1, word := we },
        { addr := sa + b * lines + o, bytes := leBytes 1 p.1, word := we + 1 }], p.2.2)))
    let l := cells.flatten
    ((l.map (·.1)).flatten, l.foldl (fun c p => c.add p.2) {})
  else
    let eb := elemBits fmt / 8
    let l := ((List.range axis).map (fun a => (List.range other).map (fun o =>
      let p := narrowPlain fmt .nearest (v a o)
      (({ addr := ea + (a * lines + o) * eb, bytes := leBytes eb p.1, word := we } : Put), p.2)))).flatten
    (l.map (·.1), l.foldl (fun c p => c.add p.2) {})

/-- Read a matrix of rows × cols in one orientation and format, widened: by row, with the problems met. -/
def readMatrix (s : State) (h t fmt : Nat) (colMajor : Bool) (ea sa lines rows cols we : Nat) :
    List (List Val) × List (Nat × Got) :=
  let axis := if colMajor then cols else rows
  let other := if colMajor then rows else cols
  if isBlocked fmt then
    let g := blockLen fmt
    let us := (List.range ((axis + g - 1) / g)).map (fun b => (List.range other).map (fun o =>
      (vatRead s h t (ea + (b * lines + o) * unitBytes fmt) (unitBytes fmt), vatRead s h t (sa + b * lines + o) 1)))
    let val := fun (a o : Nat) =>
      let u := nth (nth us (a / g) []) o ({ bytes := [], bad := none }, { bytes := [], bad := none })
      scaled (elemVal fmt (elemAt fmt u.1.bytes (a % g))) (e8m0 (ofLe u.2.bytes))
    ((List.range rows).map (fun r => (List.range cols).map (fun c => if colMajor then val c r else val r c)),
     us.flatten.map (fun u => (we, u.1)) ++ us.flatten.map (fun u => (we + 1, u.2)))
  else
    let eb := elemBits fmt / 8
    let es := (List.range axis).map (fun a => (List.range other).map (fun o =>
      vatRead s h t (ea + (a * lines + o) * eb) eb))
    let val := fun (a o : Nat) => elemVal fmt (ofLe (nth (nth es a []) o { bytes := [], bad := none }).bytes)
    ((List.range rows).map (fun r => (List.range cols).map (fun c => if colMajor then val c r else val r c)),
     es.flatten.map (fun g => (we, g)))

/-- FP32 entries of one array of the vector block. -/
def vecRead (s : State) (h t a n : Nat) (on : Bool) : List Val × List (Nat × Got) :=
  if on then
    let g := vatRead s h t a (4 * n)
    ((List.range n).map (fun i => f32.decode (leAt g.bytes (4 * i) 4)), [(8, g)])
  else ([], [])

/-- What a drain reads, with the first problem met (R111, R112). -/
def drainRead (s : State) (r : Recipe) (h t : Nat) (ws : List Nat) : DrainSide × Option (Nat × Access × Nat) :=
  let R := rowsOf ws
  let C := colsOf ws
  let col := orient ws != 0
  let a := vecRead s h t (wd ws 8) R (srow ws)
  let b := vecRead s h t (wd ws 8 + 4096) C (scol ws)
  let c := vecRead s h t (wd ws 8 + 8192) C (biasOn ws)
  let res := if resOn ws then readMatrix s h t (fmtRes ws) col (wd ws 9) (wd ws 10) (lo24 (wd ws 15)) R C 9
    else ([], [])
  let z := if fnOf ws = 2 then readMatrix s h t (fmtSt ws) col (wd ws 11) (wd ws 12) (hi24 (wd ws 15)) R C 11
    else ([], [])
  let tab := if fnOf ws = 0 then none
    else (r.tables.find? (fun x => x.1 == slotOf ws)).map (fun x => x.2.1)
  ({ srow := a.1, scol := b.1, bias := c.1, res := res.1,
     z := z.1.map (fun l => l.map (fun v => match v with
       | .fin _ _ _ => r32 v
       | v => v)), table := tab },
   firstBad (a.2 ++ b.2 ++ c.2 ++ res.2 ++ z.2))

/-- A value is NaN or infinite. -/
def special (v : Val) : Bool := !v.isFinite

/-- All that a drain writes, in order, and what it counts: NaN and infinity once a cell (R55, R61), W48 counts of
every readout (R112). The stash is written first, then copy 0, then copy 1 (DESIGN CHOICE, log entry 91: R91 and R92
order the writes of one output only). -/
def drainWrites (ws : List Nat) (d : DrainSide) (cell : Nat → Nat → BitVec 48) : List Put × Counts :=
  let R := rowsOf ws
  let C := colsOf ws
  let rd := fun r c => chain ws d r c (cell r c)
  let o0 := narrowMatrix (fmtO0 ws) (srule ws) (orient ws != 0) 4 (wd ws 4) (wd ws 5) (lo24 (wd ws 14)) R C
    (fun r c => (rd r c).out)
  let o1 := if orient ws = 2 then
      narrowMatrix (fmtO1 ws) (srule ws) false 6 (wd ws 6) (wd ws 7) (hi24 (wd ws 14)) R C (fun r c => (rd r c).out)
    else ([], {})
  let st := if stashOn ws then
      narrowMatrix (fmtSt ws) (srule ws) (orient ws != 0) 11 (wd ws 11) (wd ws 12) (hi24 (wd ws 15)) R C
        (fun r c => (rd r c).tap)
    else ([], {})
  let cells := ((List.range R).map (fun r => (List.range C).map (fun c => rd r c))).flatten
  let chainC := cells.foldl (fun c x => c.add x.counts) ({} : Counts)
  let chainN := if orient ws = 2 then chainC.add chainC else chainC
  let n := (cells.filter (fun x => special x.out || (stashOn ws && special x.tap))).length
  (st.1 ++ o0.1 ++ o1.1, { (o0.2.add (o1.2.add (st.2.add chainN))) with nanInf := n })

/-- Perform writes in order as a task; the first that faults ends them, with what it was, the write and the rest
(R119). -/
def doPuts (h t unit : Nat) (ps : List Put) (s : State) : State × Option (Access × Put × List Put) :=
  match ps with
  | [] => (s, none)
  | p :: rest =>
    match taskWrite h t unit p.addr p.bytes s with
    | (s1, .ok) => doPuts h t unit rest s1
    | (s1, .dropped) => doPuts h t unit rest s1
    | (s1, e) => (s1, some (e, p, rest))

/-- Perform the writes of a speculative unit: a write that faults is dropped and its fault deferred with the unit's own
detail; the first such subcode (R120, R144). -/
def doPutsSpec (h t unit : Nat) (detail : Nat → Put → List Byte) (ps : List Put) (s : State) : State × Option Nat :=
  ps.foldl (fun acc p =>
    match taskWrite h t unit p.addr p.bytes acc.1 with
    | (s1, .fault sub) =>
      (deferFault h t { code := 0x14, sub := sub, unit := unit, detail := detail sub p } s1, some (acc.2.getD sub))
    | (s1, _) => (s1, acc.2)) (s, none)

/-- The rest of a faulted drain's output is undefined: free bytes (R119, log entry 7). -/
def scramble (h t unit : Nat) (ps : List Put) (s : State) : State :=
  ps.foldl (fun s p =>
    (taskWrite h t unit p.addr ((List.range p.bytes.length).map (Config.freeByte s.free)) s).1.drawn) s

/-- The stash opens that the writes of a drain need are decided before any of its writes (R233): true when one
waits. -/
def preOpen (h t : Nat) (ps : List Put) (s : State) : State × Bool :=
  (ps.map (fun p => piecesOf p.addr p.bytes.length)).flatten.foldl (fun acc q =>
    match acc.1.recipe? h with
    | none => acc
    | some r =>
      match stashAt r q.1 with
      | some (i, _) =>
        if specRunning acc.1 h t then acc
        else match stashWrite h i t 0 acc.1 with
          | (s1, .wait) => (s1, true)
          | (s1, _) => (s1, acc.2)
      | none => acc) (s, false)

end Sys2Proof.Machine
end

