-- ==== Sys2Proof/Machine/Steps.lean ====
section
/-! DEFINITION. Tasks of a step (R171 to R188): loading, readiness, speculation's commit and discard, retirement, and
the consequences of tumbler adds, which every command that adds lets settle. -/

namespace Sys2Proof.Machine

/-! ### Records and pools -/

/-- The record of a task. -/
def Recipe.task? (r : Recipe) (t : Nat) : Option Task := r.tasks[t]?

/-- Task slots of the speculative pool of a wheel at throttle c (R180). -/
def specPool (r : Recipe) (w c : Nat) : Nat := nth r.taskSlots w 0 * r.specShare * c / 1024

/-- Ordinary task slots of a wheel (R180). -/
def ordinaryPool (r : Recipe) (w : Nat) : Nat := nth r.taskSlots w 0 - specPool r w 16

/-- A task left the speculative pool before it started: its guard committed (R184). -/
def Recipe.leftPool (r : Recipe) (t : Nat) : Bool :=
  match r.running with
  | some u => u.early.contains t
  | none => false

/-- A run draws on the speculative pool: a SPEC task that has not left it (R180, R184). -/
def inSpecPool (r : Recipe) (x : TaskRun) : Bool :=
  match r.task? x.idx with
  | some k => k.spec && !r.leftPool x.idx
  | none => false

/-- Live runs of a wheel in one pool. -/
def poolUse (r : Recipe) (w : Nat) (spec : Bool) : Nat :=
  match r.running with
  | none => 0
  | some u => (u.runs.filter (fun x => x.live && (match r.task? x.idx with
      | some k => k.home == w
      | none => false) && (inSpecPool r x == spec))).length

/-- The hoop of a hoop task: the one it names, or the one that ran its last launch record (R170, R175). -/
def taskHoop (s : State) (h t : Nat) (k : Task) : Nat :=
  if k.unit = 127 then (((s.recipe? h).bind (fun r => r.run? t)).map (fun x => x.hoop)).getD 0 else k.unit

/-- The unit ID of a retirement add or of a task as a whole (R170). -/
def taskUnit (s : State) (h t : Nat) (k : Task) : Nat :=
  match k.cls with
  | 0 => unitId 1 k.home 0
  | 1 => unitId 2 k.home (taskHoop s h t k)
  | 2 => unitId 7 0 (nth s.tiers.hbmStacks 0 0)
  | _ => unitId 9 0 k.unit

/-- A write that a task issued waits at its bank, so that it is not visible yet (R139, R158). -/
def writesOut (s : State) (h t : Nat) : Bool :=
  s.tiers.requests.any (fun q => q.data.isSome && q.id.recipe == h && q.id.task == t)

/-- A recipe's step runs and has not faulted. -/
def Recipe.stepping (r : Recipe) : Bool :=
  match r.running with
  | some u => u.fault.isNone
  | none => false

/-! ### Loading (R174, R183) -/

/-- A descriptor that has not begun. -/
def DescRun.fresh : DescRun :=
  { phase := .waiting, began := 0, ready := 0, waitFrom := 0, packets := [], units := [], heldCopies := false,
    rindWait := none, rindPosted := false, counted := [], stage := 0, awaiting := [], refused := [] }

/-- A task just loaded. -/
def TaskRun.fresh (t n now : Nat) : TaskRun :=
  { idx := t, phase := .loaded, ready := none, loadedAt := now, missing := none, startOrder := 0, hoop := 0, specRun := false, verdict := none,
    descs := List.replicate n DescRun.fresh, record := 0, shadows := [], heldPosts := [], deferred := none,
    shadowWaited := false, passedOver := 0, versionWait := [], versionPosted := [], spanSince := none }

/-- The next task of a wheel and kind to load: the lowest index not yet loaded; a SPEC task that left its pool before it
started loads as an ordinary one, in its table position (R174, R184). -/
def nextToLoad (r : Recipe) (w : Nat) (spec : Bool) : Option Nat :=
  match r.running with
  | none => none
  | some u => (List.range r.tasks.length).find? (fun t =>
      (match r.task? t with
        | some k => k.home == w && (k.spec && !u.early.contains t) == spec
        | none => false) && !u.runs.any (fun x => x.idx == t))

/-- The first wait of a list that a task makes on a tumbler it may not access, with its detector (R167, R170). -/
def waitMisuse (r : Recipe) (iss : Issuer) (hs : List Nat) : Option (Nat × Nat) :=
  hs.findSome? (fun x => (accessMisuse r x { iss with op := 2 }).map (fun d => (x, d)))

/-- A wait of a task on a tumbler it may not access is misuse, and the task faults (R170). -/
def refuseWaits (h t : Nat) (hs : List Nat) (s : State) : State :=
  match s.recipe? h with
  | none => s
  | some r =>
    match r.task? t with
    | none => s
    | some k =>
      let iss := Issuer.ofTask t (taskUnit s h t k) k.vread
      match waitMisuse r iss hs with
      | some (x, d) => misuse h d x { iss with op := 2 } s
      | none => s

/-- Load a task; a guard already resolved, or whose VALUE already reaches G, gives its verdict now (R183). -/
def enterTask (h t : Nat) (s : State) : State :=
  match s.recipe? h with
  | none => s
  | some r =>
    match r.task? t with
    | none => s
    | some k =>
      let n := if k.cls = 1 then 0 else k.dcount
      let s1 := s.onStep h (fun u => { u with runs := u.runs ++ [TaskRun.fresh t n s.now] })
      if r.leftPool t then s1.onTask h t (fun x => { x with verdict := some true })
      else if k.spec ∨ k.alt then
        let g := guardG k r.ordinal
        match r.verdicts.find? (fun v => v.1 == k.guard && v.2.1 == g) with
        | some v => giveVerdict h t k.spec v.2.2 s1
        | none => if g ≤ r.value k.guard then resolveGuard h k.guard g (r.value k.guard == g) s1 else s1
      else s1

/-- Load a task, with the misuse of a wait of its record (R170, R174). -/
def loadTask (h t : Nat) (s : State) : State :=
  let s1 := enterTask h t s
  match (s1.recipe? h).bind (fun r => r.task? t) with
  | some k => refuseWaits h t (k.waits.map (fun w => w.handle)) s1
  | none => s1

/-! ### Readiness (R172, R175, R184, R187) -/

/-- The waits of a task that are not satisfied, by index. -/
def missingWaits (r : Recipe) (k : Task) : List Nat :=
  (k.waits.zipIdx.filter (fun w => !r.reached w.1.handle (threshold w.1.val w.1.stride r.ordinal))).map (fun w => w.2)

/-- Time of a stall added to the layer statistics, as a credit stall or a token stall (R173). -/
def addStall (layer : Nat) (credit : Bool) (ns : Nat) (ls : List LayerStat) : List LayerStat :=
  let base : LayerStat := { layer := layer, tokenStall := 0, creditStall := 0, versionWait := 0, rindWait := 0 }
  let ls1 := if ls.any (fun l => l.layer == layer) then ls else ls ++ [base]
  modFirst (fun l => l.layer == layer) (fun l =>
    if credit then { l with creditStall := l.creditStall + ns } else { l with tokenStall := l.tokenStall + ns }) ls1

/-- Number a loaded task as ready (R175), with its stall. -/
def markReady (h t : Nat) (k : Task) (x : TaskRun) (s : State) : State :=
  let ns := s.now - x.loadedAt
  let credit := match x.missing with
    | some i => bitOf k.credMask i
    | none => false
  let s1 := s.onRecipe h (fun r => { r with layerStats :=
    if x.missing.isSome && ns != 0 then addStall k.layer credit ns r.layerStats else r.layerStats })
  ({ s1 with seq := s1.seq + 1 }).onTask h t (fun y => { y with ready := some s1.seq, spanSince := none })

/-- The words of descriptor i of a task that has 128-byte descriptors. -/
def vatWords (r : Recipe) (k : Task) (i : Nat) : List Nat := descWords (descBytes r k i 128)

/-- A wait of an update task is named by the VWIDX of one of its descriptors with NCOPY > 0 (R271). -/
def isVersionWait (r : Recipe) (k : Task) (i : Nat) : Bool :=
  k.cls == 2 && (List.range k.dcount).any (fun j =>
    let u := wd (vatWords r k j) 0
    bitsOf u 52 51 != 0 && bitsOf u 47 46 == i)

/-- Add a wait to the layer statistics, as a version wait or as a rind wait (R271, R278). -/
def addWait (layer : Nat) (rind : Bool) (ns : Nat) (ls : List LayerStat) : List LayerStat :=
  let base : LayerStat := { layer := layer, tokenStall := 0, creditStall := 0, versionWait := 0, rindWait := 0 }
  let ls1 := if ls.any (fun l => l.layer == layer) then ls else ls ++ [base]
  modFirst (fun l => l.layer == layer) (fun l =>
    if rind then { l with rindWait := l.rindWait + ns } else { l with versionWait := l.versionWait + ns }) ls1

/-- Follow the version waits of a loaded update task: one begins when it alone is missing, and ends with its time
added to the layer statistics (R271). -/
def trackVersion (h t : Nat) (r : Recipe) (k : Task) (x : TaskRun) (ms : List Nat) (s : State) : State :=
  match x.versionWait with
  | [] =>
    match ms with
    | [i] => if isVersionWait r k i then s.onTask h t (fun x => { x with versionWait := [(i, s.now)] }) else s
    | _ => s
  | (i, since) :: _ =>
    if ms = [i] then s
    else (s.onTask h t (fun x => { x with versionWait := [] })).onRecipe h (fun r => { r with
      layerStats := addWait k.layer false (s.now - since) r.layerStats })

/-- A SPEC task whose guard commits before it starts leaves the speculative pool, to be loaded as an ordinary task
(R184). -/
def leavePool (h t : Nat) (s : State) : State :=
  s.onStep h (fun u => { u with runs := u.runs.filter (fun x => x.idx != t), early := u.early ++ [t] })

/-- The loaded tasks of a step become ready, end before they start, or go on waiting. -/
def settleLoaded (h t : Nat) (s : State) : State :=
  match s.recipe? h with
  | none => s
  | some r =>
    match r.task? t, r.run? t with
    | some k, some x =>
      if x.phase != .loaded || !r.stepping then s
      else if k.spec ∧ x.verdict = some false then endTask h t 2 s
      else if k.spec ∧ x.verdict = some true ∧ ¬ r.leftPool t then leavePool h t s
      else if k.alt ∧ x.verdict = some true then endTask h t 3 s
      else if x.ready.isSome then s
      else
        let ms := missingWaits r k
        let s := trackVersion h t r k x ms s
        let span := ms.any (fun i => match k.waits[i]? with
          | some w => (r.tumbler w.handle).kind == 2
          | none => false)
        let room := !inSpecPool r x || decide (poolUse r k.home true ≤ specPool r k.home r.throttle)
        if ms.isEmpty ∧ (k.alt → x.verdict = some false) ∧ room then markReady h t k x s
        else s.onTask h t (fun x => { x with
          missing := if ms.isEmpty then x.missing else some (nth ms 0 0),
          spanSince := if span then some (x.spanSince.getD s.now) else none })
    | _, _ => s

/-! ### Late weights (R156, R157) -/

/-- Add one vat wait to a layer's late-wait entry with ADD64, CAS32 and ADDS32 (R138, R157): the number of beat periods is
a matter of timing and free. A poisoned entry gives no valid data and is left as it is (R135). -/
def lateWaitAdd (h layer : Nat) (s : State) : State :=
  match s.recipe? h with
  | none => s
  | some r =>
    if r.lateWait = 0 then s
    else
      match translate s r (r.lateWait + 16 * layer) true with
      | .ok (.near pa) =>
        if poisoned s (.near pa) 16 then s
        else
          let w := (memLe s.near pa 8 + Config.freeNat s.free) % 2 ^ 64
          let want := (r.ordinal + 1) % 2 ^ 32
          let s1 := (locWrite (.near pa) (leBytes 8 w) s).drawn
          if memLe s1.near (pa + 12) 4 = want then s1
          else
            let s2 := locWrite (.near (pa + 12)) (leBytes 4 want) s1
            locWrite (.near (pa + 8)) (leBytes 4 (satAdd 32 (memLe s2.near (pa + 8) 4) 1)) s2
      | _ => s

/-- A descriptor of a started vat or hinge task that waits and whose wait is satisfied, with its pool offset (R103). -/
def dueDescs (r : Recipe) : List (Nat × Nat × Nat) :=
  match r.running with
  | none => []
  | some u => (u.runs.map (fun x => match r.task? x.idx with
    | some k =>
      if !x.started || k.cls == 1 || k.cls == 2 then []
      else x.descs.zipIdx.filterMap (fun p =>
        let ws := vatWords r k p.2
        if p.1.phase == .waiting && p.1.ready == 0 && r.reached (waitId ws) (waitVal ws) then
          some (k.descOff + 128 * p.2, x.idx, p.2)
        else none)
    | none => [])).flatten

/-- Insert by pool offset. -/
def insertOff (a : Nat × Nat × Nat) : List (Nat × Nat × Nat) → List (Nat × Nat × Nat)
  | [] => [a]
  | b :: l => if a.1 < b.1 then a :: b :: l else b :: insertOff a l

/-- Number the descriptors whose wait is now satisfied: those that one event satisfies go in pool order (R76, R103). -/
def settleDescs (h : Nat) (s : State) : State :=
  match s.recipe? h with
  | none => s
  | some r => forEach ((dueDescs r).foldl (fun l a => insertOff a l) []) (fun a s =>
      { s with seq := s.seq + 1 }.onDesc h a.2.1 a.2.2 (fun d => { d with ready := s.seq })) s

/-! ### Waits of panes (R156) -/

/-- What a pane's descriptors come to: pane, recipe, layer, whether one is pending, whether one is ready or in
progress. -/
structure PaneDesc where
  pane : Nat × Nat
  recipe : Nat
  layer : Nat
  pending : Bool
  held : Bool
  deriving DecidableEq, Repr

/-- The descriptors of started tasks of vat `w` that name a pane. -/
def paneDescs (s : State) (w : Nat) : List PaneDesc :=
  (s.recipes.map (fun r => match r.running with
    | none => []
    | some u => (u.runs.map (fun x => match r.task? x.idx with
      | some k =>
        if k.cls = 0 ∧ k.home = w ∧ x.started ∧ u.fault.isNone then
          x.descs.zipIdx.filterMap (fun p =>
            let ws := vatWords r k p.2
            let d : PaneDesc := { pane := (arrOf ws, paneOf ws), recipe := r.handle, layer := k.layer,
                                  pending := p.1.phase == .waiting && p.1.ready == 0,
                                  held := (p.1.phase == .waiting && p.1.ready != 0) || p.1.phase == .begun ||
                                    p.1.phase == .worked }
            if (opOf ws == 6 && fscope ws) || !(d.pending || d.held) then none else some d)
        else []
      | none => [])).flatten)).flatten

/-- A pane waits: a descriptor is pending there, and none is ready or in progress (R156). The wait counts against the
layer of the pending descriptor that comes first (DESIGN CHOICE, log entry 81: R156 names one layer for a pane's wait
and not which, where descriptors of several layers are pending). -/
def paneWaiting (ds : List PaneDesc) (p : Nat × Nat) : Option PaneDesc :=
  if ds.any (fun d => d.pane == p && d.held) then none else ds.find? (fun d => d.pane == p && d.pending)

/-- The waits of the panes of a vat begin and end; one that ends adds its time to its layer's late-wait entry (R156,
R157). -/
def trackPanes (w : Nat) (s : State) : State :=
  let ds := paneDescs s w
  let old := (s.vat w).paneWaits
  let ended := old.filter (fun x => (paneWaiting ds x.1).isNone)
  let kept := old.filter (fun x => (paneWaiting ds x.1).isSome)
  let begun := ((ds.map (fun d => d.pane)).dedup).filterMap (fun p =>
    if old.any (fun x => x.1 == p) then none
    else (paneWaiting ds p).map (fun d => (p, (s.now, d.recipe, d.layer))))
  let s1 := forEach ended (fun x s => if x.2.1 < s.now then lateWaitAdd x.2.2.1 x.2.2.2 s else s) s
  if ended.isEmpty ∧ begun.isEmpty then s1
  else s1.onVat w (fun v => { v with paneWaits := kept ++ begun })

/-! ### Commit and discard (R185, R186) -/

/-- Unwritten granules of a shadow are copied from the declared page's committed contents; poison is carried. -/
def completeShadow (h : Nat) (p : Shadow) (s : State) : State :=
  match s.recipe? h with
  | none => s
  | some r => forEach ((List.range 512).filter (fun g => !(g ∈ p.written))) (fun g s =>
      copyPage s r (p.page + g * 4096) (p.pa + g * 4096)) s

/-- Exchange a declared page and its shadow in the translation store; the former page is on its way back (R185). -/
def exchangePage (h : Nat) (p : Shadow) (s : State) : State :=
  match s.recipe? h with
  | none => s
  | some r =>
    match translate s r p.page false with
    | .ok (.near pa) =>
      let key := flipPage r (p.page - nearBase)
      s.onRecipe h (fun r => { r with
        remap := (key, p.pa) :: r.remap.filter (fun m => m.1 != key),
        shadowReturning := r.shadowReturning ++ [pa] })
    | _ => s

/-- Adds that a task makes as it ends, while no misuse has ended it: handle, increment, unit of the issuer (R170). -/
def endAdds (h t : Nat) (version : Bool) (os : List (Nat × Nat × Nat)) (s : State) : State :=
  forEach os (fun o s =>
    if taskLive s h t then tAdd h o.1 o.2.1 (Issuer.ofTask t o.2.2 version) s else s) s

/-- The outputs of a retiring task (R176). -/
def addOutputs (h t : Nat) (s : State) : State :=
  match (s.recipe? h).bind (fun r => r.task? t) with
  | none => s
  | some k => endAdds h t k.vread (k.outs.map (fun o => (o.2, o.1, taskUnit s h t k))) s

/-- The event of a deferred fault at commit (R144, R519). -/
def postDeferred (d : Deferred) (s : State) : State :=
  if d.code = 0x14 then postTranslation d.unit d.sub d.detail s
  else if d.code = 0x21 then post 0x7E2 d.unit 0x21 d.detail s else s

/-- Commit (R185). -/
def commitTask (h t : Nat) (s : State) : State :=
  match (s.recipe? h).bind (fun r => r.run? t), (s.recipe? h).bind (fun r => r.task? t) with
  | some x, some k =>
    match x.deferred with
    | some d => taskFault h t d.unit 0x14 d.code (postDeferred d s)
    | none =>
      let s1 := forEach x.shadows (completeShadow h) s
      let s2 := forEach x.shadows (exchangePage h) s1
      let s3 := (endAdds h t k.vread x.heldPosts s2).onTask h t (fun x => { x with shadows := [] })
      stopCores h t (closeTask h t 1 (addOutputs h t s3))
  | _, _ => s

/-- Poison the bank of an accumulating descriptor that has begun and not signalled (R119, R186). -/
def poisonIfOpen (k : Task) (ws : List Nat) (d : DescRun) (s : State) : State :=
  if (d.phase == .begun || d.phase == .worked) && (opOf ws == 1 || opOf ws == 2 || opOf ws == 4 || opOf ws == 5) then
    s.onVat k.home (modBank (arrOf ws) (paneOf ws) (bankBit ws) (fun b => { b with poison := 0x21, sub := 0 }))
  else s

/-- Descriptors in progress end: they signal no more (R426). -/
def endDescs (h t : Nat) (s : State) : State :=
  let stop := fun (d : DescRun) => if d.phase == .begun || d.phase == .worked then { d with phase := .faulted } else d
  s.onTask h t (fun x => { x with descs := x.descs.map stop })

/-- Stop a task's descriptors, poisoning the banks that they were accumulating (R119, R186). -/
def stopVatTask (h t : Nat) (s : State) : State :=
  match (s.recipe? h).bind (fun r => r.run? t), (s.recipe? h).bind (fun r => (r.task? t).map (fun k => (r, k))) with
  | some x, some (r, k) =>
    endDescs h t (if k.cls = 0 then
      forEach (List.range x.descs.length) (fun i s => match x.descs[i]? with
        | some d => poisonIfOpen k (vatWords r k i) d s
        | none => s) s
    else s)
  | _, _ => s

/-- Return the shadows of a task (R186). -/
def returnShadows (h t : Nat) (s : State) : State :=
  match (s.recipe? h).bind (fun r => r.run? t) with
  | none => s
  | some x =>
    (s.onRecipe h (fun r => { r with shadowReturning := r.shadowReturning ++ x.shadows.map (fun p => p.pa) })).onTask h t
      (fun x => { x with shadows := [], heldPosts := [] })

/-- A task ends ABSORBED, and its step faults (R178, R426). -/
def absorbTask (h unit t : Nat) (s : State) : State :=
  returnShadows h t (taskFault h t unit 0x12 0 (stopVatTask h t s))

/-- Discard (R186). -/
def discardTask (h t : Nat) (s : State) : State :=
  match (s.recipe? h).bind (fun r => r.run? t) with
  | none => s
  | some x =>
    let s1 := stopCores h t (stopVatTask h t s)
    let s2 := if x.deferred.isSome then post 0x921 0 0 [] s1 else s1
    endTask h t 2 ((returnShadows h t s2).onTask h t (fun x => { x with deferred := none }))

/-- All work of a started task is done: every descriptor has signalled, or every launch record has ended, and every write
it issued is visible (R176). -/
def workDone (s : State) (h : Nat) (k : Task) (x : TaskRun) : Bool :=
  !writesOut s h x.idx && if k.cls = 1 then decide (k.dcount ≤ x.record) && !s.cores.any (fun c => c.recipe == h && c.task == x.idx)
  else x.descs.all (fun d => d.phase == .signalled)

/-- A started speculative task with a verdict commits once its work is done, or is discarded (R184). -/
def settleSpec (h t : Nat) (s : State) : State :=
  match s.recipe? h with
  | none => s
  | some r =>
    match r.task? t, r.run? t with
    | some k, some x =>
      if x.started && x.specRun && r.stepping then
        match x.verdict with
        | some true => if workDone s h k x then commitTask h t s else s
        | some false => discardTask h t s
        | none => s
      else s
    | _, _ => s

/-- The indices of the runs of a step, ascending: tasks that one add makes ready become so in the order of their indices
(R175, R211). -/
def runIds (s : State) (h : Nat) : List Nat :=
  match (s.recipe? h).bind (fun r => r.running) with
  | some u => (u.runs.map (fun x => x.idx)).foldl (fun l i => insertAsc i l) []
  | none => []

/-- One round of consequences. -/
def settleOnce (h : Nat) (s : State) : State :=
  let s1 := forEach (runIds s h) (settleSpec h) s
  releaseDue h (settleDescs h (forEach (runIds s1 h) (settleLoaded h) s1))

/-- Rounds until nothing changes, at most one more than there are runs: a round that changes something ends a task,
makes one ready, or releases an entry. -/
def settleN : Nat → Nat → State → State
  | 0, _, s => s
  | n + 1, h, s =>
    let s1 := settleOnce h s
    if s1.recipes = s.recipes then s1 else settleN n h s1

/-! ### Waits on span tumblers and the watchdog's pauses (R192) -/

/-- An unsatisfied wait on a span tumbler. -/
def spanWait (r : Recipe) (tumb v : Nat) : Bool := (r.tumbler tumb).kind == 2 && !r.reached tumb v

/-- The span waits of a task, each with the device time since which it waits: those of its record, of its cores' kz.twait
and of its descriptors. -/
def spanWaits (s : State) (r : Recipe) (k : Task) (x : TaskRun) : List Nat :=
  match x.phase with
  | .loaded => x.spanSince.toList
  | .started =>
    if k.cls = 1 then s.cores.filterMap (fun c => match c.wait with
      | .tumbler h v _ since =>
        if c.recipe == r.handle && c.task == x.idx && spanWait r h v then some since else none
      | _ => none)
    else if k.cls = 2 then []
    else x.descs.zipIdx.filterMap (fun p =>
      let ws := vatWords r k p.2
      if p.1.phase == .waiting && p.1.ready == 0 && spanWait r (waitId ws) (waitVal ws) then some p.1.waitFrom else none)
  | .ended _ => []

/-- A task that has started can go on without a span tumbler: a core of it does not wait for one, or a descriptor of it is
ready or in progress. -/
def worksOn (s : State) (r : Recipe) (k : Task) (x : TaskRun) : Bool :=
  if k.cls = 1 then s.cores.any (fun c => c.recipe == r.handle && c.task == x.idx && !c.exited && (match c.wait with
    | .tumbler h v _ _ => !spanWait r h v
    | _ => true))
  else x.descs.any (fun d => (d.phase == .waiting && d.ready != 0) || d.phase == .begun || d.phase == .worked)

/-- A task of the step that has not ended waits on a span tumbler: by its record's waits before it starts, by its cores or
descriptors after. -/
def awaitsSpan (s : State) (r : Recipe) (u : StepRun) (t : Nat) : Bool :=
  match r.task? t, u.runs.find? (fun x => x.idx == t) with
  | none, _ => true
  | some k, none => k.waits.any (fun w => spanWait r w.handle (threshold w.val w.stride u.ordinal))
  | some k, some x =>
    match x.phase with
    | .ended _ => true
    | .loaded => x.spanSince.isSome
    | .started => !(spanWaits s r k x).isEmpty && !worksOn s r k x

/-- An update task is held by a rind wait: the loss bound, or a rind-pending bit (R278, R327). -/
def inRindWait (u : StepRun) : Bool :=
  (u.lossWait.isSome && !u.updatePhase) || u.runs.any (fun x => x.started && x.descs.any (fun d => d.rindWait.isSome))

/-- The watchdog does not count now (R192). -/
def pausesWatchdog (s : State) (r : Recipe) (u : StepRun) : Bool :=
  inRindWait u || ((List.range r.tasks.length).all (awaitsSpan s r u) && u.runs.any (fun x => x.live))

/-- Follow the periods that the watchdog does not count (R192). -/
def trackWatchdog (h : Nat) (s : State) : State :=
  match s.recipe? h with
  | none => s
  | some r => match r.running with
    | none => s
    | some u => match pausesWatchdog s r u, u.pausedSince with
      | true, none => s.onStep h (fun u => { u with pausedSince := some s.now })
      | false, some t => s.onStep h (fun u => { u with pausedSince := none, pausedNs := u.pausedNs + (s.now - t) })
      | _, _ => s

/-- The time of a step that the watchdog counts, ns (R192). -/
def countedNs (s : State) (u : StepRun) : Nat :=
  s.now - u.start - u.pausedNs - (match u.pausedSince with
    | some t => s.now - t
    | none => 0)

/-- The consequences of what a command did to a recipe's tumblers and tasks, to the waits of its vats' panes and to the
watchdog's count. -/
def settle (h : Nat) (s : State) : State :=
  let s1 := settleN (2 * (runIds s h).length + 2) h s
  match s1.recipe? h with
  | some r => trackWatchdog h (forEach ((List.range 8).filter (bitOf r.wheels)) trackPanes s1)
  | none => s1

/-! ### Commands -/

/-- TASK_LOAD (R174): a slot of the pool is free and the next task of the wheel is loaded. -/
def execTaskLoad (recipe wheel : Nat) (spec : Bool) (s : State) : Host.Outcome State Fault Refusal :=
  match s.recipe? recipe with
  | none => .next s
  | some r =>
    match nextToLoad r wheel spec with
    | none => .next s
    | some t =>
      let size := if spec then specPool r wheel r.throttle else ordinaryPool r wheel
      occurs (r.stepping && decide (poolUse r wheel spec < size))
        (fun s => settle recipe (loadTask recipe t s)) s

/-- TASK_RETIRE (R176): the outputs are added and the slot is freed; a speculative task commits on its verdict. -/
def execTaskRetire (t : TaskRef) (s : State) : Host.Outcome State Fault Refusal :=
  match s.recipe? t.recipe with
  | none => .next s
  | some r =>
    match r.task? t.task, r.run? t.task with
    | some k, some x =>
      occurs (x.started && workDone s t.recipe k x && !x.specRun) (fun s =>
        settle t.recipe (closeTask t.recipe t.task 0 (addOutputs t.recipe t.task s))) s
    | _, _ => .next s

/-- A request translated earlier to a physical page has not completed (R185, R239). -/
def pageBusy (s : State) (page : Nat) : Bool :=
  s.tiers.requests.any (fun q => decide (nearBase + page ≤ q.addr) && decide (q.addr < nearBase + page + pageBytes))

/-- PAGE_RETURN (R185, R239): a page exchanged or released returns once earlier accesses have completed. -/
def execPageReturn (recipe page : Nat) (s : State) : Host.Outcome State Fault Refusal :=
  match s.recipe? recipe with
  | none => .next s
  | some r =>
    if pageBusy s page then .next s
    else if page ∈ r.shadowReturning then
      .next (settle recipe (s.onRecipe recipe (fun r => { r with
        shadowReturning := r.shadowReturning.erase page, shadowFree := r.shadowFree ++ [page] })))
    else if page ∈ r.stash.returning then
      .next (settle recipe (s.onRecipe recipe (fun r => { r with stash := { r.stash with
        returning := r.stash.returning.erase page, freePages := r.stash.freePages ++ [page] } })))
    else .next s

/-- RECOMPUTE_OPEN_GRANT (R233): releases have freed enough pages for the oldest waiting open. -/
def execRecomputeOpenGrant (recipe entry : Nat) (s : State) : Host.Outcome State Fault Refusal :=
  match (s.recipe? recipe).bind (fun r => r.stash.entries[entry]?) with
  | none => .next s
  | some e => occurs (e.waits true) (fun s => (recomputeOpen recipe entry s).1) s

/-- RECOMPUTE_OPEN_WAIT_TIMEOUT (R233): a recompute open has waited more than 1 ms. -/
def execRecomputeOpenWaitTimeout (recipe entry : Nat) (s : State) : Host.Outcome State Fault Refusal :=
  match (s.recipe? recipe).bind (fun r => r.stash.entries[entry]?) with
  | none => .next s
  | some e => occurs (e.waits true) (openWaitPost recipe entry) s

/-- t_span in ns: 2 × (1.2 µs + h × t_sw) + N × 0.02 µs (R310). -/
def tSpan (r : Recipe) : Nat :=
  match r.job with
  | some j => 2 * (1200 + j.hops * j.tSw) + j.n * 20
  | none => 0

/-- T_bound in ns (R192). -/
def tBound (r : Recipe) : Nat := r.cpt * 1000 + r.d * 4000 + r.h * tSpan r

/-- STEP_WATCHDOG_EXPIRY (R192): the counted time exceeds k × T_bound. -/
def execStepWatchdogExpiry (recipe : Nat) (s : State) : Host.Outcome State Fault Refusal :=
  match s.recipe? recipe with
  | none => .next s
  | some r =>
    match r.running with
    | none => .next s
    | some u =>
      occurs (u.fault.isNone && decide ((if r.wdogK = 0 then 2 else r.wdogK) * tBound r < countedNs s u)) (fun s =>
        stepFaultOutside recipe 0x13 (post 0x540 0 0 [] s)) s

/-- Span patience in ns (R192). -/
def patienceNs (r : Recipe) : Nat := (if r.patience = 0 then 10000 else r.patience) * 10 ^ 6

/-- The first task with a span wait longer than the recipe's span patience (R192). -/
def spanLate (s : State) (r : Recipe) : Option (Task × TaskRun) :=
  match r.running with
  | none => none
  | some u => u.runs.findSome? (fun x => (r.task? x.idx).bind (fun k =>
      if (spanWaits s r k x).any (fun t => decide (t + patienceNs r < s.now)) then some (k, x) else none))

/-- SPAN_PATIENCE_EXPIRY (R192): a single span wait longer than the span patience. -/
def execSpanPatienceExpiry (recipe : Nat) (s : State) : Host.Outcome State Fault Refusal :=
  match s.recipe? recipe with
  | none => .next s
  | some r =>
    match spanLate s r with
    | none => .next s
    | some (k, x) => occurs r.stepping (fun s =>
        let u := taskUnit s recipe x.idx k
        taskFault recipe x.idx u 0x13 0 (post 0x543 u 0 [] s)) s

end Sys2Proof.Machine
end

