-- ==== Sys2Proof/Machine/VatControl.lean ====
section
/-! DEFINITION. The vat control (R76, R77, R80, R88, R116): the order in which descriptors of a vat begin, and the
meaning of MAC, MAC_CLEAR, DRAIN, LOAD_ACC, TRANSPOSE, FENCE and of the signal of a descriptor (R104). A descriptor
begins and does all its work in one command; its signal is a command of its own. -/

namespace Sys2Proof.Machine

/-! ### Descriptors of a vat -/

/-- A descriptor of a started vat task, with what its meaning needs. -/
structure VatDesc where
  h : Nat
  t : Nat
  i : Nat
  w : Nat
  ws : List Nat
  run : DescRun
  /-- runs speculatively. -/
  spec : Bool
  /-- pool offset. -/
  off : Nat
  layer : Nat
  /-- its step has not faulted, so that it may still begin (R179). -/
  live : Bool
  deriving DecidableEq, Repr

/-- The unit ID of a vat. -/
def vatUnit (w : Nat) : Nat := unitId 1 w 0

/-- The descriptors of a task of class vat that has started: all of them, or after its end those still in progress (R87,
R426). -/
def taskVatDescs (r : Recipe) (x : TaskRun) : List VatDesc :=
  match r.task? x.idx with
  | some k =>
    if k.cls = 0 then
      x.descs.zipIdx.filterMap (fun p =>
        if x.started || p.1.phase == .begun || p.1.phase == .worked then
          some { h := r.handle, t := x.idx, i := p.2, w := k.home, ws := vatWords r k p.2, run := p.1, spec := x.specRun,
                 off := k.descOff + 128 * p.2, layer := k.layer, live := r.stepping && x.started }
        else none)
    else []
  | none => []

/-- Every descriptor of started tasks on a vat. -/
def vatDescs (s : State) (w : Nat) : List VatDesc :=
  ((s.recipes.map (fun r => match r.running with
    | some u => (u.runs.map (taskVatDescs r)).flatten
    | none => [])).flatten).filter (fun d => d.w == w)

/-- The descriptor a command names. -/
def vatDesc? (s : State) (d : DescRef) : Option VatDesc :=
  match (s.recipe? d.recipe).bind (fun r => (r.run? d.task).map (fun x => (r, x))) with
  | some (r, x) => (taskVatDescs r x).find? (fun e => e.i == d.idx)
  | none => none

/-- In progress: begun and not signalled. -/
def VatDesc.busy (d : VatDesc) : Bool := d.run.phase == .begun || d.run.phase == .worked

/-- Waiting with its wait satisfied, in a step that has not faulted. -/
def VatDesc.due (d : VatDesc) : Bool := d.run.phase == .waiting && d.run.ready != 0 && d.live

/-- A FENCE over every pane (R116). -/
def VatDesc.wide (d : VatDesc) : Bool := opOf d.ws == 6 && fscope d.ws

/-- Two descriptors stand in the order of one pane: the same pane, or one of them a FENCE over every pane. -/
def samePane (a b : VatDesc) : Bool :=
  a.wide || b.wide || (arrOf a.ws == arrOf b.ws && paneOf a.ws == paneOf b.ws)

/-- A descriptor became ready before this one and has not begun. -/
def older (a d : VatDesc) : Bool := a.due && decide (a.run.ready < d.run.ready)

/-- A descriptor waits for another arrangement (R88). -/
def needsArr (v : Vat) (d : VatDesc) : Bool := !d.wide && arrOf d.ws != v.arr

/-- The vat control begins a descriptor: ready and next in its pane's order (R76), under the present arrangement with
no older one waiting for another (R88), no change pending (R80), outside a FENCE that began before it was ready
(R116), and its step not faulted (R179). -/
def canBegin (s : State) (d : VatDesc) : Bool :=
  let v := s.vat d.w
  let ds := vatDescs s d.w
  d.due && !needsArr v d && v.pendingShape.isNone && !v.pendingMode &&
    !ds.any (fun a => older a d && (samePane a d || (needsArr v a && !d.wide))) &&
    !ds.any (fun a => opOf a.ws == 6 && a.run.phase == .begun && samePane a d &&
      decide (a.run.began < d.run.ready)) &&
    wheelIssues s d.w

/-- A descriptor begins: it takes the next order number. -/
def beginDesc (d : VatDesc) (s : State) : State :=
  { s with seq := s.seq + 1 }.onDesc d.h d.t d.i
    (fun x => { x with phase := .begun, began := s.seq })

/-- The rectangle of a descriptor's pane. -/
def descRect (s : State) (d : VatDesc) : Nat × Nat × Nat × Nat :=
  (offeredPane (nth s.gate.view.shapes d.w (0, 0)) (arrOf d.ws) (paneOf d.ws)).getD (0, 0, 0, 0)

/-- Change the bank of a descriptor. -/
def onBank (d : VatDesc) (f : BankRec → BankRec) (s : State) : State :=
  s.onVat d.w (modBank (arrOf d.ws) (paneOf d.ws) (bankBit d.ws) f)

/-- Product count and poison of a descriptor's bank. -/
def bankOfDesc (s : State) (d : VatDesc) : Nat × Nat := bankState (s.vat d.w) (arrOf d.ws) (paneOf d.ws) (bankBit d.ws)

/-- A fault of a descriptor with its event (R118, R119). -/
def descFault (d : VatDesc) (code word value sub : Nat) (s : State) : State :=
  vatFault d.h d.t d.i (vatUnit d.w) d.ws d.off code word value sub s

/-- The cells of a descriptor's extent become unknown: a bank whose accumulation was stopped (R119, log entry 7). -/
def scrambleCells (d : VatDesc) (s : State) : State :=
  let q := descRect s d
  (s.onVat d.w (setCells (bankBit d.ws) q.1 q.2.1 (rowsOf d.ws) (colsOf d.ws) (fun r c =>
    BitVec.ofNat 48 (ofLe ((List.range 6).map (fun j => Config.freeByte s.free ((r * 1024 + c) * 6 + j))))))).drawn

/-- An accumulating descriptor is ended during its execution: its bank is unknown and poisoned 0x21 (R119). -/
def stopAccumulation (d : VatDesc) (s : State) : State :=
  onBank d (fun b => { b with poison := 0x21, sub := 0 }) (scrambleCells d s)

/-- A read or write problem of an ordinary descriptor: its fault, the ordinary fault of a breach of R182 (R184), the end
ABSORBED of its task (R426), or MEMORY_ERROR for poison (R119, R135). -/
def readProblem (d : VatDesc) (word : Nat) (a : Access) (addr : Nat) (s : State) : State :=
  match a with
  | .fault sub => descFault d 0x14 word addr sub s
  | .breach => breachFault d.h d.t (vatUnit d.w) (setPhase d.h d.t d.i .faulted s)
  | .absorbed => absorbTask d.h (vatUnit d.w) d.t (setPhase d.h d.t d.i .faulted s)
  | _ => memoryError d.h d.t d.i (vatUnit d.w) s

/-- The deferred fault of a read problem of a speculative descriptor, with the vat's detail (R118, R144, R519). -/
def deferralOf (d : VatDesc) (word : Nat) (a : Access) (addr : Nat) : Deferred :=
  match a with
  | .fault sub => { code := 0x14, sub := sub, unit := vatUnit d.w, detail := vatFaultDetail (tagOf d.ws) 0x14 word d.off addr }
  | _ => { code := 0x1D, sub := 0, unit := vatUnit d.w, detail := [] }

/-- A speculative descriptor meets a deferred fault: it is recorded, and the bank is marked with its code (R120). -/
def deferAt (d : VatDesc) (f : Deferred) (s : State) : State :=
  onBank d (BankRec.poisonedBy f.code f.sub) (deferFault d.h d.t f s)

/-- The deferral that a speculative DRAIN of a poisoned bank carries forward (R120). -/
def carriedDeferral (s : State) (d : VatDesc) : Deferred :=
  let code := (bankOfDesc s d).2
  { code := code, sub := bankSub (s.vat d.w) (arrOf d.ws) (paneOf d.ws) (bankBit d.ws), unit := vatUnit d.w,
    detail := vatFaultDetail (tagOf d.ws) code 0 d.off (bit (bankBit d.ws)) }

/-- Starvation episodes of up to 1 ms during a descriptor: their number is a matter of timing and free (R82; log entry
82). -/
def starve (d : VatDesc) (s : State) : State :=
  (s.onVat d.w (fun v => { v with starvation := satAdd 64 v.starvation (Config.freeNat s.free) })).drawn

/-! ### Adds and counts of tasks -/

/-- An add that a task's descriptor or instruction makes: a speculative task may add only to a tumbler PRIVATE to it
(R182). -/
def taskAdd (h t unit : Nat) (version : Bool) (tumb n : Nat) (s : State) : State :=
  match s.recipe? h with
  | none => s
  | some _ => underR182 h t unit tumb (tAdd h tumb n (Issuer.ofTask t unit version)) s

/-- Whether a counter record can be counted into (R63, R144). -/
def recordBad (s : State) (h rec : Nat) : Option Nat :=
  if rec = 0 then none
  else match s.recipe? h with
    | none => none
    | some r =>
      match translate s r rec true with
      | .ok _ => none
      | .error sub => some sub

/-- Count into a record as a task: a speculative task counts into its shadow (R64, R181, R182). -/
def countTask (h t unit rec : Nat) (c : Counts) (s : State) : State :=
  if rec = 0 ∨ c.none then s
  else if specRunning s h t then
    match ((s.recipe? h).bind (fun r => r.run? t)).bind (fun x => shadowAt x rec) with
    | some p =>
      match s.recipe? h with
      | some r => countRecord (p.pa + (rec - p.page)) r.ordinal unit c (copyGranule h t rec p s)
      | none => s
    | none => breach h t unit s
  else countInto h rec unit c s

/-! ### MAC and MAC_CLEAR (R72 to R77, R102, R108) -/

/-- Count the invalid codes that a MAC read (R39, R109). -/
def macCounts (d : VatDesc) (m : MacRead) (s : State) : State :=
  let a := opInvalid (streamA d.ws) m.a
  let b := opInvalid (streamB d.ws) m.b
  countTask d.h d.t (vatUnit d.w) (wd d.ws 13) { invalid := b }
    (countTask d.h d.t (vatUnit d.w) (wd d.ws 12) { invalid := a } s)

/-- Accumulate into the bank of a descriptor; `clear` starts from zero (R102). -/
def macApply (d : VatDesc) (clear : Bool) (m : MacRead) (s : State) : State :=
  let q := descRect s d
  let v := s.vat d.w
  let odd := bankBit d.ws
  s.onVat d.w (setCells odd q.1 q.2.1 (rowsOf d.ws) (colsOf d.ws) (fun r c =>
    macCell (fmtA d.ws) (fmtB d.ws) (kOf d.ws)
      (nth m.a r { codes := [], scales := [], eyes := [] }) (nth m.b c { codes := [], scales := [], eyes := [] }) m.eyes
      (if clear then 0#48 else cellOf v odd (q.1 + r) (q.2.1 + c))))

/-- The first counter record of a MAC that cannot be written, with its word and subcode. -/
def macRecordBad (s : State) (d : VatDesc) : Option (Nat × Nat) :=
  match recordBad s d.h (wd d.ws 12), recordBad s d.h (wd d.ws 13) with
  | some e, _ => some (12, e)
  | none, some e => some (13, e)
  | none, none => none

/-- A MAC or MAC_CLEAR that has begun. Where it meets several faults, a malformed eye list is reported before a
translation fault, and A's streams before B's (DESIGN CHOICE, log entry 91: the spec gives no order for faults found
during execution). -/
def runMac (d : VatDesc) (clear : Bool) (s0 : State) : State :=
  let b := bankOfDesc s0 d
  if ¬ clear ∧ b.2 ≠ 0 then descFault d 0x21 0 (bit (bankBit d.ws)) 0 s0
  else if ¬ clear ∧ 2 ^ 24 < b.1 + kOf d.ws then descFault d 0x20 3 (kOf d.ws) 0 s0
  else
    let s := starve d s0
    let m := macRead s d.h d.t d.ws
    let count := if clear then BankRec.replaced (kOf d.ws) 0 0 else BankRec.grown (kOf d.ws)
    match m.malformed with
    | some (word, a) => descFault d 0x12 word a 0 (stopAccumulation d s)
    | none =>
      if d.spec then
        let s1 := macCounts d m (macApply d clear m s)
        match m.bad with
        | none => setPhase d.h d.t d.i .worked (onBank d count s1)
        | some (word, a, addr) =>
          setPhase d.h d.t d.i .worked (deferAt d (deferralOf d word a addr) (onBank d count s1))
      else
        match m.bad, macRecordBad s d with
        | some (word, a, addr), _ => readProblem d word a addr (stopAccumulation d s)
        | none, some (word, sub) => descFault d 0x14 word (wd d.ws word) sub (stopAccumulation d s)
        | none, none => setPhase d.h d.t d.i .worked (onBank d count (macCounts d m (macApply d clear m s)))

/-- A descriptor command: the descriptor is of the operation and may begin. -/
def vatCommand (d : DescRef) (op : Nat) (f : VatDesc → State → State) (s : State) : Host.Outcome State Fault Refusal :=
  match vatDesc? s d with
  | none => .next s
  | some v => occurs (opOf v.ws == op && canBegin s v) (fun s => settle v.h (f v s)) s

/-- MAC: adds K products per cell of the extent into BANK (R102). -/
def execMac (d : DescRef) (s : State) : Host.Outcome State Fault Refusal :=
  vatCommand d 1 (fun v s => runMac v false (beginDesc v s)) s

/-- MAC_CLEAR: sets BANK to zero over the extent, then as MAC (R102). -/
def execMacClear (d : DescRef) (s : State) : Host.Outcome State Fault Refusal :=
  vatCommand d 2 (fun v s => runMac v true (beginDesc v s)) s

/-! ### DRAIN (R90 to R92, R111 to R114) -/

/-- Counts of the part of a drain done before it was ended: some part of all of them (R119, log entry 7). -/
def partCounts (n : Nat) (c : Counts) : Counts :=
  { sat := Config.freeNat n % (c.sat + 1), flush := Config.freeNat (n + 1) % (c.flush + 1),
    nanInf := Config.freeNat (n + 2) % (c.nanInf + 1), wsat := Config.freeNat (n + 3) % (c.wsat + 1),
    wflush := Config.freeNat (n + 4) % (c.wflush + 1) }

/-- Count the part done, which draws five free values. -/
def countPart (d : VatDesc) (c : Counts) (s : State) : State :=
  countTask d.h d.t (vatUnit d.w) (wd d.ws 13) (partCounts s.free c) s.drawn.drawn.drawn.drawn.drawn

/-- Write a drain's output and count, or end it at the first fault (R104, R119, R120). The counts go to their record at
completion (R64), so a record without translation ends the descriptor after its writes, which stay. `load` marks the bank
of a TRANSPOSE, which an execution fault poisons. -/
def drainOut (d : VatDesc) (ps : List Put) (c : Counts) (load : Bool) (s : State) : State :=
  let u := vatUnit d.w
  if d.spec then
    let p := doPutsSpec d.h d.t u (fun _ p => vatFaultDetail (tagOf d.ws) 0x14 p.word d.off p.addr) ps s
    let s1 := match p.2 with
      | some sub => onBank d (BankRec.poisonedBy 0x14 sub) p.1
      | none => p.1
    setPhase d.h d.t d.i .worked (countTask d.h d.t u (wd d.ws 13) c s1)
  else
    let mark := fun (s : State) => if load then onBank d (BankRec.poisonedBy 0x21 0) s else s
    match doPuts d.h d.t u ps s with
    | (s1, none) =>
      match recordBad s1 d.h (wd d.ws 13) with
      | none => setPhase d.h d.t d.i .worked (countTask d.h d.t u (wd d.ws 13) c s1)
      | some sub => descFault d 0x14 13 (wd d.ws 13) sub (mark s1)
    | (s1, some (a, p, rest)) => readProblem d p.word a p.addr (mark (countPart d c (scramble d.h d.t u rest s1)))

/-- What a drain writes, and its counts, from the bank as it stands. -/
def drainPlan (s : State) (d : VatDesc) (side : DrainSide) : List Put × Counts :=
  let q := descRect s d
  let v := s.vat d.w
  drainWrites d.ws side (fun r c => cellOf v (bankBit d.ws) (q.1 + r) (q.2.1 + c))

/-- A DRAIN that has begun: the bank's poison, the side streams, the writes. -/
def runDrain (d : VatDesc) (s : State) : State :=
  match s.recipe? d.h with
  | none => s
  | some r =>
    let b := bankOfDesc s d
    if b.2 ≠ 0 ∧ ¬ d.spec then descFault d 0x21 0 (bit (bankBit d.ws)) 0 s
    else
      let s0 := if b.2 ≠ 0 then deferFault d.h d.t (carriedDeferral s d) s else s
      let p := drainRead s0 r d.h d.t d.ws
      let q := drainPlan s0 d p.1
      if d.spec then
        match p.2 with
        | some (word, a, addr) => drainOut d q.1 q.2 false (deferAt d (deferralOf d word a addr) s0)
        | none => drainOut d q.1 q.2 false s0
      else
        match p.2 with
        | some (word, a, addr) =>
          readProblem d word a addr (countPart d q.2 (scramble d.h d.t (vatUnit d.w) q.1 s0))
        | none => drainOut d q.1 q.2 false s0

/-- The writes of a drain that pass through the stash arbiter: those of its stash stream and outputs (R232). -/
def drainPuts (s : State) (d : VatDesc) : List Put :=
  match s.recipe? d.h with
  | none => []
  | some r => (drainPlan s d (drainRead s r d.h d.t d.ws).1).1

/-- A DRAIN of a poisoned bank outside speculation faults before any write (R119, R120). -/
def drainFaults (s : State) (d : VatDesc) : Bool := (bankOfDesc s d).2 != 0 && !d.spec

/-- DRAIN: reads BANK through the drain chain (R91, R102); while a stash open it needs waits, it does not begin
(R233). -/
def execDrain (d : DescRef) (s : State) : Host.Outcome State Fault Refusal :=
  vatCommand d 3 (fun v s =>
    let p := if drainFaults s v then (s, false) else preOpen v.h v.t (drainPuts s v) s
    if p.2 then p.1 else runDrain v (beginDesc v p.1)) s

/-! ### LOAD_ACC and TRANSPOSE (R93, R115) -/

/-- The load phase: the values of the source, by row, and the first problem met. -/
def loadRead (s : State) (d : VatDesc) : List (List Val) × Option (Nat × Access × Nat) :=
  let p := readMatrix s d.h d.t (fmtL d.ws) (lorient d.ws) (wd d.ws 6) (wd d.ws 7) (hi24 (wd d.ws 14)) (rowsOf d.ws)
    (colsOf d.ws) 6
  (p.1, firstBad p.2)

/-- Replace the bank over the extent by the values of a source, exactly widened (R93). -/
def loadApply (d : VatDesc) (vs : List (List Val)) (s : State) : State :=
  let q := descRect s d
  s.onVat d.w (setCells (bankBit d.ws) q.1 q.2.1 (rowsOf d.ws) (colsOf d.ws) (fun r c => (w48Round (at2 vs r c)).1))

/-- The load phase of a descriptor that has begun, continued by `k` where it does not end the descriptor. -/
def runLoad (d : VatDesc) (k : State → State) (s : State) : State :=
  let p := loadRead s d
  match p.2 with
  | none => k (onBank d (BankRec.replaced 0 0 0) (loadApply d p.1 s))
  | some (word, a, addr) =>
    if d.spec then k (deferAt d (deferralOf d word a addr) (onBank d (BankRec.replaced 0 0 0) (loadApply d p.1 s)))
    else readProblem d word a addr (stopAccumulation d s)

/-- LOAD_ACC: replaces BANK over the extent from a stream (R93, R102). -/
def execLoadAcc (d : DescRef) (s : State) : Host.Outcome State Fault Refusal :=
  vatCommand d 4 (fun v s => runLoad v (setPhase v.h v.t v.i .worked) (beginDesc v s)) s

/-- The drain phase of a TRANSPOSE: narrowing only, in the other orientation (R93, R115). -/
def transposePlan (d : VatDesc) (vs : List (List Val)) : List Put × Counts :=
  let p := narrowMatrix (fmtTO d.ws) (sruleT d.ws) (!lorient d.ws) 4 (wd d.ws 4) (wd d.ws 5) (lo24 (wd d.ws 14))
    (rowsOf d.ws) (colsOf d.ws) (fun r c => w48Val (w48Round (at2 vs r c)).1)
  (p.1, { p.2 with nanInf := (vs.map (fun l => (l.filter special).length)).sum })

/-- TRANSPOSE: LOAD_ACC into BANK, then a drain of BANK in the other orientation (R93, R102). -/
def execTranspose (d : DescRef) (s : State) : Host.Outcome State Fault Refusal :=
  vatCommand d 5 (fun v s =>
    let q := transposePlan v (loadRead s v).1
    let p := preOpen v.h v.t q.1 s
    if p.2 then p.1
    else runLoad v (drainOut v q.1 q.2 true) (beginDesc v p.1)) s

/-! ### FENCE and signals (R104, R116) -/

/-- FENCE: begins in ready order (R116). -/
def execFence (d : DescRef) (s : State) : Host.Outcome State Fault Refusal :=
  vatCommand d 6 (fun v s => beginDesc v s) s

/-- A FENCE is met: no descriptor of its scope that began before it is still in progress (R116). -/
def fenceDone (s : State) (d : VatDesc) : Bool :=
  !(vatDescs s d.w).any (fun a => a.busy && samePane a d && decide (a.run.began < d.run.began) &&
    !(a.h == d.h && a.t == d.t && a.i == d.i))

/-- Pool-record size of a descriptor by the task's class (R98): 128 bytes for vats and the update engines' and hinge
engines' descriptors. -/
def descHead (r : Recipe) (k : Task) (i : Nat) : List Nat := descWords (descBytes r k i 128)

/-- DESCRIPTOR_SIGNAL (R104): the descriptor's work is complete, its task's writes are visible (R165), and SG_INC is added to its signal tumbler. A descriptor
in progress signals also when another pane's fault has ended its task, until absorption ends it (R87, R426). -/
def execDescriptorSignal (d : DescRef) (s : State) : Host.Outcome State Fault Refusal :=
  match (s.recipe? d.recipe).bind (fun r => (r.task? d.task).bind (fun k => (r.run? d.task).map (fun x => (r, k, x)))) with
  | none => .next s
  | some (r, k, x) =>
    match x.descs[d.idx]? with
    | none => .next s
    | some e =>
      let ws := descHead r k d.idx
      let fence := k.cls = 0 ∧ opOf ws = 6
      let met := match vatDesc? s d with
        | some v => fenceDone s v
        | none => false
      occurs (!writesOut s d.recipe d.task && (e.phase == .worked || (decide fence && e.phase == .begun && met))) (fun s =>
        let s1 := setPhase d.recipe d.task d.idx .signalled s
        let s2 := if sigInc ws = 0 then s1
          else taskAdd d.recipe d.task (taskUnit s d.recipe d.task k) (k.cls == 2) (sigId ws) (sigInc ws) s1
        settle d.recipe s2) s

/-! ### Changes of the vat (R79, R80, R82, R88) -/

/-- ARRANGEMENT_RECONFIGURE (R88): no descriptor is in progress, and the oldest ready one of any arrangement names another
than the present one. -/
def execArrangementReconfigure (vat : Nat) (s : State) : Host.Outcome State Fault Refusal :=
  let ds := vatDescs s vat
  let v := s.vat vat
  let first := ds.find? (fun d => d.due && needsArr v d && !ds.any (fun a => older a d && !a.wide))
  match first with
  | none => .next s
  | some d => occurs (!ds.any (fun a => a.busy) && v.pendingShape.isNone && !v.pendingMode)
      (State.onVat vat (fun v => { v with arr := arrOf d.ws })) s

/-- Condition 1 or 2 of R79 holds a vat in broadcast. -/
def Vat.held (v : Vat) : Bool := v.heldMargin || v.heldGap

/-- The operand mode that R79 requires of a vat: broadcast. -/
def wantsBroadcast (s : State) (w : Nat) : Bool :=
  (s.vat w).held || (s.vat w).recipeBroadcast || nth s.warden.stored.vatMode w 0 == 1

/-- A pending change of shape is made: the advertised shape and the offered panes are the new ones (R80). -/
def takeShape (w : Nat) (s : State) : State :=
  match (s.vat w).pendingShape with
  | none => s
  | some sh => s.onView (fun v => { v with shapes := modAt v.shapes w (fun _ => sh) })

/-- VAT_CHANGE_APPLY (R80): a pending change of mode, map, shape or panes is applied while no descriptor is in
progress. -/
def execVatChangeApply (vat : Nat) (s : State) : Host.Outcome State Fault Refusal :=
  let v := s.vat vat
  occurs ((v.pendingShape.isSome || v.pendingMode) && !(vatDescs s vat).any (fun a => a.busy)) (fun s =>
    (takeShape vat s).onVat vat (fun v =>
      { v with broadcast := wantsBroadcast s vat, pendingShape := none, pendingMode := false })) s

/-- FEEDER_STARVATION_TIMEOUT (R82): an episode of starvation longer than 1 ms on a vat that has a descriptor to feed. -/
def execFeederStarvationTimeout (vat : Nat) (s : State) : Host.Outcome State Fault Refusal :=
  occurs ((vatDescs s vat).any (fun d => d.busy || d.due)) (fun s =>
    post 0x520 (vatUnit vat) 0 [] (s.onVat vat (fun v => { v with starvation := satAdd 64 v.starvation 1 }))) s

end Sys2Proof.Machine
end

