-- ==== Sys2Proof/Machine/Link.lean ====
section
/-! DEFINITION. The Tyandarn link (R281 to R299): flits, frames, credits, the replay buffer and routes. -/

namespace Sys2Proof.Machine

/-! ### Flits (R284) -/

def fTag (f : List Byte) : Nat := leAt f 0 2
def fFlags (f : List Byte) : Nat := leAt f 2 1
def fLen (f : List Byte) : Nat := leAt f 3 1
def fType (f : List Byte) : Nat := bitsOf (leAt f 4 1) 5 0
def fVc (f : List Byte) : Nat := bitsOf (leAt f 4 1) 7 6
def fSrc (f : List Byte) : Nat := bitsOf (leAt f 5 3) 11 0
def fDst (f : List Byte) : Nat := bitsOf (leAt f 5 3) 23 12
def fCred (f : List Byte) : Nat := bitsOf (leAt f 8 4) 5 0
def fCvc (f : List Byte) : Nat := bitsOf (leAt f 8 4) 7 6
def fLack (f : List Byte) : Nat := bitsOf (leAt f 8 4) 19 8
def fLseq (f : List Byte) : Nat := bitsOf (leAt f 8 4) 31 20
def fFirst (f : List Byte) : Bool := bitOf (fFlags f) 0
def fLast (f : List Byte) : Bool := bitOf (fFlags f) 1
def fSpec (f : List Byte) : Bool := bitOf (fFlags f) 2
def fPoison (f : List Byte) : Bool := bitOf (fFlags f) 3
def fReplay (f : List Byte) : Bool := bitOf (fFlags f) 4

/-- The payload in use. -/
def fPay (f : List Byte) : List Byte := slice f 16 (min 240 (fLen f))

/-- CRC-32C over bytes 0–11 and 16–255. -/
def flitCrc (f : List Byte) : Nat := crc32c (slice f 0 12 ++ slice f 16 240)

/-- A flit of 256 bytes whose CRC is good. -/
def flitGood (f : List Byte) : Bool := f.length == 256 && leAt f 12 4 == flitCrc f

/-- A flit not yet sent: its link fields are set when it is. -/
def mkFlit (ty vc src dst flags tag : Nat) (pay : List Byte) : List Byte :=
  leBytes 2 tag ++ leBytes 1 flags ++ leBytes 1 pay.length ++ leBytes 1 (ty + 64 * vc) ++
    leBytes 3 (src % 4096 + 4096 * (dst % 4096)) ++ zeros 8 ++ padTo 240 pay

/-- Set LSEQ, LACK, the credits returned and the CRC. -/
def sealFlit (lseq lack cvc cred : Nat) (f : List Byte) : List Byte :=
  let g := splice f 8 (leBytes 4 (cred % 64 + 64 * (cvc % 4) + 256 * (lack % 4096) + 2 ^ 20 * (lseq % 4096)))
  splice g 12 (leBytes 4 (flitCrc g))

/-- The virtual channel of a message type; none for a reserved type (R285). -/
def vcOf (ty : Nat) : Option Nat :=
  if ty ≤ 4 then some 0 else if ty = 0x10 then some 1 else if 0x20 ≤ ty ∧ ty ≤ 0x23 then some 2
  else if ty = 0x30 then some 3 else none

/-- A protocol error of a flit with a good CRC: a reserved type, a wrong VC, a reserved flag (R285). -/
def protoBad (f : List Byte) : Bool :=
  (match vcOf (fType f) with
    | none => true
    | some v => fType f != 0 && fVc f != v) ||
  fFlags f / 32 != 0 || (fReplay f && fType f != 0)

/-- The module's own ID. -/
def myId (s : State) : Nat := s.warden.stored.moduleId

/-- The unit ID of a hinge port and of a hinge engine (R477). -/
def portUnit (p : Nat) : Nat := unitId 8 0 p
def heUnit (e : Nat) : Nat := unitId 9 0 e

/-- A port carries traffic (R295). -/
def HingePort.up (p : HingePort) : Bool := p.state == .up4 || p.state == .up2

/-- Receive buffers by VC (R286). -/
def vcBuffers : List Nat := [32, 64, 256, 1024]

/-! ### Sending (R286, R288) -/

/-- The recipe of a speculative PUT's flit: also of one that leaves after the transfer has been answered (R317). -/
def specRecipe (s : State) (f : List Byte) : Nat :=
  if fSpec f then
    look s.hinge.specTags (fTag f) 0
  else 0

/-- The speculative share of a recipe's bulk credits at a port (R180). -/
def bulkShare (s : State) (h : Nat) : Nat :=
  match s.recipe? h with
  | some r => 1024 * r.specShare * r.throttle / 1024
  | none => 0

/-- A flit may be sent: the port is up, its VC has a credit, the replay buffer has room, and a speculative PUT is
within the recipe's share. -/
def sendable (s : State) (p : Nat) (f : List Byte) : Bool :=
  let q := s.port p
  q.up && decide (0 < nth q.credits (fVc f) 0) && decide (q.replay.length < 1024) &&
    (let h := specRecipe s f
     h == 0 || decide ((q.bulkOut.filter (· == h)).length < bulkShare s h))

/-- The VC whose credits a flit returns, and how many. -/
def creditsToReturn (q : HingePort) : Nat × Nat :=
  match (List.range 4).find? (fun v => nth q.owed v 0 != 0) with
  | some v => (v, min 63 (nth q.owed v 0))
  | none => (0, 0)

/-! ### Frames (R283) -/

/-- The 40-bit framing word: the frame sequence number in [39:24], the alignment code 0xA5 in [23:16], zero below. Its
bytes go least significant first, as those of a flit's header do (DESIGN CHOICE, log entry 66). -/
def framingWord (seq : Nat) : List Byte := leBytes 5 (seq % 65536 * 2 ^ 24 + 0xA5 * 2 ^ 16)

/-- A frame: the framing word and its flits. -/
def flitFrame (seq : Nat) (flits : List (List Byte)) : List Byte := framingWord seq ++ flits.flatten

/-- A flit goes out: it takes the next place of the frame being filled, and the fifth ends the frame (R283). -/
def HingePort.emit (g : List Byte) (q : HingePort) : HingePort :=
  let fs := q.frame ++ [g]
  if fs.length < 5 then { q with sent := q.sent ++ [g], frame := fs }
  else { q with sent := q.sent ++ [g], frame := [], frameSeq := (q.frameSeq + 1) % 65536,
                frames := q.frames ++ [flitFrame q.frameSeq fs] }

/-- Send a sequenced flit. -/
def transmit (p : Nat) (f : List Byte) (s : State) : State :=
  let h := specRecipe s f
  s.onPort p (fun q =>
    let c := creditsToReturn q
    let g := sealFlit q.txSeq (q.rxSeq + 4095) c.1 c.2 f
    { q.emit g with
      txSeq := (q.txSeq + 1) % 4096,
      lastVc := fVc f,
      credits := modAt q.credits (fVc f) (· - 1),
      owed := modAt q.owed c.1 (· - c.2),
      bulkOut := if fVc f = 3 then q.bulkOut ++ [h] else q.bulkOut,
      replay := q.replay ++ [{ lseq := q.txSeq, flit := g }] })

/-- Send a NULL flit, not sequenced, with flags. -/
def sendNull (p flags : Nat) (s : State) : State :=
  if (s.port p).up then
    s.onPort p (fun q =>
      let c := creditsToReturn q
      let g := sealFlit 0 (q.rxSeq + 4095) c.1 c.2 (mkFlit 0 0 (myId s) q.peerId flags 0 [])
      { q.emit g with owed := modAt q.owed c.1 (· - c.2) })
  else s

/-- The flit of a virtual channel that may be sent next, with its place: the oldest that is sendable; the flits of one
transfer keep their order (R287). -/
def nextOfVc (s : State) (p v : Nat) : Option (List Byte × Nat) :=
  let ws := (s.port p).waiting
  ws.zipIdx.find? (fun w => fVc w.1 == v && sendable s p w.1 &&
    !(ws.take w.2).any (fun e => fTag e == fTag w.1 && fVc e == v))

/-- Send the waiting flits that may be sent: the virtual channels are granted round-robin, from the one after the last
granted (R193, R286). -/
def pump : Nat → Nat → State → State
  | 0, _, s => s
  | n + 1, p, s =>
    match (List.range 4).findSome? (fun i => nextOfVc s p (((s.port p).lastVc + 1 + i) % 4)) with
    | none => s
    | some w => pump n p (transmit p w.1 (s.onPort p (fun q => { q with waiting := q.waiting.eraseIdx w.2 })))

/-- Queue flits at a port and send what may be sent. -/
def sendFlits (p : Nat) (fs : List (List Byte)) (s : State) : State :=
  let s1 := s.onPort p (fun q => { q with waiting := q.waiting ++ fs })
  pump (s1.port p).waiting.length p s1

/-! ### Routes (R292, R293) -/

/-- Trained lanes of a port. -/
def lanesOf (p : HingePort) : Nat :=
  match p.state with
  | .up4 => 4
  | .up2 => 2
  | _ => 0

/-- Trained lanes of a port for new transfers: none while the view has it FENCING (R298). -/
def lanesAt (s : State) (p : Nat) : Nat := if nth s.gate.view.ports p .down = .fencing then 0 else lanesOf (s.port p)

/-- The route entry of a module. -/
def routeOf (s : State) (dst : Nat) : Nat := (look s.warden.stored.routes dst 0#64).toNat

/-- The ports of a route entry with their weights. -/
def routePorts (e : Nat) : List (Nat × Nat) :=
  if bitOf e 63 then (List.range 4).map (fun i => (bitsOf e (44 + 5 * i) (40 + 5 * i), bitsOf e (27 + 4 * i) (24 + 4 * i)))
  else []

/-- The port a transfer takes (R293). The effective weight is W × lanes / 4, so the sums here are four times the rule's,
and h mod S is taken at that scale: 4h mod 4S. -/
def routePort (s : State) (dst tag : Nat) : Option Nat :=
  let ws := (routePorts (routeOf s dst)).map (fun p => (p.1, p.2 * lanesAt s p.1))
  let total := (ws.map (fun p => p.2)).sum
  if total = 0 then none
  else
    let h := 4 * crc32c (leBytes 2 dst ++ leBytes 2 tag) % total
    (ws.foldl (fun (acc : Nat × Option Nat) w =>
      (acc.1 + w.2, match acc.2 with
        | some p => some p
        | none => if h < acc.1 + w.2 then some w.1 else none)) (0, none)).2

/-- Trained lanes of the route to a module, summed over its ports (R301). -/
def routeLanes (s : State) (dst : Nat) : Nat :=
  (((routePorts (routeOf s dst)).filter (fun p => p.2 != 0)).map (fun p => lanesAt s p.1)).sum

/-- Send a control message or a response to a module over any route. -/
def sendTo (ty dst tag flags : Nat) (pay : List Byte) (s : State) : State :=
  match routePort s dst tag with
  | none => s
  | some p => sendFlits p [mkFlit ty ((vcOf ty).getD 0) (myId s) dst flags tag pay] s

/-! ### Hinge faults (R323) -/

/-- A hinge task's fault, with its event: task, code, word, peer rank, value. -/
def hingeFault (h t i unit det code word peer value sub : Nat) (s : State) : State :=
  let d := leBytes 4 t ++ leBytes 1 code ++ leBytes 1 word ++ leBytes 2 peer ++ leBytes 8 value
  let s1 := if code = 0x14 then postTranslation unit sub d s else post det unit code d s
  taskFault h t unit 0x10 code (setPhase h t i .faulted s1)

/-- The recipe whose job block carries a tag (R289). -/
def jobRecipe (s : State) (tag : Nat) : Option Recipe :=
  s.recipes.find? (fun r => match r.job with
    | some j => j.tag == tag
    | none => false)

/-- The engine of a started hinge task. -/
def taskHe (s : State) (h t : Nat) : Nat :=
  match (s.recipe? h).bind (fun r => r.tasks[t]?) with
  | some k => heUnit k.unit
  | none => heUnit 0

end Sys2Proof.Machine
end

