-- ==== Sys2Proof/Machine/RindStore.lean ====
section
/-! DEFINITION. The rind store (R325 to R340): images and captures, pending bits, abandonment, the journal, and the
rules that say which image is kept and which is restorable. -/

namespace Sys2Proof.Machine

/-- Unit ID of the rind store (R477). -/
def rindUnit : Nat := unitId 0xE 0 0

/-! ### Images and captures -/

/-- The image of a number. -/
def State.image? (s : State) (no : Nat) : Option Image := s.rind.images.find? (fun i => i.no == no)

/-- Change an image. -/
def State.onImage (no : Nat) (f : Image → Image) (s : State) : State :=
  s.onRind (fun x => { x with images := modFirst (fun i => i.no == no) f x.images })

/-- The advertised shapes of a recipe's wheel set, zero outside it (R334). -/
def imageShapes (s : State) (r : Recipe) : List (Nat × Nat) :=
  (List.range 8).map (fun w => if bitOf r.wheels w then nth s.gate.view.shapes w (0, 0) else (0, 0))

/-- A recipe's captures, oldest first. -/
def capturesOf (s : State) (h : Nat) : List Capture := s.rind.captures.filter (fun c => c.recipe == h)

/-- The capture of the running step of a recipe (R332). -/
def captureOfStep (s : State) (h ord : Nat) : Option Capture :=
  (capturesOf s h).find? (fun c => match s.image? c.image with
    | some i => i.step == ord
    | none => false)

/-- An image may be taken at the running step: snapshots are enabled, and the step's own image has not been abandoned
(R325, R333). -/
def takesImage (s : State) (h : Nat) : Bool :=
  s.warden.stored.rindEnable && match (s.recipe? h).bind (fun r => r.running) with
    | some u => !u.imageLost
    | none => false

/-- Begin the image of a snapshot step, where it is not begun: the first pending bit of the step is set (R332, R334). -/
def ensureImage (h : Nat) (s : State) : State :=
  match s.recipe? h with
  | none => s
  | some r =>
    match r.running with
    | none => s
    | some u =>
      if (captureOfStep s h u.ordinal).isSome then s
      else
        let no := s.rind.nextImage
        let img : Image := { no := no, step := u.ordinal, stamp := r.stamp, crc := r.crc,
                             jobTag := (r.job.map (fun j => j.tag)).getD 0, n := (r.job.map (fun j => j.n)).getD 0,
                             rank := (r.job.map (fun j => j.rank)).getD 0, shapes := imageShapes s r, tensors := [],
                             tumblers := [], captureNs := 0, waitNs := 0, state := .capturing, format := s.activeFw.rindFormat,
                             raw := [] }
        let cap : Capture := { recipe := h, image := no, done := [], firstPending := s.now }
        s.onRind (fun x => { x with
          images := x.images ++ [img], captures := x.captures ++ [cap], nextImage := no + 1, committed := x.commitFirst })

/-- Set the rind-pending bit of an entry (R278, R332), where an image may be taken at the step (R333). -/
def setPending (h rix : Nat) (s : State) : State :=
  if takesImage s h then
    ((ensureImage h s).onRecipe h (fun r => { r with rindPending := insertNew r.rindPending rix })).onStep h
      (fun u => { u with pendingSet := insertNew u.pendingSet rix })
  else s

/-- The pending bits of a capture: those the older captures of the recipe have read are a newer one's. -/
def pendingOf (s : State) (r : Recipe) (c : Capture) : List Nat :=
  match capturesOf s r.handle with
  | o :: _ => if o.image = c.image then r.rindPending.filter (fun x => !(o.done.contains x))
    else r.rindPending.filter (fun x => o.done.contains x)
  | [] => []

/-- Abandon an image: its pending bits clear, its space is freed, 0xB02 posts, and the running step it belongs to takes
no other (R333). -/
def abandonCapture (c : Capture) (s : State) : State :=
  let bits := match s.recipe? c.recipe with
    | some r => pendingOf s r c
    | none => []
  let step := (s.image? c.image).map (fun i => i.step)
  let lose := fun (u : StepRun) => if step == some u.ordinal then { u with imageLost := true } else u
  let s1 := (s.onRecipe c.recipe (fun r => { r with
    rindPending := r.rindPending.filter (fun x => !(bits.contains x)) })).onStep c.recipe lose
  post 0xB02 rindUnit 0 (leBytes 8 c.image) (s1.onRind (fun x => { x with
    images := x.images.filter (fun i => i.no != c.image),
    captures := x.captures.filter (fun y => y.image != c.image), committed := x.commitFirst }))

/-- Abandon every capture of a recipe, newest first (R333). -/
def abandonRecipe (h : Nat) (s : State) : State := forEach (capturesOf s h).reverse abandonCapture s

/-- Abandon every capture (R333, R338). -/
def abandonAll (s : State) : State := forEach s.rind.captures.reverse abandonCapture s

/-! ### The journal (R330) -/

/-- FLAGS of a record. -/
def journalFlags (j : JournalRec) : Nat :=
  bit j.lossValid + 2 * bit j.completed + 4 * bit j.faulted + 8 * bit j.updated + 16 * bit j.replay

/-- The 64 bytes of a record. -/
def journalBytes (j : JournalRec) : List Byte :=
  let b := leBytes 8 j.step ++ leBytes 8 j.seed ++ leBytes 8 j.dataSeed ++ leBytes 8 j.loss ++
    leBytes 4 (journalFlags j) ++ leBytes 4 j.crc ++ leBytes 8 j.endNs ++ leBytes 8 j.imageNo ++ zeros 4
  b ++ leBytes 4 (crc32c b)

/-- LOSS of the step record, where VALID is 1 and STEP_LO matches (R329, R330). -/
def stepLoss (s : State) (r : Recipe) (ord : Nat) : Option Nat :=
  if r.capt.isEmpty then none
  else if memLe s.near (r.stepRec + 8) 4 = 1 ∧ memLe s.near (r.stepRec + 12) 4 = ord % 2 ^ 32 then
    some (memLe s.near r.stepRec 8)
  else none

/-- The record of a step that ends now; the image is the one taken at it, or 0. -/
def journalRec (s : State) (r : Recipe) (u : StepRun) (faulted : Bool) : JournalRec :=
  let loss := stepLoss s r u.ordinal
  { step := u.ordinal, seed := u.seed, dataSeed := u.dataSeed, loss := loss.getD 0, lossValid := loss.isSome,
    completed := !faulted, faulted := faulted, updated := u.updated,
    replay := match u.origin with
      | .command _ _ => false
      | _ => true
    crc := r.crc, stamp := r.stamp, endNs := s.now,
    imageNo := match captureOfStep s r.handle u.ordinal with
      | some c => c.image
      | none => 0 }

/-- Records of one recipe series: those of one image CRC and stamp. -/
def sameSeries (r : Recipe) (j : JournalRec) : Bool := j.crc == r.crc && j.stamp == r.stamp

/-- Append a record; the journal of a recipe holds 32,768, oldest dropped (R330). -/
def appendJournal (r : Recipe) (j : JournalRec) (s : State) : State :=
  let n := (s.rind.journal.filter (sameSeries r)).length
  let drop := if 32768 ≤ n then s.rind.journal.find? (sameSeries r) else none
  s.onRind (fun x => { x with
    journal := (match drop with
      | some d => x.journal.erase d
      | none => x.journal) ++ [j], committed := x.commitFirst })

/-- The journal record of a step that stands: the last of that number (R330). -/
def journalOf (s : State) (crc stamp step : Nat) : Option JournalRec :=
  s.rind.journal.reverse.find? (fun j => j.crc == crc && j.stamp == stamp && j.step == step)

/-! ### The bytes of an image (R334) -/

/-- The 32-byte record of a tumbler as it stands, in the layout of R168. -/
def tumblerBytes (t : Tumbler) : List Byte :=
  let flags := bit t.reset + 2 * bit t.priv + 4 * bit t.armed + 8 * t.action
  leBytes 2 t.handle ++ leBytes 1 t.kind ++ leBytes 1 flags ++ leBytes 4 (if t.priv then t.owner else 0) ++
    leBytes 8 t.value ++ leBytes 8 (if t.armed then t.target else 0) ++
    leBytes 2 (if t.action = 1 then t.chain else 0) ++ leBytes 2 (if t.action = 1 then t.cinc else 0) ++ zeros 4

/-- The 64-byte descriptor of a tensor whose section lies at an offset. -/
def descriptorBytes (t : ImgTensor) (off : Nat) : List Byte :=
  leBytes 4 t.tensor ++ leBytes 1 t.mode ++ zeros 3 ++ leBytes 4 t.rows ++ leBytes 4 t.cols ++ leBytes 8 off ++
    leBytes 8 t.bytes.length ++ leBytes 4 (crc32c t.bytes) ++ zeros 28

/-- The descriptors of the tensors whose sections follow each other from an offset. -/
def descriptorTable : List ImgTensor → Nat → List Byte
  | [], _ => []
  | t :: ts, off => descriptorBytes t off ++ descriptorTable ts (off + t.bytes.length)

/-- Bytes of all sections of an image. -/
def sectionsLength (i : Image) : Nat := sumNat (i.tensors.map (fun t => t.bytes.length))

/-- Bytes of an image. -/
def imageSize (i : Image) : Nat := 256 + 64 * i.tensors.length + sectionsLength i + 32 * i.tumblers.length

/-- The 256-byte header of an image. -/
def headerBytes (i : Image) : List Byte :=
  let b := leBytes 4 0x444E4952 ++ leBytes 2 i.format ++ zeros 2 ++ leBytes 8 i.no ++ leBytes 8 i.step ++
    leBytes 8 i.stamp ++ leBytes 4 i.crc ++ leBytes 4 i.tensors.length ++ leBytes 4 i.jobTag ++ leBytes 2 i.n ++
    leBytes 2 i.rank ++ (i.shapes.map (fun p => leBytes 2 p.1 ++ leBytes 2 p.2)).flatten ++
    leBytes 8 (256 + 64 * i.tensors.length + sectionsLength i) ++ leBytes 4 i.tumblers.length ++ zeros 4 ++
    leBytes 8 (imageSize i) ++ leBytes 8 i.captureNs ++ leBytes 8 i.waitNs ++ zeros 132
  b ++ leBytes 4 (crc32c b)

/-- The bytes of an image: header, descriptors, sections, tumblers. The sections stand packed, in the order in which
they were captured (DESIGN CHOICE, log entry 75). -/
def imageRaw (i : Image) : List Byte :=
  headerBytes i ++ descriptorTable i.tensors (256 + 64 * i.tensors.length) ++
    (i.tensors.map (fun t => t.bytes)).flatten ++ (i.tumblers.map tumblerBytes).flatten

/-- The CRCs of an image check: the header's, and each section's. -/
def imageChecks (b : List Byte) : Bool :=
  leAt b 252 4 == crc32c (b.take 252) && (List.range (leAt b 36 4)).all (fun k =>
    let d := slice b (256 + 64 * k) 64
    leAt d 32 4 == crc32c (slice b (leAt d 16 8) (leAt d 24 8)))

/-! ### Restorable and retained images (R336, R340) -/

/-- An image belongs to a recipe's series. -/
def imageOf (r : Recipe) (i : Image) : Bool := i.crc == r.crc && i.stamp == r.stamp

/-- Restorable: durable, its CRCs check, and the record of step STEP + 1 has a valid loss (R340). -/
def restorable (s : State) (i : Image) : Bool :=
  (i.state == .durable || i.state == .restorable) && imageChecks i.raw && match journalOf s i.crc i.stamp (i.step + 1) with
    | some j => j.lossValid
    | none => false

/-- The newest restorable image of a recipe. -/
def newestRestorable (s : State) (r : Recipe) : Option Image :=
  s.rind.images.reverse.find? (fun i => imageOf r i && restorable s i)

/-- Durable images of a recipe's series, oldest first. -/
def durableOf (s : State) (r : Recipe) : List Image :=
  s.rind.images.filter (fun i => imageOf r i && (i.state == .durable || i.state == .restorable))

/-- Keep the newest durable image and OD 40.013 older ones; drop the journal records older than the oldest kept
(R336). -/
def pruneImages (r : Recipe) (s : State) : State :=
  let l := durableOf s r
  let gone := (l.take (l.length - (s.warden.stored.retained + 1))).map (fun i => i.no)
  let s1 := s.onRind (fun x => { x with images := x.images.filter (fun i => !(gone.contains i.no)) })
  match durableOf s1 r with
  | [] => s1
  | i :: _ => s1.onRind (fun x => { x with
      journal := x.journal.filter (fun j => !(sameSeries r j && decide (j.step < i.step))) })

/-- Images whose record of the next step has come in become restorable in the directory (R340). -/
def markRestorable (s : State) : State :=
  s.onRind (fun x => { x with images := x.images.map (fun i =>
    if i.state == .durable && restorable s i then { i with state := .restorable } else i) })

/-! ### Sizes (R334, R337) -/

/-- Buffers of a capture entry: address, bytes, alignment (R254, R255, R267, R331). -/
def captBuffers (c : CaptEntry) : List (Nat × Nat × Nat) :=
  let n := c.rows * c.cols
  if c.mode = 0 then
    [(c.master, 4 * n, 4096), (c.m, (n + 127) / 128 * 128, 4096), (c.ms, (n + 127) / 128 * 2, 64),
     (c.v, (n + 127) / 128 * 128, 4096), (c.vs, (n + 127) / 128 * 2, 64)]
  else [(c.master, 4 * n, 4096), (c.m, (n + 255) / 256 * 2048, 4096)]

/-- Bytes of a section (R334). -/
def sectionBytes (c : CaptEntry) : Nat := sumNat ((captBuffers c).map (fun b => b.2.1))

/-- Bytes of an image of a capture table (R334). -/
def imageBytes (capt : List CaptEntry) (tumblers : Nat) : Nat :=
  256 + 64 * capt.length + ((capt.map (fun c => ((captBuffers c).map (fun b => b.2.1)).sum)).sum) + 32 * tumblers

/-- Usable bytes of the rind store, OD 40.020 (R336): 16 × 10^12 less the metadata region. -/
def rindCapacity : Nat := 16 * 10 ^ 12 - 64 * MiB

/-- The images of every admitted recipe with a capture table fit (R337). -/
def imagesFit (s : State) (more : Nat) : Bool :=
  let all := (s.recipes.filter (fun r => !r.capt.isEmpty)).map (fun r => imageBytes r.capt (sumNat r.tumbCounts))
  decide ((s.warden.stored.retained + 2) * (sumNat all + more) ≤ rindCapacity)

end Sys2Proof.Machine
end

