-- ==== Sys2Proof/Machine/Update.lean ====
section
/-! DEFINITION. The update engines (R251 to R280): the check of update descriptors, the optimiser on a packet, the
ratio ledger, the emission of working copies, and the waits of update tasks. -/

namespace Sys2Proof.Machine

/-! ### Fields (R260 to R264) -/

def uMode (ws : List Nat) : Nat := bitsOf (wd ws 0) 59 57
def uNgrad (ws : List Nat) : Nat := bitsOf (wd ws 0) 56 53
def uNcopy (ws : List Nat) : Nat := bitsOf (wd ws 0) 52 51
def uOdd (ws : List Nat) : Bool := bitOf (wd ws 0) 50
def uNobc (ws : List Nat) : Bool := bitOf (wd ws 0) 49
def uFinal (ws : List Nat) : Bool := bitOf (wd ws 0) 48
def uVwidx (ws : List Nat) : Nat := bitsOf (wd ws 0) 47 46
def uTensor (ws : List Nat) : Nat := bitsOf (wd ws 0) 31 0
def uRows (ws : List Nat) : Nat := bitsOf (wd ws 1) 23 0
def uCols (ws : List Nat) : Nat := bitsOf (wd ws 1) 47 24
def uVpost (ws : List Nat) : Nat := bitsOf (wd ws 1) 63 48
def uPktOff (ws : List Nat) : Nat := bitsOf (wd ws 12) 63 32
def uTbase (ws : List Nat) : Nat := bitsOf (wd ws 12) 31 0
def uRix (ws : List Nat) : Nat := bitsOf (wd ws 15) 31 0

/-- Elements and packets of the master. -/
def uElems (ws : List Nat) : Nat := uRows ws * uCols ws
def uPackets (ws : List Nat) : Nat := (uElems ws + 1023) / 1024

/-- Modes with an optimiser, and with 8-bit moments. -/
def uOpt (ws : List Nat) : Bool := uMode ws != 2
def uNative (ws : List Nat) : Bool := uMode ws == 0 || uMode ws == 3
def uApply (ws : List Nat) : Bool := uMode ws == 0 || uMode ws == 1
def uRatio (ws : List Nat) : Bool := uMode ws == 3 || uMode ws == 4

/-- A copy record: its sixteen words. -/
def copyRec (s : State) (h t : Nat) (ws : List Nat) (j : Nat) : Except Access (List Nat) :=
  (taskRead s h t (wd ws 11 + 128 * j) 128).map descWords

def cFmt (c : List Nat) : Nat := bitsOf (wd c 0) 4 0
def cOrient (c : List Nat) : Nat := bitsOf (wd c 0) 6 5
def cRule (c : List Nat) : Nat := bitsOf (wd c 0) 7 7
def cEye (c : List Nat) : Bool := bitOf (wd c 0) 8

/-- An FP32 field. -/
def fpOf (w hi lo : Nat) : Val := f32.decode (bitsOf w hi lo)

/-! ### The check on read (R279, R280) -/

/-- The address is in the near window. -/
def inNear (a : Nat) : Bool := decide (nearBase ≤ a) && decide (a < nearEnd)

/-- A near-window address with an alignment, where it is used. -/
def addrFail (used : Bool) (i a align : Nat) : List Fail :=
  if used then failIf (!inNear a) i 0x10 a ++ failIf (a % align != 0) i 0x11 a else []

/-- A coefficient in [0, hi), or at least 0 and finite. -/
def coefOk (v : Val) (below : Option Val) : Bool :=
  v.isFinite && Val.le .zero v && (match below with
    | some b => v.lt b
    | none => true)

/-- The FP32 fields of a word that are no coefficient in [0, below), or no finite number of at least 0. -/
def coefFail (ws : List Nat) (i : Nat) (below : Option Val) : List Fail :=
  failAny [(!coefOk (fpOf (wd ws i) 31 0) below, bitsOf (wd ws i) 31 0),
    (!coefOk (fpOf (wd ws i) 63 32) below, bitsOf (wd ws i) 63 32)] i 7

/-- The checks on the descriptor's own words. -/
def updWordFaults (r : Recipe) (k : Task) (ws : List Nat) : List Fail :=
  let m := uMode ws
  let opt := uOpt ws
  let cp := uNcopy ws != 0
  let led := wd ws 13 != 0
  let on := fun (b : Bool) (x : Nat) => if b then x else 0
  let adr := maskBits 47 0
  failIf (bitsOf (wd ws 0) 63 60 != 1) 0 0 (bitsOf (wd ws 0) 63 60) ++ failIf (decide (4 < m)) 0 1 m ++
    maskFail ws 0 (maskBits 63 60 + maskBits 59 57 + maskBits 56 53 + on (!uRatio ws) (maskBits 52 51) + on cp (maskBits 50 50) +
      on opt (maskBits 49 49) + on (uApply ws) (maskBits 48 48) + on cp (maskBits 47 46) + maskBits 31 0) ++
    failIf (if opt then uNgrad ws == 0 || decide (8 < uNgrad ws) else uNgrad ws != 0) 0 6 (uNgrad ws) ++
    failIf (uNcopy ws == 3) 0 6 3 ++
    failIf (cp && (decide (k.waits.length ≤ uVwidx ws) || (match k.waits[uVwidx ws]? with
      | some w => (r.tumbler w.handle).kind != 1
      | none => false))) 0 8 (uVwidx ws) ++
    maskFail ws 1 (on cp (maskBits 63 48) + maskBits 47 0) ++
    failAny [(uRows ws == 0, 0), (uCols ws == 0, 0), (decide (2 ^ 40 ≤ uElems ws), bitsOf (wd ws 1) 47 0)] 1 5 ++
    maskFail ws 2 (on opt (maskBits 63 0)) ++ maskFail ws 3 (on opt (maskBits 63 0)) ++
    maskFail ws 4 (on opt (maskBits 63 0)) ++
    (if opt then coefFail ws 2 none ++ coefFail ws 3 (some .one) ++
      failAny [(!((fpOf (wd ws 4) 31 0).isFinite && Val.lt .zero (fpOf (wd ws 4) 31 0)), bitsOf (wd ws 4) 31 0),
        (!(fpOf (wd ws 4) 63 32).isFinite, bitsOf (wd ws 4) 63 32)] 4 7 else []) ++
    maskFail ws 5 adr ++ addrFail true 5 (wd ws 5 % 2 ^ 48) 4096 ++
    maskFail ws 6 (on opt adr) ++ addrFail opt 6 (wd ws 6 % 2 ^ 48) 4096 ++
    maskFail ws 7 (on (uNative ws) adr) ++ addrFail (uNative ws) 7 (wd ws 7 % 2 ^ 48) 64 ++
    maskFail ws 8 (on (uNative ws) adr) ++ addrFail (uNative ws) 8 (wd ws 8 % 2 ^ 48) 4096 ++
    maskFail ws 9 (on (uNative ws) adr) ++ addrFail (uNative ws) 9 (wd ws 9 % 2 ^ 48) 64 ++
    maskFail ws 10 (on opt adr) ++ addrFail opt 10 (wd ws 10 % 2 ^ 48) 64 ++
    maskFail ws 11 (on cp adr) ++ addrFail cp 11 (wd ws 11 % 2 ^ 48) 64 ++
    maskFail ws 12 (on led (maskBits 63 32) + on opt (maskBits 31 0)) ++
    maskFail ws 13 (on opt adr) ++ addrFail (led && opt) 13 (wd ws 13 % 2 ^ 48) 64 ++
    failIf (uRatio ws && !led) 13 8 0 ++
    maskFail ws 14 adr ++ addrFail (wd ws 14 != 0) 14 (wd ws 14 % 2 ^ 48) 64 ++
    maskFail ws 15 (on (uApply ws) (maskBits 31 0))

/-- The checks on the gradient list (R263). -/
def glistFaults (bs : List Byte) (ngrad : Nat) : List Fail :=
  ((List.range 8).map (fun j =>
    let e := leAt bs (8 * j) 8
    if j < ngrad then
      failIf (bitsOf e 63 53 != 0) 10 3 (bitsOf e 63 53) ++
        failIf (bitsOf e 52 48 != 0 && bitsOf e 52 48 != 0xB) 10 4 (bitsOf e 52 48) ++
        addrFail true 10 (bitsOf e 47 0) 4096
    else failIf (e != 0) 10 3 e)).flatten

/-- The checks on a copy record (R264, R257). -/
def copyFaults (ws c : List Nat) : List Fail :=
  let blk := isBlocked (cFmt c)
  let w := cOrient c == 1 || cOrient c == 3
  let wt := cOrient c == 2 || cOrient c == 3
  let g := blockLen (cFmt c)
  let used := fun (b : Bool) (i align : Nat) => if b then
      failIf (decide (2 ^ 48 ≤ wd c i)) 11 3 (wd c i / 2 ^ 48) ++ addrFail true 11 (wd c i % 2 ^ 48) align
    else failIf (wd c i != 0) 11 3 (wd c i)
  failIf (bitsOf (wd c 0) 63 9 != 0) 11 3 (bitsOf (wd c 0) 63 9) ++ failIf (decide (0xA < cFmt c)) 11 4 (cFmt c) ++
    failIf (cOrient c == 0) 11 6 0 ++
    failIf (cEye c && (cOrient c == 3 || !isNarrow (cFmt c))) 11 8 (wd c 0) ++
    failAny [(w && uRows ws % g != 0, uRows ws), (wt && uCols ws % g != 0, uCols ws)] 1 5 ++
    (if wd c 1 = 0 then [] else used true 1 64) ++
    used w 2 4096 ++ used (w && blk) 3 64 ++ used wt 4 4096 ++ used (wt && blk) 5 64 ++
    used w 6 4096 ++ used (w && blk) 7 64 ++ used wt 8 4096 ++ used (wt && blk) 9 64 ++
    used (cEye c) 10 128 ++ used (cEye c) 11 8 ++ used (cEye c) 12 8 ++
    failAny [(wd c 13 != 0, wd c 13), (wd c 14 != 0, wd c 14), (wd c 15 != 0, wd c 15)] 11 3

/-- Zero or a power of two up to 65,536. -/
def hlenOk (n : Nat) : Bool := n == 0 || (decide (n ≤ 65536) && n == 2 ^ Nat.log2 n)

/-- The checks on a ledger entry (R274 to R276, R280), with the entries named so far in the step. -/
def ledgerFaults (named : List Nat) (ws : List Nat) (e : List Byte) : List Fail :=
  let action := leAt e 20 1
  failAny [(decide (2 < action), action), (!hlenOk (leAt e 24 4), leAt e 24 4)] 13 6 ++
    failAny [(action == 2 && leAt e 22 2 == 0, 0), (uRatio ws && action != 2, action)] 13 8 ++
    failAny [(!inNear (leAt e 8 8), leAt e 8 8), (leAt e 24 4 != 0 && !inNear (leAt e 32 8), leAt e 32 8)] 13 0x10 ++
    failIf (decide (leAt e 4 4 < uPktOff ws + uPackets ws)) 12 0x24 (uPktOff ws) ++
    failIf (!named.contains (wd ws 13) && decide (4096 ≤ named.length)) 13 0x25 (wd ws 13)

/-- Every check of an update descriptor that fails, and the first read of its blocks that does not succeed: the word
that names the block, the address read and how it ended. A block whose own address is at fault is not read (log
entry 53). -/
def updCheck (s : State) (h t : Nat) (r : Recipe) (k : Task) (named : List Nat) (ws : List Nat) :
    List Fail × Option (Nat × Nat × Access) :=
  let a := updWordFaults r k ws
  let readable := fun (i align : Nat) => inNear (wd ws i) && wd ws i % align == 0
  let gl := if uOpt ws ∧ readable 10 64 then taskRead s h t (wd ws 10) 64 else .ok []
  let cs := if uNcopy ws ≠ 0 ∧ readable 11 64 then
      (List.range (min 2 (uNcopy ws))).map (fun j => (wd ws 11 + 128 * j, copyRec s h t ws j)) else []
  let le := if uOpt ws ∧ readable 13 64 then taskRead s h t (wd ws 13) 128 else .ok []
  let g := match gl with
    | .ok bs => if bs.isEmpty then ([], none) else (glistFaults bs (uNgrad ws), none)
    | .error e => ([], some (10, wd ws 10, e))
  let c := cs.foldl (fun (acc : List Fail × Option (Nat × Nat × Access)) x => match x.2 with
    | .ok c => (acc.1 ++ copyFaults ws c, acc.2)
    | .error e => (acc.1, some (acc.2.getD (11, x.1, e)))) ([], none)
  let l := match le with
    | .ok bs => if bs.isEmpty then ([], none) else (ledgerFaults named ws bs, none)
    | .error e => ([], some (13, wd ws 13, e))
  (a ++ g.1 ++ c.1 ++ l.1, g.2.orElse (fun _ => c.2.orElse (fun _ => l.2)))

/-- The ledger entries named when descriptor i of a task is checked: those of the step, and those of the task's earlier
descriptors (R274). -/
def namedBefore (r : Recipe) (k : Task) (u : StepRun) (i : Nat) : List Nat :=
  (List.range i).foldl (fun l j =>
    let a := wd (vatWords r k j) 13 % 2 ^ 48
    if a = 0 ∨ l.contains a then l else l ++ [a]) (u.ledgers.map (fun l => l.addr))

/-! ### Fault reports (R279) -/

/-- Detector of an update fault. -/
def updDetector (code : Nat) : Nat :=
  if code ≤ 8 then 0x7E4 else if code ≤ 0x12 then 0x7E5 else if code = 0x14 then 0x710 else 0x7E6

/-- The engine that reports a fault found on read: the lowest-numbered usable one. -/
def updReadUnit (s : State) : Nat := unitId 7 0 (nth s.tiers.hbmStacks 0 0)

/-- An update descriptor faults: its event, and the task's fault (R279). -/
def updFault (h t i unit code word value sub : Nat) (s : State) : State :=
  let d := leBytes 4 t ++ leBytes 1 code ++ leBytes 1 word ++ zeros 2 ++ leBytes 8 value
  let s1 := if code = 0x14 then postTranslation unit sub d s else post (updDetector code) unit code d s
  taskFault h t unit 0x10 code (setPhase h t i .faulted s1)

/-- The step carries UPDATED: a visible write of an update engine (R179), or a fault found during execution (R279). -/
def markUpdated (h : Nat) (s : State) : State := s.onStep h (fun u => { u with updated := true })

/-- An access during the execution of an update descriptor that did not succeed; the step carries UPDATED, whether or not
a write had become visible (R279; DEDUCED, log entry 63). -/
def updAccess (h t i unit word addr : Nat) (a : Access) (s : State) : State :=
  match a with
  | .fault sub => updFault h t i unit 0x14 word addr sub (markUpdated h s)
  | .poisoned => memoryError h t i unit (markUpdated h s)
  | .breach => breachFault h t unit (setPhase h t i .faulted (markUpdated h s))
  | .absorbed => absorbTask h unit t (setPhase h t i .faulted (markUpdated h s))
  | .ok | .dropped | .wait => s

/-! ### Descriptors of a task -/

/-- An update descriptor of a started task. -/
structure UpdDesc where
  h : Nat
  t : Nat
  i : Nat
  ws : List Nat
  run : DescRun
  ord : Nat
  seed : Nat
  layer : Nat
  /-- the descriptors before it in the task: words and packets done. -/
  before : List (List Nat × DescRun)
  /-- capture indices of the tensor that the descriptor names, by RIX or by TENSOR (R278, R332). -/
  named : List Nat
  pending : List Nat
  setNow : List Nat
  snapshot : Bool
  deriving DecidableEq, Repr

/-- The capture indices of the tensor that an update descriptor names, by RIX or by TENSOR (R278, R331). -/
def namedTensors (r : Recipe) (ws : List Nat) : List Nat :=
  (List.range r.capt.length).filter (fun i => i == uRix ws || (r.capt[i]?).any (fun c => c.tensor == uTensor ws))

/-- The update descriptor a command names, of a started task of a step that has not faulted. -/
def updDesc? (s : State) (d : DescRef) : Option UpdDesc :=
  match s.recipe? d.recipe with
  | none => none
  | some r =>
    match r.running, r.task? d.task, r.run? d.task with
    | some u, some k, some x =>
      if k.cls = 2 && x.started && u.fault.isNone then
        (x.descs[d.idx]?).map (fun e =>
          { h := d.recipe, t := d.task, i := d.idx, ws := vatWords r k d.idx, run := e, ord := u.ordinal, seed := u.seed,
            layer := k.layer,
            before := (List.range d.idx).filterMap (fun j => (x.descs[j]?).map (fun e => (vatWords r k j, e))),
            named := namedTensors r (vatWords r k d.idx), pending := r.rindPending, setNow := u.pendingSet, snapshot := u.snapshot })
      else none
    | _, _, _ => none

/-- The stack whose engine processes the packet of an address of the master (R251). -/
def packetEngine (s : State) (h a : Nat) : Nat :=
  match s.recipe? h with
  | none => 0
  | some r =>
    match translate s r a false with
    | .ok (.near pa) =>
      match nearPlace s pa with
      | some p => p.1 / 32
      | none => 0
    | _ => 0

/-- The engine that emits unit u (R252). -/
def unitEngine (s : State) (u : Nat) : Nat := nth s.tiers.hbmStacks (u % max 1 s.tiers.hbmStacks.length) 0

def engineUnit (e : Nat) : Nat := unitId 7 0 e

/-- A descriptor runs its packets: every mode but copies only, and a held apply (R277). -/
def hasPackets (ws : List Nat) (e : DescRun) : Bool := uMode ws != 2 && !e.heldCopies

/-- Emission units of a copy record (R259). -/
def unitCount (ws c : List Nat) : Nat :=
  let R := uRows ws
  let C := uCols ws
  if cEye c then
    if cOrient c = 1 then (R + 1023) / 1024 * ((C + 127) / 128) else (C + 1023) / 1024 * ((R + 127) / 128)
  else (R + 127) / 128 * ((C + 127) / 128)

/-- Emission units of a descriptor. -/
def unitTotal (s : State) (d : UpdDesc) : Nat :=
  ((List.range (uNcopy d.ws)).map (fun j => match copyRec s d.h d.t d.ws j with
    | .ok c => unitCount d.ws c
    | .error _ => 0)).sum

/-! ### Begin (R265, R276, R277) -/

/-- Begin a descriptor. -/
def beginUpd (d : UpdDesc) (held : Bool) (s : State) : State :=
  { s with seq := s.seq + 1 }.onDesc d.h d.t d.i
    (fun x => { x with phase := .begun, heldCopies := held })

/-- Note a ledger entry as named in the step (R274). -/
def nameLedger (h a : Nat) (s : State) : State :=
  if a = 0 then s
  else s.onStep h (fun u => if u.ledgers.any (fun l => l.addr == a) then u
    else { u with ledgers := u.ledgers ++ [{ addr := a, count := 0, final := false }] })

/-- A descriptor begins; an apply under a hold reads the verdict before its first write (R276, R277). -/
def runUpdBegin (d : UpdDesc) (s : State) : State :=
  let a := wd d.ws 13
  if uApply d.ws ∧ a ≠ 0 then
    match taskRead s d.h d.t a 128 with
    | .error e => updAccess d.h d.t d.i (updReadUnit s) 13 a e s
    | .ok e =>
      if leAt e 20 1 = 2 then
        if leAt e 40 4 ≠ d.ord % 2 ^ 32 then updFault d.h d.t d.i (updReadUnit s) 0x23 13 a 0 s
        else beginUpd d (leAt e 44 1 == 2) s
      else beginUpd d false s
  else beginUpd d false s

/-! ### The optimiser (R265 to R267) -/

/-- FP64 rounding of a value. -/
def r64 (v : Val) : Val := f64.decode (f64.rne v)

/-- The odd part of a positive number below 2^64, with the power of two taken out. -/
def oddPart : Nat → Nat → Nat × Nat
  | 0, m => (m, 0)
  | n + 1, m => if m % 2 = 0 then let p := oddPart n (m / 2); (p.1, p.2 + 1) else (m, 0)

/-- B^t where FP64 holds it exactly: the odd part of B's significand to the power t has at most 53 bits. -/
def exactPow (b : Val) (t : Nat) : Option Val :=
  match b with
  | .fin s m e =>
    let p := oddPart 64 m
    if (e + p.2) * t < -1074 then none
    else if p.1 = 1 then some (.fin (s && t % 2 == 1) 1 ((e + p.2) * t))
    else if t ≤ 33 ∧ p.1 ^ t < 2 ^ 53 then some (.fin (s && t % 2 == 1) (p.1 ^ t) ((e + p.2) * t))
    else none
  | _ => none

/-- B^t in FP64 (R265): exact where the spec leaves no choice, B = 0 and t at most 1; else the power is Config's. -/
def powB (b : Val) (t : Nat) : Val :=
  if t = 0 then .one
  else if b.isZero then .zero
  else if t = 1 then b
  else match exactPow b t with
  | some v => v
  | none => f64.decode (Config.fp64Pow (BitVec.ofNat 64 (f64.rne b)) t).toNat

/-- 1 / (1 − B^t) in FP64, rounded to FP32 (R265). -/
def biasCorr (nobc : Bool) (b : Val) (t : Nat) : Val :=
  if nobc then .one
  else
    let p := powB b t
    r32 (r64 (Val.quo 60 .one (r64 (Val.one.sub p))))

/-- The constants of a descriptor. -/
structure OptConst where
  lr : Val
  wdk : Val
  b1 : Val
  b2 : Val
  k1 : Val
  k2 : Val
  c1 : Val
  c2 : Val
  eps : Val
  gscale : Val
  deriving DecidableEq, Repr

def optConst (ws : List Nat) (ord : Nat) : OptConst :=
  let t := (uTbase ws + ord + 1) % 2 ^ 64
  let b1 := fpOf (wd ws 3) 31 0
  let b2 := fpOf (wd ws 3) 63 32
  let g := fpOf (wd ws 4) 63 32
  { lr := fpOf (wd ws 2) 31 0, wdk := fpOf (wd ws 2) 63 32, b1 := b1, b2 := b2, k1 := sub32 .one b1, k2 := sub32 .one b2,
    c1 := biasCorr (uNobc ws) b1 t, c2 := biasCorr (uNobc ws) b2 t, eps := fpOf (wd ws 4) 31 0,
    gscale := if g.isZero then .one else g }

/-- What the optimiser gives for one element. -/
structure OptOut where
  w : Val
  /-- exact new master. -/
  w1 : Val
  m : Val
  v : Val
  skipped : Bool
  deriving DecidableEq, Repr

/-- Largest finite FP32 value. -/
def fp32Max : Val := gFP32.vmax

/-- One element (R265, R266). -/
def optElem (c : OptConst) (w m0 v0 g0 : Val) : OptOut :=
  let g := mul32 g0 c.gscale
  let m := add32 (mul32 c.b1 m0) (mul32 c.k1 g)
  let v := add32 (mul32 c.b2 v0) (mul32 c.k2 (mul32 g g))
  let u := div32 (mul32 m c.c1) (add32 (sqrt32 (mul32 v c.c2)) c.eps)
  let d := mul32 c.lr (add32 u (mul32 c.wdk w))
  let w1 := w.sub d
  if g.isFinite && m.isFinite && v.isFinite && u.isFinite && d.isFinite && !fp32Max.lt w1.abs then
    { w := w, w1 := w1, m := m, v := v, skipped := false }
  else { w := w, w1 := w, m := m0, v := v0, skipped := true }

/-- u of R67 for an element and purpose. -/
def srU (seed tensor index purpose : Nat) : Nat := srBits (srWord seed tensor index purpose)

/-- The master code written for an element: rounded stochastically (R266, R67), and its counts. -/
def masterCode (d : UpdDesc) (index : Nat) (o : OptOut) : Nat × Counts :=
  narrowPlain 11 (.stochastic (srU d.seed (uTensor d.ws) index 0)) o.w1

/-- Everything a packet reads: master and moments as codes (no moment codes in native modes) and as values, the folded
gradient, and the invalid M8 codes among the moments (R47). -/
structure PacketIn where
  wBits : List Nat
  mBits : List Nat
  vBits : List Nat
  m : List Val
  v : List Val
  g : List Val
  invalid : Nat
  deriving DecidableEq, Repr

/-- The master of a packet. -/
def PacketIn.w (i : PacketIn) : List Val := i.wBits.map f32.decode

/-- FP32 values of bytes. -/
def fp32s (bs : List Byte) (n : Nat) : List Val := (List.range n).map (fun i => f32.decode (leAt bs (4 * i) 4))

/-- The fold of R249 over the gradient buffers of a packet. -/
def foldGrads (s : State) (d : UpdDesc) (p n : Nat) : Except (Nat × Nat × Access) (List Val) :=
  match taskRead s d.h d.t (wd d.ws 10) 64 with
  | .error e => .error (10, wd d.ws 10, e)
  | .ok gl =>
    (List.range (uNgrad d.ws)).foldl (fun acc j =>
      match acc with
      | .error e => .error e
      | .ok vs =>
        let e := leAt gl (8 * j) 8
        let wide := bitsOf e 52 48 == 0xB
        let sz := if wide then 4 else 2
        let a := bitsOf e 47 0 + p * 1024 * sz
        match taskRead s d.h d.t a (n * sz) with
        | .error x => .error (10, a, x)
        | .ok bs =>
          let xs := (List.range n).map (fun i => if wide then f32.decode (leAt bs (4 * i) 4) else bf16.decode (leAt bs (2 * i) 2))
          .ok (if j = 0 then xs else (vs.zip xs).map (fun q => add32 q.1 q.2))) (.ok [])

/-- What is read of the moments of a packet. -/
structure MomentsIn where
  mBits : List Nat
  vBits : List Nat
  m : List Val
  v : List Val
  invalid : Nat
  deriving DecidableEq, Repr

/-- Read the moments of a packet: M8 and V8 (R47, R48, R255), or MH4 state (R267). -/
def readMoments (s : State) (d : UpdDesc) (p n : Nat) : Except (Nat × Nat × Access) MomentsIn :=
  let rd := fun (word a len : Nat) => match taskRead s d.h d.t a len with
    | .error e => (Except.error (word, a, e) : Except (Nat × Nat × Access) (List Byte))
    | .ok bs => .ok bs
  if uNative d.ws then
    let nb := (n + 127) / 128
    match rd 6 (wd d.ws 6 + 1024 * p) n, rd 7 (wd d.ws 7 + 16 * p) (2 * nb), rd 8 (wd d.ws 8 + 1024 * p) n,
        rd 9 (wd d.ws 9 + 16 * p) (2 * nb) with
    | .ok ms, .ok mc, .ok vs, .ok vc =>
      .ok { mBits := [], vBits := [],
            m := (List.range n).map (fun i => m8Val (leAt mc (2 * (i / 128)) 2) (leAt ms i 1)),
            v := (List.range n).map (fun i => v8Val (leAt vc (2 * (i / 128)) 2) (leAt vs i 1)),
            invalid := ((List.range n).filter (fun i => leAt ms i 1 == 0x80)).length }
    | .error e, _, _, _ => .error e
    | _, .error e, _, _ => .error e
    | _, _, .error e, _ => .error e
    | _, _, _, .error e => .error e
  else
    match rd 6 (wd d.ws 6 + 8192 * p) (2048 * ((n + 255) / 256)) with
    | .error e => .error e
    | .ok bs =>
      let ms := (List.range n).map (fun i => leAt bs (2048 * (i / 256) + 4 * (i % 256)) 4)
      let vs := (List.range n).map (fun i => leAt bs (2048 * (i / 256) + 1024 + 4 * (i % 256)) 4)
      .ok { mBits := ms, vBits := vs, m := ms.map f32.decode, v := vs.map f32.decode, invalid := 0 }

/-- Read all that packet p needs. -/
def packetRead (s : State) (d : UpdDesc) (p n : Nat) : Except (Nat × Nat × Access) PacketIn :=
  match taskRead s d.h d.t (wd d.ws 5 + 4096 * p) (4 * n) with
  | .error e => .error (5, wd d.ws 5 + 4096 * p, e)
  | .ok bs =>
    match readMoments s d p n with
    | .error e => .error e
    | .ok mv =>
      match foldGrads s d p n with
      | .error e => .error e
      | .ok g => .ok { wBits := (List.range n).map (fun i => leAt bs (4 * i) 4), mBits := mv.mBits, vBits := mv.vBits,
                       m := mv.m, v := mv.v, g := g, invalid := mv.invalid }

/-- Blocks of 128 of a list. -/
def momentBlocks {α : Type} (l : List α) : List (List α) := (List.range ((l.length + 127) / 128)).map (fun b => (l.drop (128 * b)).take 128)

/-- The writes of an apply's packet, in order: word, address, bytes; and what it counts. A skipped element keeps its
master, and in MH4 mode its m and v, bit for bit (R266, R267). -/
def packetWrites (d : UpdDesc) (p : Nat) (i : PacketIn) (os : List OptOut) : List (Nat × Nat × List Byte) × Counts :=
  let es := os.zipIdx.map (fun q => (q.1, 1024 * p + q.2))
  let codes := es.map (fun e =>
    if e.1.skipped then (nth i.wBits (e.2 - 1024 * p) 0, ({ nanInf := 1 } : Counts)) else masterCode d e.2 e.1)
  let cm := codes.foldl (fun c e => c.add e.2) ({} : Counts)
  let master := (5, wd d.ws 5 + 4096 * p, (codes.map (fun e => leBytes 4 e.1)).flatten)
  if uNative d.ws then
    let us := fun purpose => es.map (fun e => srU d.seed (uTensor d.ws) e.2 purpose)
    let mb := ((momentBlocks (os.map (fun o => o.m))).zip (momentBlocks (us 1))).map (fun q => m8Block q.2 q.1)
    let vb := ((momentBlocks (os.map (fun o => o.v))).zip (momentBlocks (us 2))).map (fun q => v8Block q.2 q.1)
    let bytes := fun (l : List (Nat × List Nat × Counts)) =>
      (l.map (fun b => padTo 128 (b.2.1.map (BitVec.ofNat 8)))).flatten
    let scales := fun (l : List (Nat × List Nat × Counts)) => (l.map (fun b => leBytes 2 b.1)).flatten
    ([master, (6, wd d.ws 6 + 1024 * p, bytes mb), (7, wd d.ws 7 + 16 * p, scales mb),
      (8, wd d.ws 8 + 1024 * p, bytes vb), (9, wd d.ws 9 + 16 * p, scales vb)],
     (mb ++ vb).foldl (fun c b => c.add b.2.2) cm)
  else
    let part : Nat → List Nat → (OptOut → Val) → List (Nat × Nat × List Byte) := fun off old f => es.map (fun e =>
      (6, wd d.ws 6 + 2048 * (e.2 / 256) + off + 4 * (e.2 % 256),
        leBytes 4 (if e.1.skipped then nth old (e.2 - 1024 * p) 0 else f32.rne (f e.1))))
    (master :: (part 0 i.mBits (fun o => o.m) ++ part 1024 i.vBits (fun o => o.v)), cm)

/-- Perform writes in order; the first that does not succeed, with its word and address. -/
def updWrites (h t unit : Nat) (ps : List (Nat × Nat × List Byte)) (s : State) : State × Option (Nat × Nat × Access) :=
  ps.foldl (fun acc p =>
    match acc.2 with
    | some _ => acc
    | none =>
      match taskWrite h t unit p.2.1 p.2.2 acc.1 with
      | (s1, .ok) => (s1, none)
      | (s1, .dropped) => (s1, none)
      | (s1, a) => (s1, some (p.1, p.2.1, a))) (s, none)

/-! ### The ratio ledger (R273 to R277) -/

/-- S_d and S_w of a packet, in FP64 (R273). -/
def partials (d : UpdDesc) (p : Nat) (os : List OptOut) : Val × Val :=
  os.zipIdx.foldl (fun acc q =>
    let w1 := if q.1.skipped then q.1.w else f32.decode (masterCode d (1024 * p + q.2) q.1).1
    let dl := if q.1.skipped then Val.zero else r64 (w1.sub q.1.w)
    (r64 (acc.1.add (r64 (dl.mul dl))), r64 (acc.2.add (r64 (q.1.w.mul q.1.w))))) (Val.zero, Val.zero)

/-- FP64 bytes. -/
def f64Bytes (v : Val) : List Byte := leBytes 8 (f64.rne v)

/-- Sum the partials of a ledger entry in slot order. -/
def sumPartials (bs : List Byte) (n : Nat) : Val × Val :=
  (List.range n).foldl (fun acc i =>
    (r64 (acc.1.add (f64.decode (leAt bs (16 * i) 8))), r64 (acc.2.add (f64.decode (leAt bs (16 * i + 8) 8)))))
    (Val.zero, Val.zero)

/-- √(S_d / S_w) in FP64, rounded to FP32 (R274). -/
def ratioOf (sd sw : Val) : Val :=
  if sw.isZero then (if sd.isZero then .zero else .inf false)
  else r32 (r64 (Val.root 60 (r64 (Val.quo 60 sd sw))))

/-- Finalise a ledger entry (R274, R277). -/
def finalise (d : UpdDesc) (unit a : Nat) (e : List Byte) (s : State) : State :=
  let n := leAt e 4 4
  match taskRead s d.h d.t (leAt e 8 8) (16 * n) with
  | .error x => updAccess d.h d.t d.i unit 13 (leAt e 8 8) x s
  | .ok bs =>
    let q := sumPartials bs n
    let ratio := ratioOf q.1 q.2
    let thr := f32.decode (leAt e 16 4)
    let crossed := Val.lt .zero thr && thr.lt ratio
    let action := leAt e 20 1
    let verdict := if crossed then (if action = 2 then 2 else 1) else 0
    let crossings := if crossed then satAdd 32 (leAt e 52 4) 1 else leAt e 52 4
    let rb := leBytes 4 (f32.rne ratio)
    let hlen := leAt e 24 4
    let hist := if hlen = 0 then [] else
      [(13, leAt e 32 8 + 32 * (d.ord % hlen), leBytes 8 d.ord ++ f64Bytes q.1 ++ f64Bytes q.2 ++ rb ++ leBytes 1 verdict ++ zeros 3)]
    let w := updWrites d.h d.t unit ((13, a + 40, leBytes 4 d.ord ++ leBytes 1 verdict) ::
      (13, a + 48, rb ++ leBytes 4 crossings ++ f64Bytes q.1 ++ f64Bytes q.2) :: hist) s
    match w.2 with
    | some (word, addr, x) => updAccess d.h d.t d.i unit word addr x w.1
    | none =>
      let s1 := if crossed ∧ action ≠ 1 then
          post 0x607 unit 0 (leBytes 4 (leAt e 0 4) ++ rb ++ leBytes 4 (leAt e 16 4) ++ leBytes 4 d.ord) w.1
        else w.1
      if leAt e 22 2 = 0 then s1 else taskAdd d.h d.t unit true (leAt e 22 2) 1 s1

/-- Write a packet's partials, count it, and finalise the entry when its count reaches NPKT. -/
def ledgerPacket (d : UpdDesc) (unit p : Nat) (os : List OptOut) (s : State) : State :=
  let a := wd d.ws 13
  match taskRead s d.h d.t a 128 with
  | .error x => updAccess d.h d.t d.i unit 13 a x s
  | .ok e =>
    let q := partials d p os
    match updWrites d.h d.t unit [(13, leAt e 8 8 + 16 * (uPktOff d.ws + p), f64Bytes q.1 ++ f64Bytes q.2)] s with
    | (s1, some (word, addr, x)) => updAccess d.h d.t d.i unit word addr x s1
    | (s1, none) =>
      let bump := fun (l : LedgerRun) => { l with count := l.count + 1, final := l.final || l.count + 1 == leAt e 4 4 }
      let s2 := (nameLedger d.h a s1).onStep d.h (fun u => { u with ledgers := modFirst (fun l => l.addr == a) bump u.ledgers })
      let now := match (s2.recipe? d.h).bind (fun r => r.running) with
        | some u => u.ledgers.any (fun l => l.addr == a && l.count == leAt e 4 4)
        | none => false
      if now then finalise d unit a e (markUpdated d.h s2) else markUpdated d.h s2

/-! ### Completion of a descriptor -/

/-- Counts kept until the descriptor completes. -/
def keepCounts (d : UpdDesc) (engine record : Nat) (c : Counts) (s : State) : State :=
  s.onDesc d.h d.t d.i (fun x =>
    let o := look x.counted (engine, record) [0, 0, 0, 0]
    let n := [nth o 0 0 + c.sat, nth o 1 0 + c.flush, nth o 2 0 + c.nanInf, nth o 3 0 + c.invalid]
    { x with counted := put x.counted (engine, record) n })

/-- The counter record that counts go to: U14, or C1 of a copy record. -/
def countedRec (s : State) (d : UpdDesc) (record : Nat) : Nat :=
  if record = 0 then wd d.ws 14
  else match copyRec s d.h d.t d.ws (record - 1) with
    | .ok c => wd c 1
    | .error _ => 0

/-- Add the counts of each engine to their records (R64). -/
def addCounted (d : UpdDesc) (l : List ((Nat × Nat) × List Nat)) (s : State) : State :=
  forEach l (fun e s => countTask d.h d.t (engineUnit e.1.1) (countedRec s d e.1.2)
    { sat := nth e.2 0 0, flush := nth e.2 1 0, nanInf := nth e.2 2 0, invalid := nth e.2 3 0 } s) s

/-- All packets done. -/
def packetsDone (ws : List Nat) (e : DescRun) : Bool := !hasPackets ws e || decide (uPackets ws ≤ e.packets.length)

/-- A descriptor's packets and units are examined: its pending bit, its counts and its end. -/
def updComplete (d : UpdDesc) (s : State) : State :=
  match updDesc? s { recipe := d.h, task := d.t, idx := d.i } with
  | none => s
  | some e =>
    if e.run.phase ≠ .begun then s
    else
      let done := packetsDone e.ws e.run
      let s1 := if done ∧ uApply e.ws ∧ uFinal e.ws ∧ ¬ e.run.heldCopies ∧ e.snapshot ∧ uRix e.ws ≠ 0xFFFFFFFF ∧
          uRix e.ws ∉ e.setNow then setPending d.h (uRix e.ws) s else s
      if done ∧ (uRatio e.ws ∨ unitTotal s e ≤ e.run.units.length) then
        setPhase d.h d.t d.i .signalled (addCounted d e.run.counted s1)
      else s1

/-! ### Begin commands -/

/-- A begin command: the descriptor waits, its predecessors in the pool have begun, its mode is the command's; one with
nothing to do is complete at once. -/
def updBegin (d : DescRef) (mode : Nat) (s : State) : Host.Outcome State Fault Refusal :=
  match updDesc? s d with
  | none => .next s
  | some u => occurs (enginesIssue s && uMode u.ws == mode && u.run.phase == .waiting && u.before.all (fun b => b.2.phase != .waiting))
      (fun s => settle u.h (updComplete u (runUpdBegin u s))) s

/-- UPDATE_NATIVE_APPLY (R265): a MODE 0 descriptor begins. -/
def execUpdateNativeApply (d : DescRef) (s : State) : Host.Outcome State Fault Refusal := updBegin d 0 s

/-- UPDATE_MH4_APPLY (R267): a MODE 1 descriptor begins. -/
def execUpdateMh4Apply (d : DescRef) (s : State) : Host.Outcome State Fault Refusal := updBegin d 1 s

/-- UPDATE_COPIES_ONLY (R261): a MODE 2 descriptor begins. -/
def execUpdateCopiesOnly (d : DescRef) (s : State) : Host.Outcome State Fault Refusal := updBegin d 2 s

/-- RATIO_PASS_NATIVE (R273): a MODE 3 descriptor begins. -/
def execRatioPassNative (d : DescRef) (s : State) : Host.Outcome State Fault Refusal := updBegin d 3 s

/-- RATIO_PASS_MH4 (R273): a MODE 4 descriptor begins. -/
def execRatioPassMh4 (d : DescRef) (s : State) : Host.Outcome State Fault Refusal := updBegin d 4 s

/-! ### UPDATE_PACKET -/

/-- An apply contributes its partials to a ledger whose action is not hold (R273, R276). -/
def contributes (s : State) (d : UpdDesc) : Bool :=
  if wd d.ws 13 = 0 then false
  else if uRatio d.ws then true
  else match taskRead s d.h d.t (wd d.ws 13) 128 with
    | .ok e => leAt e 20 1 != 2
    | .error _ => false

/-- A packet of a descriptor (R265, R266, R273); a ratio pass counts nothing. -/
def runPacket (d : UpdDesc) (p : Nat) (s : State) : State :=
  let eng := packetEngine s d.h (wd d.ws 5 + 4096 * p)
  let unit := engineUnit eng
  let n := min 1024 (uElems d.ws - 1024 * p)
  match packetRead s d p n with
  | .error (word, a, x) => updAccess d.h d.t d.i unit word a x s
  | .ok i =>
    let c := optConst d.ws d.ord
    let os := (List.range n).map (fun j => optElem c (nth i.w j .zero) (nth i.m j .zero) (nth i.v j .zero) (nth i.g j .zero))
    let mark := fun (s : State) => s.onDesc d.h d.t d.i (fun x => { x with packets := x.packets ++ [p] })
    if uRatio d.ws then updComplete d (mark (ledgerPacket d unit p os s))
    else
      let pw := packetWrites d p i os
      match updWrites d.h d.t unit pw.1 s with
      | (s1, some (word, a, x)) => updAccess d.h d.t d.i unit word a x s1
      | (s1, none) =>
        let s2 := keepCounts d eng 0 { pw.2 with invalid := pw.2.invalid + i.invalid } (markUpdated d.h s1)
        let s3 := if contributes s2 d then ledgerPacket d unit p os s2 else s2
        updComplete d (mark s3)

/-- The packets that an engine takes before packet p of a descriptor are done: its own earlier ones, and all of its
packets of the earlier descriptors (R252). -/
def packetOrder (s : State) (d : UpdDesc) (p : Nat) : Bool :=
  let eng := packetEngine s d.h (wd d.ws 5 + 4096 * p)
  (List.range p).all (fun q => decide (q ∈ d.run.packets) || packetEngine s d.h (wd d.ws 5 + 4096 * q) != eng) &&
    d.before.all (fun b => packetsDone b.1 b.2 || (b.2.phase != .waiting &&
      (List.range (uPackets b.1)).all (fun q => decide (q ∈ b.2.packets) || packetEngine s d.h (wd b.1 5 + 4096 * q) != eng)))

/-- A tensor is pending from an earlier step, so that an apply waits before its first write (R278). -/
def rindHeld (d : UpdDesc) : Bool :=
  uApply d.ws && d.named.any (fun i => decide (i ∈ d.pending) && !decide (i ∈ d.setNow))

/-- A rind wait ends: it is added to the layer statistics (R278). -/
def endRindWait (d : UpdDesc) (s : State) : State :=
  match d.run.rindWait with
  | none => s
  | some t =>
    (s.onDesc d.h d.t d.i (fun x => { x with rindWait := none, rindPosted := false })).onRecipe d.h (fun r => { r with
      layerStats := addWait d.layer true (s.now - t) r.layerStats })

/-- The packets that supply a rectangle are done. -/
def supplied (d : UpdDesc) (q : Nat × Nat × Nat × Nat) : Bool :=
  !hasPackets d.ws d.run || (List.range q.2.2.1).all (fun i =>
    let a := (q.1 + i) * uCols d.ws + q.2.1
    (List.range ((a + q.2.2.2 - 1) / 1024 - a / 1024 + 1)).all (fun j => decide (a / 1024 + j ∈ d.run.packets)))

/-- The rectangle of a unit: first row, first column, rows, columns (R259). -/
def unitRect (ws c : List Nat) (u : Nat) : Nat × Nat × Nat × Nat :=
  let R := uRows ws
  let C := uCols ws
  if cEye c then
    if cOrient c = 1 then
      let n := (C + 127) / 128
      (1024 * (u / n), 128 * (u % n), min 1024 (R - 1024 * (u / n)), min 128 (C - 128 * (u % n)))
    else
      let n := (R + 127) / 128
      (128 * (u % n), 1024 * (u / n), min 128 (R - 128 * (u % n)), min 1024 (C - 1024 * (u / n)))
  else
    let n := (C + 127) / 128
    (128 * (u / n), 128 * (u % n), min 128 (R - 128 * (u / n)), min 128 (C - 128 * (u % n)))

/-- A packet that an engine may take now: begun, not done, its turn, and not held by the rind (R252, R278). -/
def packetDue (s : State) (d : UpdDesc) (p : Nat) : Bool :=
  d.run.phase == .begun && hasPackets d.ws d.run && decide (p < uPackets d.ws) && !decide (p ∈ d.run.packets) &&
    packetOrder s d p

/-- An emission unit that its engine may take now (R252). -/
def unitDue (d : UpdDesc) (record u : Nat) (c : List Nat) : Bool :=
  d.run.phase == .begun && !uRatio d.ws && decide (record < uNcopy d.ws) && decide (u < unitCount d.ws c) &&
    !decide ((record, u) ∈ d.run.units) && supplied d (unitRect d.ws c u)

/-- An engine has a packet or a unit of a descriptor before it. -/
def engineWork (s : State) (d : UpdDesc) (eng : Nat) : Bool :=
  (!rindHeld d && (List.range (uPackets d.ws)).any (fun p =>
    packetDue s d p && packetEngine s d.h (wd d.ws 5 + 4096 * p) == eng)) ||
  (List.range (uNcopy d.ws)).any (fun j => match copyRec s d.h d.t d.ws j with
    | .ok c => (List.range (unitCount d.ws c)).any (fun u => unitDue d j u c && unitEngine s u == eng)
    | .error _ => false)

/-- An engine serves an update task that started earlier first: it has work of an older one than the descriptor's (R252,
R193). -/
def olderAtEngine (s : State) (d : UpdDesc) (eng : Nat) : Bool :=
  let mine := (((s.recipe? d.h).bind (fun r => r.run? d.t)).map (fun x => x.startOrder)).getD 0
  s.recipes.any (fun r => match r.running with
    | none => false
    | some u => u.runs.any (fun x => x.started && decide (x.startOrder < mine) &&
        (List.range x.descs.length).any (fun i =>
          match updDesc? s { recipe := r.handle, task := x.idx, idx := i } with
          | some e => engineWork s e eng
          | none => false)))

/-- UPDATE_PACKET (R266): one packet of 1,024 elements, at the engine the hash gives. -/
def execUpdatePacket (d : DescRef) (packet : Nat) (s : State) : Host.Outcome State Fault Refusal :=
  match updDesc? s d with
  | none => .next s
  | some u =>
    occurs (packetDue s u packet && !olderAtEngine s u (packetEngine s u.h (wd u.ws 5 + 4096 * packet))) (fun s =>
      if rindHeld u then
        trackWatchdog u.h (s.onDesc u.h u.t u.i (fun x => { x with rindWait := some (x.rindWait.getD s.now) }))
      else settle u.h (runPacket u packet (endRindWait u s))) s

/-! ### EMISSION_UNIT (R257 to R259) -/

/-- Read a rectangle of the master, by row. -/
def readTile (s : State) (d : UpdDesc) (q : Nat × Nat × Nat × Nat) : Except (Nat × Access) (List (List Val)) :=
  (List.range q.2.2.1).foldl (fun acc i =>
    match acc with
    | .error e => .error e
    | .ok rows =>
      let a := wd d.ws 5 + 4 * ((q.1 + i) * uCols d.ws + q.2.1)
      match taskRead s d.h d.t a (4 * q.2.2.2) with
      | .error x => .error (a, x)
      | .ok bs => .ok (rows ++ [fp32s bs q.2.2.2])) (.ok [])

/-- Narrow values with a given scale, stochastically (R258). -/
def narrowWith (fmt : Nat) (sc : Scale) (xs : List (Nat × Val)) : List Nat × Counts :=
  let es := xs.map (fun p => narrowElem fmt (.stochastic p.1) sc p.2)
  (es.map (·.1), es.foldl (fun c e => c.add e.2) {})

/-- Addresses of one orientation of a copy record in the half written: elements and scales. -/
def copyBase (c : List Nat) (odd transposed : Bool) : Nat × Nat :=
  let i := (if odd then 6 else 2) + (if transposed then 2 else 0)
  (wd c i, wd c (i + 1))

/-- The writes of one orientation of a rectangle. `val r c` is the master's element, `eye k` an eye channel. -/
def copyWrites (d : UpdDesc) (c : List Nat) (tr : Bool) (q : Nat × Nat × Nat × Nat) (val : Nat → Nat → Val)
    (eye : Nat → Bool) : List (Nat × Nat × List Byte) × Counts :=
  let fmt := cFmt c
  let g := blockLen fmt
  let base := copyBase c (uOdd d.ws) tr
  let lines := if tr then uRows d.ws else uCols d.ws
  let k0 := if tr then q.2.1 else q.1
  let kn := if tr then q.2.2.2 else q.2.2.1
  let l0 := if tr then q.1 else q.2.1
  let ln := if tr then q.2.2.1 else q.2.2.2
  let at1 := fun (k l : Nat) => if tr then val l k else val k l
  let u := fun (k l : Nat) =>
    srU d.seed (uTensor d.ws) (if tr then l * uCols d.ws + k else k * uCols d.ws + l) 3
  let cells := ((List.range (kn / g)).map (fun b => (List.range ln).map (fun j =>
    let kb := k0 + b * g
    let l := l0 + j
    let xs := (List.range g).map (fun i => (kb + i, at1 (kb + i) l))
    if isBlocked fmt then
      let sc := if cOrient c = 3 then
          let lb := l / g * g
          scaleOf (cRule c) fmt ((List.range g).map (fun x => (List.range g).map (fun y => at1 (kb + x) (lb + y)))).flatten
        else scaleOf (cRule c) fmt ((xs.filter (fun p => !eye p.1)).map (·.2))
      let es := xs.map (fun p => if eye p.1 then (0, ({} : Counts)) else narrowElem fmt (.stochastic (u p.1 l)) sc p.2)
      ([(11, base.1 + (kb / g * lines + l) * unitBytes fmt, packUnit fmt (es.map (·.1))),
        (11, base.2 + (kb / g * lines + l), leBytes 1 sc.byte)], es.foldl (fun c e => c.add e.2) ({} : Counts))
    else
      let e := narrowPlain fmt (.stochastic (u kb l)) (at1 kb l)
      ([(11, base.1 + (kb * lines + l) * (elemBits fmt / 8), leBytes (elemBits fmt / 8) e.1)], e.2)))).flatten
  ((cells.map (·.1)).flatten, cells.foldl (fun a e => a.add e.2) {})

/-- The eye records of a strip: segment `sg`, its lines, in the half written (R42, R43, R259). -/
def eyeWrites (d : UpdDesc) (c : List Nat) (list : List Byte) (sg : Nat) (q : Nat × Nat × Nat × Nat)
    (val : Nat → Nat → Val) : List (Nat × Nat × List Byte) × Counts :=
  let tr := cOrient c == 2
  let lines := if tr then uRows d.ws else uCols d.ws
  let l0 := if tr then q.1 else q.2.1
  let ln := if tr then q.2.2.1 else q.2.2.2
  let sizes := (List.range sg).map (fun j => eyeRecSize (eyesOf list j).length)
  let ks := eyesOf list sg
  let z := eyeRecSize ks.length
  let base := wd c (if uOdd d.ws then 12 else 11) + lines * sizes.sum
  let rs := (List.range ln).map (fun j =>
    let l := l0 + j
    let u := fun (k : Nat) => srU d.seed (uTensor d.ws) (if tr then l * uCols d.ws + k else k * uCols d.ws + l) 3
    let e := eyeRecord (cRule c) (ks.map (fun k => .stochastic (u k))) (ks.map (fun k => if tr then val l k else val k l))
    ((11, base + l * z, e.1), e.2))
  (if z = 0 then [] else rs.map (·.1), rs.foldl (fun a e => a.add e.2) {})

/-- An emission unit of a copy record. -/
def runUnit (d : UpdDesc) (record u : Nat) (c : List Nat) (s : State) : State :=
  let eng := unitEngine s u
  let unit := engineUnit eng
  let q := unitRect d.ws c u
  let k := if cOrient c = 2 then uCols d.ws else uRows d.ws
  let lst := if cEye c then taskRead s d.h d.t (wd c 10) (eyeListBytes k) else .ok []
  match lst, readTile s d q with
  | .error x, _ => updAccess d.h d.t d.i unit 11 (wd c 10) x s
  | _, .error (a, x) => updAccess d.h d.t d.i unit 5 a x s
  | .ok list, .ok rows =>
    if cEye c && !eyesOk list k then updFault d.h d.t d.i unit 0x12 11 (wd c 10) 0 (markUpdated d.h s)
    else
      let val := fun (r cc : Nat) => at2 rows (r - q.1) (cc - q.2.1)
      let eye := fun (i : Nat) => cEye c && eyeBit list i
      let w := if cOrient c = 2 then ([], {}) else copyWrites d c false q val eye
      let wt := if cOrient c = 1 then ([], {}) else copyWrites d c true q val eye
      let e := if cEye c then eyeWrites d c list ((if cOrient c = 2 then q.2.1 else q.1) / 1024) q val else ([], {})
      match updWrites d.h d.t unit (w.1 ++ wt.1 ++ e.1) s with
      | (s1, some (word, a, x)) => updAccess d.h d.t d.i unit word a x s1
      | (s1, none) =>
        let s2 := keepCounts d eng (record + 1) ((w.2.add wt.2).add e.2) (markUpdated d.h s1)
        updComplete d (s2.onDesc d.h d.t d.i (fun x => { x with units := x.units ++ [(record, u)] }))

/-- EMISSION_UNIT (R259): a tile or strip of a copy record, once the packets that supply it are done. -/
def execEmissionUnit (d : DescRef) (record unit : Nat) (s : State) : Host.Outcome State Fault Refusal :=
  match updDesc? s d with
  | none => .next s
  | some u =>
    match copyRec s u.h u.t u.ws record with
    | .error _ => .next s
    | .ok c =>
      occurs (unitDue u record unit c && !olderAtEngine s u (unitEngine s unit))
        (fun s => settle u.h (runUnit u record unit c s)) s

/-! ### Waits (R271, R278) -/

/-- The threshold of a version wait in ns: the smallest VPOST, 0 read as 1 ms (R271). -/
def versionThreshold (r : Recipe) (k : Task) (i : Nat) : Nat :=
  let vs := (List.range k.dcount).filterMap (fun j =>
    let ws := vatWords r k j
    if uNcopy ws ≠ 0 ∧ uVwidx ws = i then some (if uVpost ws = 0 then 10 ^ 6 else uVpost ws * 10 ^ 4) else none)
  vs.foldl min (nth vs 0 (10 ^ 6))

/-- VERSION_WAIT_TIMEOUT (R271): a version wait exceeds its threshold; one event. -/
def execVersionWaitTimeout (t : TaskRef) (wait : Nat) (s : State) : Host.Outcome State Fault Refusal :=
  match s.recipe? t.recipe with
  | none => .next s
  | some r =>
    match r.task? t.task, r.run? t.task with
    | some k, some x =>
      match x.versionWait.find? (fun v => v.1 == wait) with
      | none => .next s
      | some (_, since) =>
        occurs (decide (since + versionThreshold r k wait < s.now) && !decide (wait ∈ x.versionPosted)) (fun s =>
          let hd := match k.waits[wait]? with
            | some w => w.handle
            | none => 0
          post 0x545 (updReadUnit s) 0 (leBytes 4 t.task ++ leBytes 4 ((s.now - since) / 1000) ++ leBytes 2 hd ++
            leBytes 4 r.ordinal) (s.onTask t.recipe t.task (fun x => { x with versionPosted := x.versionPosted ++ [wait] }))) s
    | _, _ => .next s

/-- RIND_WAIT_TIMEOUT (R278): a rind-pending wait longer than 1 ms; one event. -/
def execRindWaitTimeout (d : DescRef) (s : State) : Host.Outcome State Fault Refusal :=
  match updDesc? s d with
  | none => .next s
  | some u =>
    match u.run.rindWait with
    | none => .next s
    | some t => occurs (decide (t + 10 ^ 6 < s.now) && !u.run.rindPosted) (fun s =>
        post 0x546 (updReadUnit s) 0 [] (s.onDesc u.h u.t u.i (fun x => { x with rindPosted := true }))) s

end Sys2Proof.Machine
end

