-- ==== Sys2Proof/Machine/Hinge.lean ====
section
/-! DEFINITION. The hinge engines (R300 to R323): the check of hinge descriptors, transfers and landings, expert
traffic, collectives and spans. The received messages are in Machine/HingeRx.lean. -/

namespace Sys2Proof.Machine

/-! ### Fields (R303 to R305) -/

def eAlg (ws : List Nat) : Nat := bitsOf (wd ws 0) 47 45
def eDmode (ws : List Nat) : Nat := bitsOf (wd ws 0) 44 43
def gK (ws : List Nat) : Nat := bitsOf (wd ws 3) 62 58
def gOvf (ws : List Nat) : Nat := bitsOf (wd ws 3) 57 56
def gCap (ws : List Nat) : Nat := bitsOf (wd ws 3) 55 40
def gEl (ws : List Nat) : Nat := bitsOf (wd ws 3) 39 24
def gRow (ws : List Nat) : Nat := bitsOf (wd ws 3) 23 0
def eX (ws : List Nat) : Nat := bitsOf (wd ws 8) 47 32
def eLs (ws : List Nat) : Nat := bitsOf (wd ws 8) 31 16
def eLt (ws : List Nat) : Nat := bitsOf (wd ws 8) 15 0
def eNtok (ws : List Nat) : Nat := bitsOf (wd ws 6) 23 0
def cLen (ws : List Nat) : Nat := bitsOf (wd ws 3) 39 0
def cFmtH (ws : List Nat) : Nat := bitsOf (wd ws 3) 44 40
def oFmt (ws : List Nat) : Nat := bitsOf (wd ws 6) 28 24
def slotBytes (ws : List Nat) : Nat := bitsOf (wd ws 12) 31 0
def peerRank (ws : List Nat) : Nat := bitsOf (wd ws 6) 43 32

/-- Bytes of a segment's count block (R313). -/
def countBlock (el : Nat) : Nat := 64 * ((2 * el + 63) / 64)

/-- The operation uses the expert geometry. -/
def usesGeom (op : Nat) : Bool := decide (2 ≤ op) && decide (op ≤ 5)

/-- A collective. -/
def isColl (op : Nat) : Bool := op == 6 || op == 7 || op == 8

/-! ### The check on read (R323) -/

/-- Bits of word i that an operation uses. -/
def hMask (ws : List Nat) (i : Nat) : Nat :=
  let op := opOf ws
  let adr := maskBits 47 0
  match i with
  | 0 => maskBits 63 60 + maskBits 7 0 + (if isColl op then maskBits 47 45 else 0) + (if op = 2 then maskBits 44 43 else 0)
  | 1 => maskBits 63 0
  | 2 => maskBits 63 48 + maskBits 31 0
  | 3 =>
    if op = 1 then maskBits 39 0 else if usesGeom op then maskBits 62 0 else if isColl op then maskBits 44 0
    else if op = 9 then maskBits 47 0 else 0
  | 4 => if op = 3 ∨ op = 9 then 0 else adr
  | 5 => if op = 4 ∨ op = 9 then 0 else adr
  | 6 =>
    if op = 1 then maskBits 43 0 else if op = 2 ∨ op = 3 then maskBits 23 0 else if op = 5 then maskBits 28 0
    else if isColl op then adr else 0
  | 7 => if op = 2 ∨ op = 3 ∨ op = 4 ∨ op = 5 then adr else if isColl op then maskBits 15 0 else 0
  | 8 => if op = 2 ∨ op = 3 then maskBits 47 0 else if op = 5 then maskBits 15 0 else 0
  | 9 => if usesGeom op then adr else 0
  | 10 =>
    if op = 3 ∨ op = 4 ∨ op = 5 then adr else if op = 2 ∧ eDmode ws = 2 then adr else 0
  | 11 => if op = 3 ∨ op = 5 then adr else 0
  | 12 => if op = 2 ∨ op = 4 ∨ op = 5 then maskBits 31 0 else 0
  | 13 => if op = 2 then maskBits 63 32 else if op = 3 then maskBits 15 0 else 0
  | _ => 0

/-- Words of an operation that hold addresses, with their alignment: 4 bytes for streams of elements (R105), none for the
streams of a PUT, which may be block scales, and for tables, which R105 does not list (DEDUCED, log entry 65). -/
def hAddrs (ws : List Nat) : List (Nat × Nat) :=
  let op := opOf ws
  let base := 2 * MiB
  if op = 1 then [(4, 1), (5, 1)]
  else if op = 2 then [(4, 4), (5, 1), (7, base), (9, 1)] ++ (if eDmode ws = 2 then [(10, 1)] else [])
  else if op = 3 then [(5, 1), (7, base), (9, 1), (10, 1), (11, 1)]
  else if op = 4 then [(4, 64), (7, base), (9, 1), (10, 1)]
  else if op = 5 then [(4, 64), (5, 1), (7, base), (9, 1), (10, 1), (11, 4)]
  else if isColl op then [(4, 4), (5, 4), (6, 4)]
  else []

/-- The checks of a hinge descriptor that fail. -/
def hingeFaults (r : Recipe) (ws : List Nat) : List Fail :=
  let op := opOf ws
  let n := match r.job with
    | some j => j.n
    | none => 0
  let geom := if usesGeom op then
      failAny [(gK ws == 0 || decide (16 < gK ws), gK ws), (gCap ws == 0, 0),
        (gEl ws == 0 || decide (65535 < n * gEl ws), gEl ws),
        (gRow ws % 64 != 0 || decide (gRow ws < 64) || decide (2 ^ 20 < gRow ws), gRow ws)] 3 5 ++
      failIf (decide (1 < gOvf ws)) 3 6 (gOvf ws)
    else []
  let ntok := if op = 2 ∨ op = 3 ∨ op = 5 then failIf (eNtok ws == 0 || decide (2 ^ 20 < eNtok ws)) 6 5 (eNtok ws) else []
  let slot := if op = 2 ∨ op = 4 then
      failIf (slotBytes ws == 0 || slotBytes ws % (2 * MiB) != 0 ||
        decide (slotBytes ws < countBlock (gEl ws) + gEl ws * gCap ws * gRow ws)) 3 5 (slotBytes ws)
    else if op = 5 then failIf (decide (slotBytes ws < gEl ws * gCap ws * gRow ws)) 3 5 (slotBytes ws)
    else []
  failIf (bitsOf (wd ws 0) 63 60 != 1) 0 0 (bitsOf (wd ws 0) 63 60) ++ failIf (op == 0 || decide (9 < op)) 0 1 op ++
    ((List.range 16).map (fun i => maskFail ws i (hMask ws i))).flatten ++
    failIf (isColl op && decide (1 < eAlg ws)) 0 6 (eAlg ws) ++ failIf (op == 2 && eDmode ws == 3) 0 6 3 ++
    failIf (!handleOk r (waitId ws)) 1 0x30 (waitId ws) ++ failIf (!handleOk r (sigId ws)) 2 0x30 (sigId ws) ++
    failIf (handleOk r (sigId ws) && (r.tumbler (sigId ws)).kind == 2) 2 0x31 (sigId ws) ++
    failIf ((op == 1 || isColl op) && cLen ws == 0) 3 5 0 ++
    failIf (isColl op && cFmtH ws != 0 && cFmtH ws != 0xB) 3 4 (cFmtH ws) ++
    failIf (op == 1 && decide (n ≤ peerRank ws)) 6 5 (peerRank ws) ++
    failIf (op == 5 && oFmt ws != 0 && oFmt ws != 0xB) 6 4 (oFmt ws) ++
    geom ++ ntok ++ slot ++
    ((hAddrs ws).map (fun p =>
      let a := wd ws p.1 % 2 ^ 48
      failIf (!(decide (a < scratchBase) || (decide (nearBase ≤ a) && decide (a < nearEnd)))) p.1 0x10 a ++
        failIf (a % p.2 != 0) p.1 0x11 a)).flatten

/-! ### Descriptors of a task -/

/-- A hinge descriptor of a started task. -/
structure HDesc where
  h : Nat
  t : Nat
  i : Nat
  ws : List Nat
  run : DescRun
  job : Job
  /-- unit ID of its engine. -/
  unit : Nat
  stamp : Nat
  deriving DecidableEq, Repr

/-- The hinge descriptor a command names, of a started task. -/
def hDesc? (s : State) (d : DescRef) : Option HDesc :=
  match s.recipe? d.recipe with
  | none => none
  | some r =>
    match r.task? d.task, r.run? d.task, r.job with
    | some k, some x, some j =>
      if k.cls = 3 && x.started then
        (x.descs[d.idx]?).map (fun e => { h := d.recipe, t := d.task, i := d.idx, ws := vatWords r k d.idx, run := e,
                                          job := j, unit := heUnit k.unit, stamp := r.stamp })
      else none
    | _, _, _ => none

/-- A hinge fault of a descriptor under its ordinary detector. -/
def HDesc.fault (d : HDesc) (code word peer value sub : Nat) (s : State) : State :=
  hingeFault d.h d.t d.i d.unit 0x7E8 code word peer value sub s

/-- A local access of a hinge descriptor that did not succeed (R135, R323). -/
def HDesc.access (d : HDesc) (word addr : Nat) (a : Access) (s : State) : State :=
  match a with
  | .fault sub => d.fault 0x14 word 0 addr sub s
  | .poisoned => memoryError d.h d.t d.i d.unit s
  | .breach => breachFault d.h d.t d.unit (setPhase d.h d.t d.i .faulted s)
  | .absorbed => absorbTask d.h d.unit d.t (setPhase d.h d.t d.i .faulted s)
  | .ok | .dropped | .wait => s

def HDesc.setStage (d : HDesc) (n : Nat) (s : State) : State := s.onDesc d.h d.t d.i (fun x => { x with stage := n })

/-- Work done: the signal is due. -/
def HDesc.worked (d : HDesc) (s : State) : State := setPhase d.h d.t d.i .worked s

/-- Continue with bytes read as the task, or end the descriptor. -/
def HDesc.read (d : HDesc) (word a n : Nat) (k : List Byte → State → State) (s : State) : State :=
  match taskRead s d.h d.t a n with
  | .error e => d.access word a e s
  | .ok bs => k bs s

/-- Continue after bytes written as the task, or end the descriptor. A write that waits for a stash open leaves the
descriptor as the command found it, so that the command's next run tries it again (R233). -/
def HDesc.write (d : HDesc) (word a : Nat) (bs : List Byte) (k : State → State) (s : State) : State :=
  match taskWrite d.h d.t d.unit a bs s with
  | (s1, .ok) => k s1
  | (s1, .dropped) => k s1
  | (s1, .wait) => setPhase d.h d.t d.i d.run.phase s1
  | (s1, e) => d.access word a e s1

/-- The descriptor as one that has begun: a write that waits does not undo what was sent before it. -/
def HDesc.begun (d : HDesc) : HDesc := { d with run := { d.run with phase := .begun } }

/-! ### Receiving a PUT's data (R289, R317) -/

/-- An add that the receiving engine makes to a count tumbler of the receiving recipe. -/
def engineAdd (h tumb n unit : Nat) (s : State) : State :=
  tAdd h tumb n { task := none, blame := none, unit := unit, span := false, version := false, op := 0, level := 0, exempt := false } s

/-- The descriptors of a recipe's hinge tasks. -/
def hingeWords (r : Recipe) : List (List Nat) :=
  (r.tasks.map (fun k => if k.cls = 3 then (List.range k.dcount).map (vatWords r k) else [])).flatten

/-- The guard tumbler X of the round that a landing handle LS belongs to: that of the recipe's speculative DISPATCH
(R305, R316). -/
def roundX (r : Recipe) (ls : Nat) : Nat :=
  match (hingeWords r).find? (fun ws => (opOf ws == 2 || opOf ws == 3) && eLs ws == ls) with
  | some ws => eX ws
  | none => 0xFFFF

/-- Bytes of the landing slots of the round that a handle LS belongs to: SLOT_BYTES of the recipe's speculative DISPATCH
(R305, R313); the bytes of the segment where the recipe has none (DEDUCED, log entry 45). -/
def roundSlot (r : Recipe) (ls bytes : Nat) : Nat :=
  match (hingeWords r).find? (fun ws => opOf ws == 2 && eLs ws == ls) with
  | some ws => max bytes (slotBytes ws)
  | none => bytes

/-- The handles that a transfer names: RHANDLE, where 0 is none, and LS of a speculative landing (R289). -/
def putHandles (mode rhandle ls : Nat) : List Nat :=
  (if rhandle = 0 then [] else [rhandle]) ++ (if mode = 1 then [ls] else [])

/-- What the receiver checks on the first piece (R289): the NACK status and detail of a refusal; a speculative landing
names LS beside RHANDLE. -/
def putRefusal (s : State) (tag stamp : Nat) (handles : List Nat) : Except (Nat × Nat) Nat :=
  match jobRecipe s tag with
  | none => .error (1, 0)
  | some r =>
    if r.stamp ≠ stamp then .error (2, 0)
    else if handles.any (fun h => !handleOk r h || (r.tumbler h).kind != 0) then .error (6, 0)
    else .ok r.handle

/-- Take the shadow pages of a landing: one for each 2 MiB page of the slot; none where too few are free (R290, R317). The
pages of a landing that the slot still holds undecided go back first. -/
def takeLanding (h slot src ls bytes : Nat) (s : State) : Option State :=
  match s.recipe? h with
  | none => none
  | some r0 =>
    let old := ((r0.landings.filter (fun l => l.slot == slot)).map (fun l => l.shadows.map (fun p => p.pa))).flatten
    let r := { r0 with shadowFree := r0.shadowFree ++ old }
    let n := (roundSlot r ls bytes + pageBytes - 1) / pageBytes
    if r.shadowFree.length < n then none
    else
      let sh := ((r.shadowFree.take n).zipIdx).map (fun p =>
        ({ page := slot + p.2 * pageBytes, pa := p.1, written := [] } : Shadow))
      let l : Landing := { slot := slot, src := src, x := roundX r ls, shadows := sh, complete := false }
      some (s.onRecipe h (fun r => { r with
        shadowFree := (r.shadowFree ++ old).drop n, landings := r.landings.filter (fun x => x.slot != slot) ++ [l] }))

/-- The place of a granule in a landing's shadow, copied from the declared page before its first write (R317); the
subcode where the slot has no translation (R289). -/
def landPlace (h slot a : Nat) (s : State) : State × Except Nat Nat :=
  match s.recipe? h with
  | none => (s, .error 1)
  | some r =>
    match (r.landings.find? (fun l => l.slot == slot)).bind (fun l =>
        l.shadows.find? (fun p => decide (p.page ≤ a) && decide (a < p.page + pageBytes))) with
    | none => (s, .error 1)
    | some p =>
      let g := (a - p.page) / 4096
      match translate s r a true with
      | .error sub => (s, .error sub)
      | .ok _ =>
        let s1 := if g ∈ p.written then s else copyPage s r (p.page + g * 4096) (p.pa + g * 4096)
        let mark := fun (q : Shadow) => { q with written := insertAsc g q.written }
        (s1.onRecipe h (fun r => { r with landings := modFirst (fun l => l.slot == slot) (fun l =>
          { l with shadows := modFirst (fun q => q.page == p.page) mark l.shadows }) r.landings }), .ok (p.pa + (a - p.page)))

/-- Write a piece of received data into a landing's shadow (R317). -/
def landPiece (h slot a : Nat) (bs : List Byte) (s : State) : State × Option Nat :=
  match landPlace h slot a s with
  | (s1, .ok pa) => (locWrite (.near pa) bs s1, none)
  | (s1, .error sub) => (s1, some sub)

/-- Write received data, granule by granule (R127, R289); the subcode of the first piece that has no translation. Data for a
stash window that is not OPEN has none, and neither opens nor demotes (DESIGN CHOICE, log entry 91: R232 decides by the
index of a writing task, and received data have none). -/
def landData (h mode slot a : Nat) (bs : List Byte) (s : State) : State × Option Nat :=
  (piecesOf a bs.length).foldl (fun acc q =>
    match acc.2 with
    | some _ => acc
    | none =>
      let b := slice bs (q.1 - a) q.2
      if mode = 1 then landPiece h slot q.1 b acc.1
      else match acc.1.recipe? h with
        | none => (acc.1, some 1)
        | some r =>
          match translate acc.1 r q.1 true with
          | .error sub => (acc.1, some sub)
          | .ok (.cave p) => (caveCopyWrite h p b acc.1, none)
          | .ok l => (locWrite l b acc.1, none)) (s, none)

/-- A handle under which a collective or a COMBINE of the recipe awaits arrivals (R308, R315). -/
def awaitedHandle (r : Recipe) (rhandle : Nat) : Bool :=
  (hingeWords r).any (fun ws => (isColl (opOf ws) && bitsOf (wd ws 7) 15 0 == rhandle) ||
    (opOf ws == 5 && bitsOf (wd ws 8) 15 0 == rhandle))

/-- A transfer is complete: its handle is added once, and the arrival noted for the operation that awaits it (R289,
R290, R317). -/
def landDone (h mode slot rhandle rinc ls dest unit : Nat) (s : State) : State :=
  let note := match s.recipe? h with
    | some r => awaitedHandle r rhandle
    | none => false
  let s1 := if note then s.onHinge (fun g => { g with arrived := g.arrived ++ [(h, rhandle, dest)] }) else s
  if mode = 1 then
    let s2 := s1.onRecipe h (fun r => { r with
      landings := modFirst (fun l => l.slot == slot) (fun l => { l with complete := true }) r.landings })
    engineAdd h ls 1 unit s2
  else if rhandle = 0 then s1
  else engineAdd h rhandle rinc unit s1

/-- Count a refused landing; more than 64 in a step post 0x930 (R317, R324). -/
def landingRefused (h unit : Nat) (s : State) : State :=
  let s1 := (countDet 0x930 s).onStep h (fun u => { u with refusedLandings := u.refusedLandings + 1 })
  match (s1.recipe? h).bind (fun r => r.running) with
  | some u => if u.refusedLandings = 65 then sendRec (mkRecord s1 false 0x930 unit 0 []) s1 else s1
  | none => s1

/-! ### Sending a transfer (R289, R290, R306) -/

/-- One transfer to send. -/
structure Transfer where
  rank : Nat
  kind : XferKind
  dest : Nat
  data : List Byte
  rhandle : Nat
  rinc : Nat
  mode : Nat
  ls : Nat
  slot : Nat
  deriving DecidableEq, Repr

/-- The put header of a piece (R289). -/
def putHeader (d : HDesc) (x : Transfer) (dest len : Nat) (more : Bool) : List Byte :=
  leBytes 8 dest ++ leBytes 4 len ++ leBytes 2 x.rhandle ++ leBytes 2 x.rinc ++ leBytes 4 d.job.tag ++ leBytes 1 x.mode ++
    leBytes 1 (bit more) ++ leBytes 2 x.ls ++ leBytes 8 d.stamp ++ leBytes 8 x.slot ++ leBytes 8 x.data.length

/-- The data flits of a piece after its first: 240 bytes each; `last` marks the transfer's last flit. -/
def dataFlits (src dst spec tag : Nat) (last : Bool) : Nat → List Byte → List (List Byte)
  | 0, _ => []
  | n + 1, bs =>
    if bs.isEmpty then []
    else
      let rest := bs.drop 240
      mkFlit 0x30 3 src dst (spec + (if last && rest.isEmpty then 2 else 0)) tag (bs.take 240) ::
        dataFlits src dst spec tag last n rest

/-- The flits of a PUT transfer, piece by piece (R290). -/
def putFlits (d : HDesc) (x : Transfer) (src dst tag : Nat) : List (List Byte) :=
  let n := x.data.length
  let np := (n + 2 ^ 24 - 1) / 2 ^ 24
  let spec := if x.mode = 1 then 4 else 0
  ((List.range np).map (fun i =>
    let piece := slice x.data (i * 2 ^ 24) (2 ^ 24)
    let last := i + 1 == np
    let hdr := putHeader d x (x.dest + i * 2 ^ 24) piece.length (!last)
    let rest := piece.drop 192
    mkFlit 0x30 3 src dst (1 + spec + (if last && rest.isEmpty then 2 else 0)) tag (hdr ++ piece.take 192) ::
      dataFlits src dst spec tag last (rest.length / 240 + 1) rest)).flatten

/-- A transfer to the module's own ID: written locally, with the same effects and the same status (R300). -/
def localPut (d : HDesc) (x : Transfer) (s : State) : State × Option (Nat × Nat) :=
  match putRefusal s d.job.tag d.stamp (putHandles x.mode x.rhandle x.ls) with
  | .error e => (s, some e)
  | .ok h =>
    match (if x.mode = 1 then takeLanding h x.slot d.job.rank x.ls (x.dest - x.slot + x.data.length) s else some s) with
    | none => (landingRefused h d.unit s, some (5, 0))
    | some s1 =>
      match landData h x.mode x.slot x.dest x.data s1 with
      | (s2, some sub) => (s2, some (3, sub))
      | (s2, none) => (landDone h x.mode x.slot x.rhandle x.rinc x.ls x.dest d.unit s2, none)

/-- Tags of the transfers in flight: those not answered, and those with a flit that has not left (R284). -/
def tagsInUse (s : State) : List Nat :=
  s.hinge.xfers.map (fun x => x.tag) ++ (s.hinge.ports.map (fun q => q.waiting.map fTag)).flatten

/-- The next transfer tag: the first from the counter on that no transfer in flight carries (R284). -/
def takeTag (s : State) : Nat × State :=
  let used := tagsInUse s
  let n := ((List.range (used.length + 1)).map (fun k => (s.hinge.nextTag + k) % 65536)).find? (fun t => !used.contains t)
  let tag := n.getD s.hinge.nextTag
  (tag, s.onHinge (fun h => { h with nextTag := (tag + 1) % 65536 }))

/-- A NACK or an ack of a transfer of a descriptor (R306): 0x05 of a landing is recorded, another ends the task. -/
def answered (h t i rank mode : Nat) (nack : Option (Nat × Nat)) (s : State) : State :=
  match nack with
  | none => s
  | some (st, detail) =>
    if mode = 1 ∧ st = 5 then s.onDesc h t i (fun x => { x with refused := insertNew x.refused rank })
    else hingeFault h t i (taskHe s h t) 0x7E8 0x42 0 rank (st + 256 * detail) 0 s

/-- The descriptor's task runs, in a step that may have faulted. -/
def HDesc.runs (d : HDesc) (s : State) : Bool :=
  match ((s.recipe? d.h).bind (fun r => r.run? d.t)).bind (fun x => (x.descs[d.i]?).map (fun e => (x, e))) with
  | some (x, e) => x.started && e.phase == .begun
  | none => false

/-- The task of a descriptor may send: it runs, and its step has not faulted (R426). -/
def HDesc.alive (d : HDesc) (s : State) : Bool :=
  match (s.recipe? d.h).bind (fun r => (r.run? d.t).map (fun x => (r, x))) with
  | some (r, x) => x.started && r.stepping
  | none => false

/-- Send one transfer: locally, or over the port that its route gives; no route is fault 0x41 (R293, R300). -/
def sendTransfer (d : HDesc) (x : Transfer) (s : State) : State :=
  if ¬ d.alive s then s
  else
    let dst := nth d.job.members x.rank 0xFFF
    if dst = myId s then
      let p := localPut d x s
      answered d.h d.t d.i x.rank x.mode p.2 p.1
    else
      let p := takeTag s
      match routePort p.2 dst p.1 with
      | none => hingeFault d.h d.t d.i d.unit 0x406 0x41 0 x.rank dst 0 p.2
      | some port =>
        let e : Xfer := { tag := p.1, recipe := d.h, task := d.t, idx := d.i, rank := x.rank, dst := dst, port := port,
                          kind := x.kind, mode := x.mode, addr := x.dest, len := x.data.length, got := 0 }
        let used := tagsInUse p.2
        let tags := (p.2.hinge.specTags.filter (fun y => used.contains y.1))
        let s1 := (p.2.onHinge (fun h => { h with
          xfers := h.xfers ++ [e], specTags := if x.mode = 1 then put tags p.1 d.h else tags })).onDesc d.h d.t d.i
          (fun y => { y with awaiting := y.awaiting ++ [p.1] })
        sendFlits port (putFlits d x (myId s) dst p.1) s1

/-- No transfer of a descriptor is unanswered. -/
def allAnswered (s : State) (d : HDesc) : Bool :=
  match ((s.recipe? d.h).bind (fun r => r.run? d.t)).bind (fun x => x.descs[d.i]?) with
  | some e => e.awaiting.isEmpty
  | none => true

/-- A PUT or DISPATCH whose transfers are all answered has done its work (R306). -/
def finishSends (d : HDesc) (s : State) : State :=
  if d.runs s && allAnswered s d then d.worked s else s

/-! ### Begin -/

/-- A hinge descriptor begins. -/
def beginHinge (d : HDesc) (s : State) : State := setPhase d.h d.t d.i .begun s

/-- A hinge command: the descriptor is of the operation and its wait is satisfied; a begun one goes on. -/
def hingeCommand (d : DescRef) (test : HDesc → Bool) (start next : HDesc → State → State) (s : State) :
    Host.Outcome State Fault Refusal :=
  match hDesc? s d with
  | none => .next s
  | some e =>
    if test e then
      if ¬ (e.alive s && enginesIssue s) then .next s
      else if e.run.phase = .waiting ∧ e.run.ready ≠ 0 then .next (settle e.h (start e (beginHinge e s)))
      else if e.run.phase = .begun then .next (settle e.h (next e s))
      else .next s
    else .next s

/-- Nothing further to do for a begun descriptor. -/
def noNext (_ : HDesc) (s : State) : State := s

/-- HINGE_PUT (R305): one transfer to a peer. -/
def execHingePut (d : DescRef) (s : State) : Host.Outcome State Fault Refusal :=
  hingeCommand d (fun e => opOf e.ws == 1) (fun e s =>
    e.read 4 (wd e.ws 4) (cLen e.ws) (fun bs s =>
      finishSends e (sendTransfer e { rank := peerRank e.ws, kind := .put, dest := wd e.ws 5 % 2 ^ 48, data := bs,
                                      rhandle := bitsOf (wd e.ws 6) 15 0, rinc := bitsOf (wd e.ws 6) 31 16, mode := 0,
                                      ls := 0, slot := 0 } s)) s) noNext s

/-! ### The plan of expert traffic (R311, R312) -/

/-- One assigned choice: expert, token, choice, rerouted. -/
structure Asg where
  e : Nat
  tok : Nat
  j : Nat
  rer : Bool
  deriving DecidableEq, Repr

/-- The plan: assigned choices, and the experts of the dropped ones. -/
structure ExpertPlan where
  asg : List Asg
  drops : List Nat
  deriving DecidableEq, Repr

/-- Rows already assigned to an expert. -/
def ExpertPlan.count (p : ExpertPlan) (e : Nat) : Nat := (p.asg.filter (fun a => a.e == e)).length

/-- One choice of a token (R311). -/
def planChoice (cap total ovf k : Nat) (row : List Nat) (tok j : Nat) (p : ExpertPlan) : ExpertPlan :=
  let e := nth row j 0xFFFF
  if e = 0xFFFF then p
  else if total ≤ e then { p with drops := p.drops ++ [e] }
  else if p.count e < cap then { p with asg := p.asg ++ [{ e := e, tok := tok, j := j, rer := false }] }
  else
    let f := nth row k 0xFFFF
    if ovf = 1 ∧ f ≠ 0xFFFF ∧ f < total ∧ f ∉ row.take k ∧ ¬ p.asg.any (fun a => a.tok == tok && a.e == f) ∧
        p.count f < cap then
      { p with asg := p.asg ++ [{ e := f, tok := tok, j := j, rer := true }] }
    else { p with drops := p.drops ++ [e] }

/-- The plan of a routes tensor. -/
def buildPlan (ws : List Nat) (n : Nat) (routes : List Byte) : ExpertPlan :=
  let k := gK ws
  let w := if gOvf ws = 1 then k + 1 else k
  (List.range (eNtok ws)).foldl (fun p t =>
    let row := (List.range w).map (fun j => leAt routes (2 * (t * w + j)) 2)
    (List.range k).foldl (fun p j => planChoice (gCap ws) (n * gEl ws) (gOvf ws) k row t j p) p)
    { asg := [], drops := [] }

/-- Bytes of a routes tensor. -/
def routesBytes (ws : List Nat) : Nat := 2 * eNtok ws * (if gOvf ws = 1 then gK ws + 1 else gK ws)

/-- The entries of a destination, in ascending local expert, then token. -/
def destEntries (el : Nat) (p : ExpertPlan) (d : Nat) : List Asg :=
  ((List.range el).map (fun i => p.asg.filter (fun a => a.e == d * el + i))).flatten

/-- A record entry (R312). -/
def asgEntry (a : Asg) : Nat := a.tok + 2 ^ 20 * a.j + 2 ^ 24 * bit a.rer

/-- The dispatch record (R312). -/
def recordOf (el n rank : Nat) (p : ExpertPlan) : List Byte :=
  let ds := (List.range n).map (destEntries el p)
  let offs := (ds.foldl (fun (acc : List Nat × Nat) l => (acc.1 ++ [acc.2], acc.2 + l.length)) ([], 0)).1
  let hdr := (List.range n).map (fun d =>
    let l := nth ds d []
    let drops := if d = rank then p.drops.length else (p.drops.filter (fun e => e / el == d)).length
    let rer := if d = rank then (p.asg.filter (fun a => a.rer)).length else (l.filter (fun a => a.rer)).length
    leBytes 4 l.length ++ leBytes 4 (nth offs d 0) ++ leBytes 4 drops ++ leBytes 4 rer)
  hdr.flatten ++ (ds.flatten.map (fun a => leBytes 4 (asgEntry a))).flatten

/-- A segment: the count block, then the rows (R313). -/
def segmentOf (ws : List Nat) (p : ExpertPlan) (rows : List Byte) (d : Nat) : List Byte :=
  let el := gEl ws
  padTo (countBlock el) ((List.range el).map (fun i => leBytes 2 (p.count (d * el + i)))).flatten ++
    ((destEntries el p d).map (fun a => slice rows (a.tok * gRow ws) (gRow ws))).flatten

/-! ### DISPATCH (R312, R313, R317, R320) -/

/-- The drop threshold of a DISPATCH (R312). -/
def dropPost (d : HDesc) (p : ExpertPlan) (ord : Nat) (s : State) : State :=
  let thr := bitsOf (wd d.ws 13) 63 32
  if thr ≠ 0 ∧ thr ≤ p.drops.length then
    post 0x60A d.unit 0 (leBytes 4 d.t ++ leBytes 4 p.drops.length ++ leBytes 4 (p.asg.filter (fun a => a.rer)).length ++
      leBytes 4 ord) s
  else s

/-- The step ordinal of a recipe. -/
def ordOf (s : State) (h : Nat) : Nat :=
  match s.recipe? h with
  | some r => r.ordinal
  | none => 0

/-- Run a DISPATCH to the ranks that `sel` selects, in a mode. -/
def runDispatch (d : HDesc) (mode : Nat) (sel : Nat → Bool) (s : State) : State :=
  d.read 5 (wd d.ws 5) (routesBytes d.ws) (fun routes s =>
    d.read 4 (wd d.ws 4) (eNtok d.ws * gRow d.ws) (fun rows s =>
      let p := buildPlan d.ws d.job.n routes
      d.write 9 (wd d.ws 9) (recordOf (gEl d.ws) d.job.n d.job.rank p) (fun s =>
        let s1 := dropPost d p (ordOf s d.h) s
        let slot := wd d.ws 7 + d.job.rank * slotBytes d.ws
        finishSends d (forEach ((List.range d.job.n).filter sel) (fun k s =>
          sendTransfer d { rank := k, kind := .segment, dest := slot, data := segmentOf d.ws p rows k,
                           rhandle := if mode = 1 then 0 else eLt d.ws, rinc := if mode = 1 then 0 else 1, mode := mode,
                           ls := if mode = 1 then eLs d.ws else 0, slot := if mode = 1 then slot else 0 } s) s1)) s) s) s

/-- DISPATCH_ORDINARY (R313): the plan, the record, and one segment to every member. -/
def execDispatchOrdinary (d : DescRef) (s : State) : Host.Outcome State Fault Refusal :=
  hingeCommand d (fun e => opOf e.ws == 2 && eDmode e.ws == 0) (fun e s => runDispatch e 0 (fun _ => true) s) noNext s

/-- DISPATCH_SPECULATIVE (R317): segments on predicted routes, as speculative landings. -/
def execDispatchSpeculative (d : DescRef) (s : State) : Host.Outcome State Fault Refusal :=
  hingeCommand d (fun e => opOf e.ws == 2 && eDmode e.ws == 1) (fun e s => runDispatch e 1 (fun _ => true) s) noNext s

/-- DISPATCH_RESEND (R320): ordinary PUTs only to the destinations marked DISCARD. -/
def execDispatchResend (d : DescRef) (s : State) : Host.Outcome State Fault Refusal :=
  hingeCommand d (fun e => opOf e.ws == 2 && eDmode e.ws == 2) (fun e s =>
    e.read 10 (wd e.ws 10) e.job.n (fun vs s => runDispatch e 0 (fun k => leAt vs k 1 == 2) s) s) noNext s

/-! ### Guards (R318, R319) -/

/-- The pages of landing slot `slot` are exchanged or returned, and the handles added (R319). -/
def applyGuard (h slot verdict x lt n unit : Nat) (s : State) : State :=
  let ls : List Landing := match s.recipe? h with
    | some r => r.landings.filter (fun l => l.slot == slot)
    | none => []
  let sh := (ls.map (fun l => l.shadows)).flatten
  let drop := fun (s : State) => s.onRecipe h (fun r => { r with landings := r.landings.filter (fun l => l.slot != slot) })
  if verdict = 1 then
    let s1 := forEach sh (exchangePage h) (forEach sh (completeShadow h) s)
    engineAdd h x 1 unit (engineAdd h lt 1 unit (drop s1))
  else
    engineAdd h x (n + 1) unit (drop (s.onRecipe h (fun r => { r with
      shadowFree := r.shadowFree ++ sh.map (fun p => p.pa) })))

/-- The destinations whose speculative segment did not land: recorded by the speculative DISPATCH of the same round. -/
def notLanded (s : State) (h ls : Nat) : List Nat :=
  match s.recipe? h with
  | none => []
  | some r =>
    match r.running with
    | none => []
    | some u => ((u.runs.map (fun x => match r.task? x.idx with
        | some k => if k.cls = 3 then (x.descs.zipIdx.map (fun d =>
            let ws := vatWords r k d.2
            if opOf ws = 2 ∧ eDmode ws = 1 ∧ eLs ws = ls then d.1.refused else [])).flatten else []
        | none => [])).flatten)

/-- The slot bytes that a VERIFY's GUARDs carry: E12 of a VERIFY is unused (R305), so they are those of the speculative
DISPATCH of its round, else the least that its geometry allows (R313; DEDUCED, log entry 65). -/
def verifySlot (s : State) (d : HDesc) : Nat :=
  let n := countBlock (gEl d.ws) + gEl d.ws * gCap d.ws * gRow d.ws
  match s.recipe? d.h with
  | some r => roundSlot r (eLs d.ws) ((n + 2 * MiB - 1) / (2 * MiB) * (2 * MiB))
  | none => 0

/-- The payload of a GUARD (R285). -/
def guardPay (s : State) (d : HDesc) (verdict : Nat) : List Byte :=
  leBytes 1 verdict ++ leBytes 8 (wd d.ws 7) ++ leBytes 2 (eX d.ws) ++ leBytes 2 (eLs d.ws) ++ leBytes 2 (eLt d.ws) ++
    leBytes 4 (verifySlot s d) ++ leBytes 4 d.job.tag

/-- Send a verdict to a rank: applied locally, or a GUARD that is acknowledged. -/
def sendGuard (d : HDesc) (k verdict : Nat) (s : State) : State :=
  if ¬ d.alive s then s
  else
    let dst := nth d.job.members k 0xFFF
    if dst = myId s then
      applyGuard d.h (wd d.ws 7 + d.job.rank * verifySlot s d) verdict (eX d.ws) (eLt d.ws) d.job.n d.unit s
    else
      let p := takeTag s
      match routePort p.2 dst p.1 with
      | none => hingeFault d.h d.t d.i d.unit 0x406 0x41 0 k dst 0 p.2
      | some port =>
        let e : Xfer := { tag := p.1, recipe := d.h, task := d.t, idx := d.i, rank := k, dst := dst, port := port,
                          kind := .guardMsg, mode := 0, addr := 0, len := 0, got := 0 }
        let s1 := (p.2.onHinge (fun h => { h with xfers := h.xfers ++ [e] })).onDesc d.h d.t d.i
          (fun y => { y with awaiting := y.awaiting ++ [p.1] })
        sendFlits port [mkFlit 0x03 0 (myId s) dst 3 p.1 (guardPay s d verdict)] s1

/-- A rank's list in a record: its count and its entries. -/
def recordList (rec : List Byte) (n d : Nat) : List Nat :=
  let c := leAt rec (16 * d) 4
  let o := leAt rec (16 * d + 4) 4
  (List.range c).map (fun i => leAt rec (16 * n + 4 * (o + i)) 4)

/-- VERIFY is complete once every GUARD is acknowledged: 1 is added to D when every verdict is COMMIT, else 2
(R318). -/
def finishVerify (d : HDesc) (s : State) : State :=
  if d.runs s && allAnswered s d then
    match taskRead s d.h d.t (wd d.ws 10) d.job.n with
    | .error e => d.access 10 (wd d.ws 10) e s
    | .ok vs =>
      let all := (List.range d.job.n).all (fun k => leAt vs k 1 == 1)
      d.worked (taskAdd d.h d.t d.unit false (bitsOf (wd d.ws 13) 15 0) (if all then 1 else 2) s)
  else s

/-- VERIFY that begins (R318). -/
def runVerify (d : HDesc) (s : State) : State :=
  let n := d.job.n
  let recBytes := n * 16 + 4 * eNtok d.ws * gK d.ws
  d.read 5 (wd d.ws 5) (routesBytes d.ws) (fun routes s =>
    d.read 9 (wd d.ws 9) recBytes (fun pred s =>
      let act := recordOf (gEl d.ws) n d.job.rank (buildPlan d.ws n routes)
      let lost := notLanded s d.h (eLs d.ws)
      let vs := (List.range n).map (fun k =>
        if k ∉ lost ∧ recordList pred n k = recordList act n k then 1 else 2)
      d.write 11 (wd d.ws 11) act (fun s =>
        d.write 10 (wd d.ws 10) (vs.map (BitVec.ofNat 8)) (fun s =>
          finishVerify d (forEach (List.range n) (fun k s => sendGuard d k (nth vs k 2) s) s)) s) s) s) s

/-- VERIFY (R318). -/
def execVerify (d : DescRef) (s : State) : Host.Outcome State Fault Refusal :=
  hingeCommand d (fun e => opOf e.ws == 3) runVerify (fun e s => finishVerify e s) s

/-! ### UNPACK and COMBINE (R314, R315) -/

/-- The rows of a local expert in a segment, with their row index in the slot. -/
def segRows (ws : List Nat) (seg : List Byte) (i : Nat) : List (Nat × List Byte) :=
  let b := countBlock (gEl ws)
  let before := ((List.range i).map (fun k => leAt seg (2 * k) 2)).sum
  (List.range (leAt seg (2 * i) 2)).map (fun k => (before + k, slice seg (b + (before + k) * gRow ws) (gRow ws)))

/-- UNPACK that begins (R314): the expert buffers with their zero rows, the counts and the origin table. -/
def runUnpack (d : HDesc) (s : State) : State :=
  let ws := d.ws
  let n := d.job.n
  let el := gEl ws
  let len := countBlock el + el * gCap ws * gRow ws
  let segs := (List.range n).foldl (fun (acc : Except (Nat × Access) (List (List Byte))) sl =>
    match acc with
    | .error e => .error e
    | .ok l =>
      let a := wd ws 7 + sl * slotBytes ws
      match taskRead s d.h d.t a len with
      | .error e => .error (a, e)
      | .ok bs => .ok (l ++ [bs])) (.ok [])
  match segs with
  | .error (a, e) => d.access 7 a e s
  | .ok segs =>
    let rows := n * gCap ws
    let per := fun (i : Nat) => (segs.zipIdx.map (fun sg => (segRows ws sg.1 i).map (fun r => (sg.2, r.1, r.2)))).flatten
    let bufs := (List.range el).map (fun i =>
      let l := (per i).take rows
      ((l.map (fun r => padTo (gRow ws) r.2.2)).flatten ++ zeros ((rows - l.length) * gRow ws),
       (l.map (fun r => leBytes 4 (r.1 * 2 ^ 20 + r.2.1))).flatten ++
         (List.replicate (rows - l.length) (leBytes 4 0xFFFFFFFF)).flatten, l.length))
    d.write 4 (wd ws 4) ((bufs.map (fun b => b.1)).flatten) (fun s =>
      d.write 10 (wd ws 10) ((bufs.map (fun b => leBytes 4 b.2.2)).flatten) (fun s =>
        d.write 9 (wd ws 9) ((bufs.map (fun b => b.2.1)).flatten) d.worked s) s) s

/-- UNPACK (R314). -/
def execUnpack (d : DescRef) (s : State) : Host.Outcome State Fault Refusal :=
  hingeCommand d (fun e => opOf e.ws == 4) runUnpack noNext s

/-- An arrival that has not been used: a transfer that landed at an address under a handle. -/
def arrivedAt (s : State) (h handle dest : Nat) : Bool := s.hinge.arrived.contains (h, handle, dest)

/-- Use an arrival. -/
def useArrival (h handle dest : Nat) (s : State) : State :=
  s.onHinge (fun g => { g with arrived := g.arrived.erase (h, handle, dest) })

/-- The first phase of COMBINE: the rows that came from each source return to it (R315). -/
def combineReturns (d : HDesc) (s : State) : State :=
  let ws := d.ws
  let rows := gEl ws * d.job.n * gCap ws
  d.read 9 (wd ws 9) (4 * rows) (fun org s =>
    d.read 4 (wd ws 4) (rows * gRow ws) (fun outs s =>
      let es := (List.range rows).map (fun i => (leAt org (4 * i) 4, i))
      d.setStage 1 (forEach (List.range d.job.n) (fun k s =>
        let mine := es.filter (fun e => e.1 != 0xFFFFFFFF && e.1 / 2 ^ 20 == k)
        let n := mine.length
        let at1 := fun (i : Nat) => match mine.find? (fun e => e.1 % 2 ^ 20 == i) with
          | some e => slice outs (e.2 * gRow ws) (gRow ws)
          | none => zeros (gRow ws)
        if n = 0 then s
        else sendTransfer d { rank := k, kind := .returnRows, dest := wd ws 7 + d.job.rank * slotBytes ws,
                              data := ((List.range n).map at1).flatten, rhandle := bitsOf (wd ws 8) 15 0, rinc := 1, mode := 0,
                              ls := 0, slot := 0 } s) s)) s) s

/-- Elements of bytes in BF16 or FP32. -/
def rowVals (fmt : Nat) (bs : List Byte) : List Val :=
  let w := if fmt = 0xB then 4 else 2
  (List.range (bs.length / w)).map (fun i => elemVal fmt (leAt bs (w * i) w))

/-- y of a token: gate × row added in ascending choice, in FP32 (R315). -/
def combineToken (fmt elems : Nat) (terms : List (Val × List Byte)) : List Val :=
  terms.foldl (fun y p => (y.zip (rowVals fmt p.2)).map (fun q => add32 q.1 (mul32 p.1 q.2))) (List.replicate elems .zero)

/-- The second phase of COMBINE, once the expected returns have arrived (R315). -/
def combineSum (d : HDesc) (s : State) : State :=
  let ws := d.ws
  let n := d.job.n
  let fmt := oFmt ws
  let w := if fmt = 0xB then 4 else 2
  let rh := bitsOf (wd ws 8) 15 0
  let base := wd ws 7
  d.read 10 (wd ws 10) (n * 16 + 4 * eNtok ws * gK ws) (fun rec s =>
    let lists := (List.range n).map (recordList rec n)
    let need := (List.range n).filter (fun k => !(nth lists k []).isEmpty)
    if need.all (fun k => arrivedAt s d.h rh (base + k * slotBytes ws)) then
      let use := forEach need (fun k s => useArrival d.h rh (base + k * slotBytes ws) s)
      d.read 5 (wd ws 5) (4 * eNtok ws * gK ws) (fun gates s =>
        let slots := need.map (fun k => (k, taskRead s d.h d.t (base + k * slotBytes ws) ((nth lists k []).length * gRow ws)))
        match slots.findSome? (fun p => match p.2 with
            | .error e => some (base + p.1 * slotBytes ws, e)
            | .ok _ => none) with
        | some (a, e) => d.access 7 a e s
        | none =>
          let data := fun (k : Nat) => match slots.find? (fun p => p.1 == k) with
            | some (_, .ok bs) => bs
            | _ => []
          let es := (need.map (fun k => (nth lists k []).zipIdx.map (fun e => (e.1 % 2 ^ 20, e.1 / 2 ^ 20 % 16, k, e.2)))).flatten
          let y := (List.range (eNtok ws)).map (fun t =>
            let terms := ((List.range (gK ws)).filterMap (fun j => (es.find? (fun e => e.1 == t && e.2.1 == j)).map (fun e =>
              (f32.decode (leAt gates (4 * (t * gK ws + j)) 4), slice (data e.2.2.1) (e.2.2.2 * gRow ws) (gRow ws)))))
            ((combineToken fmt (gRow ws / w) terms).map (fun v => leBytes w (if fmt = 0xB then f32.rne v else bf16.rne v))).flatten)
          d.write 11 (wd ws 11) y.flatten (fun s => d.worked (use s)) s) s
    else s) s

/-- COMBINE (R315): returns first; issued again, it sums once its returns have arrived. -/
def execCombine (d : DescRef) (s : State) : Host.Outcome State Fault Refusal :=
  hingeCommand d (fun e => opOf e.ws == 5) (fun e s =>
    let s1 := combineReturns e s
    if e.alive s1 then combineSum e.begun s1 else s1) combineSum s

/-! ### Collectives (R307, R308) -/

/-- Geometry of a collective: chunk size, and the bounds of a chunk. -/
def chunkQ (l n : Nat) : Nat := 16 * ((l + 16 * n - 1) / (16 * n))
def chunkLen (l n c : Nat) : Nat := min ((c + 1) * chunkQ l n) l - min (c * chunkQ l n) l

/-- Bytes of an element. -/
def collW (ws : List Nat) : Nat := if cFmtH ws = 0xB then 4 else 2

/-- Partial sums as FP32 bytes. -/
def fp32Bytes (vs : List Val) : List Byte := (vs.map (fun v => leBytes 4 (f32.rne v))).flatten

/-- Continue with the member's own values of chunk c. -/
def HDesc.ownChunk (d : HDesc) (c : Nat) (k : List Val → State → State) (s : State) : State :=
  let q := chunkQ (cLen d.ws) d.job.n
  d.read 4 (wd d.ws 4 + c * q * collW d.ws) (chunkLen (cLen d.ws) d.job.n c * collW d.ws)
    (fun bs s => k (rowVals (cFmtH d.ws) bs) s) s

/-- Send FP32 values of a chunk into a peer's staging area, under the arrival handle (R308). -/
def stageSend (d : HDesc) (rank off : Nat) (vs : List Val) (s : State) : State :=
  if vs.isEmpty then s
  else sendTransfer d { rank := rank, kind := .collective off 0, dest := wd d.ws 6 + off, data := fp32Bytes vs,
                        rhandle := bitsOf (wd d.ws 7) 15 0, rinc := 1, mode := 0, ls := 0, slot := 0 } s

/-- The arrival handle. -/
def arrH (d : HDesc) : Nat := bitsOf (wd d.ws 7) 15 0

/-- Write the owner's final sum, rounded once, at its chunk's position in the destination. -/
def writeOwn (d : HDesc) (vs : List Val) (k : State → State) (s : State) : State :=
  let q := chunkQ (cLen d.ws) d.job.n
  let w := collW d.ws
  d.write 5 (wd d.ws 5 + d.job.rank * q * w)
    ((vs.map (fun v => leBytes w (if w = 4 then f32.rne v else bf16.rne v))).flatten) k s

/-- Send the member's own chunk of the destination to every other member's destination. -/
def gatherSend (d : HDesc) (from_ : Nat) (s : State) : State :=
  let q := chunkQ (cLen d.ws) d.job.n
  let w := collW d.ws
  let off := d.job.rank * q * w
  let n := chunkLen (cLen d.ws) d.job.n d.job.rank * w
  if n = 0 then s
  else d.read (if from_ = wd d.ws 4 then 4 else 5) (from_ + off) n (fun bs s =>
    forEach ((List.range d.job.n).filter (· != d.job.rank)) (fun k s =>
      sendTransfer d { rank := k, kind := .collective off 1, dest := wd d.ws 5 + off, data := bs, rhandle := arrH d, rinc := 1,
                       mode := 0, ls := 0, slot := 0 } s) s) s

/-- Other members' chunks that a gather awaits, by destination address. -/
def gatherDests (d : HDesc) : List Nat :=
  let q := chunkQ (cLen d.ws) d.job.n
  ((List.range d.job.n).filter (fun c => c != d.job.rank && chunkLen (cLen d.ws) d.job.n c != 0)).map
    (fun c => wd d.ws 5 + c * q * collW d.ws)

/-- End a gather once every chunk has arrived. -/
def gatherEnd (d : HDesc) (s : State) : State :=
  if (gatherDests d).all (fun a => arrivedAt s d.h (arrH d) a) then
    d.worked (forEach (gatherDests d) (fun a s => useArrival d.h (arrH d) a s) s)
  else s

/-- The stage number at which a collective gathers. -/
def gatherStage : Nat := 2 ^ 20

/-- The reduction of the own chunk is written: a REDUCE_SCATTER is done, an ALL_REDUCE gathers. -/
def reduced (d : HDesc) (s : State) : State :=
  if opOf d.ws = 7 then d.worked s
  else
    let s1 := d.setStage gatherStage (gatherSend d (wd d.ws 5) s)
    if d.alive s1 then gatherEnd d s1 else s1

/-- Staging address of DIRECT: the slot of a rank; of RING: the slot of a step. -/
def stageSlot (d : HDesc) (i : Nat) : Nat := 4 * chunkQ (cLen d.ws) d.job.n * i

/-- DIRECT: sum the contributions in rank order, once all have arrived (R307). -/
def directSum (d : HDesc) (s : State) : State :=
  let l := cLen d.ws
  let n := d.job.n
  let me := d.job.rank
  let len := chunkLen l n me
  let others := (List.range n).filter (· != me)
  if len = 0 then reduced d s
  else if others.all (fun k => arrivedAt s d.h (arrH d) (wd d.ws 6 + stageSlot d k)) then
    let use := forEach others (fun k s => useArrival d.h (arrH d) (wd d.ws 6 + stageSlot d k) s)
    d.ownChunk me (fun own s =>
      d.read 6 (wd d.ws 6) (4 * chunkQ l n * (n - 1) + 4 * len) (fun st s =>
        let vals := fun (k : Nat) => if k = me then own else fp32s (st.drop (stageSlot d k)) len
        let sum := (List.range n).foldl (fun acc k => if k = 0 then vals 0 else (acc.zip (vals k)).map (fun q => add32 q.1 q.2)) []
        writeOwn d sum (fun s => reduced d (use s)) s) s) s
  else s

/-- RING: the steps that can be taken now; at step k the chunk c = rank − 2 − k arrives from the rank before, has the
own values added, and goes on, or is the own chunk's sum (R307). -/
def ringSteps : Nat → Nat → HDesc → State → State
  | 0, _, _, s => s
  | fuel + 1, k, d, s =>
    let l := cLen d.ws
    let n := d.job.n
    let me := d.job.rank
    if n ≤ k + 1 then reduced d s
    else
      let c := (me + 2 * n - 2 - k) % n
      let a := wd d.ws 6 + stageSlot d (k % 2)
      let len := chunkLen l n c
      if len = 0 then ringSteps fuel (k + 1) d (d.setStage (k + 2) s)
      else if arrivedAt s d.h (arrH d) a then
        let use := useArrival d.h (arrH d) a
        d.read 6 a (4 * len) (fun st s =>
          d.ownChunk c (fun own s =>
            let sum := ((fp32s st len).zip own).map (fun q => add32 q.1 q.2)
            if c = me then writeOwn d sum (fun s => ringSteps fuel (k + 1) d (d.setStage (k + 2) (use s))) s
            else
              let s2 := d.setStage (k + 2) (stageSend d ((me + 1) % n) (stageSlot d ((k + 1) % 2)) sum (use s))
              if d.alive s2 then ringSteps fuel (k + 1) d s2 else s2) s) s
      else s

/-- A reduction begins: the first contributions are sent (R307, R308). -/
def reduceStart (d : HDesc) (s : State) : State :=
  let n := d.job.n
  let me := d.job.rank
  if n = 1 then d.ownChunk 0 (fun own s => writeOwn d own (reduced d) s) s
  else if eAlg d.ws = 0 then
    let s1 := d.setStage 1 (forEach ((List.range n).filter (· != me)) (fun c s =>
      if d.alive s then d.ownChunk c (fun own s => stageSend d c (stageSlot d me) own s) s else s) s)
    if d.alive s1 then directSum d.begun s1 else s1
  else
    let s1 := d.setStage 1 (d.ownChunk ((me + n - 1) % n) (fun own s => stageSend d ((me + 1) % n) 0 own s) s)
    if d.alive s1 then ringSteps n 0 d.begun s1 else s1

/-- A reduction goes on with what has arrived. -/
def reduceNext (d : HDesc) (s : State) : State :=
  if d.run.stage = gatherStage then gatherEnd d s
  else if eAlg d.ws = 0 then directSum d s
  else ringSteps d.job.n (d.run.stage - 1) d s

/-- ALL_REDUCE (R307): a reduce-scatter, then an all-gather. -/
def execAllReduce (d : DescRef) (s : State) : Host.Outcome State Fault Refusal :=
  hingeCommand d (fun e => opOf e.ws == 6) reduceStart reduceNext s

/-- REDUCE_SCATTER (R307). -/
def execReduceScatter (d : DescRef) (s : State) : Host.Outcome State Fault Refusal :=
  hingeCommand d (fun e => opOf e.ws == 7) reduceStart reduceNext s

/-- An all-gather begins: the own chunk goes to every member's destination, its own included. -/
def gatherStart (d : HDesc) (s : State) : State :=
  let n := chunkLen (cLen d.ws) d.job.n d.job.rank * collW d.ws
  let off := d.job.rank * chunkQ (cLen d.ws) d.job.n * collW d.ws
  d.read 4 (wd d.ws 4 + off) n (fun bs s =>
    d.write 5 (wd d.ws 5 + off) bs (fun s =>
      let s1 := d.setStage gatherStage (gatherSend d (wd d.ws 4) s)
      if d.alive s1 then gatherEnd d s1 else s1) s) s

/-- ALL_GATHER (R307). -/
def execAllGather (d : DescRef) (s : State) : Host.Outcome State Fault Refusal :=
  hingeCommand d (fun e => opOf e.ws == 8) gatherStart gatherEnd s

/-! ### What a descriptor awaits (R299) -/

/-- Ranks whose data a begun descriptor awaits: the returns of a COMBINE, the contributions or chunks of a collective. -/
def awaitedRanks (s : State) (d : HDesc) : List Nat :=
  let n := d.job.n
  let me := d.job.rank
  let others := (List.range n).filter (· != me)
  let open_ := fun (k : Nat) (a : Nat) => k != me && !arrivedAt s d.h (arrH d) a
  if opOf d.ws = 5 then
    let rh := bitsOf (wd d.ws 8) 15 0
    let need := match taskRead s d.h d.t (wd d.ws 10) (n * 16 + 4 * eNtok d.ws * gK d.ws) with
      | .ok rec => others.filter (fun k => !(recordList rec n k).isEmpty)
      | .error _ => others
    need.filter (fun k => !arrivedAt s d.h rh (wd d.ws 7 + k * slotBytes d.ws))
  else if isColl (opOf d.ws) then
    if d.run.stage = gatherStage then
      others.filter (fun c => chunkLen (cLen d.ws) n c != 0 &&
        open_ c (wd d.ws 5 + c * chunkQ (cLen d.ws) n * collW d.ws))
    else if eAlg d.ws = 0 then others.filter (fun k => open_ k (wd d.ws 6 + stageSlot d k))
    else if n ≤ 1 then [] else [(me + n - 1) % n]
  else []

/-! ### Spans (R309) -/

/-- A hinge control message's add to a span tumbler. -/
def spanAddLocal (h tumb inc unit : Nat) (s : State) : State :=
  tAdd h tumb inc { task := none, blame := none, unit := unit, span := true, version := false, op := 0, level := 0, exempt := false } s

/-- Send SPAN_ADD to every other member, under a tag, and apply it locally. -/
def spanAll (h : Nat) (j : Job) (tag tumb inc unit : Nat) (s : State) : State :=
  let pay := leBytes 2 tumb ++ leBytes 4 inc ++ leBytes 4 j.tag
  spanAddLocal h tumb inc unit (forEach j.members (fun m s => if m = myId s then s else sendTo 0x02 m tag 3 pay s) s)

/-- A SPAN's work is done once every SPAN_ADD has left the module: none waits at a port for a credit (R306). -/
def finishSpan (d : HDesc) (s : State) : State :=
  let tags := ((((s.recipe? d.h).bind (fun r => r.run? d.t)).bind (fun x => x.descs[d.i]?)).map (fun e => e.awaiting)).getD []
  if d.runs s && !s.hinge.ports.any (fun q => q.waiting.any (fun f => fType f == 0x02 && tags.contains (fTag f))) then
    d.worked (s.onDesc d.h d.t d.i (fun x => { x with awaiting := [] }))
  else s

/-- The first rank that no route reaches under a tag (R293). -/
def spanLost (s : State) (j : Job) (tag : Nat) : Option Nat :=
  (List.range j.n).find? (fun k => nth j.members k 0xFFF != myId s && (routePort s (nth j.members k 0xFFF) tag).isNone)

/-- SPAN (R306, R309): issued again, it ends once its messages have left. A member that no route reaches is fault 0x41, found
before anything is sent (R293; DESIGN CHOICE, log entry 66: the spec does not say what of the span is sent then). -/
def execSpan (d : DescRef) (s : State) : Host.Outcome State Fault Refusal :=
  hingeCommand d (fun e => opOf e.ws == 9) (fun e s =>
    let p := takeTag s
    let s1 := p.2.onDesc e.h e.t e.i (fun x => { x with awaiting := x.awaiting ++ [p.1] })
    match spanLost p.2 e.job p.1 with
    | some k => hingeFault e.h e.t e.i e.unit 0x406 0x41 0 k (nth e.job.members k 0xFFF) 0 p.2
    | none => finishSpan e (spanAll e.h e.job p.1 (bitsOf (wd e.ws 3) 15 0) (bitsOf (wd e.ws 3) 47 16) e.unit s1)) finishSpan s

/-- A chained add reaches its tumbler; a span contribution goes to every member through engine SPAN_HE (R165, R309). -/
def applyChain (c : Chain) (s : State) : State :=
  if c.span then
    match (s.recipe? c.recipe).bind (fun r => r.job) with
    | some j =>
      let p := takeTag s
      spanAll c.recipe j p.1 c.handle c.inc (heUnit j.spanHe) p.2
    | none => s
  else tAdd c.recipe c.handle c.inc
    { task := c.task, blame := c.blame, unit := c.unit, span := false, version := false, op := 3, level := c.level, exempt := false } s

/-- CHAIN_ACTION (R165, R166, R309): one chained action is carried out. -/
def execChainAction (k : Nat) (s : State) : Host.Outcome State Fault Refusal :=
  match s.chains[k]? with
  | none => .next s
  | some c => .next (settle c.recipe (applyChain c { s with chains := s.chains.eraseIdx k }))

end Sys2Proof.Machine
end

