-- ==== Sys2Proof/Machine/Ports.lean ====
section
/-! DEFINITION. The hinge ports in service (R285, R295 to R299): the stop of a port and what it faults, withdrawal,
retraining, LINK_INIT, and the error windows of a port. -/

namespace Sys2Proof.Machine

/-! ### The stop of a port (R299) -/

/-- The module ID of a rank. -/
def memberAt (j : Job) (k : Nat) : Nat := nth j.members k 0xFFF

/-- The begun hinge descriptors of a recipe's started tasks. -/
def begunHinge (s : State) (h : Nat) : List HDesc :=
  match (s.recipe? h).bind (fun r => r.running) with
  | none => []
  | some u => ((u.runs.map (fun x => (List.range x.descs.length).filterMap (fun i =>
      (hDesc? s { recipe := h, task := x.idx, idx := i }).filter (fun d => d.run.phase == .begun)))).flatten)

/-- Fault the hinge tasks of a recipe that await data from a member whose path has failed, with the rank they await (R299
step 4). -/
def faultWaiters (h det peer : Nat) (failed : Nat → Bool) (s : State) : State :=
  forEach (begunHinge s h) (fun d s =>
    match (awaitedRanks s d).find? (fun k => failed (memberAt d.job k)) with
    | some k => if d.runs s then hingeFault h d.t d.i d.unit det 0x40 0 k peer 0 s else s
    | none => s) s

/-- The members whose data comes over a port of this module: its peer, and those to which the port is a route (DEDUCED,
log entry 66: R299 does not say which path a member's data takes). -/
def comesOver (s : State) (p m : Nat) : Bool :=
  m == (s.port p).peerId || ((routePorts (routeOf s m)).any (fun e => e.1 == p && e.2 != 0))

/-- Send NOTICE of a failed port to a module, over any route (R285, R299). -/
def portNotice (p peer tag m : Nat) (s : State) : State :=
  if m = myId s then s else sendTo 0x04 m 0 3 (leBytes 1 p ++ leBytes 2 peer ++ leBytes 4 tag) s

/-- NOTICE of a failed port for the job of a recipe: to the peer and to every member (R299). -/
def noticeJob (p peer h : Nat) (s : State) : State :=
  match (s.recipe? h).bind (fun r => r.job) with
  | some j => forEach ((peer :: j.members).dedup) (portNotice p peer j.tag) s
  | none => s

/-- The begun SPANs of a recipe that have a SPAN_ADD among some waiting flits (R306). -/
def spansAmong (s : State) (h : Nat) (fs : List (List Byte)) : List HDesc :=
  (begunHinge s h).filter (fun d => opOf d.ws == 9 && fs.any (fun f => fType f == 0x02 && d.run.awaiting.contains (fTag f)))

/-- A port stops (R299): its unanswered transfers fail, with the SPANs whose messages had not left; partial receptions are
abandoned, and NOTICE goes to the peer and to every member of each affected job over other routes, for the port has left
its state of service; this module's own tasks that await data over the port fault. A stop that affects no job sends the
peer a NOTICE with JOB_TAG zero (DESIGN CHOICE, log entry 66). -/
def portStop (p det : Nat) (s : State) : State :=
  let peer := (s.port p).peerId
  let lost := s.hinge.xfers.filter (fun x => x.port == p)
  let lostFrom := fun (m : Nat) => comesOver s p m
  let hs := s.recipes.map (fun r => r.handle)
  let spans := (hs.map (fun h => spansAmong s h (s.port p).waiting)).flatten
  let awaits := hs.filter (fun h => (begunHinge s h).any (fun d =>
    (awaitedRanks s d).any (fun k => lostFrom (memberAt d.job k))))
  let jobs := (lost.map (fun x => x.recipe) ++ (s.hinge.rx.filter (fun x => x.port == p)).map (fun x => x.recipe) ++
    spans.map (fun d => d.h) ++ awaits).dedup
  let clear := fun (q : HingePort) =>
    { q with waiting := [], replay := [], replayWanted := false, owed := [0, 0, 0, 0], bulkOut := [], sameReplays := 0 }
  let s1 := (s.onPort p clear).onHinge (fun h => { h with
    xfers := h.xfers.filter (fun x => x.port != p), rx := h.rx.filter (fun x => x.port != p) })
  let s2 := forEach lost (fun x s => if taskLive s x.recipe x.task then
    hingeFault x.recipe x.task x.idx (taskHe s x.recipe x.task) det 0x40 0 x.rank peer 0 s else s) s1
  let s2a := forEach spans (fun d s => if taskLive s d.h d.t then hingeFault d.h d.t d.i d.unit det 0x40 0 0 peer 0 s else s) s2
  let s3 := if jobs.isEmpty then portNotice p peer 0 peer s2a else forEach jobs (noticeJob p peer) s2a
  forEach (s3.recipes.map (fun r => r.handle)) (fun h s => settle h (faultWaiters h det peer lostFrom s)) s3

/-! ### Withdrawal and retraining (R297, R298) -/

/-- The detail of the events of a port's training and width: peer, and the good-lane masks of both ends (R476). -/
def portDetail (s : State) (p : Nat) : List Byte :=
  let q := s.port p
  leBytes 2 q.peerId ++ leBytes 1 q.localMask ++ leBytes 1 q.peerMask

/-- Post such an event. -/
def portPost (det p : Nat) (s : State) : State := post det (portUnit p) 0 (portDetail s p) s

/-- Post it by the Warden, whose backlog keeps it until a ring takes it: at Stage 6 no ring is applied (R481). -/
def portWpost (det p : Nat) (s : State) : State := wpost det (portUnit p) 0 (portDetail s p) s

/-- Set a port's state, and with it nothing else. -/
def setPort (p : Nat) (st : PortState) (s : State) : State := s.onPort p (fun q => { q with state := st })

/-- Withdraw a port that holds nothing in flight: the two view updates of R298, the second with its detector. -/
def withdrawPort (p : Nat) (target : PortState) (det : Nat) (s : State) : State :=
  queueUpdate { bar := none, changes := [.port p target], drain := none, post := some (det, portUnit p, portDetail s p) }
    (queueUpdate { bar := some (.port p), changes := [.port p .fencing], drain := none, post := none }
      (setPort p .fencing s))

/-- Retrains of the last ten minutes. -/
def recentRetrains (s : State) (p : Nat) : Nat :=
  ((s.port p).retrainTimes.filter (fun t => decide (s.now < t + 600 * 10 ^ 9))).length

/-- A retrain condition (R297): the port stops and retrains, or a fourth occasion in ten minutes fences it. -/
def startRetrain (p : Nat) (s : State) : State :=
  let s1 := post 0x403 (portUnit p) 0 [] s
  if 3 ≤ recentRetrains s p then withdrawPort p .fenced 0x406 (portStop p 0x403 (setPort p .fencing s1))
  else portStop p 0x403 (s1.onPort p (fun q => { q with
    before := q.state, state := .retraining, retrainStart := s.now,
    retrainTimes := s.now :: q.retrainTimes.filter (fun t => decide (s.now < t + 600 * 10 ^ 9)) }))

/-- A protocol error (R285): the event, and a port that carries traffic goes to the fault path; one that trains carries
none and goes on training. -/
def protocolError (p : Nat) (s : State) : State :=
  let s1 := post 0x407 (portUnit p) 0 [] s
  if (s.port p).up then startRetrain p s1 else s1

/-- The width that good lanes of both ends give (R296). -/
def widthOf (localMask peerMask : Nat) : Option PortState :=
  let m := localMask &&& peerMask
  if m % 16 = 15 then some .up4 else if m % 4 = 3 then some .up2 else if m / 4 % 4 = 3 then some .up2 else none

/-- The LINK_INIT that this end sends in training (R285, R296): module ID, good-lane mask, credits per VC, version 1. It
is not sequenced (log entry 66). -/
def sendLinkInit (p mask : Nat) (s : State) : State :=
  let pay := leBytes 2 (myId s) ++ leBytes 1 (mask % 16) ++ (vcBuffers.map (leBytes 2)).flatten ++ leBytes 1 1
  s.onPort p (fun q => q.emit (sealFlit 0 0 0 0 (mkFlit 0x01 0 (myId s) q.peerId 3 0 pay)))

/-- A port that carries traffic starts with fresh sequence numbers and the credits that the peer advertised (R285, R286,
R296). -/
def freshLink (q : HingePort) : HingePort :=
  { q with txSeq := 0, rxSeq := 0, credits := q.advertised, frame := [], owed := [0, 0, 0, 0], bulkOut := [], replay := [],
           waiting := [], replayWanted := false, sameReplays := 0 }

/-- PORT_RETRAIN (R297): a port in service stops and begins training. -/
def execPortRetrain (port : Nat) (cause : RetrainCause) (s : State) : Host.Outcome State Fault Refusal :=
  occurs (decide (port < 32) && (s.port port).up) (fun s => match cause with
    | .protocolError => protocolError port s
    | _ => startRetrain port s) s

/-- A retrain fails: the port is withdrawn and fenced (R297, R298). -/
def retrainFailed (p : Nat) (s : State) : State := withdrawPort p .fenced 0x406 (portPost 0x404 p s)

/-- A hinge port is under the qualification of OD 7F.005 (R421). -/
def underQual (s : State) (p : Nat) : Bool :=
  match s.warden.run with
  | some o => o.obj == 0x7F005000 && o.ending.isNone && o.todo.contains p
  | none => false

/-- A retrain is late: longer than 250 ms, which is failure (R297). -/
def retrainLate (s : State) (p : Nat) : Bool := decide ((s.port p).retrainStart + 250 * 10 ^ 6 < s.now)

/-- RETRAIN_COMPLETE (R297 events 4 and 5): LINK_INIT goes out, and the port returns at the same width, or is withdrawn to
two lanes or fenced; another peer fences it (R298). A completion after 250 ms is a failure. -/
def execRetrainComplete (port : Nat) (train : HingeTrain) (s : State) : Host.Outcome State Fault Refusal :=
  let q := s.port port
  occurs (decide (port < 32) && q.state == .retraining && !underQual s port) (fun s =>
    if ¬ train.trained ∨ retrainLate s port then retrainFailed port s
    else if train.peerId ≠ q.peerId then withdrawPort port .fenced 0x406 (post 0x408 (portUnit port) 0 [] s)
    else
      let s1 := (sendLinkInit port train.localMask (s.onPort port freshLink)).onPort port (fun q => { q with
        localMask := train.localMask, peerMask := train.peerMask })
      match widthOf train.localMask train.peerMask with
      | none => retrainFailed port s1
      | some w =>
        if w = q.before ∨ q.before = .up2 then setPort port q.before s1
        else withdrawPort port .up2 0x405 s1) s

/-- RETRAIN_TIMEOUT (R297): a retrain that lasts longer than 250 ms is a failure. -/
def execRetrainTimeout (port : Nat) (s : State) : Host.Outcome State Fault Refusal :=
  occurs (decide (port < 32) && (s.port port).state == .retraining && !underQual s port && retrainLate s port)
    (retrainFailed port) s

/-- PRE_FEC_BER_WINDOW (R297, R324): a 1 s window of a port's error counts ends. -/
def execPreFecBerWindow (port : Nat) (ber : Rat) (corrected uncorrectable : Nat) (s : State) :
    Host.Outcome State Fault Refusal :=
  occurs (decide (port < 32) && (s.port port).up) (fun s =>
    let s1 := s.onPort port (fun q => { q with
      ber := ber, corrected := satAdd 64 q.corrected corrected, uncorrectable := satAdd 64 q.uncorrectable uncorrectable })
    let s2 := if 24 / 100000 < ber then postAbove false 0 (60 * 10 ^ 9) 1 0x400 (portUnit port) 0 [] s1 else s1
    let s3 := if uncorrectable = 0 then s2
      else post 0x401 (portUnit port) 0 [] (s2.onEvents (fun e => { e with
        counts := put e.counts 0x401 (satAdd 64 (look e.counts 0x401 0) (uncorrectable - 1)) }))
    if 10 < uncorrectable then startRetrain port s3 else s3) s

end Sys2Proof.Machine
end

