-- ==== Sys2Proof/Machine/Gate.lean ====
section
/-! DEFINITION. The Admission Gate's view (R18, R19): the resources that a recipe names (R19, R298, R410), the
application of view updates, and the VIEW_UPDATE command. -/

namespace Sys2Proof.Machine

/-! ### Hoops (R5, R204) -/

/-- A hoop that differs in nothing from sixteen good cores. -/
def Hoop.plain (w h : Nat) : Hoop :=
  { wheel := w, hoop := h, posMap := List.range 16, bad := [], fenced := false, pin := none }

/-- A hoop. -/
def hoopRec (s : State) (w h : Nat) : Hoop :=
  match (s.wheel w).hoops.find? (fun q => q.hoop == h) with
  | some q => q
  | none => Hoop.plain w h

/-- Change a hoop. -/
def onHoop (w h : Nat) (f : Hoop → Hoop) (s : State) : State :=
  s.onWheel w (fun x =>
    if x.hoops.any (fun q => q.hoop == h) then { x with hoops := modFirst (fun q => q.hoop == h) f x.hoops }
    else { x with hoops := x.hoops ++ [f (Hoop.plain w h)] })

/-! ### What a recipe names -/

/-- The eight words of a launch record (R206). -/
def launchWords (r : Recipe) (k : Task) (i : Nat) : List Nat :=
  (List.range 8).map (fun j => leAt (descBytes r k i 64) (8 * j) 8)

/-- Fields of a launch record (R206). -/
def lVer (l : List Nat) : Nat := bitsOf (wd l 0) 63 60
def lNcores (l : List Nat) : Nat := bitsOf (wd l 0) 59 55
def lEntry (l : List Nat) : Nat := bitsOf (wd l 0) 31 0
def lCode (l : List Nat) : Nat := bitsOf (wd l 1) 47 0
def lCodeLen (l : List Nat) : Nat := bitsOf (wd l 2) 31 0
def lArg (l : List Nat) : Nat := bitsOf (wd l 3) 47 0
def lArg2 (l : List Nat) : Nat := wd l 4
def lBudget (l : List Nat) : Nat := bitsOf (wd l 5) 39 0

/-- Launch records of a recipe's hoop tasks, with their tasks. -/
def launches (r : Recipe) : List (Task × List Nat) :=
  (r.tasks.map (fun k => if k.cls = 1 then (List.range k.dcount).map (fun i => (k, launchWords r k i)) else [])).flatten

/-- Vat descriptors of a recipe's tasks on a vat. -/
def vatDescsOf (r : Recipe) (w : Nat) : List (List Nat) :=
  (r.tasks.map (fun k => if k.cls = 0 && k.home == w then (List.range k.dcount).map (vatWords r k) else [])).flatten

/-- Cores that a hoop offers in the view: none while it is FENCING or FENCED, no 16th core while that is withdrawn
(R19, R410). -/
def hoopCoresOf (v : View) (w h : Nat) : Nat :=
  match nth v.hoopMarks (80 * w + h) .usable with
  | .usable => nth v.hoopCores (80 * w + h) 0
  | .core16 => min 15 (nth v.hoopCores (80 * w + h) 0)
  | .fencing => 0
  | .fenced => 0

/-- Usable helper cores of a wheel in the view (R366). -/
def usableCores (v : View) (w : Nat) : Nat := sumNat ((List.range 80).map (hoopCoresOf v w))

/-- A vat descriptor names a pane that a shape does not offer, or an extent beyond it (R89, R100). -/
def paneRefused (shape : Nat × Nat) (ws : List Nat) : Bool :=
  (opOf ws != 6 || !fscope ws) && match offeredPane shape (arrOf ws) (paneOf ws) with
    | none => true
    | some q => opOf ws != 6 && (decide (q.2.2.1 < rowsOf ws) || decide (q.2.2.2 < colsOf ws))

/-- The ports that the route table gives to the members of a recipe's job (R298). -/
def jobPorts (s : State) (r : Recipe) : List Nat :=
  match r.job with
  | none => []
  | some j => ((j.members.filter (fun m => m != myId s)).map (fun m =>
      ((routePorts (routeOf s m)).filter (fun p => p.2 != 0)).map (fun p => p.1))).flatten

/-- Whether a recipe names a resource (R19, R137, R298, R410). -/
def names (s : State) (r : Recipe) : Res → Bool
  | .wheel w => bitOf r.wheels w
  | .vat w => r.tasks.any (fun k => k.cls == 0 && k.home == w)
  | .shape w rows cols => (vatDescsOf r w).any (paneRefused (rows, cols))
  | .hoop w h => r.tasks.any (fun k => k.cls == 1 && k.home == w && k.unit == h)
  | .core16 w h =>
    (launches r).any (fun p => p.1.home == w && (p.1.unit == h || p.1.unit == 127) && lNcores p.2 == 16) ||
      decide (usableCores s.gate.view w < nth r.cores w 0)
  | .port p => decide (p ∈ jobPorts s r)
  | .cave => r.leaves.any (fun l => l.cave)
  | .near => r.owned.any (fun e => decide (hostSpaceView s < e.1 + e.2))
  | .updateEngines => r.tasks.any (fun k => k.cls == 2)
  | .cap c => decide (c < r.powerW)

/-- The reason code of a bar (R19). -/
def barCode : Res → Nat
  | .cap _ => 0x619
  | _ => 0x608

/-! ### View updates (R18) -/

/-- A map of lines or slots changes with the update that carries it (R400). A far port or a hinge port takes the state
that the view gives it, but a hinge port marked FENCING lets the work in flight run on (R298, R426). The shape of a vat
changes at once where no descriptor of it is in progress; else the change is pending and the descriptors in progress
finish first (R80). -/
def applyChange (c : ViewChange) (s : State) : State :=
  match c with
  | .vatShape w rows cols =>
    if nth s.gate.view.shapes w (0, 0) = (rows, cols) then s.onVat w (fun v => { v with pendingShape := none })
    else if (vatDescs s w).any (fun a => a.busy) then s.onVat w (fun v => { v with pendingShape := some (rows, cols) })
    else takeShape w (s.onVat w (fun v => { v with pendingShape := some (rows, cols) }))
  | .vatFence w f => s.onView (fun v => { v with vatFence := modAt v.vatFence w (fun _ => f) })
  | .wheel w st => s.onView (fun v => { v with wheels := modAt v.wheels w (fun _ => st) })
  | .hoopCores w h n => s.onView (fun v => { v with hoopCores := modAt v.hoopCores (80 * w + h) (fun _ => n) })
  | .port p st =>
    let s1 := s.onView (fun v => { v with ports := modAt v.ports p (fun _ => st) })
    if st = .fencing then s1 else setPort p st s1
  | .far p st => (s.onView (fun v => { v with far := modAt v.far p (fun _ => st) })).onFar p
      (fun q => { q with state := st })
  | .caveCapacity n => s.onView (fun v => { v with caveCapacity := n })
  | .nearUsable n => s.onView (fun v => { v with nearUsable := n })
  | .curdUsable w n => s.onView (fun v => { v with curdUsable := modAt v.curdUsable w (fun _ => n) })
  | .updateEngines f => s.onView (fun v => { v with updateEngines := f })
  | .capCeiling n => s.onView (fun v => { v with capCeiling := n })
  | .inletHot b => s.onView (fun v => { v with inletHot := b })
  | .cave f => s.onView (fun v => { v with cave := f })
  | .hoopMark w h m => s.onView (fun v => { v with hoopMarks := modAt v.hoopMarks (80 * w + h) (fun _ => m) })
  | .hoopMap w h m bad => onHoop w h (fun q => { q with posMap := m, bad := bad }) s
  | .lineMap w a b => s.onWheel w (fun x => { x with rowOrder := a, colOrder := b })
  | .shrink w o => s.onView (fun v => { v with shrink := modAt v.shrink w (fun _ => o) })

/-- Set the bar of every recipe that names a withdrawn resource (R19). A recipe barred twice, by a fence and by a lowered
ceiling, keeps the reason of the bar that was set first (DESIGN CHOICE, log entry 62: R19 does not say which of 0x0608 and
0x0619 it gets). -/
def barRecipes (x : Res) (s : State) : State :=
  { s with recipes := s.recipes.map (fun r =>
      if names s r x then { r with bar := some (r.bar.getD (barCode x)) } else r) }

/-- The event of an applied update: capacity changes carry the generation (R410). -/
def updatePost (p : Nat × Nat × List Byte) (s : State) : State :=
  if p.1 = 0x232 then wpost p.1 p.2.1 0 (p.2.2 ++ leBytes 8 s.gate.gen) s
  else if p.1 < 0x400 then wpost p.1 p.2.1 0 p.2.2 s
  else post p.1 p.2.1 0 p.2.2 s

/-- OD 01.001 by the view and the links (R423). -/
def degradedNow (s : State) : Nat :=
  let v := s.gate.view
  let st := s.warden.stored
  let en := (List.range 32).filter (fun p => nth st.portEnable p false)
  bit (en.any (fun p => nth v.ports p .down == .up2)) +
    2 * bit (en.any (fun p => nth v.ports p .down == .fenced || nth v.ports p .down == .down)) +
    4 * bit ((List.range 4).any (fun p => nth st.farMode p 0 != 0 &&
      nth v.far p .off == .fenced)) +
    8 * bit (decide (s.host.width < 16) || decide (s.host.rate < 64)) +
    16 * bit (decide (s.tiers.hbmStacks.length < 20)) +
    32 * bit (v.wheels.any (fun w => w == .fenced || w == .disabled) || v.vatFence.any (fun f => f == .fenced) ||
      (List.range 640).any (fun k => nth v.hoopCores k 0 == 0 && nth v.wheels (k / 80) .fenced == .usable))

/-- A capacity lost in service makes READY into READY_DEGRADED; nothing makes it READY again before a device reset.
OD 01.001 follows the causes in MAINTENANCE too (R423). -/
def degrade (s : State) : State :=
  if s.serving then
    let c := degradedNow s
    let s1 := if c ≠ 0 ∧ s.life.state = .ready then s.enter .readyDegraded else s
    s1.onLife (fun l => { l with causes := BitVec.ofNat 32 c, wasDegraded := l.wasDegraded || l.state == .readyDegraded })
  else s

/-- The view takes an update: the changes are made, the recipes that name a withdrawn resource are barred, the drain of
its scope begins, and its event is posted (R19, R426). -/
def takeUpdate (u : ViewUpdate) (s : State) : State :=
  let s1 := forEach u.changes applyChange s
  let s2 := match u.bar with
    | some x => barRecipes x s1
    | none => s1
  let s3 := match u.drain with
    | some x => startDrain x s2
    | none => s2
  degrade (match u.post with
    | some p => updatePost p s3
    | none => s3)

/-- Apply a view update: the generation rises by one (R18). -/
def applyUpdate (u : ViewUpdate) (s : State) : State :=
  takeUpdate u (s.onGate (fun g => { g with gen := (g.gen + 1) % 2 ^ 64 }))

/-- VIEW_UPDATE (R18): the oldest update waiting at the Gate is applied. -/
def execViewUpdate (s : State) : Host.Outcome State Fault Refusal :=
  match s.gate.pending with
  | [] => .next s
  | u :: us => .next (applyUpdate u (s.onGate (fun g => { g with pending := us })))

/-- The wheel whose vat or hoops a change of a replan concerns (R400). -/
def replanOf : ViewChange → Option Nat
  | .vatShape w _ _ => some w
  | .vatFence w _ => some w
  | .shrink w _ => some w
  | .lineMap w _ _ => some w
  | .hoopCores w _ _ => some w
  | .hoopMark w _ _ => some w
  | .hoopMap w _ _ _ => some w
  | _ => none

/-- A replan of a wheel is past its first view update's event and not complete: an update of its maps waits at the Gate
(R400 events 5 to 7, R401). -/
def replanUpdates (s : State) (w : Nat) : Bool :=
  s.gate.pending.any (fun u => u.changes.any (fun c => replanOf c == some w))

/-- Apply every update that waits at the Gate: they are older than an admission that begins (R18). -/
def applyPending (s : State) : State :=
  forEach s.gate.pending applyUpdate (s.onGate (fun g => { g with pending := [] }))

end Sys2Proof.Machine
end

