-- ==== Sys2Proof/Machine/Tray.lean ====
section
/-! DEFINITION. The Event Tray (R476 to R481), the Warden's event log (R21, R472, R484), MSI-X interrupts (R348,
R357, R480) and the records of injection (R485). -/

namespace Sys2Proof.Machine

/-! ### Interrupts -/

/-- A vector is masked by bit 0 of its vector control in the MSI-X table (R348; PRESUMED from PCIe, log entry 8). -/
def vectorMasked (h : HostIf) (v : Nat) : Bool := bitOf (memLe h.bar0 (0x20000 + 16 * v + 12) 4) 0

/-- Raise an interrupt on a vector: a message, or its pending bit while the vector is masked. -/
def raiseMsix (v : Nat) (s : State) : State :=
  s.onHost (fun h => if vectorMasked h v then { h with pba := h.pba ||| BitVec.ofNat 64 (2 ^ v) }
    else { h with interrupts := h.interrupts ++ [v] })

/-- Send the pending messages of unmasked vectors (R348). -/
def flushMsix (s : State) : State :=
  forEach (List.range 64) (fun v s =>
    if s.host.pba.getLsbD v && !vectorMasked s.host v then
      s.onHost (fun h => { h with pba := h.pba &&& ~~~ BitVec.ofNat 64 (2 ^ v), interrupts := h.interrupts ++ [v] })
    else s) s

/-! ### Records -/

/-- The 32 bytes of a record (R476). -/
def recordBytes (r : EventRec) : List Byte :=
  leBytes 8 r.time ++ leBytes 4 (r.det % 4096 * 2 ^ 20 + r.unit % 2 ^ 20) ++
    leBytes 4 (bit r.alert * 2 ^ 23 + bit r.lostRec * 2 ^ 22 + bit r.warden * 2 ^ 21 + bit r.inj * 2 ^ 20 +
      r.sev % 16 * 2 ^ 16 + r.code % 2 ^ 16) ++ padTo 16 r.detail

/-- Fields of ET_CFG (R478). -/
def etSize (e : Events) : Nat := 2 ^ bitsOf e.cfg.toNat 36 32
def etItime (e : Events) : Nat := bitsOf e.cfg.toNat 31 24
def etIcount (e : Events) : Nat := max 1 (bitsOf e.cfg.toNat 23 16)
def etVector (e : Events) : Nat := bitsOf e.cfg.toNat 13 8

/-- The ring is full (R480). -/
def etIsFull (e : Events) : Bool := (e.tail + 1) % etSize e == e.head

/-- One more unsignalled record; ICOUNT of them raise the interrupt (R480, R357). -/
def etSignal (s : State) : State :=
  let n := s.events.unsignalled + 1
  if etIcount s.events ≤ n then
    raiseMsix (etVector s.events) (s.onEvents (fun e => { e with unsignalled := 0, firstUnsignalled := none }))
  else s.onEvents (fun e => { e with unsignalled := n, firstUnsignalled := some (e.firstUnsignalled.getD s.now) })

/-- Count a lost record (R21, R480). -/
def countLost (time : Nat) (s : State) : State :=
  s.onEvents (fun e => { e with
    lost := satAdd 64 e.lost 1, lostSince := e.lostSince + 1,
    firstLost := if e.lostSince = 0 then time else e.firstLost })

/-- The collector writes a record to the ring, or counts it lost when the ring is full (R480). -/
def ringWrite (r : EventRec) (s : State) : State :=
  if etIsFull s.events then (countLost r.time s).onEvents (fun e => { e with full := true })
  else
    let a := s.events.base.toNat + 32 * s.events.tail
    etSignal ((locWrite (.near a) (recordBytes r) s).onEvents (fun e => { e with tail := (e.tail + 1) % etSize e }))

/-- A record of the Warden's log is one that the Warden posts, one of severity 4 or 5, or one with ALERT (R21,
R484). -/
def wardenKeeps (r : EventRec) : Bool := r.warden || decide (4 ≤ r.sev) || r.alert

/-- The Warden's copy of a record, at most 65,536, oldest dropped; ALERT drives MODULE_ALERT_N low (R472, R484). -/
def wardenCopy (r : EventRec) (s : State) : State :=
  if wardenKeeps r then s.onEvents (fun e => { e with
    log := (e.log ++ [r]).drop (e.log.length + 1 - 65536), alertLow := e.alertLow || r.alert })
  else s

/-- The Warden holds a record of its own in the backlog of 256, oldest dropped and counted (R481). -/
def toBacklog (r : EventRec) (s : State) : State :=
  let full := decide (256 ≤ s.events.backlog.length)
  let s1 := if full then countLost (match s.events.backlog with
    | b :: _ => b.time
    | [] => r.time) s else s
  s1.onEvents (fun e => { e with backlog := (if full then e.backlog.drop 1 else e.backlog) ++ [r] })

/-- A record at the collector: to the ring, or while no ring is applied to the Warden's backlog; with the Warden's
copy (R480, R481). -/
def collect (r : EventRec) (s : State) : State :=
  wardenCopy r (if s.events.en then ringWrite r s else if r.warden then toBacklog r s else s)

/-- Two records have the same producer (R22). -/
def sameProducer (a b : EventRec) : Bool :=
  (a.warden && b.warden) || (!a.warden && !b.warden && a.unit == b.unit)

/-- EVENT_COLLECTOR_WRITE (R480): the record at place k of those on their way reaches the collector; records of one
producer keep their order (R22). -/
def execEventCollectorWrite (k : Nat) (s : State) : Host.Outcome State Fault Refusal :=
  match s.events.transit[k]? with
  | none => .next s
  | some r => occurs (!(s.events.transit.take k).any (sameProducer r))
      (fun s => collect r (s.onEvents (fun e => { e with transit := e.transit.eraseIdx k }))) s

/-! ### Registers (R478, R479) -/

/-- The host reaches the registers over a trained link, with the function in D0; in D3hot it answers no memory request
(R346; PRESUMED, log entry 78). -/
def hostAccess (s : State) : Bool := s.host.linkUp && s.host.hostPower == .d0

/-- Records sorted by TIME, stable. -/
def insertByTime (r : EventRec) : List EventRec → List EventRec
  | [] => [r]
  | x :: l => if x.time ≤ r.time then x :: insertByTime r l else r :: x :: l

def sortByTime (l : List EventRec) : List EventRec := l.foldl (fun acc r => insertByTime r acc) []

/-- The conditions on an enable of the ring (R479). -/
def etEnableOk (s : State) (v : Nat) : Bool :=
  let log := bitsOf v 36 32
  let b := s.events.base.toNat
  decide (8 ≤ log) && decide (log ≤ 20) && bitsOf v 63 37 == 0 && bitsOf v 15 14 == 0 && bitsOf v 7 1 == 0 &&
    bitsOf b 63 48 == 0 && bitsOf b 11 0 == 0 && s.tiers.placed && s.power.rails &&
    decide (b + 2 ^ log * 32 ≤ hostSpace s)

/-- Write the backlog, in TIME order, to the ring just applied (R481). -/
def deliverBacklog (s : State) : State :=
  forEach (sortByTime s.events.backlog) ringWrite (s.onEvents (fun e => { e with backlog := [] }))

/-- ET_CFG as it stands with ITIME, ICOUNT and EN of a new value (R479). -/
def etPartial (old v : Nat) (en : Bool) : Word :=
  BitVec.ofNat 64 (old / 2 ^ 32 * 2 ^ 32 + bitsOf v 31 16 * 2 ^ 16 + bitsOf old 15 1 * 2 + bit en)

/-- ET_CFG_WRITE (R479). -/
def execEtCfgWrite (v : Word) (s : State) : Host.Outcome State Fault Refusal :=
  occurs (hostAccess s) (fun s =>
    let n := v.toNat
    let en := bitOf n 0
    if s.events.en then s.onEvents (fun e => { e with cfg := etPartial e.cfg.toNat n en, en := en })
    else if !en then s.onEvents (fun e => { e with cfg := v })
    else if etEnableOk s n then
      deliverBacklog (s.onEvents (fun e => { e with
        cfg := v, en := true, cfgErr := false, tail := 0, head := 0,
        unsignalled := 0, firstUnsignalled := none }))
    else s.onEvents (fun e => { e with cfg := BitVec.ofNat 64 (n - 1), cfgErr := true })) s

/-- The overflow record of R480, written before any other; while EN is clear nothing is written (R479). -/
def overflowRecord (s : State) : State :=
  let r : EventRec := { time := s.now, det := 0x542, unit := 0, sev := 2, code := 0, alert := alertsOf s.events 0x542,
                        lostRec := true, warden := false, inj := false,
                        detail := leBytes 8 s.events.lostSince ++ leBytes 8 s.events.firstLost }
  let s1 := (countDet 0x542 s).onEvents (fun e => { e with
    full := false, lostSince := 0, firstLost := 0, lastPost := put e.lastPost 0x542 s.now })
  wardenCopy r (if s1.events.en then ringWrite r s1 else s1)

/-- ET_HEAD_WRITE (R480): a write that would pass ET_TAIL is ignored; one that frees space clears FULL. The register is
written with EN clear too (R478). -/
def execEtHeadWrite (v : Word) (s : State) : Host.Outcome State Fault Refusal :=
  let i := bitsOf v.toNat 19 0
  let n := etSize s.events
  occurs (hostAccess s && decide (i < n) &&
      decide ((i + n - s.events.head) % n ≤ (s.events.tail + n - s.events.head) % n)) (fun s =>
    let moved := i != s.events.head
    let s1 := s.onEvents (fun e => { e with head := i })
    if s.events.full && moved then overflowRecord s1 else s1) s

/-! ### Injection (R485) -/

/-- The record of an injected occurrence, and OD 60.004 (R485). -/
def injectRecord (det seq : Nat) (s : State) : State :=
  let r : EventRec := { time := s.now, det := det, unit := 0, sev := severity det, code := 0,
                        alert := alertsOf s.events det, lostRec := false, warden := true, inj := true,
                        detail := padTo 16 (leBytes 4 seq) }
  s.onEvents (fun e => { e with
    transit := e.transit ++ [r], injCounts := put e.injCounts det (satAdd 32 (look e.injCounts det 0) 1),
    lastPost := put e.lastPost det s.now })

/-- Whether a point fires on its next tick (R485). -/
def pointFires (p : InjPoint) : Bool :=
  match p.mode with
  | 1 => true
  | 2 => decide (0 < p.n) && (p.ticks + 1) % p.n == 0
  | 3 => true
  | _ => false

/-- One tick of an active point: the occurrence, if it fires, and the point afterwards (R485). -/
def injectionTick (det : Nat) (p : InjPoint) (s : State) : State :=
  let fires := pointFires p
  let seq := if fires then p.seq + 1 else p.seq
  let pts := if p.mode = 1 then unput s.events.points det
    else put s.events.points det { p with ticks := p.ticks + 1, seq := seq }
  let s1 := s.onEvents (fun e => { e with points := pts })
  if fires then injectRecord det seq s1 else s1

end Sys2Proof.Machine
end

