-- ==== Sys2Proof/Machine/Host.lean ====
section
/-! DEFINITION. The host interface (R346 to R360): queue registers, rings, completion entries and interrupts, the
taking of entries, COPY and FENCE_QUEUE, and the near-tier window. -/

namespace Sys2Proof.Machine

/-! ### Queues -/

/-- Queue `q`. -/
def State.queue (s : State) (q : Nat) : Queue := nth s.host.queues q Queue.reset

/-- Change a queue. -/
def State.onQueue (q : Nat) (f : Queue → Queue) (s : State) : State :=
  s.onHost (fun h => { h with queues := modAt h.queues q f })

/-- Bytes of a queue's rings in BAR0 (R348). -/
def sqBase (q : Nat) : Nat := 0x100000 + q * 0x40000
def cqBase (q : Nat) : Nat := 0x500000 + q * 0x40000

/-- What a completion entry holds beyond what the queue gives it (R356). -/
structure Cpl where
  status : Nat := 0
  reason : Nat := 0
  recipe : Nat := 0
  gen : Nat := 0
  step : Nat := 0
  task : Nat := 0
  unit : Nat := 0
  tstatus : Nat := 0
  ufault : Nat := 0
  nfurther : Nat := 0
  result : Nat := 0
  value : Nat := 0
  updated : Bool := false
  snapshot : Bool := false
  deriving DecidableEq, Repr

/-- The 64 bytes of a completion entry; SQHEAD and the phase are set when it is written (R356). -/
def cplBytes (c : HostCmd) (f : Cpl) (time : Nat) : List Byte :=
  leBytes 2 c.cid ++ leBytes 1 c.q ++ leBytes 1 f.status ++ leBytes 2 f.reason ++ zeros 2 ++ leBytes 4 f.recipe ++
    leBytes 1 c.opc ++ leBytes 1 (2 * bit f.updated + 4 * bit f.snapshot) ++ zeros 2 ++ leBytes 8 f.gen ++
    leBytes 8 f.step ++ leBytes 4 f.task ++ leBytes 4 (f.unit % 2 ^ 20) ++ leBytes 1 f.tstatus ++ leBytes 1 f.ufault ++
    leBytes 2 f.nfurther ++ leBytes 1 f.result ++ zeros 3 ++ leBytes 8 f.value ++ leBytes 8 time

/-- The completion ring is full (R357). -/
def cqIsFull (q : Queue) : Bool := (q.cqTail + 1) % q.size == q.cqHead

/-- Write an entry to the completion ring, with SQHEAD and the phase, and count it towards an interrupt; the ring may
be full with it (R356, R357). -/
def cqWrite (q : Nat) (e : List Byte) (s : State) : State :=
  let x := s.queue q
  let e1 := splice (splice e 6 (leBytes 2 x.sqHead)) 13
    [BitVec.ofNat 8 ((leAt e 13 1) / 2 * 2 + bit x.phase)]
  let t := (x.cqTail + 1) % x.size
  let n := x.unsignalled + 1
  let sig := decide (max 1 x.icount ≤ n)
  let s1 := s.onHost (fun h => { h with bar0 := memWrite h.bar0 (cqBase q + 64 * x.cqTail) e1 })
  let s2 := s1.onQueue q (fun x => { x with
    cqTail := t, phase := if t = 0 then !x.phase else x.phase,
    unsignalled := if sig then 0 else n,
    firstUnsignalled := if sig then none else some (x.firstUnsignalled.getD s.now),
    fullSince := if cqIsFull { x with cqTail := t } then some s.now else none })
  if sig then raiseMsix x.vector s2 else s2

/-- Post a completion entry: written, or held while the ring is full (R357). -/
def cqPost (q : Nat) (e : List Byte) (s : State) : State :=
  let x := s.queue q
  if ¬ x.held.isEmpty ∨ cqIsFull x then
    s.onQueue q (fun x => { x with held := x.held ++ [e], cqFull := true })
  else cqWrite q e s

/-- A fence is met: its target queue holds no command taken before it (R360). -/
def fenceMet (s : State) (c : HostCmd) : Bool :=
  !s.host.cmds.any (fun d => d.q == leAt c.entry 8 1 && decide (d.order < c.order))

/-- Remove a command that completes and post its entry. -/
def finishOne (c : HostCmd) (f : Cpl) (s : State) : State :=
  cqPost c.q (cplBytes c f s.now) (s.onHost (fun h => { h with cmds := h.cmds.filter (fun d => d.order != c.order) }))

/-- Complete every fence that is met, as long as there is one. -/
def fencesCheck : Nat → State → State
  | 0, s => s
  | n + 1, s =>
    match s.host.cmds.find? (fun c => c.opc == 8 && c.begun && fenceMet s c) with
    | some c => fencesCheck n (finishOne c { status := 0 } s)
    | none => s

/-- A command completes (R355, R356), and the fences it was holding with it. -/
def finish (c : HostCmd) (f : Cpl) (s : State) : State :=
  let s1 := finishOne c f s
  fencesCheck s1.host.cmds.length s1

/-- A refusal: REASON, and the generation of the decision (R356). -/
def refuse (c : HostCmd) (reason : Nat) (s : State) : State :=
  finish c { status := 1, reason := reason, recipe := c.recipe, gen := s.gate.gen } s

/-! ### Taking entries (R354, R355) -/

/-- A queue holds a submitted entry. -/
def hasEntry (x : Queue) : Bool := x.en && x.sqHead != x.sqTail

/-- The queue whose entry is taken next: round-robin from the queue whose turn it is (R355). -/
def nextQueue (s : State) : Option Nat :=
  if s.host.rdy then
    ((List.range 16).map (fun i => (s.host.turn + i) % 16)).find? (fun q => hasEntry (s.queue q))
  else none

/-- The 64 bytes of a queue's next entry. -/
def entryAt (s : State) (q : Nat) : List Byte := memRead s.host.bar0 (sqBase q + 64 * (s.queue q).sqHead) 64

/-- FLAGS bits and operand bytes that a command uses, and whether it names a recipe (R354, R358). -/
def opFlags : Nat → Nat
  | 2 => 1
  | _ => 0

def opBytes : Nat → List (Nat × Nat)
  | 1 => [(8, 8)]
  | 2 => [(8, 8), (16, 8)]
  | 4 => [(8, 8), (16, 8), (24, 8), (32, 1), (33, 1)]
  | 6 => [(8, 8)]
  | 7 => [(8, 8)]
  | 8 => [(8, 1), (9, 1)]
  | _ => []

/-- RECIPE is zero where the command names none; a COPY names one for space 2 (R354, R358). -/
def recipeFieldOk (e : List Byte) : Bool :=
  let rh := leAt e 4 4
  match leAt e 0 1 with
  | 2 => true
  | 3 => true
  | 5 => true
  | 6 => true
  | 4 => rh == 0 || leAt e 32 1 == 2 || leAt e 33 1 == 2
  | _ => rh == 0

/-- A well-formed entry: a known OPC, and every reserved bit zero; a QUERY_CAPACITY block that is not 64-byte aligned
and a FENCE_QUEUE queue or mode out of range are INVALID too (R354, R358; log entry 11). -/
def entryValid (e : List Byte) : Bool :=
  let opc := leAt e 0 1
  decide (1 ≤ opc) && decide (opc ≤ 8) && decide (leAt e 1 1 ≤ opFlags opc) && recipeFieldOk e &&
    allZero ((opBytes opc).foldl (fun l p => splice l p.1 (zeros p.2)) e |>.drop 8) &&
    (opc != 7 || leAt e 8 8 % 64 == 0) && (opc != 8 || (decide (leAt e 8 1 < 16) && decide (leAt e 9 1 < 2)))

/-- The operation code of the next entry, 0 for one that is not valid (R354). -/
def nextOpc (s : State) : Option Nat :=
  (nextQueue s).map (fun q => if entryValid (entryAt s q) then leAt (entryAt s q) 0 1 else 0)

/-- Take the next entry of a queue: the command, begun or held, and the state with the queue advanced (R355). -/
def takeEntry (q : Nat) (begun : Bool) (s : State) : HostCmd × State :=
  let e := entryAt s q
  let c : HostCmd := { q := q, cid := leAt e 2 2, opc := leAt e 0 1, recipe := leAt e 4 4, order := s.host.nextOrder,
                       begun := begun, entry := e }
  let s1 := s.onQueue q (fun x => { x with sqHead := (x.sqHead + 1) % x.size })
  (c, s1.onHost (fun h => { h with cmds := h.cmds ++ [c], nextOrder := h.nextOrder + 1, turn := (q + 1) % 16 }))

/-- A queue command comes about when the next entry carries its operation code: the entry is taken and the command
begins (R355). -/
def onEntry (opc : Nat) (f : HostCmd → State → State) (s : State) : Host.Outcome State Fault Refusal :=
  match nextQueue s with
  | none => .next s
  | some q =>
    if nextOpc s = some opc then
      let p := takeEntry q true s
      .next (f p.1 p.2)
    else .next s

/-- INVALID_SUBMISSION_ENTRY (R354): completes INVALID with no other effect. -/
def execInvalidSubmissionEntry (s : State) : Host.Outcome State Fault Refusal :=
  onEntry 0 (fun c s => finish c { status := 5, recipe := c.recipe } s) s

/-! ### Queue registers (R349, R352, R353) -/

/-- SUBMISSION_DOORBELL (R352): a write of SQ_TAIL submits entries, and while RDY is clear is dropped and counted. -/
def execSubmissionDoorbell (q tail : Nat) (s : State) : Host.Outcome State Fault Refusal :=
  occurs (hostAccess s && decide (q < 16)) (fun s =>
    if !s.host.rdy then s.onHost (fun h => { h with droppedDb := satAdd 64 h.droppedDb 1 })
    else if (s.queue q).en && decide (tail < (s.queue q).size) then
      s.onQueue q (fun x => { x with sqTail := tail })
    else s) s

/-- Write held entries while the ring has space (R357). -/
def drainHeld : Nat → Nat → State → State
  | 0, _, s => s
  | n + 1, q, s =>
    match (s.queue q).held with
    | [] => s.onQueue q (fun x => { x with cqFull := false })
    | e :: es =>
      if cqIsFull (s.queue q) then s
      else drainHeld n q (cqWrite q e (s.onQueue q (fun x => { x with held := es })))

/-- The host consumes entries: the ring has space (R357). -/
def consume (index : Nat) (x : Queue) : Queue :=
  if index = x.cqHead then x else { x with cqHead := index, fullSince := none, stallPosted := false }

/-- CQ_HEAD_WRITE (R357): completion entries are consumed and held entries written. -/
def execCqHeadWrite (q index : Nat) (s : State) : Host.Outcome State Fault Refusal :=
  let x := s.queue q
  occurs (hostAccess s && decide (q < 16) && x.en && decide (index < x.size) &&
      decide ((index + x.size - x.cqHead) % x.size ≤ (x.cqTail + x.size - x.cqHead) % x.size)) (fun s =>
    drainHeld (x.held.length + 1) q (s.onQueue q (consume index))) s

/-- A ring size of R352: a power of two from 16 to 4,096. -/
def ringSizeOk (n : Nat) : Bool := n ∈ [16, 32, 64, 128, 256, 512, 1024, 2048, 4096]

/-- The fields of a QCFG value. -/
def qcfgApply (v : Nat) (x : Queue) : Queue :=
  { x with drain := bitsOf v 63 48, itime := bitsOf v 47 40, icount := bitsOf v 39 32, vector := bitsOf v 21 16,
           size := bitsOf v 13 1 }

/-- QCFG_WRITE (R353): the fields are taken by a write that does not set EN, and by an enable that is accepted; a refused
enable sets CFGERR only. The bytes of the rings stay as they are. -/
def execQcfgWrite (q : Nat) (v : Word) (s : State) : Host.Outcome State Fault Refusal :=
  let n := v.toNat
  let x := s.queue q
  let busy := s.host.cmds.any (fun c => c.q == q) || x.sqHead != x.sqTail || !x.held.isEmpty || x.cqHead != x.cqTail
  occurs (hostAccess s && decide (q < 16)) (fun s =>
    if x.en then
      if bitOf n 0 || busy then s else s.onQueue q (fun x => { x with en := false })
    else if !bitOf n 0 then s.onQueue q (qcfgApply n)
    else if bitsOf n 63 48 != 0 && ringSizeOk (bitsOf n 13 1) && bitsOf n 31 22 == 0 && bitsOf n 15 14 == 0 then
      s.onQueue q (fun x => { qcfgApply n x with
        en := true, cfgErr := false, sqHead := 0, sqTail := 0, cqHead := 0, cqTail := 0, phase := true,
        unsignalled := 0, firstUnsignalled := none, cqFull := false, fullSince := none, stallPosted := false })
    else s.onQueue q (fun x => { x with cfgErr := true })) s

/-- COMPLETION_RING_STALL (R357): the ring has been full beyond DRAIN. -/
def execCompletionRingStall (q : Nat) (s : State) : Host.Outcome State Fault Refusal :=
  let x := s.queue q
  occurs (match x.fullSince with
    | some t => decide (t + x.drain * 100000 < s.now) && !x.stallPosted
    | none => false) (fun s =>
    post 0x541 (unitId 0xB 0 0) 0 [] (s.onQueue q (fun x => { x with stallPosted := true }))) s

/-- INTERRUPT_DELAY_EXPIRY (R357, R480): ITIME µs after the first unsignalled entry. -/
def execInterruptDelayExpiry (ring : RingId) (s : State) : Host.Outcome State Fault Refusal :=
  match ring with
  | .completion q =>
    let x := s.queue q
    occurs (match x.firstUnsignalled with
      | some t => x.itime != 0 && decide (t + x.itime * 1000 ≤ s.now)
      | none => false) (fun s =>
      raiseMsix x.vector (s.onQueue q (fun x => { x with unsignalled := 0, firstUnsignalled := none }))) s
  | .eventTray =>
    occurs (s.events.en && match s.events.firstUnsignalled with
      | some t => etItime s.events != 0 && decide (t + etItime s.events * 1000 ≤ s.now)
      | none => false) (fun s =>
      raiseMsix (etVector s.events) (s.onEvents (fun e => { e with unsignalled := 0, firstUnsignalled := none }))) s

/-! ### The near-tier window (R350) -/

/-- Bytes of BAR2. -/
def bar2Bytes : Nat := 64 * GiB

/-- BAR2_BASE_WRITE (R350): ignored where the window would reach beyond host space. -/
def execBar2BaseWrite (v : Word) (s : State) : Host.Outcome State Fault Refusal :=
  let b := v.toNat / 2 ^ 30 * 2 ^ 30
  occurs (hostAccess s && decide (b + bar2Bytes ≤ hostSpace s))
    (fun s => s.onHost (fun h => { h with bar2Base := BitVec.ofNat 64 b })) s

/-- A BAR2 access beyond host space: counted by 0x421, posted once per second (R350, R368). -/
def beyondHost (s : State) : State :=
  let sec := s.now / 10 ^ 9
  if s.host.beyondSecond = some sec then countDet 0x421 s
  else post 0x421 (unitId 0xB 0 0) 0 [] (s.onHost (fun h => { h with beyondSecond := some sec }))

/-- BAR2_ACCESS (R350): all-ones bytes and dropped writes beyond host space, EP for a poisoned granule. -/
def execBar2Access (off : Nat) (op : Bar2Op) (s : State) : Host.Outcome State Fault Refusal :=
  let a := s.host.bar2Base.toNat + off
  let lim := hostSpace s
  match op with
  | .read n =>
    occurs (hostAccess s && decide (off + n ≤ bar2Bytes)) (fun s =>
      let inside := min n (lim - a)
      let data := memRead s.near a inside ++ List.replicate (n - inside) 0xFF#8
      let s1 := s.onHost (fun h => { h with readData := data, readEp := poisoned s (.near a) inside })
      if inside < n then beyondHost s1 else s1) s
  | .write bs =>
    occurs (hostAccess s && decide (off + bs.length ≤ bar2Bytes)) (fun s =>
      let inside := min bs.length (lim - a)
      let s1 := (piecesOf a inside).foldl (fun s q => locWrite (.near q.1) (slice bs (q.1 - a) q.2) s) s
      if inside < bs.length then beyondHost s1 else s1) s

/-! ### COPY (R358, R359) -/

/-- The region of a device address: 0 curd store, 1 scratch, 2 near window, 3 cave window, none elsewhere. -/
def regionOf (a : Nat) : Option Nat :=
  if a < scratchBase then some 0
  else if a < scratchEnd then some 1
  else if nearBase ≤ a ∧ a < nearEnd then some 2
  else if caveBase ≤ a ∧ a < caveEnd then some 3
  else none

/-- Whether a range of a space may be an end of a COPY (R359). -/
def copyRangeOk (s : State) (space a n : Nat) (dest : Bool) : Bool :=
  match space with
  | 0 => decide (a + n ≤ 2 ^ 64)
  | 1 =>
    match regionOf a with
    | some 0 => regionOf (a + n - 1) == some 0 &&
        (List.range 8).all (fun w => decide (a + n ≤ w * GiB) || decide ((w + 1) * GiB ≤ a) ||
          decide (min (a + n) ((w + 1) * GiB) - w * GiB ≤ curdUsable s w))
    | some 2 => regionOf (a + n - 1) == some 2 && decide (a - nearBase + n ≤ hostSpace s)
    | some 3 => regionOf (a + n - 1) == some 3 && !dest && decide (a - caveBase + n ≤ s.gate.view.caveCapacity)
    | _ => false
  | 2 =>
    match regionOf a with
    | some 2 => regionOf (a + n - 1) == some 2
    | some 3 => regionOf (a + n - 1) == some 3 && !(dest && caveReadOnly s)
    | _ => false
  | _ => false

/-- The place of one byte range of a COPY end on the device, or its UFAULT. In a maintenance state a COPY may write the
cave through any recipe (R150). -/
def copyPlace (s : State) (r : Option Recipe) (space a : Nat) (write : Bool) : Except Nat Loc :=
  match space with
  | 1 =>
    if a < scratchBase then .ok (.curd a)
    else if a < nearEnd then .ok (.near (a - nearBase))
    else .ok (.cave (a - caveBase))
  | _ =>
    match r with
    | some r => translate s { r with maint := true } a write
    | none => .error 1

/-- Read a piece of a COPY's source, or its UFAULT (R359). -/
def copyRead (s : State) (r : Option Recipe) (space a n : Nat) : Except Nat (List Byte) :=
  match space with
  | 0 => .ok (memRead s.hostMem a n)
  | _ =>
    match copyPlace s r space a false with
    | .error e => .error e
    | .ok l => if poisoned s l n then .error 0xFE else .ok (locRead s l n)

/-- Write a piece of a COPY's destination, or its UFAULT (R359). -/
def copyWrite (r : Option Recipe) (space a : Nat) (bs : List Byte) (s : State) : Except Nat State :=
  match space with
  | 0 => .ok { s with hostMem := memWrite s.hostMem a bs }
  | _ =>
    match copyPlace s r space a true with
    | .error e => .error e
    | .ok (.cave p) => .ok (match r with
      | some r => caveCopyWrite r.handle p bs s
      | none => locWrite (.cave p) bs s)
    | .ok l => .ok (locWrite l bs s)

/-- Pieces of a COPY that cross no 4 KiB boundary at either end: offset and length. -/
def copyPieces : Nat → Nat → Nat → Nat → Nat → List (Nat × Nat)
  | 0, _, _, _, _ => []
  | fuel + 1, src, dst, off, n =>
    if n = 0 then []
    else
      let k := min n (min (4096 - (src + off) % 4096) (4096 - (dst + off) % 4096))
      (off, k) :: copyPieces fuel src dst (off + k) (n - k)

/-- Move the bytes of a COPY: the bytes written, and the UFAULT at the first error (R359). -/
def copyMove (r : Option Recipe) (ss src ds dst n : Nat) (busError : Option Nat) (s : State) :
    State × Nat × Option Nat :=
  (copyPieces (n / 2048 + 4) src dst 0 n).foldl (fun acc q =>
    match acc.2.2 with
    | some _ => acc
    | none =>
      match busError with
      | some b => if b < q.1 + q.2 ∧ (ss = 0 ∨ ds = 0) then (acc.1, acc.2.1, some 0xFF) else
        match copyRead acc.1 r ss (src + q.1) q.2 with
        | .error e => (acc.1, acc.2.1, some e)
        | .ok bs =>
          match copyWrite r ds (dst + q.1) bs acc.1 with
          | .error e => (acc.1, acc.2.1, some e)
          | .ok s1 => (s1, acc.2.1 + q.2, none)
      | none =>
        match copyRead acc.1 r ss (src + q.1) q.2 with
        | .error e => (acc.1, acc.2.1, some e)
        | .ok bs =>
          match copyWrite r ds (dst + q.1) bs acc.1 with
          | .error e => (acc.1, acc.2.1, some e)
          | .ok s1 => (s1, acc.2.1 + q.2, none)) (s, 0, none)

/-- A copy engine is free (R355). -/
def copyEngineFree (s : State) : Option Nat := s.host.copyEngines.findIdx? (fun t => decide (t ≤ s.now))

/-- Run a COPY on a free engine, which is busy for the typical time of R358; the command completes. -/
def runCopy (c : HostCmd) (busError : Option Nat) (s : State) : State :=
  let e := c.entry
  let src := leAt e 8 8
  let dst := leAt e 16 8
  let n := leAt e 24 8
  let ss := leAt e 32 1
  let ds := leAt e 33 1
  let r := if ss = 2 ∨ ds = 2 then s.recipe? c.recipe else none
  let p := copyMove r ss src ds dst n busError s
  let dur := p.2.1 / (if ss = 0 ∨ ds = 0 then 100 else 400)
  let s1 := match copyEngineFree s with
    | some i => p.1.onHost (fun h => { h with copyEngines := h.copyEngines.set i (s.now + dur) })
    | none => p.1
  match p.2.2 with
  | none => finish c { status := 0, recipe := c.recipe, value := p.2.1 } s1
  | some u => finish c { status := 3, recipe := c.recipe, ufault := u, value := p.2.1 } s1

/-- What refuses a COPY before any byte moves (R359, R364; a LEN out of range as a range, log entry 11). -/
def copyRefusal (s : State) (c : HostCmd) : Option Nat :=
  let e := c.entry
  let ss := leAt e 32 1
  let ds := leAt e 33 1
  let n := leAt e 24 8
  if 2 < ss ∨ 2 < ds then some 0x618
  else if (ss = 2 ∨ ds = 2) ∧ (s.recipe? c.recipe).isNone then some 0x614
  else if n = 0 ∨ 2 ^ 40 < n then some 0x618
  else if copyRangeOk s ss (leAt e 8 8) n false && copyRangeOk s ds (leAt e 16 8) n true then none
  else some 0x618

/-- A command waits: it has been taken and has not begun (R355). -/
def holdCmd (c : HostCmd) (s : State) : State :=
  let mark := fun (d : HostCmd) => { d with begun := false }
  s.onHost (fun h => { h with cmds := modFirst (fun d => d.order == c.order) mark h.cmds })

/-- A held command begins. -/
def beginCmd (c : HostCmd) (s : State) : State :=
  let mark := fun (d : HostCmd) => { d with begun := true }
  s.onHost (fun h => { h with cmds := modFirst (fun d => d.order == c.order) mark h.cmds })

/-- COPY (R358, R359): refused, run on one of the four engines, or queued behind them. -/
def execCopy (busError : Option Nat) (s : State) : Host.Outcome State Fault Refusal :=
  onEntry 4 (fun c s =>
    match copyRefusal s c with
    | some code => refuse c code s
    | none =>
      if (copyEngineFree s).isSome && !s.host.cmds.any (fun d => d.opc == 4 && !d.begun) then runCopy c busError s
      else holdCmd c s) s

/-- COPY_QUEUED_BEGIN (R355): the oldest waiting COPY begins when an engine frees. -/
def execCopyQueuedBegin (busError : Option Nat) (s : State) : Host.Outcome State Fault Refusal :=
  match s.host.cmds.find? (fun d => d.opc == 4 && !d.begun) with
  | none => .next s
  | some c => occurs (copyEngineFree s).isSome (fun s => runCopy c busError (beginCmd c s)) s

/-! ### FENCE_QUEUE (R360) -/

/-- A command that a fence flushes completes (R360). -/
def flushCmd (c : HostCmd) (s : State) : State := finishOne c { status := 4, recipe := c.recipe } s

/-- Flush the entries of a queue that are submitted and not taken. -/
def flushEntries : Nat → Nat → State → State
  | 0, _, s => s
  | n + 1, q, s =>
    if hasEntry (s.queue q) then
      let p := takeEntry q true s
      flushEntries n q (flushCmd p.1 { p.2 with host := { p.2.host with turn := s.host.turn } })
    else s

/-- FENCE_QUEUE (R360): mode 1 flushes what is not begun; both modes complete once every command taken before has. -/
def execFenceQueue (s : State) : Host.Outcome State Fault Refusal :=
  onEntry 8 (fun c s =>
    let t := leAt c.entry 8 1
    let s1 := if leAt c.entry 9 1 = 1 then
        let waiting := s.host.cmds.filter (fun d => d.q == t && !d.begun && t != c.q)
        let s2 := forEach waiting flushCmd s
        flushEntries (s2.queue t).size t s2
      else s
    fencesCheck s1.host.cmds.length s1) s

end Sys2Proof.Machine
end

