-- ==== Sys2Proof/Machine/Admission.lean ====
section
/-! DEFINITION. Admission of recipes (R361 to R363): the parsing of an image and the checks in the order of R363, and
ADMIT_RECIPE. -/

namespace Sys2Proof.Machine

/-! ### The image (R361, R362) -/

/-- A recipe image as admission reads it: its physical base and bytes. -/
structure Img where
  base : Nat
  bytes : List Byte
  deriving DecidableEq, Repr

def Img.u8 (i : Img) (o : Nat) : Nat := leAt i.bytes o 1
def Img.u16 (i : Img) (o : Nat) : Nat := leAt i.bytes o 2
def Img.u32 (i : Img) (o : Nat) : Nat := leAt i.bytes o 4
def Img.u64 (i : Img) (o : Nat) : Nat := leAt i.bytes o 8

/-- Header fields by their offsets (R361). -/
def Img.wheels (i : Img) : Nat := i.u8 6
def Img.len (i : Img) : Nat := i.u64 24
def Img.poolOff (i : Img) : Nat := i.u64 48
def Img.poolLen (i : Img) : Nat := i.u64 56
def Img.poolVa (i : Img) : Nat := i.u64 64
def Img.taskOff (i : Img) : Nat := i.u64 72
def Img.ntasks (i : Img) : Nat := i.u32 80
def Img.ntinit (i : Img) : Nat := i.u32 84
def Img.tinitOff (i : Img) : Nat := i.u64 88
def Img.resOff (i : Img) : Nat := i.u64 96
def Img.stashOff (i : Img) : Nat := i.u64 104
def Img.ftabOff (i : Img) : Nat := i.u64 112
def Img.nftab (i : Img) : Nat := i.u8 120
def Img.flipOff (i : Img) : Nat := i.u64 144
def Img.nflip (i : Img) : Nat := i.u32 152
def Img.ncapt (i : Img) : Nat := i.u32 156
def Img.jobOff (i : Img) : Nat := i.u64 160
def Img.captOff (i : Img) : Nat := i.u64 168
def Img.crecOff (i : Img) : Nat := i.u64 176
def Img.ncrec (i : Img) : Nat := i.u32 184

/-- Offset of a wheel's reservation record (R362). -/
def Img.resW (i : Img) (w : Nat) : Nat := i.resOff + 16 * w

/-- The owned near-tier extents (R362). -/
def Img.owned (i : Img) : List (Nat × Nat) :=
  (List.range (i.u32 (i.resOff + 136))).map (fun k =>
    (i.u64 (i.u64 (i.resOff + 128) + 16 * k), i.u64 (i.u64 (i.resOff + 128) + 16 * k + 8)))

/-- A block of `n` bytes at an offset lies within the image, at an alignment. -/
def Img.blockOk (i : Img) (off n align : Nat) : Bool := off % align == 0 && decide (off + n ≤ i.len)

/-- An optional block: absent with offset and count zero, or present. -/
def Img.optBlock (i : Img) (off count size align : Nat) : Bool :=
  if off = 0 then count == 0 else i.blockOk off (count * size) align

/-- Check 2 of R363 on the header, beyond where the image lies. -/
def Img.headerOk (i : Img) : Bool :=
  i.u32 0 == 0x50434552 && i.wheels != 0 && i.u8 7 == 0 && i.u32 12 == 0 && allZero (slice i.bytes 188 68) &&
    i.blockOk i.poolOff i.poolLen 128 && i.blockOk i.taskOff (64 * i.ntasks) 64 && i.ntasks != 0 &&
    decide (i.ntasks ≤ 2 ^ 24) && i.blockOk i.tinitOff (32 * i.ntinit) 32 && i.blockOk i.resOff 256 64 &&
    decide (i.stashOff + 64 ≤ i.len) && decide (i.nftab ≤ 16) &&
    (if i.nftab = 0 then i.ftabOff == 0 else decide (i.ftabOff + 16 * i.nftab ≤ i.len)) &&
    decide (i.u8 122 ≤ 64) && decide (i.u8 123 ≤ 16) && decide (i.u32 124 ≤ 600000) &&
    i.optBlock i.flipOff i.nflip 32 1 && (i.jobOff == 0 || decide (i.jobOff + 64 ≤ i.len)) &&
    i.optBlock i.captOff i.ncapt 64 1 && (i.captOff != 0 || i.u64 40 == 0) &&
    (if i.ncrec = 0 then i.crecOff == 0 else i.blockOk i.crecOff (8 * i.ncrec) 8) && decide (i.ncrec ≤ 65536)

/-- CRIT bits set in all. -/
def Img.crits (i : Img) : Nat :=
  ((List.range 8).map (fun w => bit (bitOf (i.u8 (i.resW w + 13)) 0) + bit (bitOf (i.u8 (i.resW w + 13)) 1))).sum

/-- Check 2 of R363 on the reservation block. -/
def Img.resOk (i : Img) : Bool :=
  let b := i.resOff
  let p := i.u32 (b + 156)
  (List.range 8).all (fun w =>
      if bitOf i.wheels w then decide (i.u8 (i.resW w + 12) ≤ 1) && decide (i.u8 (i.resW w + 13) ≤ 3) && i.u16 (i.resW w + 14) == 0
      else allZero (slice i.bytes (i.resW w) 16)) &&
    decide (i.crits ≤ 2) && i.u32 (b + 136) != 0 && decide (i.u32 (b + 136) ≤ 256) &&
    decide (i.u64 (b + 128) + 16 * i.u32 (b + 136) ≤ i.len) &&
    i.owned.all (fun e => e.1 % pageBytes == 0 && e.2 % pageBytes == 0) &&
    (p == 0 || (decide (4000 ≤ p) && decide (p ≤ 9000))) && allZero (slice i.bytes (b + 176) 80)

/-- Where the image lies: 4 KiB aligned and wholly in host space (R363 check 2). -/
def imagePlaced (s : State) (base : Nat) : Bool :=
  let len := memLe s.near (base + 24) 8
  base % 4096 == 0 && decide (base + 256 ≤ hostSpace s) && decide (256 ≤ len) && decide (len ≤ 2 ^ 36) &&
    decide (base + len ≤ hostSpace s)

/-- The image at an address. -/
def readImage (s : State) (base : Nat) : Img := { base := base, bytes := memRead s.near base (memLe s.near (base + 24) 8) }

/-- Check 4 of R363; a poisoned granule never reads as valid data (R135). -/
def imageGenuine (s : State) (i : Img) : Bool :=
  !poisoned s (.near i.base) i.len && crc32c (splice i.bytes 8 (zeros 4)) == i.u32 8 && i.u64 16 != 0

/-! ### The page table (R141 to R143) -/

/-- Physical address field of an entry. -/
def ptePa (e : Nat) : Nat := bitsOf e 55 12 * 4096

/-- A leaf entry at a size is well formed (R142). -/
def leafOk (e size : Nat) : Bool := bitsOf e 63 56 == 0 && bitsOf e 11 4 == 0 && ptePa e % size == 0

/-- The leaf that an entry maps. -/
def mkLeaf (cave : Bool) (base size e : Nat) : Leaf :=
  { cave := cave, base := base, size := size, pa := ptePa e, ra := bitOf e 3, w := bitOf e 2 }

/-- Walk a level-2 table (R141): its leaves, none where an entry breaks R142 or a granule of the table is poisoned and so
cannot be read as valid data (R135). -/
def walkL2 (s : State) (cave : Bool) (base table : Nat) : Option (List Leaf) :=
  if poisoned s (.near table) 4096 then none
  else (List.range 512).foldl (fun acc j => match acc with
    | none => none
    | some ls =>
      let e := memLe s.near (table + 8 * j) 8
      if ¬ bitOf e 0 then some ls
      else if bitOf e 1 ∧ leafOk e pageBytes then some (ls ++ [mkLeaf cave (base + j * pageBytes) pageBytes e])
      else none) (some [])

/-- Walk a level-1 table of `n` entries (R141), none where it is poisoned (R135). -/
def walkL1 (s : State) (cave : Bool) (table n : Nat) : Option (List Leaf) :=
  if poisoned s (.near table) (8 * n) then none
  else (List.range n).foldl (fun acc k => match acc with
    | none => none
    | some ls =>
      let e := memLe s.near (table + 8 * k) 8
      if ¬ bitOf e 0 then some ls
      else if bitOf e 1 then
        if leafOk e GiB then some (ls ++ [mkLeaf cave (k * GiB) GiB e]) else none
      else if bitsOf e 63 56 = 0 ∧ bitsOf e 11 4 = 0 ∧ ptePa e + 4096 ≤ hostSpace s then
        (walkL2 s cave (k * GiB) (ptePa e)).map (fun l => ls ++ l)
      else none) (some [])

/-- Walk the whole page table from its root block; a poisoned block is not read as valid data (R135). -/
def walkTable (s : State) (root : Nat) : Option (List Leaf) :=
  let n1 := memLe s.near root 8
  let nn := memLe s.near (root + 8) 4
  let cn := memLe s.near (root + 12) 4
  let c1 := memLe s.near (root + 16) 8
  if root % 64 = 0 ∧ root + 64 ≤ hostSpace s ∧ ¬ poisoned s (.near root) 64 ∧ nn ≤ 2048 ∧ cn ≤ 32768 ∧ n1 % 4096 = 0 ∧ c1 % 4096 = 0 ∧
      n1 + 8 * nn ≤ hostSpace s ∧ c1 + 8 * cn ≤ hostSpace s ∧ allZero (memRead s.near (root + 24) 40) then
    match walkL1 s false n1 nn, walkL1 s true c1 cn with
    | some a, some b => some (a ++ b)
    | _, _ => none
  else none

/-- A byte range lies in extents, page by page. -/
def within (ext : List (Nat × Nat)) (a n : Nat) : Bool :=
  n == 0 || (List.range ((a + n - 1) / pageBytes - a / pageBytes + 1)).all (fun k =>
    let p := max a ((a / pageBytes + k) * pageBytes)
    let q := min (a + n) ((a / pageBytes + k + 1) * pageBytes)
    ext.any (fun e => decide (e.1 ≤ p) && decide (q ≤ e.1 + e.2)))

/-- Two byte ranges overlap. -/
def rangesMeet (a n b m : Nat) : Bool := decide (a < b + m) && decide (b < a + n) && n != 0 && m != 0

/-- The leaf of a near-window address. -/
def nearLeaf (ls : List Leaf) (a : Nat) : Option Leaf :=
  if nearBase ≤ a ∧ a < nearEnd then
    ls.find? (fun l => !l.cave && decide (nearBase + l.base ≤ a) && decide (a < nearBase + l.base + l.size))
  else none

/-- The physical address of a near-window address, by the copied table alone. -/
def nearPa (ls : List Leaf) (a : Nat) : Option Nat := (nearLeaf ls a).map (fun l => l.pa + (a - nearBase - l.base))

/-- Every byte of a near-window range is mapped by leaves that satisfy a test. -/
def mapped (ls : List Leaf) (p : Leaf → Bool) (a n : Nat) : Bool :=
  n == 0 || (List.range ((a + n - 1) / pageBytes - a / pageBytes + 1)).all (fun k =>
    match nearLeaf ls (max a ((a / pageBytes + k) * pageBytes)) with
    | some l => p l
    | none => false)

/-- Mapped writable; writable leaves lie in the owned extents by check 5. -/
def mappedW (ls : List Leaf) (a n : Nat) : Bool := mapped ls (fun l => l.w) a n

/-- Every byte of a near-window range is mapped, to a byte of the owned extents. -/
def ownedRange (i : Img) (ls : List Leaf) (a n : Nat) : Bool :=
  n == 0 || (List.range ((a + n - 1) / pageBytes - a / pageBytes + 1)).all (fun k =>
    let p := max a ((a / pageBytes + k) * pageBytes)
    match nearPa ls p with
    | some pa => within i.owned pa (min (a + n) ((a / pageBytes + k + 1) * pageBytes) - p)
    | none => false)

/-- Read a near-window range through the copied table. -/
def mappedRead (s : State) (ls : List Leaf) (a n : Nat) : List Byte :=
  (((piecesOf a n).map (fun q => match nearPa ls q.1 with
    | some pa => memRead s.near pa q.2
    | none => zeros q.2))).flatten

/-- A mapped range touches a poisoned granule. -/
def mappedPoison (s : State) (ls : List Leaf) (a n : Nat) : Bool :=
  (piecesOf a n).any (fun q => match nearPa ls q.1 with
    | some pa => poisoned s (.near pa) q.2
    | none => false)

/-- The descriptor pool is mapped read-only at POOL_VA (R98). -/
def poolMapped (i : Img) (ls : List Leaf) : Bool :=
  mapped ls (fun l => !l.w) i.poolVa i.poolLen &&
    (piecesOf i.poolVa i.poolLen).all (fun q => nearPa ls q.1 == some (i.base + i.poolOff + (q.1 - i.poolVa)))

/-- Check 5 of R363: the copied table. -/
def pageCheck (s : State) (i : Img) : Option (List Leaf) :=
  match walkTable s (i.u64 32) with
  | none => none
  | some ls =>
    let late := i.u64 (i.resOff + 168)
    let leafFine := fun (l : Leaf) =>
      if l.cave then decide (l.pa + l.size ≤ s.gate.view.caveCapacity)
      else decide (l.pa + l.size ≤ hostSpace s) &&
        (if l.w then within i.owned l.pa l.size
         else !s.recipes.any (fun r => r.owned.any (fun e => rangesMeet l.pa l.size e.1 e.2)))
    let recs := (List.range i.ncrec).map (fun k => i.u64 (i.crecOff + 8 * k))
    if ls.all leafFine ∧ poolMapped i ls ∧ recs.all (fun a => a % 64 == 0 && mappedW ls a 64) ∧
        (late = 0 ∨ (late % 64 = 0 ∧ mappedW ls late 4096)) then some ls
    else none

/-! ### The task table (R171 to R173, R206, R207) -/

/-- A task record of an image. -/
def parseTask (i : Img) (t : Nat) : Task :=
  let b := i.taskOff + 64 * t
  let w0 := i.u64 b
  let w1 := i.u64 (b + 8)
  let w6 := i.u64 (b + 48)
  let w7 := i.u64 (b + 56)
  { cls := bitsOf w0 59 57, home := bitsOf w0 56 54, unit := bitsOf w0 53 47, layer := bitsOf w0 46 39,
    mb := bitsOf w0 38 31, spec := bitOf w0 30, alt := bitOf w0 29, vread := bitOf w0 28, credMask := bitsOf w0 20 17,
    waits := (List.range (min 4 (bitsOf w0 23 21))).map (fun k =>
      let w := i.u64 (b + 16 + 8 * k)
      { stride := bitsOf w 63 48, val := bitsOf w 47 16, handle := bitsOf w 15 0 }),
    outs := ([(bitsOf w6 31 16, bitsOf w6 15 0), (bitsOf w6 63 48, bitsOf w6 47 32)]).take (bitsOf w0 16 15),
    dcount := bitsOf w0 14 0, npages := bitsOf w1 63 52, descOff := bitsOf w1 31 0,
    gstride := bitsOf w7 63 48, gval := bitsOf w7 47 16, guard := bitsOf w7 15 0 }

/-- Reserved values and bits of a task record (R171 to R173). -/
def taskBitsOk (i : Img) (t : Nat) : Bool :=
  let b := i.taskOff + 64 * t
  let w0 := i.u64 b
  let w6 := i.u64 (b + 48)
  let nw := bitsOf w0 23 21
  let no := bitsOf w0 16 15
  let k := parseTask i t
  bitsOf w0 63 60 == 1 && decide (k.cls ≤ 3) && bitOf i.wheels k.home && bitsOf w0 27 24 == 0 && decide (nw ≤ 4) &&
    decide (k.credMask < 2 ^ nw) && decide (no ≤ 2) && bitsOf (i.u64 (b + 8)) 51 32 == 0 &&
    (List.range 4).all (fun j => decide (j < nw) || i.u64 (b + 16 + 8 * j) == 0) &&
    (decide (2 ≤ no) || bitsOf w6 63 32 == 0) && (decide (1 ≤ no) || bitsOf w6 31 0 == 0) &&
    !(k.spec && k.alt) && (k.spec || k.alt || i.u64 (b + 56) == 0) && !(k.spec && k.cls == 2) &&
    (k.spec || k.npages == 0) &&
    (match k.cls with
      | 1 => decide (k.unit ≤ 79) || k.unit == 127
      | 3 => decide (k.unit ≤ 7)
      | _ => k.unit == 0)

/-- A recipe as far as its image, its page table and its reservation give it, with no handle. -/
def draftRecipe (i : Img) (ls : List Leaf) : Recipe :=
  let b := i.resOff
  let shadow := (List.range (i.u32 (b + 140))).map (fun k => i.u64 (b + 144) + k * pageBytes)
  { handle := 0, wheels := i.wheels, stamp := i.u64 16, crc := i.u32 8, gen := 0, maint := false, leaves := ls, remap := [],
    pool := slice i.bytes i.poolOff i.poolLen, poolVa := i.poolVa, tasks := (List.range i.ntasks).map (parseTask i),
    tinit := [], tumblers := [], tumbCounts := (List.range 8).map (fun w => (i.u16 (i.resW w + 4) + 63) / 64 * 64),
    tumbBlocks := [], curd := (List.range 8).map (fun w => (i.u16 (i.resW w), i.u16 (i.resW w + 2))),
    taskSlots := (List.range 8).map (fun w => i.u16 (i.resW w + 6)),
    reqSlots := (List.range 8).map (fun w => i.u16 (i.resW w + 8)),
    cores := (List.range 8).map (fun w => i.u16 (i.resW w + 10)),
    vatMode := (List.range 8).map (fun w => i.u8 (i.resW w + 12)),
    crit := (List.range 8).map (fun w => i.u8 (i.resW w + 13)), owned := i.owned, powerW := i.u32 (b + 156),
    heCtx := (List.range 8).map (fun e => i.u8 (b + 160 + e)), lateWait := i.u64 (b + 168), shadowFree := shadow,
    shadowReturning := [], tables := [],
    stash := { pa := 0, npages := 0, headroom := 0, window := 0, windowPages := 0, restoreHandle := 0, status := 0,
               entries := [], freePages := [], returning := [], m := 0, f := 0, u := 0, peak := 0, rcWaits := 0,
               dropped := 0, mark := 0, step := 0 },
    flips := [], crecs := (List.range i.ncrec).map (fun k => i.u64 (i.crecOff + 8 * k)), capt := [], stepRec := 0,
    job := none, specShare := i.u8 121, discard := i.u8 122, wdogK := i.u8 123, patience := i.u32 124, cpt := i.u64 128,
    d := i.u32 136, h := i.u32 140,
    cave := { mib := i.u32 (b + 152), segments := [], trackers := [], misses := [], savedLeads := [], prevLeads := [], fillWaits := [], runAheadStops := 0,
              stallCount := 0, hitCount := 0, leadChanges := 0, clock := 0 },
    throttle := 16, winVerdicts := 0, winDiscards := 0, verdicts := [], shadowWaits := 0, lastOrdinal := none,
    firstOrdinal := 0, nextOrdinal := none, running := none, halted := none, bar := none, snapNow := false,
    restoring := none, durable := 0, completed := 0, rindPending := [], landings := [], layerStats := [] }

/-- The tumbler of an initialisation record (R168). -/
def parseTinit (bs : List Byte) : Tumbler :=
  let f := leAt bs 3 1
  { handle := leAt bs 0 2, value := leAt bs 8 8, kind := leAt bs 2 1, armed := bitOf f 2, target := leAt bs 16 8,
    action := bitsOf f 4 3, chain := leAt bs 24 2, cinc := leAt bs 26 2, reset := bitOf f 0, priv := bitOf f 1,
    owner := leAt bs 4 4 }

/-- The initialisation records of an image. -/
def tinitOf (i : Img) : List (List Byte) := (List.range i.ntinit).map (fun k => slice i.bytes (i.tinitOff + 32 * k) 32)

/-- One record of R168 on its own and against the others. -/
def tinitOk (r : Recipe) (all : List Tumbler) (bs : List Byte) : Bool :=
  let t := parseTinit bs
  let target := all.find? (fun x => x.handle == t.chain)
  decide (t.kind ≤ 2) && handleOk r t.handle && bitsOf (leAt bs 3 1) 7 5 == 0 && leAt bs 28 4 == 0 &&
    !((t.reset || t.priv) && t.kind != 0) && t.action != 3 && !(t.action == 2 && t.kind == 2) &&
    (t.owner == 0 || t.priv) && (t.target == 0 || t.armed) && (t.chain == 0 || t.action == 1) &&
    (t.cinc == 0 || t.action == 1) &&
    (t.action != 1 || (handleOk r t.chain && (match target with
      | some x => x.kind == 0 && !x.priv
      | none => true)))

/-- An add at admission with its cascade: the tumblers after it, none where it would be misuse (R168, R170). -/
def atOnceAdd : Nat → List Tumbler → Nat → Nat → Option (List Tumbler)
  | 0, _, _, _ => none
  | fuel + 1, ts, h, n =>
    let t := match ts.find? (fun x => x.handle == h) with
      | some t => t
      | none => Tumbler.plain h
    let v := t.value + n
    if 2 ^ 64 ≤ v ∨ t.kind ≠ 0 ∨ t.priv then none
    else
      let hit := t.armed && decide (t.target ≤ v)
      let ts1 := { t with value := v, armed := t.armed && !hit } :: ts.filter (fun x => x.handle != h)
      if hit ∧ t.action = 1 then atOnceAdd fuel ts1 t.chain t.cinc else some ts1

/-- The at-once actions of armed records are no misuse, in ascending handle order (R168). -/
def atOnceOk (all : List Tumbler) : Bool :=
  let hs := (all.map (fun t => t.handle)).foldl (fun l h => insertAsc h l) []
  (hs.foldl (fun acc h => match acc with
    | none => none
    | some ts =>
      match ts.find? (fun x => x.handle == h) with
      | some t =>
        if t.armed ∧ t.target ≤ t.value then
          let ts1 := modFirst (fun x => x.handle == h) (fun x => { x with armed := false }) ts
          if t.action = 1 then atOnceAdd 8 ts1 t.chain t.cinc else some ts1
        else some ts
      | none => some ts) (some all)).isSome

/-- Curd streams of a speculative vat descriptor that R173 refuses: outputs, stash and loads. -/
def specCurd (ws : List Nat) : Bool :=
  let idx := if opOf ws = 3 then [4, 5, 6, 7, 11, 12] else if opOf ws = 4 ∨ opOf ws = 5 then [4, 5, 6, 7] else []
  idx.any (fun i => usedMask ws i != 0 && decide (wd ws i % 2 ^ 48 < scratchBase))

/-- A launch record conforms to R206, its code window wholly mapped (R207). -/
def launchOk (ls : List Leaf) (l : List Nat) : Bool :=
  lVer l == 1 && decide (1 ≤ lNcores l) && decide (lNcores l ≤ 16) && bitsOf (wd l 0) 54 32 == 0 && lEntry l % 2 == 0 &&
    decide (lEntry l < lCodeLen l) && bitsOf (wd l 1) 63 48 == 0 && lCode l % 4096 == 0 && bitsOf (wd l 2) 63 32 == 0 &&
    decide (4 ≤ lCodeLen l) && decide (lCodeLen l ≤ 2 ^ 24) && bitsOf (wd l 3) 63 48 == 0 && bitsOf (wd l 5) 63 40 == 0 &&
    wd l 6 == 0 && wd l 7 == 0 && mapped ls (fun _ => true) (lCode l) (lCodeLen l)

/-- Size and alignment of a class's descriptors (R172). -/
def classSize (cls : Nat) : Nat := if cls = 1 then 64 else 128

/-- A task against the whole recipe (R173, R207). A DESC_OFF off the alignment of R172 is refused with the others (DESIGN
CHOICE, log entry 68: R172 asks for the alignment, and R173's list of refusals does not name it). -/
def taskOk (r : Recipe) (ls : List Leaf) (k : Task) : Bool :=
  let sz := classSize k.cls
  let pages := (List.range k.npages).map (fun j => leAt r.pool (k.descOff + k.dcount * sz + 8 * j) 8)
  k.waits.all (fun w => handleOk r w.handle) &&
    k.outs.all (fun o => handleOk r o.2 && (r.tumbler o.2).kind != 2 && ((r.tumbler o.2).kind != 1 || k.vread)) &&
    (!(k.spec || k.alt) || handleOk r k.guard) && k.descOff % sz == 0 &&
    decide (k.descOff + k.dcount * sz + 8 * k.npages ≤ r.pool.length) &&
    pages.all (fun a => a % pageBytes == 0 && mappedW ls a pageBytes) &&
    (k.cls != 0 || !k.spec || (List.range k.dcount).all (fun j => !specCurd (vatWords r k j))) &&
    (k.cls != 1 || (List.range k.dcount).all (fun j => launchOk ls (launchWords r k j)))

/-- The recipe with its tumbler records, or none where the task table, the records or the speculative share are
malformed: 0x060C (R168, R173, R180). -/
def taskCheck (i : Img) (r : Recipe) (ls : List Leaf) : Option Recipe :=
  let recs := tinitOf i
  let all := recs.map parseTinit
  let r1 := { r with tinit := all, tumblers := all }
  if recs.all (tinitOk r all) ∧ (all.map (fun t => t.handle)).Nodup ∧ atOnceOk all ∧
      (List.range i.ntasks).all (taskBitsOk i) ∧ r1.tasks.all (taskOk r1 ls) ∧ i.u8 121 ≤ 16 then some r1
  else none

/-! ### The stash plan (R229 to R231) -/

/-- A stash entry record (R230). -/
def parseStashEntry (bs : List Byte) : StashEntry :=
  let f := leAt bs 7 1
  { wpage := leAt bs 0 4, layer := leAt bs 4 2, mb := leAt bs 6 1, mandatory := bitOf f 0, checkpoint := bitOf f 1,
    sized := bitOf f 2, rcFirst := leAt bs 8 4, decision := leAt bs 12 2, sizeHandle := leAt bs 14 2,
    maxPages := leAt bs 16 4, rowBytes := leAt bs 20 4, release := leAt bs 24 2, rstride := leAt bs 26 2,
    rval := leAt bs 28 4, state := .planned, standsDemoted := false, pages := [], waiting := none, waitPosted := false }

/-- Windows of stash entries do not meet. -/
def windowsApart : List StashEntry → Bool
  | [] => true
  | e :: es => es.all (fun x => !rangesMeet e.wpage e.maxPages x.wpage x.maxPages) && windowsApart es

/-- The stash plan of an image, where it passes R231: 0x060E otherwise. -/
def stashCheck (i : Img) (r : Recipe) (ls : List Leaf) : Option Stash :=
  let b := i.stashOff
  let n := i.u16 (b + 28)
  let raw := (List.range n).map (fun k => slice i.bytes (b + 64 + 32 * k) 32)
  let es := raw.map parseStashEntry
  let pa := i.u64 b
  let np := i.u32 (b + 8)
  let win := i.u64 (b + 16)
  let wp := i.u32 (b + 24)
  let res := i.u16 (b + 30)
  let status := i.u64 (b + 32)
  let count := fun (h : Nat) => handleOk r h && (r.tumbler h).kind == 0
  if b % 64 = 0 ∧ b + 64 + 32 * n ≤ i.len ∧ 1 ≤ n ∧ n ≤ 4096 ∧ allZero (slice i.bytes (b + 40) 24) ∧
      pa % pageBytes = 0 ∧ within i.owned pa (np * pageBytes) ∧
      ¬ rangesMeet pa (np * pageBytes) (i.u64 (i.resOff + 144)) (i.u32 (i.resOff + 140) * pageBytes) ∧
      ls.all (fun l => l.cave || !rangesMeet l.pa l.size pa (np * pageBytes)) ∧
      win % pageBytes = 0 ∧ nearBase ≤ win ∧ win + wp * pageBytes ≤ nearEnd ∧
      ls.all (fun l => l.cave || !rangesMeet (nearBase + l.base) l.size win (wp * pageBytes)) ∧
      windowsApart es ∧ es.all (fun e => decide (1 ≤ e.maxPages) && decide (e.wpage + e.maxPages ≤ wp)) ∧
      raw.all (fun x => bitsOf (leAt x 7 1) 7 3 == 0) ∧
      (es.filter (fun e => e.mandatory)).length = 1 ∧ es.all (fun e => !e.mandatory || (e.checkpoint && !e.sized)) ∧
      count res ∧ ¬ (r.tumbler res).reset ∧
      es.all (fun e => handleOk r e.release && (!e.sized || handleOk r e.sizeHandle) &&
        (e.mandatory || !e.checkpoint ||
          (count e.decision && (r.tumbler e.decision).reset && (r.tumbler e.decision).value == 0))) ∧
      es.all (fun e => e.mandatory || decide (e.maxPages ≤ i.u32 (b + 12))) ∧
      status % 64 = 0 ∧ within i.owned status (64 + n) ∧ ¬ rangesMeet status (64 + n) pa (np * pageBytes) then
    some { pa := pa, npages := np, headroom := i.u32 (b + 12), window := win, windowPages := wp, restoreHandle := res,
           status := status, entries := es, freePages := (List.range np).map (fun k => pa + k * pageBytes),
           returning := [], m := 0, f := 0, u := 0, peak := 0, rcWaits := 0, dropped := 0, mark := 0, step := 0 }
  else none

/-- The stash has room for its mandatory entry and its headroom (R231). -/
def stashMinimum (t : Stash) : Bool :=
  match t.entries.find? (fun e => e.mandatory) with
  | some e => decide (e.maxPages + t.headroom ≤ t.npages)
  | none => false

/-! ### Function tables, flips, job and capture table -/

/-- FP32 bits of a finite number, and of ±0. -/
def finite32 (v : Nat) : Bool := bitsOf v 30 23 != 0xFF
def zero32 (v : Nat) : Bool := v % 2 ^ 31 == 0

/-- A table image conforms to R242. -/
def tableImageOk (bs : List Byte) : Bool :=
  let emin := i8 (leAt bs 2 1)
  let emax := i8 (leAt bs 3 1)
  let mb := leAt bs 4 1
  let modes := leAt bs 5 1
  let nb := (emax - emin + 1).toNat
  let last := nb * 2 ^ mb
  let neg := bitOf modes 4
  let co := fun (sg c : Nat) => leAt bs (64 + 16 * sg + 4 * c) 4
  leAt bs 0 1 == 1 && decide (leAt bs 1 1 ≤ 1) && decide (-126 ≤ emin) && decide (emin ≤ emax) && decide (mb ≤ 6) &&
    bitsOf modes 7 5 == 0 && leAt bs 6 2 == 0 && allZero (slice bs 24 40) && decide (last ≤ 126) &&
    !(neg && (bitOf modes 2 || bitOf modes 3)) && crc32c (slice bs 64 4096) == leAt bs 20 4 &&
    (List.range 256).all (fun sg =>
      let h := sg / 128
      let j := sg % 128
      if (neg && h == 1) || (decide (last < j) && decide (j ≤ 126)) then (List.range 4).all (fun c => zero32 (co sg c))
      else (List.range 4).all (fun c => finite32 (co sg c) || (c == 0 && segConstant modes j h)))

/-- The function-table list: logical slot, source and form; none is 0x060F (R241). -/
def tablesCheck (s : State) (i : Img) (ls : List Leaf) : Option (List (Nat × TableSrc × Nat)) :=
  let recs := (List.range i.nftab).map (fun k => slice i.bytes (i.ftabOff + 16 * k) 16)
  let one := fun (x : List Byte) =>
    let src := leAt x 1 1
    let id := leAt x 2 2
    let a := leAt x 8 8
    let bs := mappedRead s ls a 4160
    if 15 < leAt x 0 1 ∨ leAt x 4 4 ≠ 0 then none
    else if src = 0 then
      if 1 ≤ id ∧ id ≤ 14 then some (leAt x 0 1, romTable s id, bit (id % 2 == 0)) else none
    else if src = 1 ∧ a % 64 = 0 ∧ mapped ls (fun _ => true) a 4160 ∧ ¬ mappedPoison s ls a 4160 ∧ tableImageOk bs then
      some (leAt x 0 1, TableSrc.image bs, leAt bs 1 1)
    else none
  let ts := recs.filterMap one
  if ts.length = recs.length ∧ (ts.map (fun t => t.1)).Nodup then some ts else none

/-- The version-flip list; none is 0x0610 (R272). -/
def flipsCheck (i : Img) (ls : List Leaf) : Option (List (Nat × Nat × Nat)) :=
  if i.flipOff = 0 then some []
  else
    let recs := (List.range i.nflip).map (fun k => slice i.bytes (i.flipOff + 32 * k) 32)
    let fs := recs.map (fun x => (leAt x 0 8, leAt x 8 8, leAt x 16 4))
    let wins := (fs.map (fun f => [(f.1, f.2.2 * pageBytes), (f.2.1, f.2.2 * pageBytes)])).flatten
    let apart := (List.range wins.length).all (fun a => (List.range a).all (fun b =>
      !rangesMeet (nth wins a (0, 0)).1 (nth wins a (0, 0)).2 (nth wins b (0, 0)).1 (nth wins b (0, 0)).2))
    if 1 ≤ i.nflip ∧ i.nflip ≤ 1024 ∧ recs.all (fun x => leAt x 24 8 == 0) ∧
        fs.all (fun f => f.1 % pageBytes == 0 && f.2.1 % pageBytes == 0 && decide (1 ≤ f.2.2) && decide (f.2.2 ≤ 65535)) ∧
        wins.all (fun w => mapped ls (fun l => l.w && l.size == pageBytes) w.1 w.2) ∧ apart then some fs
    else none

/-- The job block; the refusal is 0x0611 (R301, R302). A recipe with hinge tasks names one. -/
def jobCheck (s : State) (i : Img) (r : Recipe) (ls : List Leaf) : Except Nat (Option Job) :=
  if i.jobOff = 0 then (if r.tasks.any (fun k => k.cls == 3) then .error 0x611 else .ok none)
  else
    let b := i.jobOff
    let n := i.u16 (b + 4)
    let rank := i.u16 (b + 6)
    let ma := i.u64 (b + 8)
    let bs := mappedRead s ls ma (2 * n)
    let ms := (List.range n).map (fun k => leAt bs (2 * k) 2)
    let j : Job := { tag := i.u32 b, n := n, rank := rank, members := ms, hops := i.u8 (b + 16), spanHe := i.u8 (b + 17),
                     tSw := 10 * i.u16 (b + 18), minLanes := i.u8 (b + 20) }
    if b % 64 = 0 ∧ 1 ≤ n ∧ n ≤ 4096 ∧ rank < n ∧ mapped ls (fun _ => true) ma (2 * n) ∧ ¬ mappedPoison s ls ma (2 * n) ∧ j.hops ≤ 15 ∧
        j.spanHe ≤ 7 ∧ 2 ≤ j.minLanes ∧ j.minLanes ≤ 16 ∧ allZero (slice i.bytes (b + 21) 43) ∧
        nth ms rank 0xFFFF = myId s ∧ ms.Nodup ∧
        ¬ s.recipes.any (fun x => match x.job with
          | some o => o.tag == j.tag
          | none => false) ∧
        ms.all (fun m => m == myId s || (bitOf (routeOf s m) 63 && decide (j.minLanes ≤ routeLanes s m))) ∧
        r.tasks.all (fun k => k.cls != 3 || !k.spec || (List.range k.dcount).all (fun x => opOf (vatWords r k x) == 4)) then
      .ok (some j)
    else .error 0x611

/-- A capture-table entry (R331). -/
def parseCapt (x : List Byte) : CaptEntry :=
  { tensor := leAt x 0 4, mode := leAt x 4 1, rows := leAt x 8 4, cols := leAt x 12 4, master := leAt x 16 8,
    m := leAt x 24 8, ms := leAt x 32 8, v := leAt x 40 8, vs := leAt x 48 8 }

/-- The capture table and step record; none is 0x0612 (R329, R331). -/
def captCheck (s : State) (i : Img) (r : Recipe) (ls : List Leaf) : Option (List CaptEntry) :=
  if i.captOff = 0 then some []
  else
    let raw := (List.range i.ncapt).map (fun k => slice i.bytes (i.captOff + 64 * k) 64)
    let cs := raw.map parseCapt
    let sr := i.u64 40
    if i.ncapt ≤ 2 ^ 20 ∧ raw.all (fun x => leAt x 5 3 == 0 && leAt x 56 8 == 0) ∧
        cs.all (fun c => decide (c.mode ≤ 1) && (c.mode == 0 || (c.ms == 0 && c.v == 0 && c.vs == 0)) &&
          decide (1 ≤ c.rows) && decide (1 ≤ c.cols) && decide (c.rows < 2 ^ 24) && decide (c.cols < 2 ^ 24) &&
          decide (c.rows * c.cols < 2 ^ 40) && (captBuffers c).all (fun b => b.1 % b.2.2 == 0 && ownedRange i ls b.1 b.2.1)) ∧
        (cs.map (fun c => c.tensor)).Nodup ∧ sr ≠ 0 ∧ sr % 64 = 0 ∧ sr + 64 ≤ hostSpace s ∧
        (¬ s.warden.stored.rindEnable ∨ imagesFit s (imageBytes cs (sumNat r.tumbCounts))) then some cs
    else none

/-- Check 6 of R363. -/
def listsCheck (s : State) (i : Img) (ls : List Leaf) : Except Nat Recipe :=
  match taskCheck i (draftRecipe i ls) ls with
  | none => .error 0x60C
  | some r =>
    match stashCheck i r ls with
    | none => .error 0x60E
    | some t =>
      match tablesCheck s i ls with
      | none => .error 0x60F
      | some fs =>
        match flipsCheck i ls with
        | none => .error 0x610
        | some fl =>
          match jobCheck s i r ls with
          | .error e => .error e
          | .ok j =>
            match captCheck s i r ls with
            | none => .error 0x612
            | some cs => .ok { r with stash := t, tables := fs, flips := fl, job := j, capt := cs,
                                      stepRec := if cs.isEmpty then 0 else i.u64 40 }

/-! ### The Gate's checks 7 to 11 -/

/-- Check 1 (R363). -/
def admitState (s : State) : Option Nat :=
  if ¬ s.serving then some 0x616 else if 64 ≤ s.recipes.length then some 0x615 else none

/-- A vat is fenced in the view, so that check 8 refuses what names it (R410). -/
def vatOut (s : State) (w : Nat) : Bool := nth s.gate.view.vatFence w .usable != .usable

/-- Hoops of a wheel that are not fenced. -/
def liveHoops (v : View) (w : Nat) : List Nat := (List.range 80).filter (fun h => hoopCoresOf v w h != 0)

/-- Check 7: shapes and cores; 0x0601 (R100, R207). A pane that is FENCING is offered no more (R410). A fenced vat or named
hoop is left to check 8 (R410). -/
def shapeCheck (s : State) (r : Recipe) : Bool :=
  let v := s.gate.view
  (List.range 8).all (fun w => vatOut s w || (vatDescsOf r w).all (fun ws =>
      decide (arrOf ws ≤ 4) && !paneRefused (nth v.shapes w (0, 0)) ws &&
        (match nth v.shrink w none with
          | some o => !paneRefused o ws
          | none => true))) &&
    (launches r).all (fun p =>
      if p.1.unit = 127 then
        !(liveHoops v p.1.home).isEmpty && (liveHoops v p.1.home).all (fun h => decide (lNcores p.2 ≤ hoopCoresOf v p.1.home h))
      else hoopCoresOf v p.1.home p.1.unit == 0 || decide (lNcores p.2 ≤ hoopCoresOf v p.1.home p.1.unit)) &&
    (List.range 8).all (fun w => decide (nth r.cores w 0 ≤ usableCores v w))

/-- Check 8: no named resource is FENCING or FENCED; 0x0608 (R19, R253, R410). -/
def fenceCheck (s : State) (r : Recipe) : Bool :=
  let v := s.gate.view
  (List.range 8).all (fun w => (!bitOf r.wheels w || nth v.wheels w .fenced == .usable) &&
      (!names s r (.vat w) || !vatOut s w)) &&
    (launches r).all (fun p => p.1.unit == 127 || hoopCoresOf v p.1.home p.1.unit != 0) &&
    (jobPorts s r).all (fun p => nth v.ports p .down != .fencing && nth v.ports p .down != .fenced) &&
    (!names s r .cave || v.cave == .usable) && (!names s r .updateEngines || v.updateEngines == .usable)

/-- Reserved tumblers, request slots, task slots and so on of the other recipes on a wheel. -/
def reservedOn (s : State) (f : Recipe → Nat) : Nat := (s.recipes.map f).sum

/-- Check 10: reservations in the order of R160, then function-table slots. -/
def reserveCheck (s : State) (r : Recipe) : Option Nat :=
  let curdBad := (List.range 8).any (fun w =>
    let e := nth r.curd w (0, 0)
    decide (nth s.gate.view.curdUsable w 0 < (e.1 + e.2) * 65536) ||
      s.recipes.any (fun x => rangesMeet e.1 e.2 (nth x.curd w (0, 0)).1 (nth x.curd w (0, 0)).2))
  let lim := hostSpaceView s
  let selfMeet := (List.range r.owned.length).any (fun a => (List.range a).any (fun b =>
    rangesMeet (nth r.owned a (0, 0)).1 (nth r.owned a (0, 0)).2 (nth r.owned b (0, 0)).1 (nth r.owned b (0, 0)).2))
  let nearBad := selfMeet || r.owned.any (fun e => decide (lim < e.1 + e.2) ||
    s.recipes.any (fun x => x.owned.any (fun f => rangesMeet e.1 e.2 f.1 f.2)))
  let shadowBad := r.shadowFree.any (fun p => p % pageBytes != 0 || !within r.owned p pageBytes)
  let caveBad := r.leaves.any (fun l => if l.cave then decide (s.gate.view.caveCapacity < l.pa + l.size)
    else decide (lim < l.pa + l.size))
  let share := sumNat (s.recipes.map (fun x => x.cave.mib))
  let hasCave := r.leaves.any (fun l => l.cave)
  let more := fun (f : Recipe → List Nat) (cap : Nat) =>
    (List.range 8).any (fun k => decide (cap < reservedOn s (fun x => nth (f x) k 0) + nth (f r) k 0))
  let tabs := (List.range 8).any (fun w => bitOf r.wheels w &&
    decide (16 < ((s.vat w).slots.length) + r.tables.length))
  if curdBad then some 0x604
  else if nearBad || shadowBad || caveBad then some 0x609
  else if (hasCave ∧ r.cave.mib = 0) ∨ s.tiers.caveRegion * 1024 < share + r.cave.mib then some 0x60A
  else if more (fun x => x.tumbCounts) 8192 then some 0x602
  else if more (fun x => x.reqSlots) 16384 || more (fun x => x.taskSlots) 4096 then some 0x603
  else if more (fun x => x.heCtx) 64 then some 0x60B
  else if tabs then some 0x60F
  else none

/-- Checks 7 to 11 of R363, against one generation. -/
def gateCheck (s : State) (r : Recipe) : Option Nat :=
  match admitState s with
  | some c => some c
  | none =>
    if s.gate.view.inletHot then some 0x61A
    else if ¬ shapeCheck s r then some 0x601
    else if ¬ fenceCheck s r then some 0x608
    else if s.gate.view.capCeiling < r.powerW then some 0x619
    else match reserveCheck s r with
      | some c => some c
      | none => if stashMinimum r.stash then none else some 0x607

/-! ### ADMIT_RECIPE -/

/-- The checks of R363 up to 6. -/
def imageCheck (s : State) (base : Nat) : Except Nat Recipe :=
  match admitState s with
  | some c => .error c
  | none =>
    let i := readImage s base
    if ¬ (imagePlaced s base && i.headerOk && i.resOk) then .error 0x613
    else if i.u16 4 ≠ 1 then .error 0x605
    else if ¬ imageGenuine s i then .error 0x606
    else match pageCheck s i with
      | none => .error 0x609
      | some ls => listsCheck s i ls

/-- Free physical tumbler blocks of a wheel (R164). -/
def freeBlocks (s : State) (w : Nat) : List Nat :=
  (List.range 128).filter (fun b => !s.recipes.any (fun r => r.tumbBlocks.any (fun t => t.1 == w && t.2.2 == b)))

/-- The block map of a recipe: the lowest free blocks of each wheel (DESIGN CHOICE, log entry 91: R164 lets any free block
be taken). -/
def mapBlocks (s : State) (r : Recipe) : List (Nat × Nat × Nat) :=
  ((List.range 8).map (fun w =>
    ((freeBlocks s w).take (nth r.tumbCounts w 0 / 64)).zipIdx.map (fun b => (w, b.2, b.1)))).flatten

/-- Take physical table slots in a vat: the lowest free ones (R241). -/
def takeSlots (h : Nat) (logical : List Nat) (v : Vat) : Vat :=
  let free := (List.range 16).filter (fun p => !v.slots.any (fun x => x.1 == p))
  { v with slots := v.slots ++ (free.zip logical).map (fun p => (p.1, h, p.2)) }

/-- The next handle: nonzero, and not used since the last device reset (R363). -/
def nextHandle (h : Nat) : Nat := if h + 1 = 2 ^ 32 then 1 else h + 1

/-- Check 12: the tables are loaded, the handle is assigned, and the tumblers are initialised (R363, R168). -/
def installRecipe (h : Nat) (r : Recipe) (s : State) : State :=
  let r1 := { r with handle := h, gen := s.gate.gen, maint := s.life.state == .maintenance, tumbBlocks := mapBlocks s r, tumblers := [] }
  let s1 := { s with recipes := s.recipes ++ [r1] }.onGate (fun g => { g with nextHandle := nextHandle h })
  let s2 := forEach ((List.range 8).filter (bitOf r.wheels)) (fun w s =>
    s.onVat w (takeSlots h (r.tables.map (fun t => t.1)))) s1
  let hs := (r.tinit.map (fun t => t.handle)).foldl (fun l x => insertAsc x l) []
  let s3 := s2.onRecipe h (fun x => { x with tumblers := r.tinit })
  forEach hs (fun x s => match r.tinit.find? (fun t => t.handle == x) with
    | some t => if t.armed && decide (t.target ≤ t.value) then tRestore h t (Issuer.restore none) s else s
    | none => s) s3

/-- Decide an admission: the updates older than the Gate's check are applied first (R18, R363). -/
def admitImage (c : HostCmd) (s : State) : State :=
  match imageCheck s (leAt c.entry 8 8) with
  | .error code => refuse c code s
  | .ok r =>
    let s1 := applyPending s
    match gateCheck s1 r with
    | some code => refuse c code s1
    | none =>
      let h := s1.gate.nextHandle
      finish c { status := 0, recipe := h, gen := s1.gate.gen } (installRecipe h r s1)

/-- Admissions wait: for MAINTENANCE to be entered (R424), or for the management plane to serve again, since every
admission is decided against a view that it keeps fresh (R17; DEDUCED, log entry 67). -/
def admitWaits (s : State) : Bool := s.life.maintenanceWaiting || !s.warden.up

/-- The oldest admission that has been taken and waits. -/
def heldAdmission (s : State) : Option HostCmd :=
  if admitWaits s then none else s.host.cmds.find? (fun c => c.opc == 1 && !c.begun)

/-- ADMIT_RECIPE (R355, R358, R363): one that waits is decided first; else the next entry is taken, and decided or made
to wait, so that the other queues are served meanwhile. -/
def execAdmitRecipe (s : State) : Host.Outcome State Fault Refusal :=
  match heldAdmission s with
  | some c => .next (admitImage c s)
  | none => onEntry 1 (fun c s => if admitWaits s then holdCmd c s else admitImage c s) s

end Sys2Proof.Machine
end

