-- ==== Sys2Proof/Machine/Defects.lean ====
section
/-! DEFINITION. The defect maps (R405, R407, R408): entries of the field map, suspects, and powered hours (R411). -/

namespace Sys2Proof.Machine

/-- OD 12.010: hours with the main rails on, saturating (R411, R460). -/
def poweredHours (s : State) : Nat :=
  min ((s.ageing.poweredNs + (if s.power.rails then s.now - s.power.railsSince else 0)) / (3600 * 10 ^ 9)) (2 ^ 32 - 1)

/-- An entry stands before another: ascending UNIT, then PART (R408). -/
def Defect.before (a b : Defect) : Bool := decide (a.unit < b.unit) || (a.unit == b.unit && decide (a.part < b.part))

/-- Insert an entry in the map's order. -/
def insertDefect (d : Defect) : List Defect → List Defect
  | [] => [d]
  | x :: l => if d.before x then d :: x :: l else x :: insertDefect d l

/-- The entry of a part in a map. -/
def entryOf (l : List Defect) (unit part : Nat) : Option Defect := l.find? (fun d => d.unit == unit && d.part == part)

/-- A part is fused bad. -/
def fusedBad (s : State) (unit part : Nat) : Bool := (entryOf s.factory.fuses unit part).isSome

/-- Entries of a full map (R408). -/
def mapFull : Nat := 4096

/-- Copies of the map kept in another format take a new entry too (R499). -/
def addToCopies (d : Defect) (s : State) : State :=
  let add := fun (c : Nat × List Plan × List Defect) =>
    (c.1, c.2.1, if c.2.2.length < mapFull then insertDefect d c.2.2 else c.2.2)
  s.onWarden (fun w => { w with otherHist := w.otherHist.map add })

/-- A new entry: stored, or where the map is full counted bad for the present power-on, with 0x241 once (R408,
R412). -/
def addEntry (d : Defect) (s0 : State) : State :=
  let s := addToCopies d s0
  if s.ageing.field.length < mapFull then s.onAgeing (fun a => { a with field := insertDefect d a.field })
  else
    let s1 := s.onAgeing (fun a => { a with unstored := a.unstored ++ [{ d with field := false }], fullPosted := true })
    if s.ageing.fullPosted then countDet 0x241 s1 else wpost 0x241 d.unit 0 (leBytes 2 d.part) s1

/-- A part has failed a test: fused bad it is marked; fused good it is entered in the field map, and 0x240 posts for a new
entry (R407, R408). -/
def testFailed (unit part : Nat) (s : State) : State :=
  let fail := fun (d : Defect) => { d with failed := true, waiting := false }
  if fusedBad s unit part then s.onAgeing (fun a => { a with fusedFailed := insertNew a.fusedFailed (unit, part) })
  else if (entryOf s.ageing.field unit part).isSome then
    s.onAgeing (fun a => { a with field := modFirst (fun d => d.unit == unit && d.part == part) fail a.field })
  else if (entryOf s.ageing.unstored unit part).isSome then s
  else addEntry { unit := unit, part := part, fused := false, field := true, failed := true, suspect := false,
                  waiting := false, firstH := poweredHours s } (wpost 0x240 unit 0 (leBytes 2 part) s)

/-- A part is marked suspect in the field map, with 0x242 (R405). -/
def markSuspect (unit part : Nat) (s : State) : State :=
  if fusedBad s unit part || (entryOf s.ageing.field unit part).isSome then s
  else addEntry { unit := unit, part := part, fused := false, field := true, failed := false, suspect := true,
                  waiting := true, firstH := poweredHours s } (wpost 0x242 unit 0 (leBytes 2 part) s)

/-- A handshake stall or a core fault that repeats three times in one hour marks its line or core suspect (R405). -/
def noteStall (unit part : Nat) (s : State) : State :=
  let recent := (look s.ageing.suspects (unit, part) []).filter (fun t => decide (s.now < t + 3600 * 10 ^ 9))
  let times := s.now :: recent
  let s1 := s.onAgeing (fun a => { a with suspects := put a.suspects (unit, part) times })
  if 3 ≤ times.length then markSuspect unit part s1 else s1

/-- A new start of the tests: no part has failed one, and every entry of the map counts as bad from now on, a suspect
one too (R407, R408). What a reconcile removed is good (R409). -/
def freshTests (a : Ageing) : Ageing :=
  { a with unstored := a.unstored.filter (fun d => !d.field), fusedFailed := [],
           field := a.field.map (fun d => { d with failed := false, waiting := false }) }

/-- A part counts as bad (R407): fused, in the field map, or beside it. An entry that is suspect waits for a failed test
or for Stage 3: in service it changes no map (R405; log entry 19). -/
def partBad (s : State) (unit part : Nat) : Bool :=
  fusedBad s unit part || (entryOf s.ageing.unstored unit part).isSome ||
    match entryOf s.ageing.field unit part with
    | some d => !d.waiting
    | none => false

end Sys2Proof.Machine
end

