-- ==== Sys2Proof/Machine/Start.lean ====
section
/-! DEFINITION. TASK_START (R175, R181, R184): a unit takes a ready task of its class; the checks made on every
descriptor when it is taken (R98, R279, R323); the loss-bound wait of an update phase (R327). Hoop tasks start by
HOOP_PICK. -/

namespace Sys2Proof.Machine

/-- The task may not start speculatively any more: an ALT or ordinary task, or a SPEC task whose guard committed. -/
def runsSpec (k : Task) (x : TaskRun) : Bool := k.spec && x.verdict != some true

/-- Two tasks compete for one unit: the same vat, the update complex, the same hinge engine (R175). -/
def sameUnit (a b : Task) : Bool :=
  a.cls == b.cls && (match a.cls with
    | 0 => a.home == b.home
    | 2 => true
    | _ => a.unit == b.unit)

/-- Ready and not started. -/
def TaskRun.isReady (x : TaskRun) : Bool := x.phase == .loaded && x.ready.isSome

/-- Started tasks that count against the concurrency limit of a task's unit (R175): a vat's and the update complex's
over all recipes, a hinge engine's contexts of the recipe. -/
def startedAt (s : State) (h : Nat) (k : Task) : Nat :=
  ((s.recipes.filter (fun r => k.cls != 3 || r.handle == h)).map (fun r => match r.running with
    | some u => (u.runs.filter (fun x => x.started && (match r.task? x.idx with
        | some j => sameUnit j k
        | none => false))).length
    | none => 0)).sum

/-- The limit (R175). -/
def startLimit (r : Recipe) (k : Task) : Nat :=
  match k.cls with
  | 0 => 32
  | 2 => 8
  | _ => nth r.heCtx k.unit 0

/-! ### The loss-bound wait (R327) -/

/-- An update task with an apply descriptor. -/
def hasApply (r : Recipe) (k : Task) : Bool :=
  k.cls == 2 && (List.range k.dcount).any (fun i => uApply (vatWords r k i))

/-- The update phase of step t may begin: t − d ≤ N, or the bound does not apply (R327). -/
def lossBoundMet (s : State) (r : Recipe) : Bool :=
  !s.warden.stored.rindEnable || r.capt.isEmpty || decide (r.ordinal + 1 ≤ s.warden.stored.lossBound + r.durable)

/-- The start of this task is held by the loss bound. -/
def lossHeld (s : State) (r : Recipe) (k : Task) : Bool :=
  hasApply r k && !lossBoundMet s r && (match r.running with
    | some u => !u.updatePhase
    | none => false)

/-! ### Who starts next (R175, R193) -/

/-- A ready task of recipe `q` goes before task `x` of recipe `r` at their unit: an ordinary one before a speculative
one, an older one before a younger of its kind (R175, R193). -/
def goesFirst (s : State) (r : Recipe) (k : Task) (x : TaskRun) (q : Recipe) (y : TaskRun) : Bool :=
  match q.task? y.idx with
  | none => false
  | some j =>
    q.stepping && y.isReady && !lossHeld s q j && !(q.handle == r.handle && y.idx == x.idx) && sameUnit j k &&
      (k.cls != 3 || q.handle == r.handle) &&
      ((!runsSpec j y && runsSpec k x) || (runsSpec j y == runsSpec k x && decide (y.ready.getD 0 < x.ready.getD 0)))

/-- The speculative pool has room for a task that would start in it: the slots in use, those of loaded tasks with the
starting one among them, are no more than the pool's present size (R175, R180; DESIGN CHOICE, log entry 61: R180 does not
say what counts as use). -/
def poolFits (r : Recipe) (k : Task) (x : TaskRun) : Bool :=
  !runsSpec k x || decide (poolUse r k.home true ≤ specPool r k.home r.throttle)

/-- A task is the one its unit takes next, and the unit has capacity. -/
def mayStart (s : State) (r : Recipe) (k : Task) (x : TaskRun) : Bool :=
  r.stepping && x.isReady && k.cls != 1 && (if k.cls = 0 then wheelIssues s k.home else enginesIssue s) &&
    !s.recipes.any (fun q => match q.running with
      | some u => u.runs.any (goesFirst s r k x q)
      | none => false) &&
    decide (startedAt s r.handle k < startLimit r k) &&
    poolFits r k x

/-- Install the shadows of a task that starts speculatively (R181). Which of the free pages it takes is the model's: the
first on the list (DESIGN CHOICE, log entry 92: R181 says one free page). -/
def takeShadows (h t : Nat) (k : Task) (s : State) : State :=
  match s.recipe? h with
  | none => s
  | some r =>
    let sh := ((pageEntries r k).zip r.shadowFree).map (fun p => ({ page := p.1, pa := p.2, written := [] } : Shadow))
    (s.onRecipe h (fun r => { r with shadowFree := r.shadowFree.drop k.npages })).onTask h t
      (fun x => { x with specRun := true, shadows := sh })

/-- Restore the tumblers PRIVATE to a task that starts, in the order of their records (R167). -/
def restorePrivate (h t : Nat) (s : State) : State :=
  match s.recipe? h with
  | none => s
  | some r => forEach (r.tinit.filter (fun x => x.priv && x.owner == t)) (fun x s => tRestore h x (Issuer.restore (some t)) s) s

/-- Mark a task started: it takes the next order number, and its descriptors begin to wait. -/
def markStarted (h t : Nat) (s : State) : State :=
  let mark := fun (x : TaskRun) => { x with
    phase := .started, startOrder := s.seq, descs := x.descs.map (fun d => { d with waitFrom := s.now }) }
  { s with seq := s.seq + 1 }.onTask h t mark

/-! ### The check of descriptors -/

/-- Check the descriptors of a task in pool order; the first failing one ends the task (R98, R279, R323). -/
def checkDescs (h t : Nat) (k : Task) (s : State) : State :=
  match s.recipe? h with
  | none => s
  | some r =>
    match r.running with
    | none => s
    | some u =>
      let shape := nth s.gate.view.shapes k.home (0, 0)
      let bad := (List.range k.dcount).findSome? (fun i =>
        let ws := vatWords r k i
        match k.cls with
        | 0 => (vatCheck r shape ws).map (fun p => (i, p, (none : Option Access)))
        | 2 =>
          let c := updCheck s h t r k (namedBefore r k u i) ws
          let tr : List Fail := match c.2 with
            | some (w, a, .fault _) => [{ word := w, code := 0x14, value := a }]
            | _ => []
          match firstFault (c.1 ++ tr), c.2 with
          | some p, a => some (i, reported p, a.map (fun q => q.2.2))
          | none, some (w, a, x) => some (i, { word := w, code := 0, value := a }, some x)
          | none, none => none
        | _ => (firstFault (hingeFaults r ws)).map (fun p => (i, reported p, (none : Option Access))))
      match bad with
      | none => s
      | some (i, p, acc) =>
        match k.cls with
        | 0 => vatFault h t i (unitId 1 k.home 0) (vatWords r k i) (k.descOff + 128 * i) p.code p.word p.value 0 s
        | 2 =>
          match p.code, acc with
          | 0, _ => memoryError h t i (updReadUnit s) s
          | 0x14, some (.fault sub) => updFault h t i (updReadUnit s) 0x14 p.word p.value sub s
          | _, _ => updFault h t i (updReadUnit s) p.code p.word p.value 0 s
        | _ =>
          let det := if p.code = 0x30 ∨ p.code = 0x31 then 0x820 else 0x7E8
          hingeFault h t i (heUnit k.unit) det p.code p.word 0 p.value 0 s

/-- Name the ledger entries of an update task's descriptors (R274). -/
def nameLedgers (h : Nat) (k : Task) (s : State) : State :=
  match s.recipe? h with
  | none => s
  | some r =>
    if k.cls = 2 then forEach (List.range k.dcount) (fun i s => nameLedger h (wd (vatWords r k i) 13 % 2 ^ 48) s) s else s

/-! ### The update phase (R327) -/

/-- The update phase has begun, where the task carries an apply descriptor. -/
def beginUpdatePhase (h : Nat) (r : Recipe) (k : Task) (s : State) : State :=
  if hasApply r k then s.onStep h (fun u => { u with updatePhase := true }) else s

/-! ### TASK_START -/

/-- The waits of the descriptors of a vat or hinge task; WT_VAL = 0 is satisfied at once and waits on nothing (R103). -/
def descWaits (r : Recipe) (k : Task) : List Nat :=
  ((List.range k.dcount).map (vatWords r k)).filterMap (fun ws =>
    if (k.cls = 0 ∨ k.cls = 3) ∧ waitVal ws ≠ 0 then some (waitId ws) else none)

/-- The descriptors of a task that starts begin: they are checked (R98, R279, R323), and then their waits (R170). -/
def beginDescs (h t : Nat) (r : Recipe) (k : Task) (s : State) : State :=
  let s1 := checkDescs h t k s
  if ((s1.recipe? h).map (fun r => r.stepping)).getD false then
    refuseWaits h t (descWaits r k) (nameLedgers h k s1)
  else nameLedgers h k s1

/-- Start a task: its private tumblers are restored, a speculative one takes its shadows, and its descriptors are
checked (R175, R181, R167, R98). -/
def startTask (h t : Nat) (r : Recipe) (k : Task) (x : TaskRun) (s : State) : State :=
  let s1 := markStarted h t (beginUpdatePhase h r k s)
  let s2 := if runsSpec k x then takeShadows h t k s1 else s1
  let s3 := restorePrivate h t s2
  if k.cls = 1 then s3
  else if ((s3.recipe? h).map (fun r => r.stepping)).getD false then beginDescs h t r k s3
  else s3

/-- A task that finds too few free shadow pages waits, and the wait is counted, once for the task (R181). -/
def shadowWait (h t : Nat) (x : TaskRun) (s : State) : State :=
  if x.shadowWaited then s
  else (s.onRecipe h (fun r => { r with shadowWaits := r.shadowWaits + 1 })).onTask h t
    (fun x => { x with shadowWaited := true })

/-- TASK_START (R175): the oldest ready task of a unit starts. One that finds too few free shadow pages waits, and the
wait is counted (R181); one held by the loss bound waits (R327). -/
def execTaskStart (t : TaskRef) (s : State) : Host.Outcome State Fault Refusal :=
  match s.recipe? t.recipe with
  | none => .next s
  | some r =>
    match r.task? t.task, r.run? t.task with
    | some k, some x =>
      occurs (mayStart s r k x) (fun s =>
        if runsSpec k x ∧ r.shadowFree.length < k.npages then
          shadowWait t.recipe t.task x s
        else if lossHeld s r k then
          trackWatchdog t.recipe (s.onStep t.recipe (fun u => { u with lossWait := some (u.lossWait.getD s.now) }))
        else settle t.recipe (startTask t.recipe t.task r k x s)) s
    | _, _ => .next s

end Sys2Proof.Machine
end

