-- ==== Sys2Proof/Machine/Cores.lean ====
section
/-! DEFINITION. Helper cores and hoops (R196 to R212, R214): the numbering of cores, their address space, the hoop
pick and the launch of a record, instruction fetch and cache fills, faults, exit and budget. -/

namespace Sys2Proof.Machine

/-! ### Hoops and numbering (R4, R5, R204) -/

/-- The logical index of a core (R4, R5). -/
def logicalOf (s : State) (c : CoreId) : Option Nat :=
  ((hoopRec s c.wheel c.hoop).posMap.findIdx? (· == c.slot)).map (fun n => 1280 * c.wheel + 16 * c.hoop + n)

/-- The core of a logical index. -/
def coreOfLogical (s : State) (n : Nat) : Option CoreId :=
  let w := n / 1280
  let h := n % 1280 / 16
  ((hoopRec s w h).posMap[n % 16]?).map (fun slot => { wheel := w, hoop := h, slot := slot })

/-- Device address of a logical core's scratch (R199). -/
def scratchAt (n : Nat) : Nat := scratchBase + n * 65536

/-- User bytes of a scratch. -/
def userScratch : Nat := 0xF000

/-- Base of the own-scratch alias. -/
def ownBase : Nat := 0x7E0000000000

/-- A core or hoop under reset, or a hoop out of service, starts nothing (R204, R426), nor does one whose supervisor has not
been loaded (R203). -/
def hoopOut (s : State) (w h : Nat) : Bool :=
  (hoopRec s w h).fenced || !s.life.supervisorLoaded || !wheelIssues s w || s.gate.drains.any (fun d => d.scope == .hoop w h)

/-- Slots of a hoop's idle cores, ascending. -/
def idleSlots (s : State) (w h : Nat) : List Nat :=
  ((hoopRec s w h).posMap.foldl (fun l x => insertAsc x l) []).filter (fun k =>
    let id : CoreId := { wheel := w, hoop := h, slot := k }
    !s.cores.any (fun c => c.id == id) && !s.gate.drains.any (fun d => d.scope == .core id))

/-! ### Registers -/

/-- x register i. -/
def Core.rx (c : Core) (i : Nat) : Nat := if i = 0 then 0 else (nth c.x i 0).toNat

/-- Write x register i. -/
def Core.wx (c : Core) (i v : Nat) : Core :=
  if i = 0 then c else { c with x := c.x.set i (BitVec.ofNat 64 v) }

/-- Set the pc. -/
def Core.jump (c : Core) (a : Nat) : Core := { c with pc := BitVec.ofNat 64 a }

/-- Replace a core's state. -/
def putCore (c : Core) (s : State) : State := s.onCore c.id (fun _ => c)

/-- An instruction retires: instret counts it, and the executed beats rise by its issue beats and by the beats it
waited for results, which are a matter of timing and free (R196, R197, R210). -/
def retireInstr (c : Core) (beats : Nat) (s : State) : State :=
  (putCore { c with beats := (c.beats + beats + Config.freeNat s.free) % 2 ^ 64,
                    instret := (c.instret + 1) % 2 ^ 64 } s).drawn

/-! ### Faults (R205, R214) -/

/-- The detail of a hoop fault's event. -/
def hoopDetail (s : State) (c : Core) (code sub mtval : Nat) : List Byte :=
  leBytes 2 ((logicalOf s c.id).getD 0xFFFF) ++ leBytes 1 code ++ leBytes 1 sub ++
    leBytes 4 (c.pc.toNat + 2 ^ 64 - c.codeVa) ++ leBytes 8 mtval

/-- A core's task ends FAULT with a unit fault code, its event posts, and a fault that repeats marks the core suspect
(R214, R405). -/
def coreFault (c : Core) (code sub mtval : Nat) (s : State) : State :=
  let u := coreUnit c.id
  let d := hoopDetail s c code sub mtval
  let s1 := if code = 0x14 then postTranslation u sub d s
    else post (if code = 8 then 0x544 else 0x7E9) u code d s
  settle c.recipe (taskFault c.recipe c.task u 0x10 code (noteStall u 0 s1))

/-- A core's task ends MEMORY_ERROR (R135). -/
def coreMemoryError (c : Core) (s : State) : State :=
  settle c.recipe (taskFault c.recipe c.task (coreUnit c.id) 0x11 0 s)

/-! ### Scratch (R199 to R201) -/

/-- A core runs the same launch record: a mate, or the core itself. -/
def isMate (s : State) (c : Core) (id : CoreId) : Bool :=
  id.wheel == c.id.wheel && id.hoop == c.id.hoop &&
    s.cores.any (fun m => m.id == id && m.recipe == c.recipe && m.task == c.task)

/-- The device address of `n` bytes of own or mate user scratch, with its core; none outside (R199, R200, R215). -/
def userPlace (s : State) (c : Core) (a n : Nat) : Option (Nat × CoreId) :=
  if ownBase ≤ a ∧ a + n ≤ ownBase + userScratch then
    (logicalOf s c.id).map (fun l => (scratchAt l + (a - ownBase), c.id))
  else if scratchBase ≤ a ∧ a < scratchEnd then
    match coreOfLogical s ((a - scratchBase) / 65536) with
    | none => none
    | some id => if a % 65536 + n ≤ userScratch ∧ isMate s c id then some (a, id) else none
  else none

/-- The place of `n` bytes in M-mode: the whole of the own scratch, and of the scratches of the core's hoop (R199). -/
def machinePlace (s : State) (c : Core) (a n : Nat) : Option (Nat × CoreId) :=
  if ownBase ≤ a ∧ a + n ≤ ownBase + 65536 then
    (logicalOf s c.id).map (fun l => (scratchAt l + (a - ownBase), c.id))
  else if scratchBase ≤ a ∧ a < scratchEnd then
    match coreOfLogical s ((a - scratchBase) / 65536) with
    | none => none
    | some id => if a % 65536 + n ≤ 65536 ∧ id.wheel = c.id.wheel ∧ id.hoop = c.id.hoop then some (a, id) else none
  else none

/-- The place of `n` bytes that a load or store of a core may reach, by its privilege mode (R199). -/
def scratchPlace (s : State) (c : Core) (a n : Nat) : Option (Nat × CoreId) :=
  match c.priv with
  | .user => userPlace s c a n
  | .machine => machinePlace s c a n

/-- Read own or mate scratch. -/
def scratchRead (s : State) (c : Core) (a n : Nat) : Option (List Byte) :=
  (scratchPlace s c a n).map (fun p => memRead s.dev p.1 n)

/-- A store to a scratch breaks the reservation of its core that it touches (R201). -/
def breakReservation (id : CoreId) (a n : Nat) (s : State) : State :=
  s.onCore id (fun c => match c.resv with
    | some r => if r < a + n ∧ a < r + 8 then { c with resv := none } else c
    | none => c)

/-- Write own or mate scratch. -/
def scratchWrite (c : Core) (a : Nat) (bs : List Byte) (s : State) : Option State :=
  (scratchPlace s c a bs.length).map (fun p =>
    breakReservation p.2 p.1 bs.length { s with dev := memWrite s.dev p.1 bs })

/-! ### The pick (R211) and the launch (R208, R209) -/

/-- A hoop task waits for the launch of its current record; one that would start needs room in its pool (R175, R180). A
task with no launch record is never launched, and neither starts nor retires (DESIGN CHOICE, log entry 69: R209 does not
say what a hoop task with DCOUNT 0 does). -/
def awaitsLaunch (s : State) (r : Recipe) (k : Task) (x : TaskRun) : Bool :=
  k.cls == 1 && decide (x.record < k.dcount) && ((x.isReady && poolFits r k x) ||
    (x.started && !s.cores.any (fun c => c.recipe == r.handle && c.task == x.idx)))

/-- The candidates of a hoop: recipe, task, run. -/
def hoopCands (s : State) (w h : Nat) : List (Recipe × Task × TaskRun) :=
  (s.recipes.map (fun r => match r.running with
    | some u => if u.fault.isNone then u.runs.filterMap (fun x => match r.task? x.idx with
        | some k => if k.home == w && (k.unit == h || k.unit == 127) && awaitsLaunch s r k x then some (r, k, x) else none
        | none => none) else []
    | none => [])).flatten

/-- Insert a candidate by ready order. -/
def insertCand (a : Recipe × Task × TaskRun) : List (Recipe × Task × TaskRun) → List (Recipe × Task × TaskRun)
  | [] => [a]
  | b :: l => if a.2.2.ready.getD 0 < b.2.2.ready.getD 0 then a :: b :: l else b :: insertCand a l

/-- The candidates that the pick considers, oldest first: the non-speculative ones if there are any. -/
def pickList (s : State) (w h : Nat) : List (Recipe × Task × TaskRun) :=
  let cs := (hoopCands s w h).foldl (fun l a => insertCand a l) []
  let ord := cs.filter (fun a => !runsSpec a.2.1 a.2.2)
  if ord.isEmpty then cs else ord

/-- Cores that a candidate's current record claims. -/
def candCores (a : Recipe × Task × TaskRun) : Nat := lNcores (launchWords a.1 a.2.1 a.2.2.record)

/-- A core at its entry (R208). Its counters start from zero at every launch (DESIGN CHOICE, log entry 92: R208's table does
not list them, and no reset value is given). -/
def freshCore (id : CoreId) (rank : Nat) (l : List Nat) (r : Recipe) (t : Nat) : Core :=
  { id := id, recipe := r.handle, task := t, rank := rank, ncores := lNcores l,
    x := ((((((((List.replicate 32 (0 : Word)).set 2 (BitVec.ofNat 64 (ownBase + userScratch))).set 10
      (BitVec.ofNat 64 (lArg l))).set 11 (BitVec.ofNat 64 rank)).set 12 (BitVec.ofNat 64 (lNcores l))).set 13
      (BitVec.ofNat 64 r.ordinal)).set 14 (BitVec.ofNat 64 t)).set 15 (BitVec.ofNat 64 (lArg2 l))),
    f := List.replicate 32 0, v := List.replicate 32 0, pc := BitVec.ofNat 64 (lCode l + lEntry l), frm := 0,
    fflags := 0, vtype := BitVec.ofNat 64 (2 ^ 63), vl := 0, vstart := 0, vxrm := 0, vxsat := false, resv := none,
    beats := 0, instret := 0, hpm := [0, 0, 0], budget := lBudget l * 1024, codeVa := lCode l, codeLen := lCodeLen l,
    entry := lEntry l, wait := .none, carries := [], region := false, icache := [], exited := false, priv := .user,
    mcsr := [] }

/-- Zero a scratch whose previous task belonged to another recipe, and note its owner (R208). -/
def claimScratch (h : Nat) (id : CoreId) (s : State) : State :=
  match logicalOf s id with
  | none => s
  | some n =>
    let old := look (s.wheel id.wheel).scratchOwner n h
    let s1 := if old = h then s else { s with dev := memClear s.dev (scratchAt n) userScratch }
    s1.onWheel id.wheel (fun x => { x with scratchOwner := put x.scratchOwner n h })

/-- Launch a task's current record on the first idle cores of a hoop, in ascending slot order (R208). -/
def launch (w h : Nat) (r : Recipe) (k : Task) (x : TaskRun) (s : State) : State :=
  let l := launchWords r k x.record
  let ids := ((idleSlots s w h).take (lNcores l)).map (fun slot => ({ wheel := w, hoop := h, slot := slot } : CoreId))
  let s1 := (if x.isReady then startTask r.handle x.idx r k x s else s).onTask r.handle x.idx (fun y => { y with hoop := h })
  if ((s1.recipe? r.handle).map (fun r => r.stepping)).getD false then
    let s2 := forEach ids (claimScratch r.handle) s1
    onHoop w h (fun q => if q.pin = some (r.handle, x.idx) then { q with pin := none } else q)
      { s2 with cores := s2.cores ++ ids.zipIdx.map (fun p => freshCore p.1 p.2 l r x.idx) }
  else s1

/-- Count one passing over of a task (R211). -/
def passOver (a : Recipe × Task × TaskRun) (s : State) : State :=
  s.onTask a.1.handle a.2.2.idx (fun x => { x with passedOver := x.passedOver + 1 })

/-- A hoop holds a pin on a task. -/
def pinned (s : State) (h t : Nat) : Bool := s.wheels.any (fun w => w.hoops.any (fun q => q.pin == some (h, t)))

/-- A speculative task that would start lacks shadow pages (R181). -/
def lacksShadows (a : Recipe × Task × TaskRun) : Bool :=
  runsSpec a.2.1 a.2.2 && a.2.2.isReady && decide (a.1.shadowFree.length < a.2.1.npages)

/-- Launch a candidate, or count its wait for shadow pages. -/
def launchCand (w h : Nat) (a : Recipe × Task × TaskRun) (s : State) : State :=
  if lacksShadows a then shadowWait a.1.handle a.2.2.idx a.2.2 s
  else settle a.1.handle (launch w h a.1 a.2.1 a.2.2 s)

/-- The pick of a hoop (R211): its pinned task when its cores are idle; else the oldest task that fits, passing over
older ones, unless one of them has been passed over sixteen times and is pinned now. The older ones are counted as passed
over also where the task that fits does not start for want of shadow pages (DESIGN CHOICE, log entry 92: R211 does not
say). -/
def pick (w h : Nat) (s : State) : State :=
  let n := (idleSlots s w h).length
  let cs := pickList s w h
  match (hoopRec s w h).pin with
  | some p =>
    match (hoopCands s w h).find? (fun a => a.1.handle == p.1 && a.2.2.idx == p.2) with
    | some a => if candCores a ≤ n then launchCand w h a s else s
    | none => onHoop w h (fun q => { q with pin := none }) s
  | none =>
    match cs.find? (fun a => decide (candCores a ≤ n)) with
    | none => s
    | some a =>
      let older := cs.takeWhile (fun b => !decide (candCores b ≤ n))
      match older.find? (fun b => decide (16 ≤ b.2.2.passedOver) && !pinned s b.1.handle b.2.2.idx) with
      | some b => onHoop w h (fun q => { q with pin := some (b.1.handle, b.2.2.idx) }) s
      | none => launchCand w h a (forEach older passOver s)

/-- HOOP_PICK (R211). -/
def execHoopPick (wheel hoop : Nat) (s : State) : Host.Outcome State Fault Refusal :=
  occurs (decide (wheel < 8) && decide (hoop < 80) && !hoopOut s wheel hoop && !(idleSlots s wheel hoop).isEmpty)
    (pick wheel hoop) s

/-! ### The end of a record (R205, R209) -/

/-- Every core of a task's record has exited and every carry has completed: the cores are idle again, and the task's
next record may be launched (R209, R139). -/
def recordEnd (h t : Nat) (s : State) : State :=
  let cs := s.cores.filter (fun c => c.recipe == h && c.task == t)
  if ¬ cs.isEmpty ∧ cs.all (fun c => c.exited && c.carries.isEmpty) then
    settle h ({ s with cores := s.cores.filter (fun c => !(c.recipe == h && c.task == t)) }.onTask h t
      (fun x => { x with record := x.record + 1 }))
  else s

/-! ### Fetch (R199, R203) -/

/-- What a fetch finds. -/
inductive Fetched where
  | word (w len : Nat)
  | miss (line : Nat)
  | bad (a : Nat)
  deriving DecidableEq, Repr

/-- An address that no M-mode fetch reads: the scratches, and the code window, which is U-mode's (R199). -/
def fetchless (c : Core) (a : Nat) : Bool :=
  (decide (ownBase ≤ a) && decide (a < ownBase + 65536)) || (decide (scratchBase ≤ a) && decide (a < scratchEnd)) ||
    (decide (c.codeVa ≤ a) && decide (a < c.codeVa + c.codeLen))

/-- A halfword within the code window that the instruction cache holds; in M-mode one of the supervisor image, which way 0
holds. -/
def fetchHalf (c : Core) (a : Nat) : Except Fetched Nat :=
  if c.priv = .machine then
    match (if fetchless c a then none else Config.supervisorHalf a) with
    | some v => .ok v.toNat
    | none => .error (.bad a)
  else if a < c.codeVa ∨ c.codeVa + c.codeLen < a + 2 then .error (.bad a)
  else match c.icache.find? (fun l => l.1 == a / 64 * 64) with
    | some l => .ok (leAt l.2 (a % 64) 2)
    | none => .error (.miss (a / 64 * 64))

/-- Fetch the instruction at the pc: 16 or 32 bits. -/
def fetch (c : Core) : Fetched :=
  let a := c.pc.toNat
  match fetchHalf c a with
  | .error e => e
  | .ok lo =>
    if lo % 4 ≠ 3 then .word lo 2
    else match fetchHalf c (a + 2) with
      | .error e => e
      | .ok hi => .word (lo + hi * 65536) 4

/-- The lines of the instruction cache after a use of one (least recently used replacement within 7 ways of 32 sets). -/
def touchLine (line : Nat) (bytes : List Byte) (l : List (Nat × List Byte)) : List (Nat × List Byte) :=
  let rest := l.filter (fun x => x.1 != line)
  let same := rest.filter (fun x => x.1 / 64 % 32 == line / 64 % 32)
  let drop := same.drop 6
  (line, bytes) :: rest.filter (fun x => !(drop.any (fun d => d.1 == x.1)))

/-- A line that the core's cache holds becomes the most recently used. -/
def Core.touch (c : Core) (line : Nat) : Core :=
  match c.icache.find? (fun l => l.1 == line) with
  | some l => { c with icache := touchLine l.1 l.2 c.icache }
  | none => c

/-- The lines of the fetched instruction become the most recently used: two where it straddles them (R203). -/
def touchFetch (c : Core) : Core :=
  let a := c.pc.toNat
  let c1 := c.touch (a / 64 * 64)
  match fetch c with
  | .word _ 4 => if a % 64 = 62 then c1.touch (a / 64 * 64 + 64) else c1
  | _ => c1

/-- A core executes: it has not exited, waits for nothing, and its wheel's issue gates are open (R391). -/
def executing (s : State) (c : Core) : Bool := !c.exited && c.wait == .none && !s.power.gatesClosed

/-- A line arrives at the hoop's fill buffer: it goes to every core of the hoop that waits for it (R203). -/
def fillLine (c : CoreId) (h line : Nat) (bytes : List Byte) (s : State) : State :=
  { s with cores := s.cores.map (fun k =>
      if k.id.wheel = c.wheel ∧ k.id.hoop = c.hoop ∧ k.recipe = h ∧ k.wait = .icache line then
        { k with wait := .none, icache := touchLine line bytes k.icache }
      else k) }

/-- A poisoned read of a core's fetch: its task ends MEMORY_ERROR; a speculative one records deferred fault 0x1D and gets
zeros in the line's place, as a feeder does (R120, R135; DEDUCED, log entry 72). -/
def fetchPoisoned (c : Core) (line : Nat) (s : State) : State :=
  if specRunning s c.recipe c.task then
    fillLine c.id c.recipe line (zeros 64)
      (deferFault c.recipe c.task { code := 0x1D, sub := 0, unit := coreUnit c.id, detail := [] } s)
  else coreMemoryError c s

/-- ICACHE_MISS_FILL (R203): the line arrives through the recipe's page table; a poisoned line ends the task
MEMORY_ERROR (R135), an unmapped one is an instruction access fault (R214) whose mtval is the address of the line (DESIGN
CHOICE, log entry 70: R214 does not say which address of the fetch it is). -/
def execIcacheMissFill (c : CoreId) (s : State) : Host.Outcome State Fault Refusal :=
  match s.core? c with
  | none => .next s
  | some k =>
    match k.wait, s.recipe? k.recipe with
    | .icache line, some r =>
      .next (match translate s r line false with
        | .error _ => coreFault { k with wait := .none } 4 0 line s
        | .ok l =>
          if poisoned s l 64 then fetchPoisoned k line s
          else fillLine c k.recipe line (locRead s l 64) s)
    | _, _ => .next s

/-- A core begins to wait for a line: a miss is counted (R196, R203). -/
def beginMiss (c : Core) (line : Nat) (s : State) : State :=
  putCore { c with wait := .icache line, hpm := modAt c.hpm 0 (· + 1) } s

/-- BUDGET_EXCEEDED (R210). -/
def execBudgetExceeded (c : CoreId) (s : State) : Host.Outcome State Fault Refusal :=
  match s.core? c with
  | none => .next s
  | some k => occurs (!k.exited && k.budget != 0 && decide (k.budget < k.beats)) (coreFault k 8 0 0) s

/-- The ecall instruction. -/
def ecallWord : Nat := 0x73

/-- ECALL_EXIT (R205): a7 = 0 and a0 = 0 end the core's part; a nonzero a0 is fault 0x06, another a7 fault 0x09, an
open kz.spec region fault 0x01 (R226). An exit with a nonzero status and an open region is reported as the region's 0x01
(DESIGN CHOICE, log entry 71: the rules give both faults and no order). -/
def execEcallExit (c : CoreId) (s : State) : Host.Outcome State Fault Refusal :=
  match s.core? c with
  | none => .next s
  | some k =>
    occurs (executing s k && fetch k == .word ecallWord 4) (fun s =>
      if k.rx 17 ≠ 0 then coreFault k 9 0 0 s
      else if k.region then coreFault k 1 0 ecallWord s
      else if k.rx 10 ≠ 0 then coreFault k 6 0 (k.rx 10) s
      else recordEnd k.recipe k.task (retireInstr { touchFetch k with exited := true } 1 s)) s

end Sys2Proof.Machine
end

