-- ==== Sys2Proof/Machine/Cave.lean ====
section
/-! DEFINITION. The cave cache of a recipe's share (R152 to R156): demand reads, stream trackers, prefetches and
fills. The cave's bytes stand in the cave store; the share holds which segments are resident. -/

namespace Sys2Proof.Machine

/-! ### Trackers and prefetches -/

/-- The largest lead: min(256, 16 × S / (2 × open trackers)), at least 2 (R154). -/
def leadMax (c : CaveShare) (opened : Nat) : Nat := max 2 (min 256 (16 * c.mib / (2 * max 1 opened)))

/-- The segment after m in a direction; none below 0. -/
def stepSeg (m : Nat) (up : Bool) (n : Nat) : Option Nat := if up then some (m + n) else if n ≤ m then some (m - n) else none

/-- The leaf that maps a segment (R142). -/
def segLeaf (r : Recipe) (m : Nat) : Option Leaf :=
  r.leaves.find? (fun l => l.cave && decide (l.pa ≤ m * 65536) && decide (m * 65536 < l.pa + l.size))

/-- First segment of the page that holds a segment: a page is 2 MiB or 1 GiB (R142, R155). -/
def pageOf (r : Recipe) (m : Nat) : Nat :=
  match segLeaf r m with
  | some l => l.pa / 65536
  | none => m / 32 * 32

/-- The page of a segment carries RA: its leaf is valid and has RA set (R155). -/
def segRa (r : Recipe) (m : Nat) : Bool :=
  r.leaves.any (fun l => l.cave && l.ra && decide (l.pa ≤ m * 65536) && decide (m * 65536 < l.pa + l.size))

/-- Prefetch a segment from the page of the latest demand read: within it always, elsewhere where the page carries RA;
the flag tells that the run stops (R155). -/
def prefetchOne (r : Recipe) (page : Nat) (m : Option Nat) (acc : CaveShare × Bool) : CaveShare × Bool :=
  if acc.2 then acc
  else match m with
    | none => (acc.1, true)
    | some m =>
      if pageOf r m = page ∨ segRa r m then (acc.1.fill m true, false)
      else ({ acc.1 with runAheadStops := acc.1.runAheadStops + 1 }, true)

/-- Prefetch `n` segments from `next` on in a direction. -/
def prefetch (r : Recipe) (page next : Nat) (up : Bool) (n : Nat) (c : CaveShare) : CaveShare :=
  ((List.range n).foldl (fun acc i => prefetchOne r page (stepSeg next up i) acc) (c, false)).1

/-- The lead after a demand read on a tracker (R154). -/
def trackerRead (c : CaveShare) (m now : Nat) (was : Bool) (t : Tracker) : Tracker :=
  let lm := leadMax c c.trackers.length
  let hits := t.hits + 1
  let t1 := if was then
      (if hits = 64 then { t with lead := max (t.lead - 1) 2, hits := 0 } else { t with hits := hits })
    else { t with lead := min (2 * t.lead) lm, stalls := t.stalls + 1, hits := 0 }
  { t1 with next := stepSeg m t.up 1, used := now }

/-- The lead that a tracker saves: twice its final lead, capped, where its layer's late waits had risen in the step in
which it was opened (R154, R156). -/
def savedLead (c : CaveShare) (t : Tracker) : SavedLead :=
  let cap := leadMax c c.trackers.length
  { page := t.firstPage, lead := if t.risen then min (2 * t.lead) cap else t.lead, cap := cap, layer := t.layer, step := t.step }

/-- A tracker closes and saves its lead, keyed by its first page (R154). -/
def CaveShare.close (c : CaveShare) (t : Tracker) : CaveShare :=
  let l := savedLead c t
  { c with trackers := c.trackers.erase t, savedLeads := l :: c.savedLeads.filter (fun x => x.page != l.page) }

/-- Close the least recently used tracker where there are 64 (R154). -/
def makeRoom (c : CaveShare) : CaveShare :=
  if c.trackers.length < 64 then c
  else match c.trackers.foldl (fun (acc : Option Tracker) t => match acc with
      | none => some t
      | some b => if t.used < b.used then some t else acc) none with
    | some t => c.close t
    | none => c

/-- The start lead of a tracker: 4, or the lead saved in the previous step for the same first page (R154). -/
def startLead (c : CaveShare) (page : Nat) : Nat := ((c.prevLeads.find? (fun x => x.page == page)).map (fun x => x.lead)).getD 4

/-- A demand read of segment m (R153, R154). Where both m − 1 and m + 1 are among the last 16 misses, the tracker opens
ascending (DESIGN CHOICE, log entry 60: R154 does not say which). -/
def demandRead (r : Recipe) (layer m now : Nat) (c0 : CaveShare) : CaveShare :=
  let was := c0.resident m
  let c2 := lookUp m c0
  let page := pageOf r m
  match c0.trackers.find? (fun t => t.next == some m) with
  | some t =>
    let t1 := trackerRead c2 m now was t
    let c3 := { c2 with
      trackers := modFirst (fun x => x.next == some m) (fun _ => t1) c2.trackers,
      leadChanges := c2.leadChanges + bit (t1.lead != t.lead) }
    match t1.next with
    | some n => prefetch r page n t1.up t1.lead c3
    | none => c3
  | none =>
    let up := (0 < m ∧ (m - 1) ∈ c0.misses)
    let down := (m + 1) ∈ c0.misses
    if up ∨ down then
      let c3 := makeRoom c2
      let t : Tracker := { next := stepSeg m (decide up) 1, up := decide up, lead := startLead c3 page, hits := 0,
                           stalls := 0, layer := layer, firstPage := page, used := now, step := r.ordinal, risen := false }
      { c3 with trackers := c3.trackers ++ [t] }
    else c2

/-- A segment that a share holds is poisoned. -/
def CaveShare.badSeg (c : CaveShare) (m : Nat) : Bool := c.segments.any (fun g => g.seg == m && g.poisoned)

/-- A task's unit reads `n` bytes at a cave address: each segment not yet demanded reaches the share, and one that is
resident is received (R152 to R154). The segments demanded so far, with their arrivals, come in and go out. -/
def demandRange (h layer a n : Nat) (seen : List (Nat × Option Bool)) (s : State) : State × List (Nat × Option Bool) :=
  (piecesOf a n).foldl (fun acc q => match acc.1.recipe? h with
    | none => acc
    | some r => match translate acc.1 r q.1 false with
      | .ok (.cave p) =>
        let m := p / 65536
        let pending := r.cave.held m || r.cave.fillWaits.any (fun w => w.1 == m)
        if acc.2.any (fun d => d.1 == m && (d.2.isSome || (pending && !r.cave.resident m))) then acc
        else
          let arrival := if r.cave.resident m then some (r.cave.badSeg m) else none
          (onShare h (demandRead r layer m acc.1.now) acc.1, acc.2.filter (fun d => d.1 != m) ++ [(m, arrival)])
      | _ => acc) (s, seen)

/-- A filled segment arrives at the carries of a recipe that have demanded it (R153, R223). -/
def deliverFill (h m : Nat) (bad : Bool) (s : State) : State :=
  let note := fun (y : Carry) => { y with demanded := y.demanded.map (fun d =>
    if d.1 = m ∧ d.2.isNone then (m, some bad) else d) }
  { s with cores := s.cores.map (fun k => if k.recipe = h then { k with carries := k.carries.map note } else k) }

/-- CAVE_DEMAND_READ (R154): a task's read of a cave address reaches the recipe's share. -/
def execCaveDemandRead (t : TaskRef) (addr : Nat) (s : State) : Host.Outcome State Fault Refusal :=
  match s.recipe? t.recipe with
  | none => .next s
  | some r =>
    match r.task? t.task, r.run? t.task, translate s r addr false with
    | some k, some x, .ok (.cave p) =>
      occurs (x.started && decide (0 < r.cave.mib)) (onShare t.recipe (demandRead r k.layer (p / 65536) s.now)) s
    | _, _, _ => .next s

/-- CAVE_FILL_COMPLETE (R153, R135, R146): the segment is resident; poisoned where the port of one of its granules
supplied bad data. -/
def execCaveFillComplete (recipe segment : Nat) (bad : Option Nat) (s : State) : Host.Outcome State Fault Refusal :=
  match s.recipe? recipe with
  | none => .next s
  | some r =>
    occurs (r.cave.segments.any (fun g => g.seg == segment && g.filling)) (fun s =>
      let filled := fun (g : Segment) => { g with filling := false, poisoned := bad.isSome }
      let s1 := onShare recipe (fun c =>
        ({ c with segments := modFirst (fun g => g.seg == segment) filled c.segments } : CaveShare).retry)
        (deliverFill recipe segment bad.isSome s)
      match bad with
      | some g =>
        let port := (cavePlace s (segment * 65536 + g % 16 * 4096)).elim 0 (fun p => p.1)
        post 0x321 (unitId 0xA 0 port) 0 []
          (s1.onTiers (fun t => { t with poisonCave := insertNew t.poisonCave segment }))
      | none =>
        if s1.recipes.any (fun q => q.cave.segments.any (fun g => g.seg == segment && g.poisoned)) then s1
        else s1.onTiers (fun t => { t with poisonCave := t.poisonCave.filter (· != segment) })) s

/-- A layer's late-wait entry has risen in the present step (R156, R157). -/
def lateRisen (s : State) (r : Recipe) (layer : Nat) : Bool :=
  if r.lateWait = 0 then false
  else match translate s r (r.lateWait + 16 * layer) false with
    | .ok (.near pa) => memLe s.near (pa + 12) 4 == (r.ordinal + 1) % 2 ^ 32
    | _ => false

/-- At a step's end (R156, R157): a tracker opened in the step by a task of a layer whose late waits have risen saves
twice its lead; a tracker still open saves its lead for the next step as well. -/
def closeLeads (h : Nat) (s : State) : State :=
  match s.recipe? h with
  | none => s
  | some r =>
    let up := fun (layer step : Nat) => step == r.ordinal && lateRisen s r layer
    onShare h (fun c =>
      let ts := c.trackers.map (fun t => if up t.layer t.step then { t with risen := true } else t)
      let ls := c.savedLeads.map (fun l => if up l.layer l.step then { l with lead := min (2 * l.lead) l.cap } else l)
      let kept := ts.map (savedLead c)
      { c with trackers := ts, savedLeads := kept ++ ls.filter (fun l => !kept.any (fun x => x.page == l.page)) }) s

/-- At START_STEP the leads saved in the step before give the start leads (R154). -/
def openLeads (h : Nat) (s : State) : State :=
  onShare h (fun c => { c with prevLeads := c.savedLeads, savedLeads := [] }) s

/-- TRACKER_CLOSE (R154, R156): 1 ms without a demand read; the lead is saved. -/
def execTrackerClose (recipe k : Nat) (s : State) : Host.Outcome State Fault Refusal :=
  match (s.recipe? recipe).bind (fun r => r.cave.trackers[k]?) with
  | none => .next s
  | some t => occurs (decide (t.used + 10 ^ 6 ≤ s.now)) (onShare recipe (fun c => c.close t)) s

end Sys2Proof.Machine
end

