-- ==== Sys2Proof/Machine/HingeRx.lean ====
section
/-! DEFINITION. Messages received on hinge ports (R285 to R290, R298, R299, R306, R317 to R319): one command for each
message type, and for a flit that is dropped. -/

namespace Sys2Proof.Machine

/-! ### The link part of a flit -/

/-- LACK covers the flits of the replay buffer up to it (R288). -/
def applyLack (lack : Nat) (q : HingePort) : HingePort :=
  let keep := q.replay.filter (fun r => decide (2048 ≤ (lack + 4096 - r.lseq) % 4096))
  { q with replay := keep, sameReplays := if keep.length < q.replay.length then 0 else q.sameReplays }

/-- Credits returned (R286). -/
def applyCred (v n : Nat) (q : HingePort) : HingePort :=
  { q with credits := modAt q.credits v (fun c => min (c + n) (nth q.advertised v 0)),
           bulkOut := if v = 3 then q.bulkOut.drop n else q.bulkOut }

/-- LACK and the credits of a flit, and the flits that may now be sent. -/
def linkFields (p : Nat) (f : List Byte) (s : State) : State :=
  let s1 := s.onPort p (fun q => applyCred (fCvc f) (fCred f) (applyLack (fLack f) q))
  pump (s1.port p).waiting.length p s1

/-- The buffer of a received flit is free: its credit returns in the flits sent now, or in NULL flits (R286). -/
def returnCredits (p : Nat) (s : State) : State :=
  if (s.port p).owed.any (· != 0) then sendNull p 0 s else s

/-- A sequenced flit arrives in order (R288). -/
def accept (p : Nat) (f : List Byte) (s : State) : State :=
  linkFields p f (s.onPort p (fun q => { q with
    rxSeq := (q.rxSeq + 1) % 4096, replayWanted := false, owed := modAt q.owed (fVc f) (· + 1) }))

/-- A message command: a good flit of the type arrives in order on a port that carries traffic; a flit that breaks
R285 is a protocol error. -/
def message (port ty : Nat) (f : List Byte) (effect : State → State) (s : State) : Host.Outcome State Fault Refusal :=
  occurs (decide (port < 32) && (s.port port).up && flitGood f && fType f == ty && fLseq f == (s.port port).rxSeq)
    (fun s => if protoBad f then protocolError port s else returnCredits port (effect (accept port f s))) s

/-! ### Replay (R288) -/

/-- Retransmit the replay buffer from LACK + 1, each flit as it was sent, with what the replay limit asks. -/
def replayFrom (p : Nat) (s : State) : State :=
  match (s.port p).replay with
  | [] => s
  | r :: rs =>
    let q := s.port p
    let same := if q.lastReplaySeq = r.lseq then q.sameReplays + 1 else 1
    let times := s.now :: q.replayTimes.filter (fun t => decide (s.now < t + 10 ^ 6))
    let again := fun (q : HingePort) => (r :: rs).foldl (fun q x => q.emit x.flit) q
    let s1 := postAbove false 1000 (3600 * 10 ^ 9) 1 0x402 (portUnit p) 0 [] (s.onPort p (fun q => { again q with
      replays := satAdd 64 q.replays 1, sameReplays := same, lastReplaySeq := r.lseq, replayTimes := times }))
    if 16 ≤ same ∨ 64 ≤ times.length then startRetrain p s1 else s1

/-- NULL_FLIT (R285, R288): LACK, credits and replay requests; a flit of a reserved type is a protocol error. -/
def execNullFlit (port : Nat) (flit : List Byte) (s : State) : Host.Outcome State Fault Refusal :=
  occurs (decide (port < 32) && (s.port port).up && flitGood flit && (fType flit == 0 || (vcOf (fType flit)).isNone))
    (fun s =>
      if protoBad flit then protocolError port s
      else
        let s1 := linkFields port flit s
        if fReplay flit then replayFrom port s1 else s1) s

/-- A dropped flit asks for a replay: the first one, and the first flit of a replay that fails its own CRC; every later flit
is dropped without a request of its own (R288; DEDUCED, log entry 66). -/
def asksReplay (q : HingePort) (f : List Byte) : Bool := !q.replayWanted || (!flitGood f && fLseq f == q.rxSeq)

/-- A good flit of a sequenced type whose LSEQ is not the next one; NULL and LINK_INIT are not sequenced (R285; log entry
66). -/
def outOfOrder (q : HingePort) (f : List Byte) : Bool :=
  decide (1 < fType f) && (vcOf (fType f)).isSome && fLseq f != q.rxSeq

/-- FLIT_CRC_FAILURE (R288): a flit that fails its CRC or arrives out of sequence is dropped, and a replay requested. -/
def execFlitCrcFailure (port : Nat) (flit : List Byte) (s : State) : Host.Outcome State Fault Refusal :=
  occurs (decide (port < 32) && (s.port port).up &&
      (!flitGood flit || outOfOrder (s.port port) flit))
    (fun s => if asksReplay (s.port port) flit then
        sendNull port 0x10 (s.onPort port (fun q => { q with replayWanted := true }))
      else s) s

/-! ### Control messages -/

/-- LINK_INIT in training: the peer's lanes, identity and credits; another peer than the one recorded fences the port. -/
def linkInitTakes (port : Nat) (pay : List Byte) (s : State) : State :=
  let q := s.port port
  let id := leAt pay 0 2
  if q.peerId ≠ 0xFFF ∧ q.peerId ≠ id then
    withdrawPort port .fenced 0x406 (post 0x408 (portUnit port) 0 [] s)
  else s.onPort port (fun q => { q with
    peerId := id, peerMask := leAt pay 2 1 % 16, advertised := (List.range 4).map (fun v => leAt pay (3 + 2 * v) 2) })

/-- LINK_INIT (R285, R296, R298). The fields lie in the order of R285: U16, U8, four U16, U8. One that breaks R285 is a
protocol error on a port in training and on one in service; a good one on a port in service is for training only, and
changes nothing. -/
def execLinkInit (port : Nat) (flit : List Byte) (s : State) : Host.Outcome State Fault Refusal :=
  let q := s.port port
  let training := q.state == .retraining || (q.state == .down && nth s.warden.stored.portEnable port false)
  occurs (decide (port < 32) && flitGood flit && fType flit == 1 && (training || q.up)) (fun s =>
    if protoBad flit || leAt (fPay flit) 11 1 != 1 then protocolError port s
    else if training then linkInitTakes port (fPay flit) s
    else s) s

/-- SPAN_ADD (R309): an add to a span tumbler of the job's recipe. -/
def execSpanAdd (port : Nat) (flit : List Byte) (s : State) : Host.Outcome State Fault Refusal :=
  let pay := fPay flit
  message port 0x02 flit (fun s =>
    match jobRecipe s (leAt pay 6 4) with
    | none => s
    | some r => settle r.handle (spanAddLocal r.handle (leAt pay 0 2) (leAt pay 2 4) (heUnit (port / 4)) s)) s

/-- GUARD (R319): the source's slot is committed or discarded, the handles are added, GUARD_ACK returns. -/
def execGuard (port : Nat) (flit : List Byte) (s : State) : Host.Outcome State Fault Refusal :=
  let pay := fPay flit
  message port 0x03 flit (fun s =>
    let s1 := match jobRecipe s (leAt pay 19 4) with
      | none => s
      | some r =>
        match r.job with
        | none => s
        | some j =>
          let rank := (j.members.findIdx? (· == fSrc flit)).getD 0
          settle r.handle (applyGuard r.handle (leAt pay 1 8 + rank * leAt pay 15 4) (leAt pay 0 1) (leAt pay 9 2)
            (leAt pay 13 2) j.n (heUnit (port / 4)) s)
    sendTo 0x23 (fSrc flit) (fTag flit) 3 [] s1) s

/-- The failed path of a NOTICE: from its source over a port to a peer. It carries the source's data to this module where the
peer is this module, or no member of the job, so a switch (DEDUCED, log entry 66). -/
def noticeFaults (r : Recipe) (src peer : Nat) (s : State) : State :=
  let mine := peer == myId s || !((r.job.map (fun j => j.members)).getD []).contains peer
  faultWaiters r.handle 0x406 peer (fun m => m == src && mine) s

/-- NOTICE (R299): the job's hinge tasks that await the failed path fault. -/
def execNotice (port : Nat) (flit : List Byte) (s : State) : Host.Outcome State Fault Refusal :=
  let pay := fPay flit
  message port 0x04 flit (fun s =>
    match jobRecipe s (leAt pay 3 4) with
    | none => s
    | some r => settle r.handle (noticeFaults r (fSrc flit) (leAt pay 1 2) s)) s

/-! ### Requests and responses -/

/-- The flits of a GET_DATA response. -/
def getFlits (src dst tag : Nat) : Nat → Bool → List Byte → List (List Byte)
  | 0, _, _ => []
  | n + 1, first, bs =>
    let rest := bs.drop 240
    mkFlit 0x21 2 src dst (bit first + 2 * bit rest.isEmpty) tag (bs.take 240) ::
      (if rest.isEmpty then [] else getFlits src dst tag n false rest)

/-- Answer NACK with a status and a detail. -/
def sendNack (dst tag status detail : Nat) (s : State) : State :=
  sendTo 0x22 dst tag 3 (leBytes 1 status ++ leBytes 8 detail) s

/-- Read bytes in a recipe's address space, cave bytes through its share (R152), or the NACK of a GET. -/
def getRead (r : Recipe) (a n : Nat) (s : State) : State × Except (Nat × Nat) (List Byte) :=
  (piecesOf a n).foldl (fun acc q =>
    match acc.2 with
    | .error e => (acc.1, .error e)
    | .ok bs =>
      match translate acc.1 r q.1 false with
      | .error sub => (acc.1, .error (3, sub))
      | .ok l =>
        let s1 := match l with
          | .cave p => caveGet r.handle p acc.1
          | _ => acc.1
        (s1, if poisoned s1 l q.2 then .error (4, 0) else .ok (bs ++ locRead s1 l q.2))) (s, .ok [])

/-- GET (R285): answered with GET_DATA, or NACK. -/
def execGet (port : Nat) (flit : List Byte) (s : State) : Host.Outcome State Fault Refusal :=
  let pay := fPay flit
  message port 0x10 flit (fun s =>
    match jobRecipe s (leAt pay 20 4) with
    | none => sendNack (fSrc flit) (fTag flit) 1 0 s
    | some r =>
      match getRead r (leAt pay 0 8) (leAt pay 8 4) s with
      | (s1, .error (st, d)) => sendNack (fSrc flit) (fTag flit) st d s1
      | (s1, .ok bs) =>
        match routePort s1 (fSrc flit) (fTag flit) with
        | none => s1
        | some p => sendFlits p (getFlits (myId s1) (fSrc flit) (fTag flit) (bs.length / 240 + 1) true bs) s1) s

/-- The transfer of this module that a response answers. -/
def xferOf (s : State) (f : List Byte) : Option Xfer :=
  s.hinge.xfers.find? (fun x => x.tag == fTag f && x.dst == fSrc f)

/-- Remove an answered transfer, from the list and from its descriptor. -/
def dropXfer (x : Xfer) (s : State) : State :=
  (s.onHinge (fun h => { h with xfers := h.xfers.filter (fun y => !(y.tag == x.tag && y.dst == x.dst)) })).onDesc x.recipe
    x.task x.idx (fun d => { d with awaiting := d.awaiting.erase x.tag })

/-- GET_DATA (R287): a response writes data at the requester. -/
def execGetData (port : Nat) (flit : List Byte) (s : State) : Host.Outcome State Fault Refusal :=
  message port 0x21 flit (fun s =>
    match xferOf s flit with
    | none => s
    | some x =>
      if x.kind = .getRequest then
        let s1 := (landData x.recipe 0 0 (x.addr + x.got) (fPay flit) s).1
        if fLast flit then dropXfer x s1
        else
          let more := fun (y : Xfer) => { y with got := y.got + (fPay flit).length }
          s1.onHinge (fun h => { h with xfers := modFirst (fun y => y.tag == x.tag && y.dst == x.dst) more h.xfers })
      else s) s

/-- After an answer: a sending operation whose transfers are all answered has done its work (R306). -/
def afterAnswer (x : Xfer) (s : State) : State :=
  match hDesc? s { recipe := x.recipe, task := x.task, idx := x.idx } with
  | none => s
  | some d =>
    if d.run.phase ≠ .begun then s
    else if opOf d.ws = 1 ∨ opOf d.ws = 2 then finishSends d s
    else if opOf d.ws = 3 then finishVerify d s
    else s

/-- An answer to a transfer of the module. -/
def answerXfer (f : List Byte) (nack : Option (Nat × Nat)) (s : State) : State :=
  match xferOf s f with
  | none => s
  | some x =>
    let s1 := dropXfer x s
    let alive := match (s1.recipe? x.recipe).bind (fun r => r.run? x.task) with
      | some y => y.started
      | none => false
    if alive then
      settle x.recipe (afterAnswer x (answered x.recipe x.task x.idx x.rank x.mode nack s1))
    else s1

/-- PUT_ACK (R306): a transfer of the sender's operation is answered. -/
def execPutAck (port : Nat) (flit : List Byte) (s : State) : Host.Outcome State Fault Refusal :=
  message port 0x20 flit (answerXfer flit none) s

/-- NACK (R289, R306): the transfer ends; 0x05 of a landing is recorded, any other status faults the task. -/
def execNack (port : Nat) (flit : List Byte) (s : State) : Host.Outcome State Fault Refusal :=
  let pay := fPay flit
  message port 0x22 flit (answerXfer flit (some (leAt pay 0 1, leAt pay 1 8))) s

/-- GUARD_ACK (R318): counts toward VERIFY's completion. -/
def execGuardAck (port : Nat) (flit : List Byte) (s : State) : Host.Outcome State Fault Refusal :=
  message port 0x23 flit (answerXfer flit none) s

/-! ### PUT (R289, R290, R317) -/

/-- The transfer being received that a flit belongs to. -/
def rxOf (s : State) (f : List Byte) : Option RxXfer :=
  s.hinge.rx.find? (fun x => x.src == fSrc f && x.tag == fTag f)

/-- Replace a transfer being received. -/
def setRx (x : RxXfer) (s : State) : State :=
  s.onHinge (fun h => { h with rx := h.rx.filter (fun y => !(y.src == x.src && y.tag == x.tag)) ++ [x] })

/-- Remove a transfer being received. -/
def dropRx (x : RxXfer) (s : State) : State :=
  s.onHinge (fun h => { h with rx := h.rx.filter (fun y => !(y.src == x.src && y.tag == x.tag)) })

/-- Answer NACK; the rest of the transfer is sunk (R289). -/
def sinkRx (x : RxXfer) (status detail : Nat) (s : State) : State :=
  setRx { x with sunk := some status } (sendNack x.src x.tag status detail s)

/-- Poison the granules that received bytes cover, in the landing's shadow or at the declared place (R135, R289, R317). -/
def poisonRange (h mode slot a n : Nat) (s : State) : State :=
  (piecesOf a n).foldl (fun s q =>
    if mode = 1 then
      match landPlace h slot q.1 s with
      | (s1, .ok pa) => poisonGranule pa s1
      | (s1, .error _) => s1
    else match s.recipe? h with
      | none => s
      | some r =>
        match translate s r q.1 true with
        | .ok (.near pa) => poisonGranule pa s
        | .ok (.curd c) => s.onTiers (fun t => { t with
            poisonCurd := ((List.range ((c % 8 + q.2 + 7) / 8)).map (fun i => c / 8 + i)).foldl insertNew t.poisonCurd })
        | _ => s) s

/-- Data of a transfer being received: written, with the end of the transfer (R289, R290). -/
def rxData (x : RxXfer) (bs : List Byte) (poison last : Bool) (port : Nat) (s : State) : State :=
  let n := min bs.length x.left
  let y := { x with dest := x.dest + n, left := x.left - n, total := x.total - n }
  if x.sunk.isSome then (if last then dropRx y s else setRx y s)
  else if poison then
    let s1 := sinkRx y 4 0 (poisonRange x.recipe x.mode x.slot x.dest n s)
    if last then dropRx y s1 else s1
  else
    match landData x.recipe x.mode x.slot x.dest (bs.take n) s with
    | (s1, some sub) => if last then dropRx y (sinkRx y 3 sub s1) else sinkRx y 3 sub s1
    | (s1, none) =>
      if last then
        let s2 := landDone x.recipe x.mode x.slot x.rhandle x.rinc x.ls x.base (heUnit (port / 4)) (dropRx y s1)
        settle x.recipe (sendTo 0x20 x.src x.tag 3 [0] s2)
      else setRx y s1

/-- The first flit of a transfer: the checks of R289, and the shadows of a landing (R317). -/
def rxStart (port : Nat) (f pay : List Byte) (s : State) : State :=
  let mode := leAt pay 20 1
  let slot := leAt pay 32 8
  let x : RxXfer := { src := fSrc f, tag := fTag f, port := port, recipe := 0, base := leAt pay 0 8, dest := leAt pay 0 8,
                      left := leAt pay 8 4, total := leAt pay 40 8, rhandle := leAt pay 12 2, rinc := leAt pay 14 2,
                      mode := mode, ls := leAt pay 22 2, slot := slot, more := bitOf (leAt pay 21 1) 0, sunk := none }
  let data := pay.drop 48
  let go := fun (x : RxXfer) (s : State) => rxData x data (fPoison f) (fLast f) port s
  match putRefusal s (leAt pay 16 4) (leAt pay 24 8) (putHandles mode x.rhandle x.ls) with
  | .error (st, d) => if fLast f then sendNack x.src x.tag st d s else sinkRx x st d s
  | .ok h =>
    let y := { x with recipe := h }
    if mode = 1 then
      match takeLanding h slot x.src x.ls (x.dest - slot + x.total) s with
      | none =>
        let s1 := landingRefused h (heUnit (port / 4)) s
        if fLast f then sendNack x.src x.tag 5 0 s1 else sinkRx y 5 0 s1
      | some s1 => go y s1
    else go y s

/-- A put header with a reserved MODE or PFLAGS bit is a protocol error (R285, R289). -/
def putHeaderBad (f : List Byte) : Bool :=
  fFirst f && (decide (1 < leAt (fPay f) 20 1) || decide (1 < leAt (fPay f) 21 1))

/-- PUT (R289, R290): data for the recipe that JOB_TAG names. -/
def execPut (port : Nat) (flit : List Byte) (s : State) : Host.Outcome State Fault Refusal :=
  let pay := fPay flit
  occurs (decide (port < 32) && (s.port port).up && flitGood flit && fType flit == 0x30 &&
      fLseq flit == (s.port port).rxSeq) (fun s =>
    if protoBad flit || putHeaderBad flit then protocolError port s
    else
      let s1 := accept port flit s
      returnCredits port (match rxOf s1 flit with
        | none => if fFirst flit then rxStart port flit pay s1 else s1
        | some x =>
          if fFirst flit then
            rxData { x with dest := leAt pay 0 8, left := leAt pay 8 4, more := bitOf (leAt pay 21 1) 0 } (pay.drop 48)
              (fPoison flit) (fLast flit) port s1
          else rxData x pay (fPoison flit) (fLast flit) port s1)) s

end Sys2Proof.Machine
end

