-- ==== Sys2Proof/Machine/Runs.lean ====
section
/-! DEFINITION. Steps and recipes as wholes (R169, R177, R179, R26, R341 to R344, R355, R364, R365): START_STEP and its
end, RETIRE_RECIPE, SNAPSHOT_NOW, RESTORE with its replay, and QUERY_CAPACITY. -/

namespace Sys2Proof.Machine

/-! ### The start of a step (R169) -/

/-- Snapshot period c (R326). -/
def snapPeriod (s : State) : Nat :=
  if s.warden.stored.period = 0 then (s.warden.stored.lossBound + 1) / 2 else s.warden.stored.period

/-- A step of the recipe is a snapshot step (R326). -/
def isSnapshot (s : State) (r : Recipe) (ord : Nat) : Bool :=
  s.warden.stored.rindEnable && !r.capt.isEmpty && ((ord + 1) % max 1 (snapPeriod s) == 0 || r.snapNow)

/-- Clear the listed counter records whose flag asks for it (R64, R169 step 1). -/
def clearCounters (r : Recipe) (s : State) : State :=
  forEach r.crecs (fun a s => match translate s r a true with
    | .ok (.near pa) => clearRecord pa s
    | _ => s) s

/-- Restore every RESET_AT_STEP tumbler from its record (R169 step 2). -/
def resetTumblers (h : Nat) (r : Recipe) (s : State) : State :=
  forEach (r.tinit.filter (fun x => x.reset)) (fun x s => tRestore h x (Issuer.restore none) s) s

/-- Write DATA_SEED and clear VALID in the step record (R329). -/
def stepRecord (r : Recipe) (dataSeed : Nat) (s : State) : State :=
  if r.capt.isEmpty then s
  else locWrite (.near (r.stepRec + 16)) (leBytes 8 dataSeed) (locWrite (.near (r.stepRec + 8)) (leBytes 4 0) s)

/-- Every vat takes the operand mode that the running recipes select (R79 condition 3, R80). -/
def selectModes (s : State) : State :=
  forEach (List.range 8) (fun w s =>
    let sel := s.recipes.any (fun r => r.running.isSome && bitOf r.wheels w && nth r.vatMode w 0 == 1)
    let s1 := s.onVat w (fun v => { v with recipeBroadcast := sel })
    if wantsBroadcast s1 w != (s1.vat w).broadcast then s1.onVat w (fun v => { v with pendingMode := true }) else s1) s

/-- The wheels of a recipe leave or re-enter their idle window (R400). -/
def touchWheels (r : Recipe) (s : State) : State :=
  forEach ((List.range 8).filter (bitOf r.wheels)) (fun w s => s.onWheel w (fun x => { x with idleSince := s.now })) s

/-- A running step at its start. -/
def freshStep (ord seed dataSeed : Nat) (origin : StepOrigin) (snapshot : Bool) (now : Nat) : StepRun :=
  { ordinal := ord, seed := seed, dataSeed := dataSeed, origin := origin, start := now, snapshot := snapshot,
    updated := false, updatePhase := false, lossWait := none, runs := [], fault := none, nFurther := 0, ledgers := [],
    pendingSet := [], refusedLandings := 0, early := [], pausedNs := 0, pausedSince := none, imageLost := false }

/-- START_STEP begins (R169): the clears, the ordinal, the restores, the seeds and the stash. -/
def beginStep (h ord seed dataSeed : Nat) (origin : StepOrigin) (s : State) : State :=
  match s.recipe? h with
  | none => s
  | some r =>
    let s1 := clearCounters r s
    let snap := isSnapshot s1 r ord
    let s2 := s1.onRecipe h (fun r => { r with
      running := some (freshStep ord seed dataSeed origin snap s.now), lastOrdinal := some ord,
      firstOrdinal := if r.lastOrdinal.isNone then ord else r.firstOrdinal,
      durable := if r.lastOrdinal.isNone then ord else r.durable, nextOrdinal := none, halted := none,
      verdicts := [], snapNow := false })
    let s3 := stepRecord r dataSeed (resetTumblers h r s2)
    settle h (touchWheels r (selectModes (stashStart h (openLeads h s3))))

/-- The ordinal of the next START_STEP (R169, R179). -/
def nextOrd (r : Recipe) : Nat :=
  match r.nextOrdinal with
  | some n => n
  | none => match r.lastOrdinal with
    | some n => n + 1
    | none => 0

/-- The ordinal of the step that a START_STEP begins next: the halted one again where no update of it was visible (R179,
R358). -/
def nextBegun (r : Recipe) : Nat :=
  match r.halted with
  | some (o, false) => o
  | _ => nextOrd r

/-! ### START_STEP -/

/-- OD 7F.002 runs and has not replanned a wheel of the recipe (R402). -/
def replanHolds (s : State) (r : Recipe) : Bool :=
  match s.warden.run with
  | some o => o.obj == 0x7F002000 && o.ending.isNone && o.todo.any (bitOf r.wheels)
  | none => false

/-- A replan keeps the steps of a recipe from beginning: OD 7F.002 has a wheel of it still to do, or a replan of one is
past event 5 of R400 and not complete (R401, R402). -/
def replanWaits (s : State) (r : Recipe) : Bool :=
  replanHolds s r || (List.range 8).any (fun w => bitOf r.wheels w && replanUpdates s w)

/-- The completion entry of a recipe's last step or RESTORE waits at a full ring (R177, R357). -/
def entryHeld (s : State) (h : Nat) : Bool :=
  s.host.queues.any (fun x => x.held.any (fun e => (leAt e 12 1 == 2 || leAt e 12 1 == 6) && leAt e 8 4 == h &&
    (leAt e 3 1 == 0 || leAt e 3 1 == 2)))

/-- A START_STEP is held: a step or a RESTORE of its recipe runs, or its completion entry is not posted, MAINTENANCE is
being entered, a replan holds it, or an older START_STEP of the recipe waits (R177, R355, R401, R402, R424). -/
def startHeld (s : State) (r : Recipe) (c : HostCmd) : Bool :=
  r.running.isSome || r.restoring.isSome || entryHeld s r.handle || s.life.maintenanceWaiting || replanWaits s r ||
    s.host.cmds.any (fun d => d.opc == 2 && d.recipe == c.recipe && !d.begun && decide (d.order < c.order))

/-- REPEAT is not permitted: no step halted the recipe, or it had UPDATED set (R179, R358). -/
def repeatBad (r : Recipe) : Bool :=
  match r.halted with
  | some (_, upd) => upd
  | none => true

/-- What refuses a START_STEP that would begin now (R19, R179, R358, R364, R390). -/
def startRefusal (s : State) (r : Recipe) (again : Bool) : Option Nat :=
  if ¬ s.serving then some 0x616
  else if again && repeatBad r then some 0x616
  else if ¬ again ∧ r.halted.isSome then some 0x60D
  else if r.bar.isSome then r.bar
  else if s.gate.view.inletHot then some 0x61A
  else none

/-- Begin a START_STEP that is not held, or refuse it. -/
def startNow (c : HostCmd) (s : State) : State :=
  match s.recipe? c.recipe with
  | none => refuse c 0x614 s
  | some r =>
    let again := bitOf (leAt c.entry 1 1) 0
    match startRefusal s r again with
    | some code => refuse c code s
    | none =>
      beginStep r.handle (nextBegun r) (leAt c.entry 8 8) (leAt c.entry 16 8) (.command c.q c.cid) (beginCmd c s)

/-- A retirement waits for the end of the recipe's step. -/
def retiring (s : State) (h : Nat) : Bool := s.host.cmds.any (fun d => d.opc == 3 && d.recipe == h)

/-- START_STEP (R169, R177, R355, R358). -/
def execStartStep (s : State) : Host.Outcome State Fault Refusal :=
  onEntry 2 (fun c s =>
    if ¬ s.serving then refuse c 0x616 s
    else match s.recipe? c.recipe with
      | none => refuse c 0x614 s
      | some r =>
        if retiring s c.recipe then refuse c 0x614 s
        else if startHeld s r c then holdCmd c s else startNow c s) s

/-- START_STEP_HELD_BEGIN (R177, R355, R402): the oldest held START_STEP of a recipe begins. -/
def execStartStepHeldBegin (recipe : Nat) (s : State) : Host.Outcome State Fault Refusal :=
  match s.host.cmds.find? (fun d => d.opc == 2 && d.recipe == recipe && !d.begun), s.recipe? recipe with
  | some c, some r => occurs (!startHeld s r c) (startNow c) s
  | _, _ => .next s

/-! ### The end of a step -/

/-- The START_STEP or RESTORE that a step answers. -/
def originCmd (s : State) (opc q cid : Nat) : Option HostCmd :=
  s.host.cmds.find? (fun d => d.opc == opc && d.q == q && d.cid == cid && d.begun)

/-- A landing still undecided is discarded and its shadows returned; 0x931 posts with the count (R322). -/
def dropLandings (h : Nat) (s : State) : State :=
  match s.recipe? h with
  | none => s
  | some r =>
    if r.landings.isEmpty then s
    else
      let pas := (r.landings.map (fun l => l.shadows.map (fun p => p.pa))).flatten
      post 0x931 0 0 (leBytes 4 r.landings.length) (s.onRecipe h (fun r => { r with
        landings := [], shadowReturning := r.shadowReturning ++ pas }))

/-- The threshold word of an expert ledger, never as valid where its granule is poisoned: free bytes (R135). -/
def ledgerEntry (p : Loc) (s : State) : List Byte :=
  if poisoned s p 8 then (List.range 8).map (Config.freeByte s.free) else locRead s p 8

/-- 0x609 for each ledger entry named and not finalised (R274). -/
def openLedgers (h : Nat) (s : State) : State :=
  match s.recipe? h with
  | none => s
  | some r =>
    match r.running with
    | none => s
    | some u => forEach (u.ledgers.filter (fun l => !l.final)) (fun l s =>
        let e := match translate s r l.addr false with
          | .ok p => ledgerEntry p s
          | .error _ => zeros 8
        (post 0x609 0 0 (slice e 0 4 ++ leBytes 4 l.count ++ slice e 4 4 ++ leBytes 4 u.ordinal) s).drawn) s

/-- Every tumbler of a recipe's reservation, as an image records it (R334). -/
def allTumblers (r : Recipe) : List Tumbler :=
  ((List.range 8).map (fun w => if bitOf r.wheels w then
    (List.range (nth r.tumbCounts w 0)).map (fun i => r.tumbler (w * 8192 + i)) else [])).flatten

/-- Set the pending bits not yet set, in table order, and record the tumblers (R332). -/
def closeSnapshot (h : Nat) (s : State) : State :=
  match s.recipe? h with
  | none => s
  | some r =>
    match r.running with
    | none => s
    | some u =>
      if u.snapshot then
        let s1 := forEach ((List.range r.capt.length).filter (fun i => !(u.pendingSet.contains i))) (setPending h) s
        match captureOfStep s1 h u.ordinal with
        | some c => s1.onImage c.image (fun i => { i with tumblers := allTumblers r })
        | none => s1
      else s

/-- The step has ended: nothing of it stays. -/
def clearStep (h : Nat) (r : Recipe) (s : State) : State :=
  touchWheels r (selectModes (s.onRecipe h (fun r => { r with running := none })))

/-! ### RESTORE results (R342) -/

/-- Write bytes at a near-window address of the recipe, granule by granule. -/
def recipeWrite (h a : Nat) (bs : List Byte) (s : State) : State :=
  (piecesOf a bs.length).foldl (fun s q => match s.recipe? h with
    | none => s
    | some r => match translate s r q.1 true with
      | .ok l => locWrite l (slice bs (q.1 - a) q.2) s
      | .error _ => s) s

/-- Write a tensor section to the buffers of its capture entry (R334, R341 step 2). -/
def writeSection (h : Nat) (c : CaptEntry) (bytes : List Byte) (s : State) : State :=
  ((captBuffers c).foldl (fun acc b => (recipeWrite h b.1 (slice bytes acc.2 b.2.1) acc.1, acc.2 + b.2.1)) (s, 0)).1

/-- The masters of a recipe's capture table are undefined: free values (R342). -/
def loseMasters (h : Nat) (s : State) : State :=
  match s.recipe? h with
  | none => s
  | some r => forEach r.capt (fun c s =>
      (recipeWrite h c.master ((List.range (4 * (c.rows * c.cols))).map (fun k => Config.freeByte s.free k)) s).drawn) s

/-- A restore has ended with a result: the completion entry, or the end of OD 7F.003 (R342, R358, R473). -/
def finishRestore (h code : Nat) (f : Cpl) (s : State) : State :=
  match (s.recipe? h).bind (fun r => r.restoring) with
  | none => s
  | some x =>
    let s1 := s.onRecipe h (fun r => { r with restoring := none })
    let s2 := if code = 0x13 ∨ code = 0x20 ∨ code = 0x21 then post 0xB20 rindUnit 0 (leBytes 8 x.image) s1
      else if code = 0 ∨ code = 1 then post 0xB21 rindUnit 0 (leBytes 8 x.image) s1
      else s1
    match x.origin with
    | .command q cid =>
      match originCmd s2 6 q cid with
      | some c => finish c { f with status := 0, recipe := c.recipe, step := x.step, result := code } s2
      | none => s2
    | .restore _ _ => s2
    | .wardenRestore => s2.onWarden (fun w => { w with run := w.run.map (fun o =>
        { o with ending := some (if code ≤ 1 then 0 else if code = 0x22 ∧ o.aborting.isSome then 2 else 1, 0,
            leBytes 4 code ++ zeros 4 ++ leBytes 8 x.step) }) })

/-- Halt a recipe after a restore that failed: no REPEAT can clear it (R342). -/
def haltRestored (h : Nat) (s : State) : State :=
  s.onRecipe h (fun r => { r with halted := some (nextOrd r, true) })

/-- A restore ends well: d = STEP, images newer than the restored one are freed (R327, R342). -/
def keepRestored (h : Nat) (x : RestoreRun) (s : State) : State :=
  let s1 := s.onRecipe h (fun r => { r with durable := x.step + 1, halted := none })
  s1.onRind (fun i => { i with
    images := i.images.filter (fun j => !((s.recipe? h).any (fun r => imageOf r j) && decide (x.image < j.no)
      && j.state != .capturing))
    committed := i.commitFirst })

/-- An F64 bit pattern is a NaN. -/
def isNan64 (v : Nat) : Bool := decide (0x7FF0000000000000 < v % 2 ^ 63)

/-- The value of finite F64 bits. -/
def rat64 (v : Nat) : Rat :=
  let e := bitsOf v 62 52
  let m := bitsOf v 51 0
  let a : Rat := if e = 0 then (m : Rat) / 2 ^ 1074
    else if e < 1075 then ((m + 2 ^ 52 : Nat) : Rat) / 2 ^ (1075 - e) else ((m + 2 ^ 52 : Nat) : Rat) * 2 ^ (e - 1075)
  if bitOf v 63 then -a else a

/-- The value of finite F32 bits. -/
def rat32 (v : Nat) : Rat :=
  let e := bitsOf v 30 23
  let m := bitsOf v 22 0
  let a : Rat := if e = 0 then (m : Rat) / 2 ^ 149
    else if e < 150 then ((m + 2 ^ 23 : Nat) : Rat) / 2 ^ (150 - e) else ((m + 2 ^ 23 : Nat) : Rat) * 2 ^ (e - 150)
  if bitOf v 31 then -a else a

/-- An F64 infinity. -/
def isInf64 (v : Nat) : Bool := v % 2 ^ 63 == 0x7FF0000000000000

/-- The comparison of the replay's loss with the journal's (R341): exact, or within OD 40.011; a NaN fails. Equal
infinities are within tolerance of each other, an infinity and anything else are not (log entry 12). -/
def lossMatches (tol : Nat) (exact : Bool) (new old : Nat) : Bool :=
  if isNan64 new || isNan64 old then false
  else if exact then new == old
  else if isInf64 new || isInf64 old then new == old
  else decide (|rat64 new - rat64 old| ≤ rat32 tol * |rat64 old|)

/-- The loss of a replay agrees with the journal's (R341). -/
def replayGood (s : State) (r : Recipe) (loss : Option Nat) : Bool :=
  match r.restoring, loss with
  | some x, some l => lossMatches s.warden.stored.tolerance.toNat x.exact l x.loss
  | _, _ => false

/-- The replay step has completed: the result of the comparison is posted; after a mismatch the masters are undefined
(R341, R342). -/
def replayEnd (h : Nat) (good : Bool) (ns : Nat) (s : State) : State :=
  match (s.recipe? h).bind (fun r => r.restoring) with
  | none => s
  | some x =>
    if good then finishRestore h (if x.exact then 0 else 1) { value := ns } (keepRestored h x s)
    else finishRestore h 0x20 { value := ns } (haltRestored h (loseMasters h s))

/-! ### STEP_COMPLETE (R26) -/

/-- A step may complete: every task has ended, no add of the recipe is on its way, and on a snapshot step no bit that
has still to be set is pending from an older image (R26, R332). -/
def stepDone (s : State) (r : Recipe) (u : StepRun) : Bool :=
  u.fault.isNone && decide (u.runs.length = r.tasks.length) && u.runs.all (fun x => !x.live) &&
    !s.chains.any (fun c => c.recipe == r.handle) &&
    (!u.snapshot || (List.range r.capt.length).all (fun i => u.pendingSet.contains i || !r.rindPending.contains i))

/-- Complete a step: its snapshot is closed, what is left open is reported, its journal record is written, and its
completion entry is posted, or the replay's result (R26, R239, R274, R322, R330, R332). The record of a replay is kept
where the replay is good (R342; DEDUCED, log entry 76). -/
def completeStep (h : Nat) (r : Recipe) (u : StepRun) (s : State) : State :=
  let s1 := closeLeads h (releaseAll h (dropLandings h (openLedgers h (closeSnapshot h s))))
  let good := replayGood s1 r (stepLoss s1 r u.ordinal)
  let s2 := if (journalRec s1 r u false).replay && !good then s1
    else markRestorable (appendJournal r (journalRec s1 r u false) s1)
  let s3 := (clearStep h r s2).onRecipe h (fun r => { r with completed := u.ordinal + 1 })
  match u.origin with
  | .command q cid =>
    match originCmd s3 2 q cid with
    | some c => finish c { status := 0, recipe := h, step := u.ordinal, value := s.now - u.start, updated := u.updated,
                           snapshot := u.snapshot } s3
    | none => s3
  | _ => replayEnd h good (s.now - u.start) s3

/-! ### The end of a faulted step (R179) -/

/-- The chained adds of a recipe still on their way are applied whole: their issuers' earlier writes are visible (R426).
Each can set off at most seven more (R166). -/
def flushChains (h : Nat) (s : State) : State :=
  forEach (List.range (8 * s.chains.length)) (fun _ s =>
    match s.chains.find? (fun c => c.recipe == h) with
    | some c => applyChain c { s with chains := s.chains.erase c }
    | none => s) s

/-- Absorb what a step still runs: its started tasks end ABSORBED, the work in progress of every task ends, also of one
that a fault has ended before, its shadows return, its carries and transfers end (R119, R179, R186, R426). -/
def absorbTasks (h : Nat) (s : State) : State :=
  let s1 := forEach (runIds s h) (fun t s =>
    match (s.recipe? h).bind (fun r => r.run? t) with
    | some x =>
      let s1 := returnShadows h t (stopCores h t (stopVatTask h t s))
      if x.started then endTask h t 0x12 s1 else s1
    | none => s) s
  (flushChains h s1).onHinge (fun x => { x with
    xfers := x.xfers.filter (fun y => y.recipe != h), arrived := x.arrived.filter (fun y => y.1 != h) })

/-- Started tasks of a step. -/
def startedTasks (s : State) (h : Nat) : Nat :=
  match (s.recipe? h).bind (fun r => r.running) with
  | some u => (u.runs.filter (fun x => x.started)).length
  | none => 0

/-- End a faulted step after absorption: the completion entry with the first fault, the journal record, the halt
(R179, R322, R330, R333). A replay that ends so leaves no record, and the masters are undefined (R342; DEDUCED, log
entry 76). -/
def endFaulted (h : Nat) (s : State) : State :=
  match s.recipe? h with
  | none => s
  | some r =>
    match r.running with
    | none => s
    | some u0 =>
      let s1 := closeLeads h (releaseAll h (dropLandings h (absorbTasks h s)))
      let s2 := match captureOfStep s1 h u0.ordinal with
        | some c => abandonCapture c s1
        | none => s1
      let r1 := (s2.recipe? h).getD r
      let u := r1.running.getD u0
      let f := u.fault.getD { task := 0xFFFFFFFF, unit := 0, tstatus := 0x12, ufault := 0 }
      let s3 := if (journalRec s2 r1 u true).replay then s2
        else markRestorable (appendJournal r1 (journalRec s2 r1 u true) s2)
      let s4 := (clearStep h r1 s3).onRecipe h (fun r => { r with halted := some (u.ordinal, u.updated) })
      let cpl : Cpl := { status := 2, recipe := h, step := u.ordinal, task := f.task, unit := f.unit,
                         tstatus := f.tstatus, ufault := f.ufault, nfurther := u.nFurther, updated := u.updated,
                         snapshot := u.snapshot, value := s.now - u.start }
      match u.origin with
      | .command q cid =>
        match originCmd s4 2 q cid with
        | some c => finish c cpl s4
        | none => s4
      | _ => finishRestore h 0x21 cpl (haltRestored h (loseMasters h s4))

/-! ### A restore that ends before its replay (R343) -/

/-- Write the first bytes of the masters and moments of an image, in the order of its sections. -/
def writeFirst (h : Nat) (r : Recipe) : List ImgTensor → Nat → State → State
  | [], _, s => s
  | t :: ts, n, s =>
    match r.capt.find? (fun c => c.tensor == t.tensor) with
    | none => writeFirst h r ts n s
    | some c => writeFirst h r ts (n - t.bytes.length) (writeSection h c (t.bytes.take n) s)

/-- The body writes stop where they are, before the replay: how many bytes have been written is a free value, and
nothing is rolled back (R343, R344). -/
def bodyStopped (h : Nat) (s : State) : State :=
  match s.recipe? h with
  | none => s
  | some r =>
    match r.restoring.bind (fun x => if x.replaying then none else s.image? x.image) with
    | none => s
    | some i => writeFirst h r i.tensors (Config.freeNat s.free % (sectionsLength i + 1)) s.drawn

/-- A restore ends before its replay (R342, R343). -/
def stopRestore (h : Nat) (s : State) : State := finishRestore h 0x22 {} (bodyStopped h s)

/-! ### RETIRE_RECIPE (R161, R179, R365) -/

/-- Bytes of cave segments that were never written back are lost: free values (log entry 14). -/
def loseSegments (segs : List Segment) (s : State) : State :=
  forEach (segs.filter (fun g => g.dirty)) (fun g s =>
    let lost := (List.range 65536).map (fun i => Config.freeByte s.free i)
    ({ s with cave := memWrite s.cave (g.seg * 65536) lost }).drawn) s

/-- Remove a recipe and return its reservations (R161). -/
def removeRecipe (h : Nat) (s : State) : State :=
  match s.recipe? h with
  | none => s
  | some r =>
    let s1 := loseSegments r.cave.segments (abandonRecipe h s)
    let free := fun (w : Wheel) => { w with vat := { w.vat with slots := w.vat.slots.filter (fun x => x.2.1 != h) } }
    let s2 := { s1 with
      recipes := s1.recipes.filter (fun x => x.handle != h), chains := s1.chains.filter (fun c => c.recipe != h),
      cores := s1.cores.filter (fun c => c.recipe != h), wheels := s1.wheels.map free }
    let s3 := s2.onHinge (fun x => { x with
      xfers := x.xfers.filter (fun y => y.recipe != h), rx := x.rx.filter (fun y => y.recipe != h),
      arrived := x.arrived.filter (fun y => y.1 != h) })
    selectModes (s3.onGate (fun g => { g with drains := g.drains.filter (fun d => d.scope != Scope.recipe h) }))

/-- Held START_STEPs of a retired recipe complete REFUSED 0x0614 (R365). -/
def refuseHeld (h : Nat) (s : State) : State :=
  forEach (s.host.cmds.filter (fun d => d.opc == 2 && d.recipe == h && !d.begun)) (fun d s => refuse d 0x614 s) s

/-- A running step is ended from outside, as a fault with TSTATUS ABSORBED (R179, R425). -/
def endStepOutside (h : Nat) (s : State) : State :=
  stepFaultOutside h 0x12 s

/-- The recipe has no running step and no RESTORE: it is removed and RETIRE_RECIPE completes. -/
def retireNow (h : Nat) (s : State) : State :=
  let s1 := removeRecipe h s
  match s1.host.cmds.find? (fun d => d.opc == 3 && d.recipe == h) with
  | some c => finish c { status := 0, recipe := h } s1
  | none => s1

/-- Retire a recipe (R179, R365): held START_STEPs are refused, a RESTORE before its replay ends with 0x22, a running
step is drained. -/
def retire (h : Nat) (s : State) : State :=
  let s1 := refuseHeld h s
  match s1.recipe? h with
  | none => s1
  | some r =>
    if r.stepping then endStepOutside h s1
    else if r.running.isSome then s1
    else if r.restoring.isSome then retireNow h (stopRestore h s1)
    else retireNow h s1

/-- RETIRE_RECIPE (R161, R358, R365); a second one of a recipe that is being retired is refused 0x0614. -/
def execRetireRecipe (s : State) : Host.Outcome State Fault Refusal :=
  onEntry 3 (fun c s =>
    let other := s.host.cmds.any (fun d => d.opc == 3 && d.recipe == c.recipe && d.order != c.order)
    if (s.recipe? c.recipe).isNone ∨ other then refuse c 0x614 s else retire c.recipe s) s

/-! ### SNAPSHOT_NOW (R326, R358, R364) -/

/-- SNAPSHOT_NOW: the next step that begins is a snapshot step. -/
def execSnapshotNow (s : State) : Host.Outcome State Fault Refusal :=
  onEntry 5 (fun c s =>
    if ¬ s.serving then refuse c 0x616 s
    else match s.recipe? c.recipe with
      | none => refuse c 0x614 s
      | some r =>
        if retiring s c.recipe then refuse c 0x614 s
        else if ¬ s.warden.stored.rindEnable ∨ r.capt.isEmpty then refuse c 0x617 s
        else finish c { status := 0, recipe := c.recipe, step := nextBegun r }
          (s.onRecipe c.recipe (fun r => { r with snapNow := true }))) s

/-! ### RESTORE (R341 to R344) -/

/-- The image matches the capture table and the reservation (R341 step 1). -/
def tableMatches (r : Recipe) (i : Image) : Bool :=
  i.tensors.all (fun t => r.capt.any (fun c =>
      c.tensor == t.tensor && c.mode == t.mode && c.rows == t.rows && c.cols == t.cols)) &&
    i.tumblers.all (fun t => handleOk r t.handle && (r.tumbler t.handle).kind == t.kind)

/-- The fingerprint of the recipe now equals the image's (R335). -/
def sameFingerprint (s : State) (r : Recipe) (i : Image) : Bool :=
  i.stamp == r.stamp && i.n == (r.job.map (fun j => j.n)).getD 0 && i.rank == (r.job.map (fun j => j.rank)).getD 0 &&
    i.shapes == imageShapes s r

/-- The image that a RESTORE names: any restorable one, or the newest restorable one of the recipe (R340, R341). -/
def restoreImage (s : State) (r : Recipe) (no : Nat) : Option Image :=
  if no = 0 then newestRestorable s r
  else match s.image? no with
    | some i => if restorable s i then some i else none
    | none => none

/-- Check and begin a restore, or the result that ends it at once (R341, R342). -/
def restoreStart (s : State) (r : Recipe) (no : Nat) (origin : StepOrigin) (nandBad : Bool) :
    Except Nat RestoreRun :=
  if r.running.isSome ∨ r.restoring.isSome then .error 0x12
  else match restoreImage s r no with
    | none => .error 0x10
    | some i =>
      if ¬ tableMatches r i then .error 0x11
      else match journalOf s i.crc i.stamp (i.step + 1) with
        | none => .error 0x10
        | some j => .ok { origin := origin, image := i.no, step := i.step, replaying := false, loss := j.loss,
                          exact := sameFingerprint s r i, nandBad := nandBad }

/-- What the NAND reports of a read or write (R345). -/
def nandEvent (n : Nand) (s : State) : State :=
  match n with
  | .ok => s
  | .corrected => postAbove false 1000 (3600 * 10 ^ 9) 1 0xB10 rindUnit 0 [] s
  | .uncorrectable => post 0xB11 rindUnit 0 [] s

/-- RESTORE (R341, R355, R358, R364). -/
def execRestore (nand : Nand) (s : State) : Host.Outcome State Fault Refusal :=
  onEntry 6 (fun c s =>
    if ¬ s.serving then refuse c 0x616 s
    else match s.recipe? c.recipe with
      | none => refuse c 0x614 s
      | some r =>
        if retiring s c.recipe then refuse c 0x614 s
        else if ¬ s.warden.stored.rindEnable ∨ r.capt.isEmpty then refuse c 0x617 s
        else match restoreStart s r (leAt c.entry 8 8) (.command c.q c.cid) (nand == .uncorrectable) with
          | .error code => finish c { status := 0, recipe := c.recipe, result := code } s
          | .ok x => abandonRecipe c.recipe (nandEvent nand (s.onRecipe c.recipe (fun r => { r with
              restoring := some x })))) s

/-- Write the masters and moments of an image; after an uncorrectable read their contents are unknown (R341, R342). -/
def writeBody (h : Nat) (r : Recipe) (i : Image) (bad : Bool) (s : State) : State :=
  forEach i.tensors (fun t s =>
    match r.capt.find? (fun c => c.tensor == t.tensor) with
    | none => s
    | some c =>
      if bad then (writeSection h c ((List.range (sectionBytes c)).map (fun k => Config.freeByte s.free k)) s).drawn
      else writeSection h c t.bytes s) s

/-- The stash stands as after admission (R237, R341 step 3). -/
def resetDemotions (h : Nat) (s : State) : State :=
  onStash h (fun t =>
    let clear := fun (e : StashEntry) => { e with standsDemoted := false }
    { t with entries := t.entries.map clear }) s

/-- An image is marked bad, a change of the directory (R339, R342). -/
def markBad (no : Nat) (s : State) : State :=
  (s.onImage no (fun i => { i with state := .bad })).onRind (fun x => { x with committed := x.commitFirst })

/-- Every recorded tumbler takes its record; a tumbler with none stays as it is (R341). -/
def restoredTumblers (r : Recipe) (i : Image) : List Tumbler :=
  r.tumblers.filter (fun t => !i.tumblers.any (fun x => x.handle == t.handle)) ++ i.tumblers

/-- RESTORE_BODY_WRITTEN (R344 events 2 to 4): the body is written, the tumblers and the ordinal are restored, and the
replay begins; or the read failed (R342). -/
def execRestoreBodyWritten (recipe : Nat) (s : State) : Host.Outcome State Fault Refusal :=
  match s.recipe? recipe with
  | none => .next s
  | some r =>
    match r.restoring with
    | none => .next s
    | some x =>
      match s.image? x.image with
      | none => .next s
      | some i =>
        occurs (!x.replaying && r.running.isNone && !replanWaits s r) (fun s =>
          let s1 := writeBody recipe r i x.nandBad s
          if x.nandBad then
            finishRestore recipe 0x13 {} (haltRestored recipe (markBad x.image s1))
          else
            match journalOf s1 i.crc i.stamp (i.step + 1) with
            | none => finishRestore recipe 0x10 {} s1
            | some j =>
              let s2 := s1.onRecipe recipe (fun r => { r with
                tumblers := restoredTumblers r i, nextOrdinal := some (i.step + 1), completed := i.step + 1,
                restoring := some { x with replaying := true } })
              let origin := match x.origin with
                | .command q cid => StepOrigin.restore q cid
                | o => o
              let s3 := s2.onWarden (fun w => { w with run := w.run.map (fun o =>
                if x.origin = .wardenRestore then { o with committed := true } else o) })
              beginStep recipe (i.step + 1) j.seed j.dataSeed origin (resetDemotions recipe s3)) s

/-! ### QUERY_CAPACITY (R366) -/

/-- Codes of the view's states. -/
def fenceCode : Fence → Nat
  | .usable => 0
  | .fencing => 1
  | .fenced => 2
def portCode : PortState → Nat
  | .down => 0
  | .up4 => 1
  | .up2 => 2
  | .retraining => 3
  | .fencing => 4
  | .fenced => 5
def farCode : FarState → Nat
  | .off => 0
  | .usable => 1
  | .fencing => 2
  | .fenced => 3
  | .training => 0
def wheelCode : WheelState → Nat
  | .usable => 0
  | .fencing => 1
  | .fenced => 2
  | .disabled => 2

/-- The panes that every shape offers, in the bit order of R366. -/
def panesMask (shapes : List (Nat × Nat)) : Nat :=
  let panes := [(0, 0), (1, 0), (1, 1), (2, 0), (2, 1)] ++ (List.range 4).map (fun i => (3, i)) ++
    (List.range 16).map (fun i => (4, i))
  sumNat (panes.zipIdx.map (fun p => if shapes.all (fun sh => (offeredPane sh p.1.1 p.1.2).isSome) then 2 ^ p.2 else 0))

/-- 64 KiB units of a slice that no recipe's extent holds, as a list of units. -/
def curdFreeUnits (s : State) (w : Nat) : List Bool :=
  (List.range (nth s.gate.view.curdUsable w 0 / 65536)).map (fun u =>
    !s.recipes.any (fun r => let e := nth r.curd w (0, 0)
                             decide (e.1 ≤ u) && decide (u < e.1 + e.2)))

/-- The longest run of true. -/
def longestRun (l : List Bool) : Nat :=
  (l.foldl (fun acc b => if b then (acc.1 + 1, max acc.2 (acc.1 + 1)) else (0, acc.2)) (0, 0)).2

/-- Unreserved amount of a per-wheel resource. -/
def unreserved (s : State) (cap : Nat) (f : Recipe → List Nat) (w : Nat) : Nat :=
  cap - sumNat (s.recipes.map (fun r => nth (f r) w 0))

/-- Unpopulated logical indices of a wheel: one for each hoop that runs 15 cores (R5). -/
def unpopulatedOf (v : View) (w : Nat) : Nat :=
  ((List.range 80).filter (fun h => nth v.hoopCores (80 * w + h) 0 == 15)).length

/-- The record of a wheel; FENCE reads FENCING while any pane of its vat is FENCING, and such a pane is offered no more
(R366, R410). -/
def wheelRecord (s : State) (w : Nat) : List Byte :=
  let v := s.gate.view
  let sh := nth v.shapes w (0, 0)
  let us := curdFreeUnits s w
  let panes := panesMask (sh :: (nth v.shrink w none).toList)
  let fence := max (max (wheelCode (nth v.wheels w .fenced)) (fenceCode (nth v.vatFence w .usable)))
    (bit (nth v.shrink w none).isSome)
  padTo 48 (leBytes 2 sh.1 ++ leBytes 2 sh.2 ++ leBytes 4 panes ++ leBytes 1 (bit (s.vat w).held) ++
    leBytes 1 fence ++ leBytes 2 (usableCores v w) ++ leBytes 2 (unpopulatedOf v w) ++
    leBytes 2 (unreserved s 8192 (fun r => r.tumbCounts) w) ++ leBytes 2 (unreserved s 4096 (fun r => r.taskSlots) w) ++
    leBytes 2 (unreserved s 16384 (fun r => r.reqSlots) w) ++ leBytes 2 (nth v.curdUsable w 0 / 65536) ++
    leBytes 2 (us.filter id).length ++ leBytes 2 (longestRun us) ++ leBytes 1 (16 - (s.vat w).slots.length))

/-- Host-space bytes in no owned extent. -/
def hostFree (s : State) : Nat :=
  hostSpaceView s - sumNat (s.recipes.map (fun r => sumNat (r.owned.map (fun e => e.2))))

/-- The 512 bytes of the block (R366). -/
def capacityBlock (s : State) : List Byte :=
  let v := s.gate.view
  padTo 128 (leBytes 8 s.gate.gen ++ leBytes 4 v.capCeiling ++ leBytes 4 s.recipes.length ++ leBytes 8 v.nearUsable ++
      leBytes 8 (hostSpaceView s) ++ leBytes 8 (hostFree s) ++ leBytes 8 v.caveCapacity ++
      leBytes 4 (s.tiers.caveRegion * 1024 - sumNat (s.recipes.map (fun r => r.cave.mib))) ++
      leBytes 1 (fenceCode v.updateEngines) ++ zeros 3 ++
      (List.range 8).map (fun k => BitVec.ofNat 8 (unreserved s 64 (fun r => r.heCtx) k)) ++
      v.ports.map (fun p => BitVec.ofNat 8 (portCode p)) ++ v.far.map (fun p => BitVec.ofNat 8 (farCode p))) ++
    ((List.range 8).map (wheelRecord s)).flatten

/-- QUERY_CAPACITY (R366): the view as one generation, written to the host block. -/
def execQueryCapacity (s : State) : Host.Outcome State Fault Refusal :=
  onEntry 7 (fun c s =>
    let s1 := { s with hostMem := memWrite s.hostMem (leAt c.entry 8 8) (capacityBlock s) }
    finish c { status := 0, gen := s.gate.gen } s1) s

end Sys2Proof.Machine
end

