-- ==== Sys2Proof/Machine/Rind.lean ====
section
/-! DEFINITION. The rind controller's commands (R327, R332 to R340): the capture of an entry, an image that becomes
durable, and the ends of loss-bound waits. -/

namespace Sys2Proof.Machine

/-! ### Capture (R332) -/

/-- Bytes of one buffer of a capture entry, or none where a granule is poisoned or not mapped. -/
def readBuffer (s : State) (r : Recipe) (a n : Nat) : Option (List Byte) :=
  (piecesOf a n).foldl (fun acc q => match acc, translate s r q.1 false with
    | some bs, .ok l => if poisoned s l q.2 then none else some (bs ++ locRead s l q.2)
    | _, _ => none) (some [])

/-- The section of a capture entry: the master, then the moments (R332, R334). -/
def readSection (s : State) (r : Recipe) (c : CaptEntry) : Option (List Byte) :=
  (captBuffers c).foldl (fun acc b => match acc, readBuffer s r b.1 b.2.1 with
    | some bs, some x => some (bs ++ x)
    | _, _ => none) (some [])

/-- The oldest capture of a recipe and its next pending entry, in the order the bits were set (R332). -/
def nextCapture (s : State) (r : Recipe) : Option (Capture × Nat) :=
  match capturesOf s r.handle with
  | [] => none
  | c :: _ => (r.rindPending.find? (fun x => !(c.done.contains x))).map (fun x => (c, x))

/-- One entry is in the controller's write buffer: its bit clears. -/
def captured (c : Capture) (rix : Nat) (e : CaptEntry) (bytes : List Byte) (s : State) : State :=
  let t : ImgTensor := { tensor := e.tensor, mode := e.mode, rows := e.rows, cols := e.cols, bytes := bytes }
  let add := fun (x : Capture) => { x with done := x.done ++ [rix] }
  let s1 := s.onRind (fun x => { x with captures := modFirst (fun y => y.image == c.image) add x.captures })
  (s1.onImage c.image (fun i => { i with tensors := i.tensors ++ [t] })).onRecipe c.recipe
    (fun r => { r with rindPending := r.rindPending.filter (· != rix) })

/-- CAPTURE_ENTRY (R332, R333): the controller reads the next pending entry, while snapshots are enabled. An
uncorrectable NAND error in the body, or a poisoned granule (log entry 13), abandons the image. -/
def execCaptureEntry (recipe : Nat) (n : Nand) (s : State) : Host.Outcome State Fault Refusal :=
  match s.recipe? recipe with
  | none => .next s
  | some r =>
    match nextCapture s r with
    | none => .next s
    | some (c, rix) =>
      match r.capt[rix]? with
      | none => .next s
      | some e => occurs s.warden.stored.rindEnable (fun s =>
          let s1 := nandEvent n s
          match n, readSection s r e with
          | .uncorrectable, _ => abandonCapture c s1
          | _, none => abandonCapture c s1
          | _, some bs => settle recipe (captured c rix e bs s1)) s

/-! ### Durable images (R327, R333, R336) -/

/-- End the loss-bound wait of a recipe that may now begin its update phase: 0xB01 posts, and the time waited is the
WAIT of the image that ended it (R327). The answer is the time in ns. -/
def endLossWait (h : Nat) (s : State) : State × Nat :=
  match s.recipe? h with
  | none => (s, 0)
  | some r =>
    match r.running with
    | none => (s, 0)
    | some u =>
      match u.lossWait with
      | none => (s, 0)
      | some t =>
        if lossBoundMet s r then
          let d := s.now - t
          (post 0xB01 rindUnit 0 (leBytes 4 u.ordinal ++ leBytes 8 d) (s.onStep h (fun u => { u with lossWait := none })), d)
        else (s, 0)

/-- The step of an image has completed: its tumblers are recorded (R332). -/
def imageClosed (s : State) (h step : Nat) : Bool :=
  match (s.recipe? h).bind (fun r => r.running) with
  | some u => u.ordinal != step
  | none => true

/-- The directory entry commits: the image is durable and its bytes stand in the store (R333, R334), waits end, older
images are freed, 0xB00 posts. -/
def makeDurable (c : Capture) (r : Recipe) (i : Image) (s : State) : State :=
  let s1 := s.onRecipe r.handle (fun x => { x with durable := i.step + 1 })
  let p := endLossWait r.handle s1
  let wait := p.2
  let s2 := p.1.onImage c.image (fun x =>
    let y := { x with state := .durable, captureNs := s.now - c.firstPending, waitNs := x.waitNs + wait }
    { y with raw := imageRaw y })
  let s3 := s2.onRind (fun x => { x with captures := x.captures.filter (fun y => y.image != c.image), committed := true })
  let s4 := markRestorable (pruneImages r s3)
  post 0xB00 rindUnit 0 (leBytes 4 i.no ++ leBytes 4 i.step ++ leBytes 4 ((s.now - c.firstPending) / 1000) ++
    leBytes 4 (wait / 1000)) s4

/-- IMAGE_DURABLE (R333): every section of the oldest image under capture is written and its directory entry is
committed, while snapshots are enabled. -/
def execImageDurable (recipe : Nat) (s : State) : Host.Outcome State Fault Refusal :=
  match s.recipe? recipe, (capturesOf s recipe).head? with
  | some r, some c =>
    match s.image? c.image with
    | none => .next s
    | some i => occurs (s.warden.stored.rindEnable && decide (c.done.length = r.capt.length) &&
        imageClosed s recipe i.step) (makeDurable c r i) s
  | _, _ => .next s

end Sys2Proof.Machine
end

