-- ==== Sys2Proof/Machine/Halt.lean ====
section
/-! DEFINITION. What ends recipes from outside: the host-function reset (R367, R515), the halt of R391, the loss of
the main rails (R372, R425, R428), and the commands that meet them: HOST_FUNCTION_RESET, HOST_LINK_TRAINING,
HOST_LINK_ERROR. -/

namespace Sys2Proof.Machine

/-- Unit ID of the host interface (R477). -/
def hostUnit : Nat := unitId 0xB 0 0

/-! ### The host function (R367) -/

/-- The bytes of the MSI-X table after reset, every vector masked (R348; log entry 8). -/
def msixResetBytes : List Byte := (List.replicate 64 (zeros 12 ++ leBytes 4 1)).flatten

/-- The registers of the function at reset values, its queues disabled and emptied; RESET sets (R367). -/
def resetHostRegs (h : HostIf) : HostIf :=
  { h with hostPower := .d0, rdy := false, resetting := true, bar2Base := 0, droppedDb := 0, bar0 := memWrite h.bar0 0x20000 msixResetBytes,
           pba := 0, queues := List.replicate 16 Queue.reset, cmds := [], turn := 0 }

/-- The Event Tray registers at reset values; ET_LOST keeps its count (R367, R478, R479). -/
def resetTrayRegs (e : Events) : Events :=
  { e with base := 0, cfg := 0, en := false, cfgErr := false, full := false, tail := 0, head := 0, unsignalled := 0,
           firstUnsignalled := none }

/-- The Mailbox registers at reset values; subscriptions of the Mailbox end (R444, R446). -/
def resetMailbox (w : Warden) : Warden :=
  { w with mbCfg := 0, reqTail := 0, reqHead := 0, rspTail := 0, rspHead := 0, ntfTail := 0, ntfHead := 0,
           ntfDropped := 0, subs := w.subs.filter (fun x => !x.peer.mailbox) }

/-- Every register of the host function returns to its reset value (R367). -/
def resetFunction (s : State) : State :=
  ((s.onHost resetHostRegs).onEvents resetTrayRegs).onWarden resetMailbox

/-- The reset of the host function is complete once every recipe is retired; RDY sets again where the present bring-up
has reached a state that sets it (R349, R367). -/
def hostResetDone (s : State) : State :=
  if s.host.resetting && s.recipes.isEmpty then
    s.onHost (fun h => { h with resetting := false, rdy := s.life.reached })
  else s

/-- The drain of a recipe's step is the host-function reset's: the recipe is retired at its end. -/
def markHostReset (h : Nat) (s : State) : State :=
  let mark := fun (d : Drain) => if d.scope == Scope.recipe h then { d with kind := .hostReset } else d
  s.onGate (fun g => { g with drains := g.drains.map mark })

/-- One recipe ends with the host function: its running step under R179, and the recipe is retired. -/
def endForReset (h : Nat) (s : State) : State :=
  match s.recipe? h with
  | none => s
  | some r =>
    if r.stepping then markHostReset h (endStepOutside h s)
    else if r.running.isSome then markHostReset h s
    else if r.restoring.isSome then removeRecipe h (stopRestore h s)
    else removeRecipe h s

/-- The host function resets (R367): 0x422 posts, the registers and queues reset, every recipe ends. -/
def hostReset (s : State) : State :=
  let s1 := resetFunction (post 0x422 hostUnit 0 [] s)
  hostResetDone (forEach (s1.recipes.map (fun r => r.handle)) endForReset s1)

/-- The host link drops (R367). -/
def dropLink (s : State) : State :=
  if s.host.linkUp then hostReset (s.onHost (fun h => { h with linkUp := false, qualified := false })) else s

/-- HOST_FUNCTION_RESET (R367, R515): a function level reset keeps the link; a hot reset, PERST_N and a loss of the
link drop it. -/
def execHostFunctionReset (cause : HostResetCause) (s : State) : Host.Outcome State Fault Refusal :=
  occurs s.host.linkUp (fun s => match cause with
    | .flr => hostReset s
    | _ => dropLink s) s

/-! ### Link training and errors (R346, R368, R420) -/

/-- The host link has trained, from when its errors are counted (R465): below 64 GT/s x16 it carries all functions,
posts 0x420 and degrades (R346). -/
def linkTrained (width rate : Nat) (qualified : Bool) (s : State) : State :=
  let s1 := s.onHost (fun h => { h with
    linkUp := true, width := width, rate := rate, qualified := qualified, corrErr := 0, uncorrErr := 0 })
  if width < 16 ∨ rate < 64 then post 0x420 hostUnit 0 (leBytes 1 width ++ leBytes 1 rate) s1 else s1

/-- HOST_LINK_ERROR (R368, R465): correctable errors are counted and judged by the hour; an uncorrectable one posts. -/
def execHostLinkError (correctable : Bool) (s : State) : Host.Outcome State Fault Refusal :=
  occurs s.host.linkUp (fun s =>
    if correctable then
      postAbove false 1000 (3600 * 10 ^ 9) 1 0x423 hostUnit 0 []
        (s.onHost (fun h => { h with corrErr := satAdd 32 h.corrErr 1 }))
    else post 0x424 hostUnit 0 [] (s.onHost (fun h => { h with uncorrErr := satAdd 32 h.uncorrErr 1 }))) s

/-! ### The main rails go off -/

/-- A wheel without its rails: the vat and the hoops' pick logic as after a reset (R97, R425); what the management
plane keeps of the wheel stays. -/
def wheelDark (w : Wheel) : Wheel :=
  let unpin := fun (q : Hoop) => { q with pin := none }
  { w with vat := { Vat.reset with starvation := w.vat.starvation }, hoops := w.hoops.map unpin, scratchOwner := [],
           bankList := [], resetTest := false }

/-- A hinge port without power keeps the counts of its traffic (R460); a fence stands until the next device reset
(R295). -/
def portDark (q : HingePort) : HingePort :=
  { HingePort.reset with state := if q.state = .fenced then .fenced else .down, corrected := q.corrected,
                         uncorrectable := q.uncorrectable, replays := q.replays }

/-- A far port without power. -/
def farDark (p : FarPort) : FarPort := { p with state := if p.state = .fenced then .fenced else .off }

/-- Fences of hinge ports and far ports are cleared (R295, R425). -/
def clearFences (s : State) : State :=
  { (s.onHinge (fun h => { h with ports := h.ports.map (fun q => { portDark q with state := .down }) })) with
    farPorts := s.farPorts.map (fun p => { p with state := .off }) }

/-- The counters of volatile objects restart from zero: those of the hinge ports, and the vats' starvation counts
(R460). -/
def restartCounts (s : State) : State :=
  let port := fun (q : HingePort) => { q with corrected := 0, uncorrectable := 0, replays := 0 }
  let wheel := fun (w : Wheel) => { w with vat := { w.vat with starvation := 0 } }
  { (s.onHinge (fun h => { h with ports := h.ports.map port })) with wheels := s.wheels.map wheel }

/-- The units that the main rails feed lose their state: no recipe's work is left, the memory tiers, the hinge ports
and the far ports are as before bring-up (R372, R425); what the cave holds is open from then (log entry 17). -/
def darkState (s : State) : State :=
  { s with
    near := [], dev := [], cave := [], recipes := [], chains := [], cores := [], tiers := { Tiers.reset with caveGen := s.tiers.caveGen + 1 },
    wheels := s.wheels.map wheelDark, flushing := none, farPorts := s.farPorts.map farDark,
    hinge := { Hinge.reset with nextTag := s.hinge.nextTag, ports := s.hinge.ports.map portDark },
    life := { s.life with supervisorLoaded := false } }

/-- The admission view with nothing in service; the ceiling and the inlet condition are those that the governor holds
(R376, R390). -/
def darkView (c : Nat) (hot : Bool) (g : Gate) : Gate :=
  { g with pending := [], drains := [],
           view := { View.reset with capCeiling := c, inletHot := hot } }

/-- The main rails are off: issue gates closed, rails at zero, droop and pulls ended. -/
def darkPower (p : Power) : Power :=
  { p with rails := false, railTarget := List.replicate 34 0, gatesClosed := true, droop := [], deferred := [],
           pulled := [], hot := [], wheelsOff := [], hbmSlow := false, duty := List.replicate 16 1000, vc := 720,
           credit := 0, pLim := 0, paceLost := false, creditOut := none, halved := false, activity := [],
           activityDuty := List.replicate 16 1000 }

/-- The hours of the present power-on are added before the rails go off (R411). -/
def bankHours (s : State) : State :=
  if s.power.rails then s.onAgeing (fun a => { a with poweredNs := a.poweredNs + (s.now - s.power.railsSince) }) else s

/-- The conditions of the governor's detectors are absent with the rails off: episodes of 0x102, 0x120 and 0x121 have
their own clearing conditions and end, and those of 0x000 and 0x031 end when the condition has been absent for 1 s
(R385, R386, R484). -/
def darkEpisodes (now : Nat) (e : Events) : Events :=
  { e with episodes := (e.episodes.filter (fun x => !([0x102, 0x120, 0x121].contains x.1.1))).map (fun x =>
      if (x.1.1 = 0x000 ∨ x.1.1 = 0x031) ∧ x.2 = none then (x.1, some now) else x) }

/-- The main rails go off, and the host link drops with them. -/
def railsOff (s : State) : State :=
  hostResetDone ((((darkState (dropLink (bankHours s))).onGate (darkView s.power.ceiling s.power.inletHot)).onPower
    darkPower).onEvents (darkEpisodes s.now))

/-! ### Recipes lost, and recipes ended by a halt -/

/-- The journal record of a running step as it stands, with faulted set (R338). -/
def journalLoss (r : Recipe) (s : State) : State :=
  match r.running with
  | none => s
  | some u => appendJournal r (journalRec s r u true) s

/-- Every recipe is lost with the device state, with no completion (R372, R425); the captures are abandoned (R333). -/
def loseRecipes (s : State) : State :=
  let s1 := abandonAll s
  { s1 with recipes := [], chains := [], cores := [] }

/-- A running operation of the Warden is abandoned: it ends with failure (R429; log entry 18). A firmware activation
goes on: past its commit point the switch stands, and before it the checks of R494 find what has changed (R495, R513). -/
def dropRun (s : State) : State :=
  let drop := fun (o : RunOp) =>
    if o.obj = 0x7F001000 then o else { o with ending := some (o.ending.getD (1, 0x0616, [])) }
  s.onWarden (fun w => { w with run := w.run.map drop })

/-- A running step ends with no drain: its tasks are halted, its START_STEP completes STEP_FAULT with TSTATUS ABSORBED
whatever fault came before (R391 event 3). -/
def haltStep (h : Nat) (s : State) : State :=
  endFaulted h (s.drawn.drawn.onStep h (fun u => { u with fault := some (outsideFault s 0x12) }))

/-- One recipe is retired by a halt: held START_STEPs are refused, a RESTORE ends, the step ends (R391, R365). -/
def haltRecipe (h : Nat) (s : State) : State :=
  let s1 := refuseHeld h s
  match s1.recipe? h with
  | none => s1
  | some r =>
    if r.running.isSome then retireNow h (haltStep h s1)
    else if r.restoring.isSome then retireNow h (stopRestore h s1)
    else retireNow h s1

/-- The last-line response (R391): gates closed, vats and cores halted with no drain, every running START_STEP
completed, every recipe retired, main rails off, HALTED_COOLANT entered and OD 20.000 cleared; a reset or disable that
runs is abandoned (R429). -/
def coolantHalt (cause : HaltCause) (injected : Bool) (s : State) : State :=
  let s1 := (s.onPower (fun p => { p with gatesClosed := true })).onGate (fun g => { g with drains := [] })
  let s2 := forEach (s1.recipes.map (fun r => r.handle)) haltRecipe { s1 with cores := [] }
  let s3 := (railsOff (dropRun s2)).onPower (fun p => { p with haltCause := cause, haltInjected := injected })
  ((s3.onStored (fun t => { t with devEnable := false })).onLife (fun l => { l with
    stage := none, maintenanceWaiting := false })).enter .haltedCoolant

end Sys2Proof.Machine
end

