-- ==== Sys2Proof/Machine/Power.lean ====
section
/-! DEFINITION. Power, cap, droop and coolant (R369 to R395): the governor's refresh, the cap ceiling, the measured
samples, droop, the regional limits, the coolant inlet, and the loss and return of the input. -/

namespace Sys2Proof.Machine

/-- Unit ID of a power domain (R374, R477). -/
def domUnit (d : Nat) : Nat := unitId 0xD 0 d

/-! ### Domains, floors and privilege (R374, R381, R382) -/

/-- The rail floor of a governed domain (R398). -/
def floorOf (s : State) (d : Nat) : Nat := (nth s.ageing.plans d Plan.reset).floor

/-- The highest rail target that the governor sets: OD 10.061, rounded down to the 5 mV steps of the rails (R374). -/
def railLimit (s : State) : Nat := s.warden.stored.railMax / 5 * 5

/-- The highest rail of a governed domain: OD 10.061, or the floor where it lies above (R374, R398). -/
def ceilOf (s : State) (d : Nat) : Nat := max (floorOf s d) (railLimit s)

/-- A governed domain has its rail: domains 0–15 of wheels with their rails on (R374, R415, R428). -/
def governed (s : State) (d : Nat) : Bool :=
  decide (d < 16) && !(s.power.wheelsOff.contains (d % 8)) && !(s.life.failedRails.contains d)

/-- The governed domains. -/
def governedDomains (s : State) : List Nat := (List.range 16).filter (governed s)

/-- A domain is in a pair that is pulled together (R386). -/
def beingPulled (s : State) (d : Nat) : Bool :=
  s.power.pulled.any (fun p => match p with
    | (.rail, a, b) => d == a || d == b
    | (.temperature, a, b) => d % 8 == a || d % 8 == b)

/-- Domains that the CRIT bits of the admitted recipes name, in order of admission and wheel number; the first two are
honoured (R362, R382). -/
def critDomains (s : State) : List Nat :=
  ((s.recipes.map (fun r => ((List.range 8).map (fun w =>
      (if bitOf (nth r.crit w 0) 0 then [w] else []) ++ (if bitOf (nth r.crit w 0) 1 then [w + 8] else []))).flatten)).flatten
    ).eraseDups.take 2

/-- The privileged domains: not one that is over its junction limit or being pulled (R382, R385, R386). -/
def privileged (s : State) : List Nat :=
  (critDomains s).filter (fun d => !beingPulled s d && !s.power.hot.contains d)

/-- The wheels lie in two rows, 0–3 over 4–7: w neighbours w ± 1 in its row and w ± 4 (R386). -/
def neighbours (a b : Nat) : Bool := (a / 4 == b / 4 && (a + 1 == b || b + 1 == a)) || a + 4 == b || b + 4 == a

/-! ### Rail steps and droop (R375, R388) -/

/-- A domain droops, or cleared less than 50 µs ago (R388). -/
def droopHolds (s : State) (d : Nat) : Bool :=
  s.power.droop.contains d || match s.power.droopClear.find? (fun p => p.1 == d) with
    | some p => decide (s.now < p.2 + 50000)
    | none => false

/-- Apply one rail step of a domain that has its rail; while the Pace Line keep-alive is lost every rail target is held
at its last value (R24). -/
def applyStep (d : Nat) (mv : Int) (s : State) : State :=
  if s.power.paceLost || !governed s d then s
  else s.onPower (fun p => { p with railTarget := modAt p.railTarget d (fun v => ((v : Int) + mv).toNat) })

/-- Switch the HBM islands to 6.4 or back to 8.0 Gb/s; 0x002 posts each step down (R381). -/
def applyIslands (slow : Bool) (s : State) : State :=
  let s1 := s.onPower (fun p => { p with hbmSlow := slow })
  if slow then wpost 0x002 (domUnit 25) 0 [] s1 else s1

/-- A rail step of a domain: at once, or deferred while the domain droops (R388); none while the targets are held
(R24), nor while a step of the domain is deferred, which goes first. -/
def stepRail (d : Nat) (mv : Int) (s : State) : State :=
  if s.power.paceLost || s.power.deferred.any (fun q => q.1 == d) then s
  else if droopHolds s d then s.onPower (fun p => { p with deferred := p.deferred ++ [(d, mv, s.now)] })
  else applyStep d mv s

/-- A clock step of the HBM islands: at once, or deferred while any vat or hoop domain droops (R388). The deferred
entry names domain 25, with −1 for a step down. -/
def stepIslands (slow : Bool) (s : State) : State :=
  if s.power.deferred.any (fun q => q.1 == 25) then s
  else if (List.range 16).any (droopHolds s) then
    s.onPower (fun p => { p with deferred := p.deferred ++ [(25, if slow then -1 else 1, s.now)] })
  else applyIslands slow s

/-- DEFERRED_RATE_STEP (R388): 50 µs after droop has cleared, and for a rail step once refreshes have resumed (R24);
one deferred longer than 5 ms is reported once per episode, and with it the condition is absent again. -/
def execDeferredRateStep (d : Nat) (s : State) : Host.Outcome State Fault Refusal :=
  match s.power.deferred.find? (fun q => q.1 == d) with
  | none => .next s
  | some q =>
    occurs (if d = 25 then !(List.range 16).any (droopHolds s) else !droopHolds s d && !s.power.paceLost) (fun s =>
      let s1 := s.onPower (fun p => { p with deferred := p.deferred.erase q })
      let s2 := if d = 25 then applyIslands (decide (q.2.1 < 0)) s1 else applyStep d q.2.1 s1
      if q.2.2 + 5 * 10 ^ 6 < s.now then absentEpisode 0x031 (domUnit d) (postEpisode true 0x031 (domUnit d) 0 [] s2)
      else s2) s

/-- DROOP_BEGIN (R387): the issue gate spaces the domain; 0x030 posts once per minute above 1,000 episodes in a
second, and each further second of that minute that exceeds them is counted (R484). -/
def execDroopBegin (d : Nat) (s : State) : Host.Outcome State Fault Refusal :=
  occurs (s.power.rails && governed s d && !s.power.droop.contains d) (fun s =>
    let sec := s.now / 10 ^ 9
    let minute := s.now / (60 * 10 ^ 9) + 1
    let old := look s.power.droopCount d (sec, 0, 0)
    let n := if old.1 = sec then old.2.1 + 1 else 1
    let due := decide (1000 < n) && decide (old.2.2 ≠ minute)
    let s1 := s.onPower (fun p => { p with
      droop := p.droop ++ [d], droopCount := put p.droopCount d (sec, n, if due then minute else old.2.2) })
    if due then post 0x030 (domUnit d) 0 (leBytes 4 n) s1 else if n = 1001 then countDet 0x030 s1 else s1) s

/-- DROOP_CLEAR (R387): the gate returns to the Pace Line duty. -/
def execDroopClear (d : Nat) (s : State) : Host.Outcome State Fault Refusal :=
  occurs (s.power.droop.contains d) (fun s => s.onPower (fun p => { p with
    droop := p.droop.filter (· != d), droopClear := put p.droopClear d s.now })) s

/-! ### The cap ceiling (R376, R379, R384) -/

/-- A hinge task holds a started collective or expert operation: the order in which it began (R384). -/
def collectiveBegan (r : Recipe) (x : TaskRun) : Option Nat :=
  match r.tasks[x.idx]? with
  | some k =>
    if k.cls = 3 && x.started then
      (x.descs.zipIdx.filter (fun p => p.1.phase == .begun &&
        (let op := opOf (descWords (descBytes r k p.2 128))
         decide (2 ≤ op) && decide (op ≤ 8)))).head?.map (fun p => p.1.began)
    else none
  | none => none

/-- The busy hinge contexts: order begun and JOB_TAG of each. -/
def busyContexts (s : State) : List (Nat × Nat) :=
  (s.recipes.map (fun r => match r.running with
    | some u => u.runs.filterMap (fun x => (collectiveBegan r x).map (fun n => (n, (r.job.map (fun j => j.tag)).getD 0)))
    | none => [])).flatten

/-- The JOB_TAG of the oldest busy context. -/
def oldestTag (l : List (Nat × Nat)) : Nat :=
  match l with
  | [] => 0
  | p :: ps => (ps.foldl (fun a b => if b.1 < a.1 then b else a) p).2

/-- 0x020 for a cap that falls while collectives run (R384). -/
def cappedInCollective (old new : Nat) (s : State) : State :=
  let busy := busyContexts s
  if busy.isEmpty then s
  else wpost 0x020 0 0 (leBytes 4 new ++ leBytes 4 old ++ leBytes 4 busy.length ++ leBytes 4 (oldestTag busy)) s

/-- The cap ceiling follows OD 10.010 and the inlet limit (R376, R379): a lower one takes the credit to min(B, 0),
bars the recipes above it and reports the collectives under way. A ceiling below the declared power class of a recipe
takes the two updates of R19: the first lowers it and sets the bars, the second follows with nothing to drain. -/
def setCeiling (s : State) : State :=
  let new := min s.warden.stored.cap s.power.inletLimit
  let old := s.power.ceiling
  if new = old then s
  else
    let s1 := s.onPower (fun p => { p with ceiling := new, credit := if new < old then min p.credit 0 else p.credit })
    let s2 := if new < old then cappedInCollective old new s1 else s1
    let s3 := queueUpdate { bar := if new < old then some (.cap new) else none, changes := [.capCeiling new], drain := none,
                            post := none } s2
    if s.recipes.any (fun r => decide (new < r.powerW)) then queueUpdate (viewChange []) s3 else s3

/-! ### The governor (R23, R377, R380, R381) -/

/-- Modelled power of a domain in W (R380): its activity count of 10 µs times the energy per event, and its static
power, both at its rail and its hottest junction, and for an ungoverned domain its fixed share. -/
def domainModel (s : State) (act : List Nat) (d : Nat) : Rat :=
  let mv := nth s.power.railTarget d 0
  let t := (look s.power.junction d (0, 0)).1
  (nth act d 0 * Config.eventEnergy d mv t : Nat) / 10 ^ 7 + (Config.staticPower d mv t : Rat) / 1000 +
    if d < 16 then 0 else (Config.fixedShare d s.power.hbmSlow : Rat) / 1000

/-- Estimate of a domain in W, calibrated (R380). -/
def domainEstimate (s : State) (act : List Nat) (d : Nat) : Rat := s.power.gain * domainModel s act d

/-- Sum of the estimates of some domains. -/
def estimateOf (s : State) (act : List Nat) (ds : List Nat) : Rat := (ds.map (domainEstimate s act)).sum

/-- The estimate before the gain: every domain, and the conversion loss at the current they draw from the 54 V bus
(R380). -/
def unscaledEstimate (s : State) (act : List Nat) : Rat :=
  let p := ((List.range 34).map (domainModel s act)).sum
  p + (Config.conversionLoss (p / 54) : Rat)

/-- The estimate P (R380). -/
def totalEstimate (s : State) (act : List Nat) : Rat := s.power.gain * unscaledEstimate s act

/-- The measured input power as it was 1 ms ago (R377). -/
def measuredLate (s : State) : Rat :=
  match s.power.measHist.find? (fun e => decide (e.1 + 10 ^ 6 ≤ s.now)) with
  | some e => e.2
  | none => s.power.measured

/-- The credit after a period of 10 µs, and the limit of the next (R377); with the measurement, delayed by
1 ms, in place of the estimate and the limit 2% lower while 0x010 is active. -/
def creditStep (s : State) (p : Rat) : Rat × Rat :=
  let c : Rat := s.power.ceiling
  let bmax := c * s.warden.stored.window / 100
  let used := if s.power.disagree then measuredLate s else p
  let b := min bmax (s.power.credit + (99 / 100 * c - used) / 100000)
  let lim := if b < -1 then 9 / 10 * c else if 0 < b then 105 / 100 * c
    else max (9 / 10 * c) (99 / 100 * c + b * 10)
  (b, if s.power.disagree then lim * 98 / 100 else lim)

/-- Scale a duty. -/
def scaleDuty (q : Rat) (duty : Nat) : Nat := min 1000 (max 0 (q * duty)).floor.toNat

/-- The share to which the duty of some domains is cut so that the power fits a limit. -/
def cutShare (lim total part : Rat) : Rat := if part ≤ 0 then 1 else max 0 (min 1 ((lim - (total - part)) / part))

/-- A privileged domain may be raised: below v_c + shift and OD 10.061, and no more than 90 mV above a neighbour of its
kind (R381, R382). -/
def mayRaise (s : State) (d : Nat) : Bool :=
  let v := nth s.power.railTarget d 0
  decide (v + 5 ≤ min (s.power.vc + s.warden.stored.shift) (railLimit s)) &&
    (governedDomains s).all (fun n => !(n / 8 == d / 8 && neighbours (n % 8) (d % 8)) ||
      decide (v + 5 ≤ nth s.power.railTarget n 0 + 90))

/-- The highest floor of an unprivileged domain (R381). -/
def highestFloor (s : State) : Nat :=
  ((governedDomains s).filter (fun d => !(privileged s).contains d)).foldl (fun m d => max m (floorOf s d)) 0

/-- One step down for the cap (R381). -/
def stepDown (s : State) : State :=
  if highestFloor s < s.power.vc then s.onPower (fun p => { p with vc := p.vc - 5 })
  else match (privileged s).find? (fun d => decide (floorOf s d < nth s.power.railTarget d 0)) with
    | some d => stepRail d (-5) s
    | none => if s.power.hbmSlow then s else stepIslands true s

/-- The power with the HBM islands at 8.0 Gb/s fits below 98% of the limit (R381). -/
def fastFits (act : List Nat) (s : State) : Bool :=
  decide (totalEstimate (s.onPower (fun p => { p with hbmSlow := false })) act < 98 / 100 * s.power.pLim)

/-- One step up where duty is full (R381). -/
def stepUp (act : List Nat) (s : State) : State :=
  if s.power.hbmSlow && fastFits act s then stepIslands false s
  else match (privileged s).find? (mayRaise s) with
    | some d => stepRail d 5 s
    | none => if s.power.vc + 5 ≤ railLimit s then s.onPower (fun p => { p with vc := p.vc + 5 }) else s

/-- Lower a rail one step, to no lower than its floor. -/
def lowerRail (d : Nat) (s : State) : State :=
  if floorOf s d + 5 ≤ nth s.power.railTarget d 0 then stepRail d (-5) s else s

/-- Move an unprivileged domain one step towards v_c, within its floor and maximum (R375, R381); one over its junction
limit is held below v_c (R385). -/
def follow (d : Nat) (s : State) : State :=
  let v := nth s.power.railTarget d 0
  if s.power.hot.contains d then (if s.power.vc ≤ v then lowerRail d s else s)
  else if beingPulled s d || (privileged s).contains d then s
  else
    let want := max (floorOf s d) (min s.power.vc (ceilOf s d))
    if v + 5 ≤ want then stepRail d 5 s else if want + 5 ≤ v then stepRail d (-5) s else s

/-- A privileged domain whose rail exceeds a neighbour's of its kind by more than 90 mV goes down a step with it
(R382). -/
def nearNeighbours (s : State) : State :=
  forEach (privileged s ++ privileged s) (fun d s =>
    if (governedDomains s).any (fun n => n / 8 == d / 8 && neighbours (n % 8) (d % 8) &&
        decide (nth s.power.railTarget n 0 + 90 < nth s.power.railTarget d 0)) then stepRail d (-5) s else s) s

/-- The allocation of a period (R381); below −1 J the duty of every vat and hoop domain is half of what the limit allows
(R377). -/
def allocate (act : List Nat) (p : Rat) (s : State) : State :=
  let gov := governedDomains s
  let k : Nat := if s.power.halved then 2 else 1
  let total := p + (k - 1 : Rat) * estimateOf s act gov
  let part := (k : Rat) * estimateOf s act (gov.filter (fun d => !(privileged s).contains d))
  let lim := s.power.pLim
  let base := s.power.duty.map (fun v => min 1000 (k * v))
  let q := cutShare lim total part
  let duty := if lim < total then base.mapIdx (fun d v => if (privileged s).contains d then v else scaleDuty q v)
    else if total < 98 / 100 * lim then base.map (fun v => min 1000 (v + 125)) else base
  let s1 := if lim < total then stepDown s
    else if total < 98 / 100 * lim && duty.all (· == 1000) then stepUp act s else s
  let half := decide (s.power.credit < -1)
  nearNeighbours (forEach gov follow (s1.onPower (fun x => { x with
    duty := if half then duty.map (· / 2) else duty, halved := half })))

/-- 0x000 posts once for an episode of exhausted credit that lasts more than 1 s (R395). -/
def creditEpisode (s : State) : State :=
  if 0 < s.power.credit then absentEpisode 0x000 0 (s.onPower (fun p => { p with creditOut := none }))
  else match s.power.creditOut with
    | none => s.onPower (fun p => { p with creditOut := some s.now })
    | some t => if t + 10 ^ 9 < s.now then postArising true 0x000 0 0 [] s else s

/-- PACE_LINE_REFRESH (R23, R375 to R382): activity counts come back, the estimate, the credit and the limit are
formed, and the period is allocated. -/
def execPaceLineRefresh (activity : List Nat) (s : State) : Host.Outcome State Fault Refusal :=
  occurs (s.power.rails && s.warden.up) (fun s =>
    let p := totalEstimate s activity
    let bl := creditStep s p
    let s1 := s.onPower (fun x => { x with
      activity := activity, activityDuty := x.duty, estimate := p, unscaled := unscaledEstimate s activity,
      estHist := (s.now, p) :: x.estHist.filter (fun e => decide (s.now < e.1 + 10 ^ 10)), credit := bl.1, pLim := bl.2,
      paceLost := false, lastRefresh := s.now })
    creditEpisode (allocate activity p s1)) s

/-- PACE_LINE_KEEPALIVE_LOSS (R24): no refresh for 20 ms; rails hold, and the duty of every domain is cut to the share
of the duty its counted activity ran at that brings the estimate, at the present rails and gain, to 4,000 W, where it
is not below that already. -/
def execPaceLineKeepaliveLoss (s : State) : Host.Outcome State Fault Refusal :=
  occurs (s.power.rails && !s.power.paceLost && decide (s.power.lastRefresh + 20 * 10 ^ 6 ≤ s.now)) (fun s =>
    let part := estimateOf s s.power.activity (governedDomains s)
    let q := cutShare 4000 (totalEstimate s s.power.activity) part
    let cut := fun (d v : Nat) => min v (scaleDuty q (nth s.power.activityDuty d 1000))
    post 0x510 0 0 [] (s.onPower (fun p => { p with paceLost := true, duty := p.duty.mapIdx cut }))) s

/-! ### Measurement (R378, R380) -/

/-- The judgement of a whole second's averages (R380). -/
def judgeSecond (s : State) : State :=
  let m := s.power.sumMeasured / 1000
  let diff := |m - s.power.sumEstimate / 1000|
  let s1 := s.onPower (fun p => { p with sumMeasured := 0, sumEstimate := 0, nSamples := 0 })
  if s.power.disagree then
    if 4 / 100 * m ≤ diff then s1.onPower (fun p => { p with agreeSince := none })
    else match s.power.agreeSince with
      | none => s1.onPower (fun p => { p with agreeSince := some s.now })
      | some t => if t + 10 * 10 ^ 9 ≤ s.now then
          s1.onPower (fun p => { p with disagree := false, agreeSince := none, differSince := none }) else s1
  else if diff ≤ 8 / 100 * m then s1.onPower (fun p => { p with differSince := none })
  else match s.power.differSince with
    | none => s1.onPower (fun p => { p with differSince := some s.now })
    | some _ => wpost 0x010 0 0 [] (s1.onPower (fun p => { p with disagree := true, agreeSince := none }))

/-- The gain after a sample: a first-order filter of 2 s at 1 kHz, clamped to 0.80–1.25 (R380). -/
def nextGain (g watts unscaled : Rat) : Rat :=
  if unscaled ≤ 0 then g else max (8 / 10) (min (125 / 100) (g + (watts / unscaled - g) / 2000))

/-- Within the operating range of the input (R369). -/
def inRange (volts : Rat) : Bool := decide (260 ≤ volts) && decide (volts ≤ 410)

/-- The input voltage as it is seen now, with 0x011 where it leaves the operating range (R369, R395). -/
def voltsSeen (volts : Rat) (s : State) : State :=
  let s1 := s.onPower (fun p => { p with volts := volts })
  if inRange s.power.volts && !inRange volts then wpost 0x011 0 0 [] s1 else s1

/-- SHUNT_SAMPLE (R380): a 1 kHz sample of the input, its voltage and its power. -/
def execShuntSample (volts watts : Rat) (s : State) : Host.Outcome State Fault Refusal :=
  occurs (s.power.aux && s.power.input) (fun s0 =>
    let s := voltsSeen volts s0
    let p := s.power
    let g := nextGain p.gain watts p.unscaled
    let clamped := decide (g = 8 / 10) || decide (g = 125 / 100)
    let wasClamped := decide (p.gain = 8 / 10) || decide (p.gain = 125 / 100)
    let s1 := s.onPower (fun p => { p with
      measured := watts, gain := g,
      measHist := (s.now, watts) :: p.measHist.filter (fun e => decide (s.now < e.1 + 10 ^ 8)),
      sumMeasured := p.sumMeasured + watts, sumEstimate := p.sumEstimate + p.estimate, nSamples := p.nSamples + 1 })
    let s2 := if clamped && !wasClamped then
        wpost 0x010 0 0 [] (s1.onPower (fun p => { p with disagree := true, agreeSince := none })) else s1
    if s2.power.nSamples = 1000 then judgeSecond s2 else s2) s

/-- POWER_EXCURSION (R378): input above P_lim between refreshes; it counts in B, and longer than 10 ms posts. -/
def execPowerExcursion (joules : Rat) (longerThan10ms : Bool) (s : State) : Host.Outcome State Fault Refusal :=
  occurs (s.power.rails && decide (0 ≤ joules)) (fun s =>
    let s1 := s.onPower (fun p => { p with credit := p.credit - joules, excursions := p.excursions + 1 })
    if longerThan10ms then wpost 0x001 0 0 [] s1 else s1) s

/-! ### Junction and regional limits (R385, R386) -/

/-- A domain's last step for a limit lies at least this many ns back. -/
def limitDue (gap : Nat) (s : State) (d : Nat) : Bool :=
  match s.power.limitAt.find? (fun p => p.1 == d) with
  | some p => decide (p.2 + gap ≤ s.now)
  | none => true

/-- Lower a rail for a limit, by one step in the time that the limit gives (R385, R386). -/
def limitStep (gap d : Nat) (s : State) : State :=
  if limitDue gap s d then nearNeighbours (lowerRail d (s.onPower (fun p => { p with limitAt := put p.limitAt d s.now })))
  else s

/-- JUNCTION_SAMPLE (R385): above OD 11.011 the rail falls one step per 1 ms until 3 °C below it. -/
def execJunctionSample (d : Nat) (hottest mean : Rat) (s : State) : Host.Outcome State Fault Refusal :=
  occurs (decide (d < 34) && s.power.aux) (fun s =>
    let lim : Rat := s.warden.stored.softLimit
    let s1 := s.onPower (fun p => { p with junction := put p.junction d (hottest, mean) })
    if ¬ (governed s d ∧ s.power.rails) then s1
    else if lim < hottest then
      limitStep (10 ^ 6) d (postArising true 0x102 (domUnit d) 0 [] (s1.onPower (fun p => { p with hot := insertNew p.hot d })))
    else if s.power.hot.contains d && decide (lim - 3 < hottest) then limitStep (10 ^ 6) d s1
    else if s.power.hot.contains d then
      endEpisode 0x102 (domUnit d) (s1.onPower (fun p => { p with hot := p.hot.filter (· != d) }))
    else s1) s

/-- The hottest sensor of a wheel: of its vat, its hoops and its curd slice (R374, R386). -/
def wheelTemp (s : State) (w : Nat) : Rat :=
  let t := fun d => (look s.power.junction d (0, 0)).1
  max (t w) (max (t (w + 8)) (t (w + 16)))

/-- Two domains or wheels are a neighbour pair of a limit (R386). -/
def isPair : PullKind → Nat → Nat → Bool
  | .rail, a, b => decide (a < 16) && decide (b < 16) &&
      ((a / 8 == b / 8 && neighbours (a % 8) (b % 8)) || a + 8 == b || b + 8 == a)
  | .temperature, a, b => decide (a < 8) && decide (b < 8) && neighbours a b

/-- The difference of a pair, in mV or °C. -/
def pairDiff (s : State) : PullKind → Nat → Nat → Rat
  | .rail, a, b => |(nth s.power.railTarget a 0 : Rat) - nth s.power.railTarget b 0|
  | .temperature, a, b => |wheelTemp s a - wheelTemp s b|

/-- One step that pulls a pair together: of rails every 10 µs, of temperatures every 1 ms (R386). -/
def pullStep (k : PullKind) (a b : Nat) (s : State) : State :=
  match k with
  | .rail =>
    let hi := if nth s.power.railTarget b 0 ≤ nth s.power.railTarget a 0 then a else b
    let lo := if hi = a then b else a
    let s1 := limitStep (10 ^ 4) hi s
    if limitDue (10 ^ 4) s hi ∧ 90 < pairDiff s1 .rail a b ∧ s1.power.estimate ≤ s1.power.pLim ∧ nth s1.power.railTarget lo 0 + 5 ≤ ceilOf s1 lo then
      stepRail lo 5 s1 else s1
  | .temperature =>
    let w := if wheelTemp s b ≤ wheelTemp s a then a else b
    limitStep (10 ^ 6) (w + 8) (limitStep (10 ^ 6) w s)

/-- REGIONAL_PULL_STEP (R386): a pair beyond 120 mV or 20 °C is pulled until it is below 90 mV or 15 °C. The pair's
pull is its episode, and the detector posts where it begins. -/
def execRegionalPullStep (k : PullKind) (x y : Nat) (s : State) : Host.Outcome State Fault Refusal :=
  let a := min x y
  let b := max x y
  let det := match k with
    | .rail => 0x120
    | .temperature => 0x121
  let lim : Rat × Rat := match k with
    | .rail => (120, 90)
    | .temperature => (20, 15)
  let d := pairDiff s k a b
  occurs (s.power.rails && isPair k a b && ((k == .temperature) || (governed s a && governed s b))) (fun s =>
    if s.power.pulled.contains (k, a, b) then
      if d < lim.2 then s.onPower (fun p => { p with pulled := p.pulled.erase (k, a, b) }) else pullStep k a b s
    else if lim.1 < d then
      pullStep k a b (wpost det (domUnit a) 0 [] (s.onPower (fun p => { p with pulled := p.pulled ++ [(k, a, b)] })))
    else s) s

/-! ### Coolant inlet (R389, R390) -/

/-- T: the average of the last ten samples. -/
def inletT (s : State) : Rat :=
  let l := s.power.inletSamples
  if l.isEmpty then 0 else l.sum / l.length

/-- The inlet limit of a temperature (R389, R390). -/
def inletLimitOf (t : Rat) : Nat :=
  if t ≤ 40 then 9000 else if t ≤ 50 then (9000 - 300 * (t - 40) : Rat).floor.toNat / 100 * 100 else 6000

/-- The limit follows T, with 0x110 where C changes (R389). -/
def applyInlet (t : Rat) (s : State) : State :=
  let new := inletLimitOf t
  if new = s.power.inletLimit then s
  else
    let old := s.power.ceiling
    let s1 := setCeiling (s.onPower (fun p => { p with inletLimit := new, inletApplied := some t }))
    if s1.power.ceiling ≠ old then wpost 0x110 0 0 (leBytes 4 s1.power.ceiling ++ leBytes 4 old) s1 else s1

/-- T has moved 0.5 °C or more from its value at the last applied change. -/
def inletMoved (t : Rat) (s : State) : Bool :=
  match s.power.inletApplied with
  | some a => decide (1 / 2 ≤ |t - a|)
  | none => true

/-- Above 50 °C recipes are not run (R390); at or below 49 °C the time of recovery runs. -/
def inletGuard (t : Rat) (s : State) : State :=
  if 50 < t ∧ ¬ s.power.inletHot then
    queueUpdate (viewChange [.inletHot true]) (postEpisode true 0x111 0 0 []
      (applyInlet t (s.onPower (fun p => { p with inletHot := true, coolSince := none }))))
  else if s.power.inletHot then
    s.onPower (fun p => { p with coolSince := if t ≤ 49 then some (p.coolSince.getD s.now) else none })
  else s

/-- INLET_SAMPLE (R389, R390): a 1 Hz sample of the coolant inlet. -/
def execInletSample (celsius outlet : Rat) (s : State) : Host.Outcome State Fault Refusal :=
  occurs (s.power.aux && s.warden.up) (fun s =>
    let s1 := s.onPower (fun p => { p with inletSamples := (celsius :: p.inletSamples).take 10, outlet := outlet })
    let t := inletT s1
    let s2 := if inletMoved t s1 then applyInlet t s1 else s1
    let s3 := inletGuard t s2
    if t < 20 then postArising true 0x112 0 0 [] s3 else absentEpisode 0x112 0 s3) s

/-- INLET_RECOVERY_TIMER (R390): T at or below 49.0 °C for 60 s. -/
def execInletRecoveryTimer (s : State) : Host.Outcome State Fault Refusal :=
  occurs (s.power.inletHot && match s.power.coolSince with
    | some t => decide (t + 60 * 10 ^ 9 ≤ s.now)
    | none => false) (fun s =>
    queueUpdate (viewChange [.inletHot false]) (endEpisode 0x111 0 (s.onPower (fun p => { p with
      inletHot := false, coolSince := none })))) s

/-! ### The last line and the input (R369, R372, R391, R511 to R513) -/

/-- A real trip: the halt of R391, or, at the moment of an injected one, that one halt recorded as real (R486). -/
def realTrip (cause : HaltCause) (s : State) : State :=
  if s.power.rails then coolantHalt cause false s
  else if s.life.state = .haltedCoolant ∧ s.life.stateSince = s.now ∧ s.power.haltInjected then
    s.onPower (fun p => { p with haltCause := cause, haltInjected := false })
  else s

/-- FLOW_LOSS (R391, R512): with the main rails off it is posted only. -/
def execFlowLoss (s : State) : Host.Outcome State Fault Refusal :=
  occurs (s.power.flowOk && s.power.aux) (fun s =>
    realTrip .flowLost (wpost 0x100 0 0 [] (s.onPower (fun p => { p with flowOk := false })))) s

/-- JUNCTION_TRIP (R391): any junction sensor; with the main rails off there is nothing to halt, and it is posted only,
as the loss of the flow is (R512). -/
def execJunctionTrip (d : Nat) (s : State) : Host.Outcome State Fault Refusal :=
  occurs (s.power.aux && decide (d < 34)) (fun s =>
    realTrip .junctionTrip (wpost 0x101 (domUnit d) 0 [] s)) s

/-- TRAY_FLOW_OK_ASSERT (R371, R392, R507). -/
def execTrayFlowOkAssert (s : State) : Host.Outcome State Fault Refusal :=
  occurs (s.power.aux && !s.power.flowOk) (fun s => s.onPower (fun p => { p with flowOk := true, flowSince := s.now })) s

/-- The rind controller's sequence on the hold-up store (R338): the images under capture are abandoned, the record of
each step is written with faulted set, and the metadata are committed. -/
def rindInputLoss (s : State) : State :=
  let s1 := abandonAll s
  (forEach s1.recipes journalLoss s1).onRind (fun x => { x with committed := true })

/-- The running reset or disable is abandoned (R429); the command it belongs to ends. -/
def abandonDrains (s : State) : State :=
  if s.gate.drains.isEmpty && s.life.stage.getD 0 == 0 then s else dropRun (s.onGate (fun g => { g with drains := [] }))

/-- The main rails are lost (R372, R511): gates closed, rails off, every recipe lost with no completion, 0x012 posts
with its CODE; a reset or disable that runs is abandoned (R429). -/
def mainLoss (code : Nat) (s : State) : State :=
  let s1 := wpost 0x012 0 code [] s
  if s.power.rails then
    let s2 := loseRecipes (rindInputLoss (s1.onPower (fun p => { p with gatesClosed := true })))
    ((clearFences (railsOff (dropRun (s2.onGate (fun g => { g with drains := [] }))))).onLife (fun l => { l with
      stage := none, maintenanceWaiting := false })).enter .off
  else
    let s2 := (dropLink (abandonDrains s1)).onRind (fun x => { x with committed := true })
    if 0 < s.life.stage.getD 0 then (s2.onLife (fun l => { l with stage := none })).enter .off else s2

/-- A firmware activation that the input loss meets before its commit point leaves no result (R495). -/
def cancelActivation (s : State) : State :=
  s.onWarden (fun w => { w with run := w.run.filter (fun o => o.obj != 0x7F001000 || o.committed || o.ending.isSome) })

/-- The input goes away (R369, R372). -/
def inputLost (volts : Rat) (s0 : State) : State :=
  let s := cancelActivation s0
  mainLoss 0 ((voltsSeen volts s).onPower (fun p => { p with input := false, hotSwap := false, lost := true }))

/-- INPUT_LOSS (R369, R372): input below 250 V for 200 µs; the voltage it falls to is open. -/
def execInputLoss (s : State) : Host.Outcome State Fault Refusal :=
  occurs s.power.input (fun s => inputLost (Config.freeNat s.free % 250 : Nat) s.drawn) s

/-- INPUT_OVERVOLTAGE (R369): above 420 V for 50 µs, handled as input loss. -/
def execInputOvervoltage (volts : Rat) (s : State) : Host.Outcome State Fault Refusal :=
  occurs (s.power.input && decide (420 < volts)) (inputLost volts) s

/-- The Warden begins a stage of bring-up (R414); RDY stays clear until Stage 8 ends (R420). -/
def enterStage (n at_ : Nat) (s : State) : State :=
  ((s.onLife (fun l => { l with stage := some n, stageStart := at_, stage2Posted := [], reached := false })).onHost
    (fun h => { h with rdy := false })).enter (if s.life.state = .haltedCoolant ∧ n < 2 then .haltedCoolant else .staging)

/-- The input has recovered: within the operating range, above 265 V after an undervoltage, below 410 V after an
overvoltage (R369). -/
def recovered (last volts : Rat) : Bool :=
  inRange volts && (!decide (last < 250) || decide (265 < volts)) && (!decide (420 < last) || decide (volts < 410))

/-- INPUT_RETURN (R369, R372): recovered and within the operating range for 1 s, bring-up restarts at Stage 1. In
HALTED_COOLANT and in RECOVERY the state stays, which only R392 and R501 let the device leave. -/
def execInputReturn (volts : Rat) (s : State) : Host.Outcome State Fault Refusal :=
  occurs (s.power.lost && recovered s.power.volts volts) (fun s =>
    let s1 := s.onPower (fun p => { p with input := true, hotSwap := true, aux := true, lost := false, volts := volts })
    if s.life.state = .haltedCoolant ∨ s.life.state = .recovery ∨ s.life.romFailed ∨ s.life.stage = some 0 then s1
    else enterStage 1 s.now s1) s

/-- POWER_UP (R370): input at the pre-charge contacts of an unpowered module. -/
def execPowerUp (volts : Rat) (s : State) : Host.Outcome State Fault Refusal :=
  occurs (!s.power.input && !s.power.aux && decide (0 < volts)) (fun s =>
    s.onPower (fun p => { p with input := true, lost := false, volts := volts })) s

/-- PRECHARGE_COMPLETE (R370): the hot-swap switch closes, the auxiliary 12 V comes up and the Warden starts Stage 0. -/
def execPrechargeComplete (s : State) : Host.Outcome State Fault Refusal :=
  occurs (s.power.input && !s.power.hotSwap && !s.power.aux) (fun s =>
    enterStage 0 s.now ((s.onPower (fun p => { p with hotSwap := true, aux := true })).onLife (fun l => { l with
      slotLatched := false, romFailed := false }))) s

/-- The hold-up store stands at a charge: below 70% the rind controller commits first and 0xB30 posts, below 90% 0x040
posts (R339, R373). -/
def chargeSeen (percent : Nat) (s : State) : State :=
  let s1 := (s.onPower (fun p => { p with charge := percent })).onRind (fun x => { x with
    commitFirst := decide (percent < 70) })
  let s2 := if 70 ≤ percent then absentEpisode 0xB30 rindUnit s1
    else if s.warden.stored.rindEnable then postArising false 0xB30 rindUnit 0 (leBytes 1 percent) s1 else s1
  if percent < 90 then postArising true 0x040 (domUnit 33) 0 (leBytes 1 percent) s2 else absentEpisode 0x040 (domUnit 33) s2

/-- The hold-up capacity is measured by a discharge of at most 5% of the charge; below 150 ms at 300 W posts (R373). -/
def measureHoldup (ms : Nat) (s : State) : State :=
  let s1 := chargeSeen (s.power.charge - Config.freeNat s.free % 6) (s.onPower (fun p => { p with holdupMs := ms })).drawn
  if ms < 150 then wpost 0x041 (domUnit 33) 0 (leBytes 4 ms) s1 else s1

/-- HOLDUP_MEASUREMENT (R373): the measurement of every 24 h. -/
def execHoldupMeasurement (ms : Nat) (s : State) : Host.Outcome State Fault Refusal :=
  occurs (s.power.aux && s.power.input && s.warden.up) (measureHoldup ms) s

/-- HOLD_UP_CHARGE_THRESHOLD (R339, R373): the charge crosses 90% or 70%. -/
def execHoldUpChargeThreshold (percent : Nat) (s : State) : Host.Outcome State Fault Refusal :=
  occurs (s.power.aux && decide (percent ≤ 100)) (chargeSeen percent) s

end Sys2Proof.Machine
end

