-- ==== Sys2Proof/Machine/Spares.lean ====
section
/-! DEFINITION. Spares (R5, R125, R204, R405, R406, R410): the line map and advertised shape of a vat, the position
map of a hoop, the bank list of a curd slice, and the view updates that a change of them makes. -/

namespace Sys2Proof.Machine

/-- Units of the parts: a hoop, and a curd slice as a whole (R477). -/
def hoopUnit (w h : Nat) : Nat := unitId 2 w h
def sliceUnit (w : Nat) : Nat := unitId 4 w 0x1FFF

/-- PART of a line: bit 15 for a column (R408). -/
def linePart (col : Bool) (phys : Nat) : Nat := bit col * 0x8000 + phys

/-! ### Vat lines (R406) -/

/-- A physical line is good. -/
def lineGood (s : State) (w : Nat) (col : Bool) (phys : Nat) : Bool := !partBad s (vatUnit w) (linePart col phys)

/-- Good lines of physical segment `g`, ascending. -/
def goodLines (s : State) (w : Nat) (col : Bool) (g : Nat) : List Nat :=
  ((List.range 260).map (fun i => 260 * g + i)).filter (lineGood s w col)

/-- The physical segments of an ordering, in logical order: bit 1 swaps {0, 1}, bit 2 swaps {2, 3}, bit 0 puts the pair
{2, 3} first. -/
def ordering (i : Nat) : List Nat :=
  let a := if bitOf i 1 then [1, 0] else [0, 1]
  let b := if bitOf i 2 then [3, 2] else [2, 3]
  if bitOf i 0 then b ++ a else a ++ b

/-- Lines that a segment of `g` good lines gives: 256, or with fewer a multiple of 16. -/
def segLines (g : Nat) : Nat := if 256 ≤ g then 256 else 16 * (g / 16)

/-- The extent E of an ordering, over the good-line counts of the physical segments. -/
def extent (counts : List Nat) : List Nat → Nat
  | [] => 0
  | g :: gs =>
    let n := nth counts g 0
    if 256 ≤ n then 256 + extent counts gs else segLines n

/-- The ordering with the largest extent, the lower index on ties, and that extent. -/
def bestOrdering (counts : List Nat) : Nat × Nat :=
  (List.range 8).foldl (fun acc i => let e := extent counts (ordering i)
                                     if acc.2 < e then (i, e) else acc) (0, extent counts (ordering 0))

/-- Good-line counts of an axis. -/
def axisCounts (s : State) (w : Nat) (col : Bool) : List Nat := (List.range 4).map (fun g => (goodLines s w col g).length)

/-- The advertised shape that the line maps give. -/
def shapeOf (s : State) (w : Nat) : Nat × Nat :=
  ((bestOrdering (axisCounts s w false)).2, (bestOrdering (axisCounts s w true)).2)

/-- Physical lines of a segment in use: the first good ones. -/
def usedLines (s : State) (w : Nat) (col : Bool) (g : Nat) : List Nat :=
  let l := goodLines s w col g
  l.take (segLines l.length)

/-- Two adjacent bad lines before the last used line of a segment: a gap that no skip latch bypasses (R79 condition
2). -/
def segGap (s : State) (w : Nat) (col : Bool) (g : Nat) : Bool :=
  let last := (usedLines s w col g).getLast?.getD 0
  (List.range 259).any (fun i => decide (260 * g + i + 1 < last) && !lineGood s w col (260 * g + i) &&
    !lineGood s w col (260 * g + i + 1))

/-- The first segment with a gap: 0–3 for rows, 4–7 for columns. -/
def gapSegment (s : State) (w : Nat) : Option Nat :=
  (List.range 8).find? (fun k => segGap s w (decide (4 ≤ k)) (k % 4))

/-- Spare lines left of a segment: good lines not in use (R406, OD 12.020). -/
def spareLines (s : State) (w : Nat) (col : Bool) (g : Nat) : Nat :=
  (goodLines s w col g).length - (usedLines s w col g).length

/-! ### Hoops and banks (R5, R125, R204) -/

/-- A slot of a hoop is good. -/
def slotGood (s : State) (w h k : Nat) : Bool := !partBad s (unitId 3 w (17 * h + k)) 0

/-- Good slots of a hoop, ascending. -/
def goodSlots (s : State) (w h : Nat) : List Nat := (List.range 17).filter (slotGood s w h)

/-- The position map of Stage 3: the first 16 good slots (R5). -/
def freshMap (s : State) (w h : Nat) : List Nat := (goodSlots s w h).take 16

/-- A mapped core is bad: a good slot that holds no position takes its position, else the core at position 15 takes it
and position 15 becomes vacant (R5). -/
def remapSlot (good : List Nat) (m : List Nat) (k : Nat) : List Nat :=
  match m.findIdx? (· == k) with
  | none => m
  | some n =>
    match good.find? (fun g => !(m.contains g)) with
    | some g => m.set n g
    | none => if m.length = 16 then (if n = 15 then m.take 15 else (m.set n (nth m 15 0)).take 15) else m.eraseIdx n

/-- The position map after failures found at a replan. -/
def remap (s : State) (w h : Nat) (m : List Nat) : List Nat :=
  let good := goodSlots s w h
  (m.filter (fun k => !(good.contains k))).foldl (remapSlot good) m

/-- Good physical banks of a slice, in list order: the first 256, or all with fewer (R125). -/
def goodBanks (s : State) (w : Nat) : List Nat :=
  ((List.range 264).filter (fun b => !partBad s (sliceUnit w) b)).take 256

/-- Spare banks left of a slice (OD 12.024). -/
def spareBanks (s : State) (w : Nat) : Nat :=
  ((List.range 264).filter (fun b => !partBad s (sliceUnit w) b)).length - (goodBanks s w).length

/-! ### Substitutions and events (R410, R412) -/

/-- Parts that are bad now and were not before: the entries of the map that the tests have added or confirmed. -/
def newlyBad (s0 s : State) : List (Nat × Nat) :=
  ((s.ageing.field ++ s.ageing.unstored).map (fun d => (d.unit, d.part))).filter (fun p =>
    partBad s p.1 p.2 && !partBad s0 p.1 p.2)

/-- What a part shares its spares with (R405): its segment of an axis, its hoop, or its slice; with the part's place
in it. -/
def spareGroup (p : Nat × Nat) : (Nat × Nat) × Nat :=
  let w := bitsOf p.1 15 13
  match bitsOf p.1 19 16 with
  | 1 => ((vatUnit w, 4 * bit (bitOf p.2 15) + p.2 % 0x8000 / 260), p.2 % 0x8000)
  | 3 => ((unitId 3 w 0, bitsOf p.1 12 0 / 17), bitsOf p.1 12 0 % 17)
  | _ => ((sliceUnit w, 0), p.2)

/-- The good places of a group, ascending. -/
def groupGood (s : State) (g : Nat × Nat) : List Nat :=
  let w := bitsOf g.1 15 13
  match bitsOf g.1 19 16 with
  | 1 => goodLines s w (decide (4 ≤ g.2)) (g.2 % 4)
  | 3 => goodSlots s w g.2
  | _ => (List.range 264).filter (fun b => !partBad s (sliceUnit w) b)

/-- How many of `n` good places a group uses: its first ones (R5, R125, R406). -/
def groupUsed (g : Nat × Nat) (n : Nat) : Nat :=
  match bitsOf g.1 19 16 with
  | 1 => segLines n
  | 3 => min n 16
  | _ => min n 256

/-- A newly bad part is substituted: of the places in use that a group loses, as many as the group still uses in their
stead, the lowest first. -/
def substituted (s0 : State) (bad : List (Nat × Nat)) (p : Nat × Nat) : Bool :=
  let g := spareGroup p
  let gone := ((bad.map spareGroup).filter (fun q => q.1 == g.1)).map (fun q => q.2)
  let before := groupGood s0 g.1
  let used := before.take (groupUsed g.1 before.length)
  let lost := used.filter (fun x => gone.contains x)
  let after := groupUsed g.1 (before.filter (fun x => !(gone.contains x))).length
  (lost.take (after - (used.length - lost.length))).contains g.2

/-- 0x231 for every substitution (R412). -/
def postSubstitutions (s0 s : State) : State :=
  let bad := newlyBad s0 s
  forEach (bad.filter (substituted s0 bad)) (fun p s => wpost 0x231 p.1 0 (leBytes 2 p.2) s) s

/-! ### Applying the maps -/

/-- DETAIL of 0x232 up to the generation, which the update adds: the unit ID, as a U32, and the new rows, columns or
cores (R410; DESIGN CHOICE, log entry 94). -/
def capacityDetail (unit : Nat) (new : List Nat) : List Byte := leBytes 4 unit ++ (new.map (leBytes 2)).flatten

/-- Withdraw a resource that is idle: the two view updates of R19, a fence with its event in the first, and the
capacity-change event of R410 in the second. -/
def withdraw (bar : Res) (first second : List ViewChange) (fence : Option (Nat × Nat × List Byte)) (unit : Nat)
    (new : List Nat) (s : State) : State :=
  queueUpdate { bar := none, changes := second, drain := none, post := some (0x232, unit, capacityDetail unit new) }
    (queueUpdate { bar := some bar, changes := first, drain := none, post := fence } s)

/-- Fence a vat (R399, R406); `maps` changes its line map with the second update. -/
def fenceVat (w : Nat) (maps : List ViewChange) (s : State) : State :=
  if s.life.fencedVats.contains w then s
  else withdraw (.vat w) [.vatFence w .fencing] (maps ++ [.vatFence w .fenced]) (some (0x233, vatUnit w, []))
    (vatUnit w) [0, 0] (s.onLife (fun l => { l with fencedVats := l.fencedVats ++ [w] }))

/-- Fence a hoop as a unit (R204, R399): FENCING, then FENCED; `maps` changes its position map with the second update. -/
def fenceHoop (w h : Nat) (maps : List ViewChange) (s : State) : State :=
  if (hoopRec s w h).fenced then s
  else withdraw (.hoop w h) [.hoopMark w h .fencing] (maps ++ [.hoopMark w h .fenced, .hoopCores w h 0])
    (some (0x234, hoopUnit w h, [])) (hoopUnit w h) [0] (onHoop w h (fun q => { q with fenced := true }) s)

/-- A change of a map that withdraws nothing: the first update marks no resource, the second applies the map (R19, R400
events 5 to 7). -/
def remapped (maps : List ViewChange) (s : State) : State :=
  queueUpdate (viewChange maps) (queueUpdate (viewChange []) s)

/-- Conditions 1 and 2 of R79 as a plan and a line map find them: 0x230 with the segment where they put the vat in
broadcast, and a change of mode that is pending where the mode follows. -/
def holdBroadcast (w : Nat) (f : Vat → Vat) (seg : Nat) (s : State) : State :=
  let s1 := s.onVat w f
  let s2 := if (s1.vat w).held && !(s.vat w).held then wpost 0x230 (vatUnit w) 0 (leBytes 1 seg) s1 else s1
  if wantsBroadcast s2 w != (s2.vat w).broadcast then s2.onVat w (fun v => { v with pendingMode := true }) else s2

/-- Condition 2 of R79 holds while the line map leaves a gap. -/
def holdGap (w : Nat) (s : State) : State :=
  let g := gapSegment s w
  holdBroadcast w (fun v => { v with heldGap := g.isSome }) (g.getD 0) s

/-- The lines of a vat: orderings, shape, fence and gap; a shape that shrinks is withdrawn with a capacity-change event,
and its new line map is applied with the second update; a change of mode alone makes the two updates too (R79, R89, R400,
R406, R410). `s0` is the state before the tests and the plan. -/
def applyVat (s0 : State) (w : Nat) (s : State) : State :=
  let new := shapeOf s w
  let rows := axisCounts s w false
  let cols := axisCounts s w true
  let map : ViewChange := .lineMap w (bestOrdering rows).1 (bestOrdering cols).1
  let s1 := holdGap w s
  if new.1 < 256 ∨ new.2 < 256 then fenceVat w [map] s1
  else if nth s.gate.view.shapes w (0, 0) = new then
    if axisCounts s0 w false = rows ∧ axisCounts s0 w true = cols ∧ (s1.vat w).held = (s0.vat w).held then s1
    else remapped [map] s1
  else if shapeOf s0 w ≠ new then
    withdraw (.shape w new.1 new.2) [.shrink w (some new)] [map, .vatShape w new.1 new.2, .shrink w none] none
      (vatUnit w) [new.1, new.2] s1
  else queueUpdate (viewChange [map, .vatShape w new.1 new.2]) s1

/-- A hoop takes a position map with the second view update: 16 cores, 15 with a capacity-change event where it had more
before the tests (`s0`), or fenced (R5, R204, R400, R410). -/
def applyHoop (s0 : State) (w h : Nat) (m : List Nat) (s : State) : State :=
  let q := hoopRec s w h
  let was := (freshMap s0 w h).length
  let bad := (List.range 17).filter (fun k => !slotGood s w h k)
  let maps : List ViewChange := if m = q.posMap ∧ bad = q.bad then [] else [.hoopMap w h m bad]
  if q.fenced then s
  else if m.length < 15 ∨ partBad s (hoopUnit w h) 0 then fenceHoop w h maps s
  else if m.length < was then
    withdraw (.core16 w h) [.hoopMark w h .core16] (maps ++ [.hoopMark w h .usable, .hoopCores w h m.length])
      none (hoopUnit w h) [m.length] s
  else if nth s.gate.view.hoopCores (80 * w + h) 0 = m.length then (if maps.isEmpty then s else remapped maps s)
  else queueUpdate (viewChange (maps ++ [.hoopCores w h m.length])) s

/-- The hoops of a wheel after failures found at a replan. -/
def applyHoops (s0 : State) (w : Nat) (s : State) : State :=
  forEach ((List.range 80).filter (fun h => !(hoopRec s w h).fenced)) (fun h s =>
    applyHoop s0 w h (remap s w h (hoopRec s w h).posMap) s) s

end Sys2Proof.Machine
end

