-- ==== Sys2Proof/Machine/Ageing.lean ====
section
/-! DEFINITION. Ageing and the margin plan (R396 to R404): the plan of a domain, remaining life, the replan of a wheel
and its occasions, monitor samples, handshake stalls, and the completion of a step, which a replan of OD 7F.002 may
wait for. -/

namespace Sys2Proof.Machine

/-! ### The plan (R398, R399) -/

/-- A margin reduced by 0.04% for each °C by which its junction temperature lies below a reference (R398, R404). -/
def allowed (ref tj m : Rat) : Rat := m - 4 / 100 * (ref - tj)

/-- The smallest of some margins; a margin is at most 100% (R396). -/
def least (l : List Rat) : Rat := l.foldl min 100

/-- The smallest counted margin of a vat domain: the cell monitors with the forwarding or the broadcast monitors. -/
def vatMargin (forward : Bool) (ref : Rat) (m : VatMargins) : Rat :=
  allowed ref m.tj (min m.cell (if forward then least m.forward else m.broadcast))

/-- The smallest counted margin of a hoop domain: the monitors of its counted hoops. -/
def hoopMargin (counted : Nat → Bool) (ref : Rat) (m : HoopMargins) : Rat :=
  allowed ref m.tj (least ((m.hoops.zipIdx.filter (fun p => counted p.2)).map (fun p => p.1)))

/-- The margin of a table by tap and rail, at a tap and a rail in mV. -/
def marginAt (t : List (List Rat)) (tap mv : Nat) : Rat := nth (nth t tap []) ((mv - 600) / 5) 0

/-- The counted margins of a sweep by tap and rail, with the allowance to the limit OD 11.011, and M_ref: the one at tap 6
and 0.72 V, normalised to 60 °C (R398, R404). -/
def countedOf {α : Type} (margin : Rat → α → Rat) (lim : Nat) (t : List (List α)) : List (List Rat) × Rat :=
  let table := fun (ref : Rat) => t.map (fun rails => rails.map (margin ref))
  (table lim, marginAt (table 60) 6 720)

/-- The floor of a tap: the lowest rail at which the smallest counted margin is at least 8%. -/
def tapFloor (rails : List Rat) : Option Nat :=
  ((rails.take 51).findIdx? (fun m => decide (8 ≤ m))).map (fun k => 600 + 5 * k)

/-- The tap and floor of a sweep: the lowest tap with a floor at or below 0.66 V, else the tap with the lowest floor, the
lower tap on ties; none where no tap has a floor. -/
def choosePlan (t : List (List Rat)) : Option (Nat × Nat) :=
  let l := (((t.take 16).map tapFloor).zipIdx.filterMap (fun p => p.1.map (fun f => (p.2, f))))
  match l.find? (fun p => decide (p.2 ≤ 660)) with
  | some p => some p
  | none => l.foldl (fun (acc : Option (Nat × Nat)) p => match acc with
    | none => some p
    | some a => if p.2 < a.2 then some p else acc) none

/-- Remaining share in percent (R404). -/
def remainingShare (mRef m0 : Rat) : Nat :=
  if m0 ≤ 2 then 0 else min 100 (max 0 (100 * (mRef - 2) / (m0 - 2))).floor.toNat

/-- Hours from ns. -/
def nsHours (n : Nat) : Rat := (n : Rat) / (3600 * 10 ^ 9)

/-- Projected years (R404) from the replans of the last 4,000 powered hours: −1 with fewer than two; where the fit
never reaches 2% or the span has no length, the spec states no value and it is open. -/
def projectedYears (hist : List (Nat × Nat × Rat)) (now : Nat) (free : Nat) : Rat :=
  let l := hist.filter (fun p => decide (now ≤ p.1 + 4000))
  let open_ : Rat := Config.freeNat free
  match l.head?, l.getLast? with
  | some a, some b =>
    if l.length < 2 then -1
    else
      let n : Rat := l.length
      let sx := (l.map (fun p => (p.1 : Rat))).sum
      let sy := (l.map (fun p => p.2.2)).sum
      let sxx := (l.map (fun p => (p.1 : Rat) * p.1)).sum
      let sxy := (l.map (fun p => (p.1 : Rat) * p.2.2)).sum
      let den := n * sxx - sx * sx
      let wall := nsHours (b.2.1 - a.2.1)
      if den = 0 ∨ wall ≤ 0 ∨ b.1 ≤ a.1 then open_
      else
        let slope := (n * sxy - sx * sy) / den
        let base := (sy - slope * sx) / n
        if 0 ≤ slope then open_
        else max 0 ((2 - base) / slope - now) / (8760 * (((b.1 - a.1 : Nat) : Rat) / wall))
  | _, _ => -1

/-- Thresholds of 0x210 that a share crosses for the first time (R404). -/
def crossed (d : Nat) (s : State) (new : Nat) : List Nat :=
  let p := nth s.ageing.plans d Plan.reset
  let m0 := nth s.factory.m0 d 0
  [20, 10, 5].filter (fun t => decide (new < t) && p.history.all (fun h => decide (t ≤ remainingShare h.2.2 m0)))

/-- A domain's new plan, from its counted margins and M_ref, is written to group 12: 0x220 where the tap or floor changed,
0x210 at a first crossing. A domain with no plan keeps its tap and floor. -/
def writePlan (d : Nat) (sw : List (List Rat) × Rat) (tf : Option (Nat × Nat)) (s : State) : State :=
  let old := nth s.ageing.plans d Plan.reset
  let t := tf.getD (old.tap, old.floor)
  let rem := remainingShare sw.2 (nth s.factory.m0 d 0)
  let hist := old.history ++ [(poweredHours s, s.now, sw.2)]
  let years := projectedYears hist (poweredHours s) s.free
  let ts := crossed d s rem
  let new : Plan := { tap := t.1, floor := t.2, minMargin := marginAt sw.1 t.1 t.2, remaining := rem, years := years,
                      mRef := sw.2, history := hist }
  let s1 := (s.onAgeing (fun a => { a with plans := a.plans.set d new })).drawn
  let s2 := if t = (old.tap, old.floor) then s1 else wpost 0x220 (domUnit d) 0 (leBytes 1 t.1 ++ leBytes 2 t.2) s1
  forEach ts (fun t s => wpost 0x210 (domUnit d) 0 (leBytes 1 t) s) s2

/-- The first segment whose forwarding monitors fail at tap 15 and 0.85 V (R79, R399). -/
def failedSegment (lim : Nat) (t : List (List VatMargins)) : Nat :=
  match (nth t 15 [])[50]? with
  | some m => (m.forward.findIdx? (fun x => decide (allowed lim m.tj x < 8))).getD 0
  | none => 0

/-- The plan of a vat domain: with the forwarding monitors, or with the broadcast monitors where the vat is held in
broadcast or the forwarding monitors fail; a vat with no plan is fenced (R398, R399). -/
def planVat (w : Nat) (t : List (List VatMargins)) (s : State) : State :=
  let lim := s.warden.stored.softLimit
  let fwd := countedOf (vatMargin true) lim t
  let brd := countedOf (vatMargin false) lim t
  if (s.vat w).held then
    match choosePlan brd.1 with
    | some p => writePlan w brd (some p) s
    | none => fenceVat w [] (writePlan w brd none s)
  else match choosePlan fwd.1 with
    | some p => writePlan w fwd (some p) s
    | none =>
      match choosePlan brd.1 with
      | some p => writePlan w brd (some p) (holdBroadcast w (fun v => { v with heldMargin := true }) (failedSegment lim t) s)
      | none => fenceVat w [] (writePlan w fwd none s)

/-- Hoops of a wheel that are not fenced and whose monitors fail at tap 15 and 0.85 V (R399). -/
def failedHoops (s : State) (w : Nat) (t : List (List HoopMargins)) : List Nat :=
  match (nth t 15 [])[50]? with
  | some m => (List.range 80).filter (fun h => !(hoopRec s w h).fenced &&
      decide (allowed s.warden.stored.softLimit m.tj (nth m.hoops h 0) < 8))
  | none => []

/-- The counted margins of a hoop domain: those of every hoop that is not fenced (R398). -/
def hoopCounted (s : State) (w : Nat) (t : List (List HoopMargins)) : List (List Rat) × Rat :=
  countedOf (hoopMargin (fun h => !(hoopRec s w h).fenced)) s.warden.stored.softLimit t

/-- The plan of a hoop domain; where it has none, the hoops whose monitors fail at tap 15 and 0.85 V are fenced and the
plan is recomputed without them (R398, R399). -/
def planHoops (w : Nat) (t : List (List HoopMargins)) (s : State) : State :=
  match choosePlan (hoopCounted s w t).1 with
  | some p => writePlan (8 + w) (hoopCounted s w t) (some p) s
  | none =>
    let s1 := forEach (failedHoops s w t) (fun h s => fenceHoop w h [] s) s
    writePlan (8 + w) (hoopCounted s1 w t) (choosePlan (hoopCounted s1 w t).1) s1

/-! ### The replan of a wheel (R400) -/

/-- Lines and cores that failed the scan of a wheel. -/
def scanParts (w : Nat) (x : WheelScan) : List (Nat × Nat) :=
  (x.badRows.filter (· < 1040)).map (fun p => (vatUnit w, linePart false p)) ++
    (x.badCols.filter (· < 1040)).map (fun p => (vatUnit w, linePart true p)) ++
    (x.badCores.filter (fun c => decide (c.1 < 80) && decide (c.2 < 17))).map (fun c => (unitId 3 w (17 * c.1 + c.2), 0))

/-- Enter parts that failed a test. -/
def enterParts (ps : List (Nat × Nat)) (s : State) : State := forEach ps (fun p s => testFailed p.1 p.2 s) s

/-- A wheel is replanned, in the order of R400: line scan and core tests, plans, then spares, shape and mode with their
view updates (R403). A gap of the new line map counts for the plan (R79, R398). -/
def replanWheel (w : Nat) (x : WheelScan) (s : State) : State :=
  let s1 := holdGap w (enterParts (scanParts w x) s)
  let s2 := planHoops w x.hoops (planVat w x.vat s1)
  let s3 := postSubstitutions s (applyHoops s w (applyVat s w s2))
  s3.onAgeing (fun a => { a with
    lastReplan := a.lastReplan.set w (poweredHours s3), replan := a.replan.set w .done, dueSince := a.dueSince.set w none,
    overduePosted := a.overduePosted.set w false })

/-- A replan of a wheel is due since these powered hours (R400, R403). -/
def replanDue (s : State) (w : Nat) : Option Nat :=
  match nth s.ageing.dueSince w none with
  | some h => some h
  | none =>
    let last := nth s.ageing.lastReplan w 0
    if last + 500 ≤ poweredHours s then some (last + 500) else none

/-- A running step names a wheel. -/
def wheelBusy (s : State) (w : Nat) : Bool := s.recipes.any (fun r => r.running.isSome && bitOf r.wheels w)

/-- The next entry of an enabled queue is a START_STEP of a recipe that names a wheel (R355, R401). -/
def startSubmitted (s : State) (w : Nat) : Bool :=
  s.host.rdy && (List.range 16).any (fun q => hasEntry (s.queue q) && leAt (entryAt s q) 0 1 == 2 &&
    (match s.recipe? (leAt (entryAt s q) 4 4) with
      | some r => bitOf r.wheels w
      | none => false))

/-- An idle-window replan stops before its event 5: the old plan stands, and the replan stays due (R401, R411). -/
def stopReplan (w : Nat) (s : State) : State :=
  s.onAgeing (fun a => { a with replan := a.replan.set w .interrupted,
                                dueSince := a.dueSince.set w (some ((replanDue s w).getD (poweredHours s))) })

/-- IDLE_WINDOW_REPLAN (R400, R401): due, and no step of the wheel for 1 s; a START_STEP of the wheel that has been
submitted stops it. -/
def execIdleWindowReplan (wheel : Nat) (scan : WheelScan) (s : State) : Host.Outcome State Fault Refusal :=
  occurs (decide (wheel < 8) && s.power.rails && s.serving && s.warden.up && !s.power.wheelsOff.contains wheel &&
      nth s.gate.view.wheels wheel .fenced == .usable && (replanDue s wheel).isSome && !wheelBusy s wheel &&
      decide ((s.wheel wheel).idleSince + 10 ^ 9 ≤ s.now)) (fun s =>
    if startSubmitted s wheel then stopReplan wheel s else replanWheel wheel scan s) s

/-- REPLAN_OVERDUE (R401): due for 168 powered hours; 0x211 posts once for a due replan. -/
def execReplanOverdue (wheel : Nat) (s : State) : Host.Outcome State Fault Refusal :=
  occurs (decide (wheel < 8) && s.warden.up && !nth s.ageing.overduePosted wheel false && match replanDue s wheel with
    | some h => decide (h + 168 ≤ poweredHours s)
    | none => false) (fun s =>
    wpost 0x211 (unitId 1 wheel 0) 0 [] (s.onAgeing (fun a => { a with
      replan := a.replan.set wheel .overdue, overduePosted := a.overduePosted.set wheel true }))) s

/-- MONITOR_SAMPLE (R396, R403): below 4% the floor rises by 10 mV, to 0.85 V at most, a replan of the wheel becomes due,
and 0x200 posts once per episode; a floor that stood at 0.85 V stays there, and 0x201 posts. -/
def execMonitorSample (d : Nat) (margin : Rat) (s : State) : Host.Outcome State Fault Refusal :=
  occurs (s.power.rails && s.warden.up && governed s d) (fun s =>
    let w := d % 8
    if 4 ≤ margin then absentEpisode 0x200 (domUnit d) s
    else
      let top := decide (850 ≤ floorOf s d)
      let raise := fun (p : Plan) => { p with floor := max p.floor (min 850 (p.floor + 10)) }
      let due := some ((replanDue s w).getD (poweredHours s))
      let s1 := s.onAgeing (fun a => { a with plans := modAt a.plans d raise, dueSince := a.dueSince.set w due })
      let s2 := if top && episodeOn s 0x200 (domUnit d) then episodeHolds 0x200 (domUnit d) s1
        else postEpisode true 0x200 (domUnit d) 0 (leBytes 2 (floorOf s1 d)) s1
      if top then wpost 0x201 (domUnit d) 0 [] s2 else s2) s

/-- VAT_HANDSHAKE_STALL (R82, R405): 0x521 posts; a stall that repeats marks the line suspect. -/
def execVatHandshakeStall (vat : Nat) (suspect : Option (Bool × Nat)) (s : State) : Host.Outcome State Fault Refusal :=
  occurs (decide (vat < 8) && (vatDescs s vat).any (fun d => d.busy)) (fun s =>
    let s1 := post 0x521 (vatUnit vat) 0 [] s
    match suspect with
    | some (col, phys) => if phys < 1040 then noteStall (vatUnit vat) (linePart col phys) s1 else s1
    | none => s1) s

/-! ### OD 7F.002 (R402) and the completion of a step -/

/-- DETAIL of OD 7F.002: wheels replanned, wheels not replanned, taps and floors changed (R473). -/
def replanDetail (o : RunOp) : List Byte :=
  leBytes 1 o.done.length ++ leBytes 1 (8 - o.done.length) ++ leBytes 2 (nth o.tally 0 0) ++ leBytes 2 (nth o.tally 1 0)

/-- Taps or floors that differ between two states. -/
def planChanges (s0 s : State) (f : Plan → Nat) : Nat :=
  ((List.range 16).filter (fun d => f (nth s0.ageing.plans d Plan.reset) != f (nth s.ageing.plans d Plan.reset))).length

/-- The running OD 7F.002 replans one wheel of its list; a wheel without a scan counts as not replanned. -/
def replanOne (w : Nat) (s : State) : State :=
  match s.warden.run with
  | none => s
  | some o =>
    if o.obj != 0x7F002000 || !o.todo.contains w || wheelBusy s w || o.ending.isSome then s
    else
      let scan := o.scans.find? (fun p => p.1 == w)
      let s1 := match scan with
        | some p => replanWheel w p.2 s
        | none => s
      let taps := nth o.tally 0 0 + planChanges s s1 (fun p => p.tap)
      let floors := nth o.tally 1 0 + planChanges s s1 (fun p => p.floor)
      let o1 := { o with todo := o.todo.filter (· != w), done := if scan.isSome then o.done ++ [w] else o.done, tally := [taps, floors] }
      let last := o1.todo.isEmpty
      let fin := if o.aborting.isSome then some (2, 0, replanDetail o1)
        else if last then some (0, 0, replanDetail o1) else none
      s1.onWarden (fun x => { x with run := some { o1 with ending := fin, progress := 100 * o1.done.length / 8 } })

/-- Every wheel of OD 7F.002 with no step running is replanned (R402). -/
def replanReady (s : State) : State := forEach (List.range 8) replanOne s

/-- STEP_COMPLETE (R26), and the replan of wheels that OD 7F.002 held for it (R402). -/
def execStepComplete (recipe : Nat) (s : State) : Host.Outcome State Fault Refusal :=
  match s.recipe? recipe with
  | none => .next s
  | some r =>
    match r.running with
    | none => .next s
    | some u => occurs (stepDone s r u) (fun s => replanReady (completeStep recipe r u s)) s

end Sys2Proof.Machine
end

