-- ==== Sys2Proof/Machine/Bringup.lean ====
section
/-! DEFINITION. Bring-up (R413 to R424): the device reset's clearing, recovery, the stage reports, and Stages 0 to 8 with
the firmware's start checks and fall-back (R488, R494, R498, R499). -/

namespace Sys2Proof.Machine

/-- Unit ID of the Warden. -/
def wardenUnit : Nat := unitId 0xC 0 0

/-- A running WRITE or command of the Warden ends well (R428, R447). -/
def endRun (obj : Nat) (detail : List Byte) (s : State) : State :=
  let fin := fun (o : RunOp) => if o.obj = obj ∧ o.ending.isNone then { o with ending := some (0, 0, detail) } else o
  s.onWarden (fun w => { w with run := w.run.map fin })

/-- Objects by group, item and index. -/
def od (group item index : Nat) : Nat := group * 2 ^ 24 + item * 2 ^ 12 + index

/-! ### Clearing for a start (R372, R425) -/

/-- Warden RAM is lost at a restart: open BLOCK sessions, the injection permit and its points, the counts that the
Warden keeps there, and the replan states but those it computes again (R411, R433, R457). -/
def loseRam (s : State) : State :=
  (s.onWarden (fun w => { w with up := false, sessions := [], queueFull := 0, discarded := 0 })).onEvents (fun e =>
    { e with permit := false, points := [], injCounts := [] }) |>.onAgeing (fun a =>
    { a with replan := a.replan.map (fun x => if x = .overdue then x else .none) })

/-- Counts that run from the last device reset (R470, R478). -/
def clearCounts (e : Events) : Events :=
  { e with counts := [], lastPost := [], injCounts := [], windows := [], episodes := [], lost := 0, lostSince := 0,
           firstLost := 0 }

/-- A mask of ports from keys. -/
def keyMask (base : Nat) (ks : List Nat) : Nat :=
  sumNat ((ks.filter (fun k => decide (base ≤ k) && decide (k < base + 32))).map (fun k => 2 ^ (k - base)))

/-- DETAIL of OD 7F.005 (R473). -/
def qualDetail (o : RunOp) : List Byte :=
  let far := fun (l : List Nat) => keyMask 32 (l.filter (· < 36))
  leBytes 4 (keyMask 0 o.done) ++ leBytes 4 (keyMask 0 o.tally) ++ leBytes 1 (far o.done) ++ leBytes 1 (far o.tally)

/-- Dirty segments of the cave cache. -/
def dirtyCount (s : State) : Nat :=
  sumNat (s.recipes.map (fun r => (r.cave.segments.filter (fun g => g.dirty)).length))

/-- Bytes of a cave-cache segment. -/
def segmentBytes : Nat := 65536

/-- DETAIL of OD 7F.008: bytes written back, bytes still dirty (R473). -/
def flushDetail (written left : Nat) : List Byte := leBytes 8 (written * segmentBytes) ++ leBytes 8 (left * segmentBytes)

/-- DETAIL of a command that a device reset interrupts (R434, R473). -/
def interruptDetail (s : State) (o : RunOp) : List Byte :=
  if o.obj = od 0x7F 2 0 then replanDetail o
  else if o.obj = od 0x7F 5 0 then qualDetail o
  else if o.obj = od 0x7F 8 0 then flushDetail 0 (dirtyCount s)
  else if o.obj = od 0x7F 3 0 then
    match s.recipes.findSome? (fun r => r.restoring.bind (fun x => if x.origin = .wardenRestore then some x.step else none)) with
    | some step => leBytes 4 0x22 ++ zeros 4 ++ leBytes 8 step
    | none => []
  else []

/-- A command that runs when a device reset restarts the Warden: past its commit point it is completed after the restart,
one whose work is complete keeps its result, any other is recorded interrupted, as rolled back: what it changed is lost
with the rails, or stands as its entry says; a WRITE is never answered (R434). -/
def interruptRun (detail : RunOp → List Byte) (s : State) : State :=
  s.onWarden (fun w => { w with run := w.run.bind (fun o =>
    if !o.exec then none
    else if o.committed || o.ending.isSome then some o
    else some { o with ending := some (3, 0, detail o) }) })

/-- A device reset (R425): recipes lost, main rails off, fences cleared, the Warden restarts from ROM and bring-up runs
from Stage 0; the generation counts anew with the view. -/
def deviceReset (s : State) : State :=
  let s1 := restartCounts (clearFences (railsOff (loseRecipes (s.onPower (fun p => { p with gatesClosed := true })))))
  let s2 := interruptRun (interruptDetail s) (loseRam (s1.onEvents clearCounts))
  let s3 := (s2.onLife (fun l => { l with maintenanceWaiting := false, causes := 0 })).onGate (fun g =>
    { g with gen := 0 })
  enterStage 0 s.now s3

/-- The Warden is up again after a restart: what it owes for it posts (R433, R455). -/
def postRestart (s : State) : State :=
  match s.warden.restartDet with
  | some det => wpost det wardenUnit 0 [] (s.onWarden (fun w => { w with restartDet := none }))
  | none => s

/-- RECOVERY is entered (R500): no main rail, the Warden serves from ROM. A command that runs through the reset ends: OD
7F.007 and OD 20.001 well, OD 7F.001 with failure. -/
def enterRecoveryState (s : State) : State :=
  let slot := leBytes 1 (bit s.warden.slotB) ++ leBytes 1 (bit s.warden.fellBack)
  let fin := fun (o : RunOp) =>
    if o.ending.isSome then o
    else if o.obj = od 0x7F 1 0 then { o with ending := some (1, 0, slot) }
    else { o with ending := some (0, 0, []) }
  (((s.onLife (fun l => { l with stage := none, toRecovery := false })).onWarden (fun w => { w with
    up := true, run := w.run.map fin })) |> postRestart).enter .recovery

/-! ### Stage reports (R422) -/

/-- Write the report of the present stage; the Warden's log keeps those of the last 16 bring-ups, one for each stage. A
start that runs stages again under one number replaces their reports (R422, R472). -/
def report (n result : Nat) (first : Option (Nat × Nat)) (counts : List Nat) (s : State) : State :=
  let r : StageReport := { start := s.life.stageStart, stage := n, result := result,
                           durationUs := (s.now - s.life.stageStart) / 1000, firstUnit := first.map (fun p => p.1),
                           firstDet := first.bind (fun p => if p.2 = 0 then none else some p.2),
                           counts := (List.range 8).map (fun i => nth counts i 0), bringup := s.life.bringup }
  s.onLife (fun l => { l with
    reports := l.reports.filter (fun x => decide (x.stage < n)) ++ [r],
    history := l.history.filter (fun x => decide (l.bringup < x.bringup + 16) &&
      !(x.bringup == l.bringup && decide (n ≤ x.stage))) ++ [r] })

/-- The 64 bytes of a report. -/
def reportBytes (r : StageReport) : List Byte :=
  let b := leBytes 8 r.start ++ leBytes 1 r.stage ++ leBytes 1 r.result ++ zeros 2 ++ leBytes 4 r.durationUs ++
    leBytes 4 (r.firstUnit.getD 0xFFFFFFFF) ++ leBytes 2 (r.firstDet.getD 0xFFFF) ++ zeros 2 ++
    (r.counts.map (leBytes 4)).flatten ++ leBytes 4 r.bringup
  b ++ leBytes 4 (crc32c b)

/-- The next stage begins once the report is written (R414). -/
def nextStage (n : Nat) (s : State) : State :=
  s.onLife (fun l => { l with stage := some (n + 1), stageStart := s.now })

/-- RESULT of a stage: FAIL where it exceeded its time, DEGRADED where something was lost. -/
def stageResult (late lost : Bool) : Nat := if late then 2 else if lost then 1 else 0

/-- The view takes the updates of bring-up within the stage that makes them, each raising the generation (R18), and the
vats take their maps and modes: nothing works yet. -/
def bringView (s : State) : State :=
  let s1 := applyPending s
  forEach (List.range 8) (fun w s => s.onVat w (fun v => { v with
    pendingShape := none, pendingMode := false, broadcast := wantsBroadcast s1 w })) s1

/-! ### Firmware on trial (R488, R493, R494) -/

/-- The unit whose firmware part it is. -/
def partUnit : Nat → Nat
  | 1 => unitId 3 0 0
  | 2 => unitId 1 0 0
  | 3 => unitId 0xD 0 0
  | 4 => unitId 5 0 0
  | 5 => unitId 8 0 0
  | 6 => unitId 0xA 0 0
  | 7 => unitId 0xE 0 0
  | 8 => unitId 1 0 0
  | _ => wardenUnit

/-- Set the states of the slot that OD 50.010 names and of the other. -/
def setSlots (named other : SlotState) (s : State) : State :=
  s.onWarden (fun w => if w.slotB
    then { w with fwB := { w.fwB with state := named }, fwA := { w.fwA with state := other } }
    else { w with fwA := { w.fwA with state := named }, fwB := { w.fwB with state := other } })

/-- Name the other slot in OD 50.010. -/
def swapSlots (s : State) : State := s.onWarden (fun w => { w with slotB := !w.slotB })

/-- The set that runs is on trial. -/
def onTrial (s : State) : Bool := s.activeFw.state == .onTrial

/-- The fall-back of R493: a set on trial becomes failed and the loaded one active; an active set whose verification
fails becomes failed and the loaded one goes on trial. -/
def fallBack (s : State) : State :=
  let next := if onTrial s then SlotState.active else .onTrial
  (swapSlots (setSlots .failed next s)).onWarden (fun w => { w with fellBack := true })

/-- A part of the set on trial fails its start check: the stage reports FAIL, the fall-back is committed and the device
resets again (R494). -/
def trialFails (n : Nat) (unit : Nat) (counts : List Nat) (s : State) : State :=
  deviceReset (wpost 0x551 0 0 (zeros 12) (fallBack (report n 2 (some (unit, 0)) counts s)))

/-- The result of OD 7F.001 is due: 0 when the new set started, 1 after a fall-back (R494). -/
def activationEnds (s : State) : State :=
  let fb := s.warden.fellBack
  let fin := fun (o : RunOp) => if o.obj = 0x7F001000 ∧ o.committed ∧ o.ending.isNone
    then { o with ending := some (bit fb, 0, leBytes 1 (bit s.warden.slotB) ++ leBytes 1 (bit fb)) } else o
  s.onWarden (fun w => { w with run := w.run.map fin, fellBack := false })

/-! ### The store and the formats (R497 to R499) -/

/-- The portable subset of one store in another (R458). -/
def portable (src dst : Stored) : Stored :=
  { dst with cap := src.cap, window := src.window, lock := src.lock, ownerCode := src.ownerCode, plcaId := src.plcaId,
             plcaTimer := src.plcaTimer, udpPort := src.udpPort }

/-- Part 9 loads the store of the set's STORE_VER (R498): its own copy; a migrated copy of the newest older one; or with
only newer ones the defaults. The portable subset is read from the header. -/
def loadStore (s : State) : State :=
  let ver := s.activeFw.storeVer
  let w := s.warden
  if ver = w.storeVer then s
  else
    let copies := put w.otherStores w.storeVer w.stored
    let older := copies.foldl (fun (acc : Option (Nat × Stored)) c => if c.1 < ver then (match acc with
      | some a => if a.1 < c.1 then some c else some a
      | none => some c) else acc) none
    let st := match copies.find? (fun c => c.1 == ver), older with
      | some c, _ => c.2
      | none, some c => c.2
      | none, none => Stored.reset
    s.onWarden (fun x => { x with
      storeVer := ver, stored := portable w.stored st, otherStores := copies.filter (fun c => c.1 != ver) })

/-- The ageing history and the field map in the set's HIST_FORMAT; the other copy is kept (R499). -/
def loadHistory (s : State) : State :=
  let f := s.activeFw.histFormat
  let w := s.warden
  if f = w.histFormat then s
  else
    let copies := put w.otherHist w.histFormat (s.ageing.plans, s.ageing.field)
    let cur := look w.otherHist f (s.ageing.plans, s.ageing.field)
    (s.onWarden (fun x => { x with histFormat := f, otherHist := copies.filter (fun c => c.1 != f) })).onAgeing
      (fun a => { a with plans := cur.1, field := cur.2 })

/-- A converted copy of an image in a format, where it fits, else 0xB02 with its IMAGE_NO (R499). -/
def convertImage (f : Nat) (i : Image) (s : State) : State :=
  if sumNat (s.rind.images.map imageSize) + imageSize i ≤ rindCapacity then
    s.onRind (fun x =>
      let y := { i with no := x.nextImage, format := f, state := .durable }
      { x with images := x.images ++ [{ y with raw := imageRaw y }], nextImage := x.nextImage + 1 })
  else post 0xB02 rindUnit 0 (leBytes 8 i.no) s

/-- Images in the set's RIND_FORMAT are retained; others stand as state 4, with a converted copy of the newest
restorable one of each recipe that has none in the format (R499). -/
def loadImages (s : State) : State :=
  let f := s.activeFw.rindFormat
  let news := s.rind.images.filter (fun i => i.format != f && restorable s i)
  let newest := news.reverse.foldl (fun (acc : List Image) i =>
    if acc.any (fun j => j.crc == i.crc && j.stamp == i.stamp) then acc else acc ++ [i]) []
  let want := newest.filter (fun i => !s.rind.images.any (fun j => j.format == f && j.crc == i.crc && j.stamp == i.stamp))
  let turn := fun (i : Image) =>
    if i.format = f then (if i.state = .oldFormat then { i with state := .durable } else i)
    else if i.state = .durable ∨ i.state = .restorable then { i with state := .oldFormat } else i
  markRestorable (forEach want (convertImage f) (s.onRind (fun x => { x with images := x.images.map turn })))

/-! ### Stages 0 and 1 -/

/-- Stage 0 begins: the bring-up number counts, and the reports are those of this bring-up (R422). -/
def beginStage0 (s : State) : State :=
  s.onLife (fun l => { l with bringup := satAdd 32 l.bringup 1, reports := [] })

/-- The Warden ROM fails: Stage 0 ends with result FAIL, and the Warden answers PROBE only (R414). -/
def romFails (s : State) : State :=
  (report 0 2 (some (wardenUnit, 0)) [] s).onLife (fun l => { l with romFailed := true, stage := none })

/-- Stage 0 (R414, R373, R507, R508): ROM self-test, hold-up capacity, SLOT_ID and RECOVERY_REQ. -/
def stage0 (romOk : Bool) (holdupMs : Nat) (recoveryReq : Bool) (slotId : Nat) (s : State) : State :=
  let s1 := (beginStage0 s).onLife (fun l => { l with
    slotId := if l.slotLatched then l.slotId else slotId % 64, slotLatched := true, romFailed := false })
  let s2 := s1.onPower (fun p => { p with recoveryReq := recoveryReq })
  if ¬ romOk then romFails s2
  else
    let s3 := measureHoldup holdupMs s2
    let s4 := report 0 0 none [s3.power.holdupMs, s3.power.charge] s3
    if recoveryReq ∨ s4.life.toRecovery then enterRecoveryState s4 else nextStage 0 s4

/-- AUX_POWER_UP (R370, R414): Stage 0 runs. -/
def execAuxPowerUp (romOk : Bool) (holdupMs : Nat) (recoveryReq : Bool) (slotId : Nat) (s : State) :
    Host.Outcome State Fault Refusal :=
  occurs (s.life.stage == some 0 && s.power.aux) (stage0 romOk holdupMs recoveryReq slotId) s

/-- The running command whose end is written after Stage 1: the device reset, or a wheel reset that went on as one
(R427, R473). -/
def resetEnds (s : State) : State :=
  let fin := fun (o : RunOp) => if o.obj ≠ od 0x7F 1 0 ∧ o.ending.isNone then { o with ending := some (0, 0, []) } else o
  s.onWarden (fun w => { w with run := w.run.map fin })

/-- The set runs from Stage 1: the store, histories and images are loaded; with OD 20.000 at 0 bring-up stops in OFF
(R428, R494, R498, R499). -/
def firmwareStarts (s : State) : State :=
  let s1 := loadImages (loadHistory (loadStore s))
  let s2 := resetEnds (postRestart (s1.onWarden (fun w => { w with up := true })))
  let off := !s2.warden.stored.devEnable
  let s3 := if onTrial s2 && !off then s2 else activationEnds s2
  let s4 := report 1 0 none [bit s3.warden.slotB, 10, 0, bit s2.warden.fellBack] s3
  if off then
    let s5 := s4.onLife (fun l => { l with stage := none })
    if s.life.state = .haltedCoolant then s5 else s5.enter .off
  else nextStage 1 s4

/-- The set that OD 50.010 names can run. -/
def runnable (f : FwSlot) : Bool := f.state == .active || f.state == .onTrial

/-- Stage 1 finds parts of the active set that fail: the fall-back and a start from Stage 0, or RECOVERY with no loaded
set (R414, R494). -/
def firmwareFails (failed : List Nat) (s : State) : State :=
  let first := partUnit (failed.headD 0)
  let counts := [bit s.warden.slotB, 10 - failed.length, failed.length, bit (s.otherFw.state == .loaded)]
  if s.otherFw.state = .loaded then trialFails 1 first counts s
  else enterRecoveryState (setSlots .failed s.otherFw.state (report 1 2 (some (first, 0)) counts s))

/-- Stage 1 (R414, R488, R494). -/
def stage1 (check : SlotCheck) (s : State) : State :=
  if check.failedParts.isEmpty ∧ runnable s.activeFw then firmwareStarts s else firmwareFails check.failedParts s

/-- STAGE_1_FIRMWARE (R414, R494, R511): the slot that OD 50.010 names is verified and started. -/
def execStage1Firmware (slotA slotB : SlotCheck) (s : State) : Host.Outcome State Fault Refusal :=
  occurs (s.life.stage == some 1 && s.power.aux && decide (s.life.stageStart ≤ s.now))
    (fun s => stage1 (if s.warden.slotB then slotB else slotA) s) s

/-! ### Stage 2 (R371, R374, R415) -/

/-- The conditions of R371 and R510 that are missing, by their detectors; 0 for the latch, which has none. -/
def stage2Missing (s : State) : List Nat :=
  (if s.power.flowOk then [] else [0x100]) ++ (if inletT s ≤ 50 then [] else [0x111]) ++
    (if s.power.input && decide (260 ≤ s.power.volts) && decide (s.power.volts ≤ 410) then [] else [0x011]) ++
    (if s.power.seated then [] else [0])

/-- Stage 2 waits: the detector of each missing condition posts once (R371). -/
def stage2Waits (missing : List Nat) (s : State) : State :=
  let new := missing.filter (fun d => !(s.life.stage2Posted.contains d))
  forEach (new.filter (· != 0)) (fun d s => wpost d 0 0 [] s)
    (s.onLife (fun l => { l with stage2Posted := l.stage2Posted ++ new }))

/-- Wheels that a disable keeps off (R428). -/
def disabledWheels (s : State) : List Nat := (List.range 8).filter (fun w => !(nth s.warden.stored.wheelEnable w true))

/-- Rail target of a domain as it comes up: v_c within floor and maximum, the fixed rails of R374, the others open. -/
def railUp (s : State) (d : Nat) : Nat :=
  if governed s d then max (floorOf s d) (min s.power.vc (ceilOf s d))
  else if d < 16 then 0
  else if d < 24 then (if s.power.wheelsOff.contains (d % 8) || s.life.failedRails.contains d then 0 else 760)
  else if d = 24 then 780 else if d = 33 then 12000 else Config.freeNat (s.free + d)

/-- The main rails come up (R370, R374, R377): credit at zero, gates open. -/
def railsOn (failed : List Nat) (s : State) : State :=
  let s1 := (s.onLife (fun l => { l with failedRails := failed.filter (· < 33) })).onPower (fun p => { p with
    rails := true, railsSince := s.now, credit := 0, gatesClosed := false, lastRefresh := s.now, paceLost := false,
    wheelsOff := disabledWheels s, vc := 720 })
  { (s1.onPower (fun p => { p with railTarget := (List.range 34).map (railUp s1) })) with free := s1.free + 34 }

/-- Parts that failed the built-in tests. -/
def stage2Parts (r : Stage2Result) : List (Nat × Nat) :=
  ((r.badRows.filter (fun p => decide (p.1 < 8) && decide (p.2 < 1040))).map (fun p => (vatUnit p.1, linePart false p.2))) ++
    (r.badCols.filter (fun p => decide (p.1 < 8) && decide (p.2 < 1040))).map (fun p => (vatUnit p.1, linePart true p.2)) ++
    (r.badCores.filter (fun c => decide (c.wheel < 8) && decide (c.hoop < 80) && decide (c.slot < 17))).map
      (fun c => (coreUnit c, 0)) ++
    (r.badBanks.filter (fun p => decide (p.1 < 8) && decide (p.2 < 264))).map (fun p => (sliceUnit p.1, p.2))

/-- Rails that a domain counts: the stack supplies are twenty. -/
def railCount (d : Nat) : Nat := if d = 32 then 20 else 1

/-- Stage 2 with its conditions met (R415): rails, built-in tests, fuse read. -/
def stage2 (r : Stage2Result) (late : Bool) (s : State) : State :=
  let parts := stage2Parts r
  let s1 := railsOn r.failedRails (s.onAgeing freshTests)
  let failed := s1.life.failedRails
  let wheels := ((failed.filter (· < 24)).map (· % 8)).dedup
  let s2 := s1.onLife (fun l => { l with
    stage2Bad := parts, fencedWheels := wheels, fencedVats := [], hostWaitExpired := false })
  let s3 := s2.onView (fun v => { v with
    wheels := (List.range 8).map (fun w => if (disabledWheels s).contains w then .disabled else .fenced) })
  let n := sumNat (failed.map railCount)
  let first := match failed, parts with
    | d :: _, _ => some (domUnit d, 0)
    | [], p :: _ => some (p.1, 0)
    | [], [] => none
  let counts := [52 - n, n, Config.freeNat s3.free % 2 ^ 32, parts.length, s.factory.fuses.length]
  let s4 := s3.drawn
  if onTrial s ∧ failed ≠ [] then trialFails 2 (domUnit (failed.headD 0)) counts s4
  else nextStage 2 (report 2 (stageResult late (decide (failed ≠ []))) first counts s4)

/-- STAGE_2_RAILS (R371, R415, R510). -/
def execStage2Rails (r : Stage2Result) (s : State) : Host.Outcome State Fault Refusal :=
  occurs (s.life.stage == some 2) (fun s => match stage2Missing s with
    | [] => stage2 r false s
    | ms => stage2Waits ms s) s

/-! ### Stage 3 (R5, R125, R405 to R407) -/

/-- Entries in the field map or counted beside it. -/
def entryCount (s : State) : Nat := s.ageing.field.length + s.ageing.unstored.length

/-- Lines that a segment skips: bad ones before its last used line. -/
def skippedLines (s : State) (w : Nat) (col : Bool) (g : Nat) : Nat :=
  let last := (usedLines s w col g).getLast?.getD 0
  ((List.range 260).filter (fun i => decide (260 * g + i < last) && !lineGood s w col (260 * g + i))).length

/-- Units fenced: vats and hoops. -/
def fencedUnits (s : State) : Nat :=
  s.life.fencedVats.length + sumNat (s.wheels.map (fun w => (w.hoops.filter (fun q => q.fenced)).length))

/-- The bank list of a slice is built from its good banks; a slice that lost banks posts its new size (R125). -/
def buildBanks (s0 : State) (w : Nat) (s : State) : State :=
  let l := goodBanks s w
  let bytes := min (l.length * 4 * MiB) GiB
  let s1 := s.onWheel w (fun x => { x with bankList := l, failedBanks := [] })
  let ev := if (goodBanks s0 w).length ≠ l.length then some (0x232, sliceUnit w, capacityDetail (sliceUnit w) [l.length]) else none
  queueUpdate { bar := none, changes := [.curdUsable w bytes], drain := none, post := ev } s1

/-- The network rail fences every unit that it feeds: it takes every vat, the hinge engines' ports stand on their own rail,
and the update-engine complex is fenced as a whole (R253, R374, R415). -/
def networkLost (s : State) : State :=
  if s.life.failedRails.contains 24 then
    forEach (List.range 8) (fun w s => fenceVat w [] s) (queueUpdate (viewChange [.updateEngines .fenced]) s)
  else s

/-- Stage 3: the failures are entered, and every map is built afresh. -/
def stage3 (late : Bool) (s : State) : State :=
  let failedBanks := ((List.range 8).map (fun w => (s.wheel w).failedBanks.map (fun b => (sliceUnit w, b)))).flatten
  let tested := s.life.stage2Bad ++ failedBanks
  let s1 := enterParts tested s
  let added := tested.filter (fun p => (entryOf s.ageing.field p.1 p.2).isNone &&
    (entryOf s.ageing.unstored p.1 p.2).isNone && !fusedBad s p.1 p.2)
  let fresh := fun (x : Wheel) => { x with hoops := [], vat := { x.vat with heldMargin := false, heldGap := false } }
  let s2 := { s1 with wheels := s1.wheels.map fresh }
  let s3 := forEach (List.range 8) (fun w s2 => forEach (List.range 80) (fun h x => applyHoop s w h (freshMap x w h) x)
    (buildBanks s w (applyVat s w s2))) s2
  let s4 := bringView (networkLost (postSubstitutions s s3))
  let lines := sumNat ((List.range 8).map (fun w => sumNat ((List.range 4).map (fun g =>
    skippedLines s4 w false g + skippedLines s4 w true g))))
  let spares := sumNat (s4.wheels.map (fun w => (w.hoops.filter (fun q => q.posMap.contains 16)).length))
  let banks := sumNat (s4.wheels.map (fun w => (w.bankList.filter (fun b => decide (256 ≤ b))).length))
  let first := match added with
    | p :: _ => some (p.1, 0x240)
    | [] => s4.life.fencedVats.head?.map (fun w => (vatUnit w, 0x233))
  nextStage 3 (report 3 (stageResult late (decide (0 < fencedUnits s4))) first
    [s.factory.fuses.length, s.ageing.field.length, s.life.stage2Bad.length, entryCount s1 - entryCount s, lines, spares,
     banks, fencedUnits s4] s4)

/-- STAGE_3_SPARES (R407). -/
def execStage3Spares (s : State) : Host.Outcome State Fault Refusal :=
  occurs (s.life.stage == some 3 && s.power.rails) (stage3 false) s

/-! ### Stage 4 (R130, R131, R136, R137, R140, R416) -/

/-- A stack's rails are up. -/
def stackPowered (s : State) (k : Nat) : Bool :=
  !(s.life.failedRails.contains (25 + k / 4)) && !(s.life.failedRails.contains 32)

/-- Channels of a stack that pass and are not pending. -/
def passing (s : State) (r : Stage4Result) (k : Nat) : List Nat :=
  ((List.range 32).map (fun i => 32 * k + i)).filter (fun c =>
    !(r.failed.contains c) && !(s.warden.stored.mapOut.contains c))

/-- Usable stacks: powered, trained, with at least 16 channels. -/
def usableStacks (s : State) (r : Stage4Result) : List Nat :=
  (List.range 20).filter (fun k => stackPowered s k && r.trained.contains k && decide (16 ≤ (passing s r k).length))

/-- Stage 4: the channel list, the regions, the near tier placed. -/
def stage4 (r : Stage4Result) (late : Bool) (s : State) : State :=
  let usable := usableStacks s r
  let all := (usable.map (passing s r)).flatten
  let rule := decide (all.length % 263 = 0) && decide (0 < all.length)
  let chans := if rule then all.take (all.length - 1) else all
  let failing := r.failed.filter (fun c => decide (c < 640) && stackPowered s (c / 32) && r.trained.contains (c / 32))
  let pending := s.warden.stored.mapOut
  let s1 := forEach failing (fun c s => wpost 0x313 (unitId 6 0 c) 0 [] s) s
  let st := s.warden.stored
  let s2 := (s1.onTiers (fun t => { Tiers.reset with
    caveGen := t.caveGen, channels := chans, hbmStacks := usable, placed := decide (chans ≠ []), caveRegion := st.caveGiB,
    devRegion := st.devGiB })).onStored (fun t => { t with mapOut := [] })
  let s3 := bringView (queueUpdate (viewChange [.nearUsable (capacityOf s2 chans.length)]) { s2 with near := [] })
  let bad := (List.range 20).filter (fun k => !(usable.contains k))
  let first := match bad, failing with
    | k :: _, _ => some (unitId 5 0 k, 0)
    | [], c :: _ => some (unitId 6 0 c, 0x313)
    | [], [] => none
  let counts := [usable.length, chans.length, failing.length, pending.length, bit rule]
  if onTrial s ∧ ((List.range 20).filter (fun k => r.trained.contains k)).length < 16 then trialFails 4 (unitId 5 0 0) counts s3
  else nextStage 4 (report 4 (stageResult late (decide (chans.length < 640))) first counts s3)

/-- STAGE_4_HBM (R416). -/
def execStage4Hbm (r : Stage4Result) (s : State) : Host.Outcome State Fault Refusal :=
  occurs (s.life.stage == some 4 && s.power.rails) (stage4 r false) s

/-! ### Stage 5 (R417) -/

/-- Lines and cores that failed. -/
def stage5Parts (r : Stage5Result) : List (Nat × Nat) :=
  stage2Parts { failedRails := [], badRows := r.badRows, badCols := r.badCols, badCores := r.badCores, badBanks := [] }

/-- Spares are applied again to a wheel, with the fences that follow (R417). -/
def respare (s0 : State) (w : Nat) (s : State) : State := applyHoops s0 w (applyVat s0 w s)

/-- Stage 5: failures are entered and spares applied again; way 0 of the instruction caches takes the supervisor image
(R203); the wheels that are in service become usable. -/
def stage5 (r : Stage5Result) (late : Bool) (s : State) : State :=
  let parts := stage5Parts r
  let s1 := enterParts parts (s.onLife (fun l => { l with supervisorLoaded := true }))
  let s2 := postSubstitutions s (forEach (List.range 8) (respare s) s1)
  let up := (List.range 8).filter (fun w => !(s.life.fencedWheels.contains w) && !((disabledWheels s).contains w) && !late)
  let s3 := bringView (forEach up (fun w s => queueUpdate (viewChange [.wheel w .usable]) s) s2)
  let new := parts.filter (fun p => !partBad s p.1 p.2)
  let lines := (parts.filter (fun p => bitsOf p.1 19 16 == 1)).length
  let vats := up.filter (fun w => !(s3.life.fencedVats.contains w))
  let first := parts.head?.map (fun p => (p.1, 0x240))
  let counts := [vats.length, 10880 - (parts.length - lines), lines, parts.length - lines, entryCount s1 - entryCount s,
                 fencedUnits s3 - fencedUnits s]
  match (if onTrial s then new.head? else none) with
  | some p => trialFails 5 p.1 counts s3
  | none => nextStage 5 (report 5 (stageResult late (decide (fencedUnits s < fencedUnits s3))) first counts s3)

/-- STAGE_5_TESTS (R417). -/
def execStage5Tests (r : Stage5Result) (s : State) : Host.Outcome State Fault Refusal :=
  occurs (s.life.stage == some 5 && s.power.rails) (stage5 r false) s

/-! ### Stage 6 (R145 to R148, R296, R418 to R420) -/

/-- Capacity used of a device on a far port whose mode it fits: at most 4 TB; none where it is fenced (R145 to R147,
R419). -/
def farUsable (mode : Nat) : FarFound → Option Nat
  | .none => none
  | .cxl b multi ok => if mode = 1 ∧ ¬ multi ∧ ok then some (min b (4 * 10 ^ 12)) else none
  | .cb5 b ok => if mode = 2 ∧ ok then some (min b (4 * 10 ^ 12)) else none

/-- A far port after training: usable, fenced with 0x425, or off. -/
def trainFar (p : Nat) (found : FarFound) (s : State) : State :=
  let mode := nth s.warden.stored.farMode p 0
  if mode = 0 ∨ (s.farPorts[p]?.map (fun f => f.state)) = some .fenced then s
  else
    match (if s.life.failedRails.contains 31 then none else farUsable mode found) with
    | some b => s.onFar p (fun _ => { state := if nth s.warden.stored.farEnable p false then .usable else .off, capacity := b })
    | none => wpost 0x425 (unitId 0xA 0 p) 0 [] (s.onFar p (fun f => { f with state := .fenced }))

/-- The outcome of a hinge port's training and dwell, with the events that it posts: a width, fenced by its lanes or its
dwell, or not trained (R296, R324, R419). -/
def hingeOutcome (t : HingeTrain) : PortState × List Nat :=
  let events := fun (st : PortState) => match st with
    | .up2 => [0x405]
    | _ => []
  if ¬ t.trained then (.down, [0x404])
  else match widthOf t.localMask t.peerMask with
    | none => (.fenced, [0x404, 0x406])
    | some w =>
      let m := t.localMask &&& t.peerMask
      if t.whole then (w, events w)
      else if (t.pair0 && m % 4 == 3) || (t.pair1 && m / 4 % 4 == 3) then (.up2, events .up2)
      else (.fenced, [0x409, 0x406])

/-- A hinge port after training: its LINK_INIT has gone out, and it starts with a fresh link. -/
def trainHinge (p : Nat) (t : HingeTrain) (s : State) : State :=
  if (s.port p).state == .fenced then s
  else if s.life.failedRails.contains 30 then portWpost 0x406 p (setPort p .fenced s)
  else if !(nth s.warden.stored.portEnable p false) then s
  else
    let o := hingeOutcome t
    let s1 := if t.trained then (sendLinkInit p t.localMask (s.onPort p freshLink)).onPort p (fun q => { q with
        localMask := t.localMask, peerMask := t.peerMask, peerId := t.peerId, state := o.1 }) else setPort p .down s
    forEach o.2 (fun e s => portWpost e p s) s1

/-- The cave's capacity: the usable ports times the smallest of their capacities (R148). -/
def caveBytes (s : State) : Nat :=
  match (s.farPorts.filter (fun f => f.state == .usable)).map (fun f => f.capacity) with
  | [] => 0
  | c :: cs => (cs.length + 1) * cs.foldl min c

/-- The view takes the port states and the cave's capacity. -/
def viewPorts (s : State) : State :=
  queueUpdate (viewChange (((List.range 32).map (fun p => ViewChange.port p (s.port p).state)) ++
    ((List.range 4).map (fun p => ViewChange.far p ((s.farPorts[p]?.map (fun f => f.state)).getD .off))) ++
    [.caveCapacity (caveBytes s)])) s

/-- The host link has trained and qualified. -/
def hostQualified (s : State) : Bool := s.host.linkUp && s.host.qualified

/-- Stage 6: the links are trained and qualified. -/
def stage6 (r : Stage6Result) (late : Bool) (s : State) : State :=
  let s1 := forEach (List.range 4) (fun p s => trainFar p (nth r.far p .none) s) s
  let none4 : HingeTrain := { trained := false, localMask := 0, peerMask := 0, peerId := 0xFFF, whole := false,
                              pair0 := false, pair1 := false }
  let s2 := forEach (List.range 32) (fun p s => trainHinge p (nth r.hinge p none4) s) s1
  let s3 := match r.hostLink with
    | some (w, g) => if s.host.linkUp || s.life.failedRails.contains 31 then s2 else linkTrained w g r.hostQualified s2
    | none => s2
  let s4 := bringView (viewPorts s3)
  let en := (List.range 32).filter (fun p => nth s.warden.stored.portEnable p false)
  let count := fun (st : PortState) => ((List.range 32).filter (fun p => (s4.port p).state == st)).length
  let farF := ((List.range 4).filter (fun p => nth s4.gate.view.far p .off == .fenced))
  let untrained := en.filter (fun p => !((nth r.hinge p none4).trained))
  let bad := en.filter (fun p => (s4.port p).state != .up4)
  let counts := [s4.host.width, s4.host.rate, count .up4, count .up2, count .fenced,
                 ((List.range 4).filter (fun p => nth s4.gate.view.far p .off == .usable)).length, farF.length, r.worstBer]
  let det := fun (p : Nat) =>
    if s.life.failedRails.contains 30 then 0x406 else (hingeOutcome (nth r.hinge p none4)).2.headD 0
  let first := match bad, farF with
    | p :: _, _ => some (portUnit p, det p)
    | [], p :: _ => some (unitId 0xA 0 p, 0x425)
    | [], [] => none
  if onTrial s ∧ untrained ≠ [] then trialFails 6 (portUnit (untrained.headD 0)) counts s4
  else if onTrial s ∧ farF.any (fun p => nth r.far p .none == .none) then trialFails 6 (unitId 0xA 0 (farF.headD 0)) counts s4
  else nextStage 6 (report 6 (stageResult (late || !hostQualified s4) (decide (bad ≠ []) || decide (farF ≠ []) ||
    decide (s4.host.width < 16) || decide (s4.host.rate < 64))) first counts s4)

/-- STAGE_6_LINKS (R418 to R420): it completes once the host link has qualified or its wait has expired. -/
def execStage6Links (r : Stage6Result) (s : State) : Host.Outcome State Fault Refusal :=
  occurs (s.life.stage == some 6 && s.power.rails && (hostQualified s || s.life.hostWaitExpired ||
    (r.hostLink.isSome && r.hostQualified && !s.host.linkUp && !s.life.failedRails.contains 31))) (stage6 r false) s

/-- HOST_LINK_WAIT_EXPIRY (R420): OD 23.010 seconds without a link that qualifies. -/
def execHostLinkWaitExpiry (s : State) : Host.Outcome State Fault Refusal :=
  occurs (s.life.stage == some 6 && !hostQualified s && !s.life.hostWaitExpired &&
    decide (s.life.stageStart + s.warden.stored.hostWait * 10 ^ 9 ≤ s.now))
    (fun s => s.onLife (fun l => { l with hostWaitExpired := true })) s

/-! ### Stages 7 and 8 (R399, R400, R423, R424) -/

/-- Wheels whose domains are planned: those with their rails on. -/
def plannedWheels (s : State) : List Nat := (List.range 8).filter (fun w => governed s w && governed s (8 + w))

/-- Stage 7: the margin plan of every domain. -/
def stage7 (scans : List (Nat × WheelScan)) (late : Bool) (s : State) : State :=
  let ws := (plannedWheels s).filter (fun w => scans.any (fun p => p.1 == w))
  let s1 := forEach ws (fun w s => match scans.find? (fun p => p.1 == w) with
    | some p => replanWheel w p.2 s
    | none => s) s
  let unplanned := (plannedWheels s).filter (fun w => !(ws.contains w))
  let s2 := bringView (forEach unplanned (fun w s => forEach (List.range 80) (fun h s => fenceHoop w h [] s) (fenceVat w [] s)) s1)
  let fenced := fencedUnits s2 - fencedUnits s
  let shapes := ((List.range 8).filter (fun w => shapeOf s w != shapeOf s2 w)).length
  let held := ((List.range 8).filter (fun w => (s2.vat w).held)).length
  let first := if fenced = 0 then none else s2.life.fencedVats.getLast?.map (fun w => (vatUnit w, 0x233))
  nextStage 7 (report 7 (stageResult late (decide (0 < fenced))) first
    [2 * ws.length, planChanges s s2 (fun p => p.tap), planChanges s s2 (fun p => p.floor), held, fenced, shapes] s2)

/-- STAGE_7_PLAN (R400). -/
def execStage7Plan (scans : List (Nat × WheelScan)) (s : State) : Host.Outcome State Fault Refusal :=
  occurs (s.life.stage == some 7 && s.power.rails && (plannedWheels s).all (fun w => scans.any (fun p => p.1 == w)))
    (stage7 scans false) s

/-- A vat is usable. -/
def vatUsable (s : State) (w : Nat) : Bool :=
  nth s.gate.view.wheels w .fenced == .usable && nth s.gate.view.vatFence w .usable == .usable

/-- FAILED (R423): no host link has qualified, fewer than 16 stacks or no vat is usable. -/
def decidesFailed (s : State) : Bool :=
  !hostQualified s || decide (s.tiers.hbmStacks.length < 16) || !(List.range 8).any (vatUsable s)

/-- Codes of the device state (R413). -/
def stateCode : DevState → Nat
  | .off => 0
  | .staging => 1
  | .ready => 2
  | .readyDegraded => 3
  | .failed => 4
  | .recovery => 5
  | .haltedCoolant => 6
  | .maintenance => 7

/-- The state that R423 and R424 give. -/
def decidedState (s : State) : DevState :=
  if decidesFailed s then .failed
  else if s.warden.stored.target = 1 then .maintenance
  else if degradedNow s ≠ 0 then .readyDegraded
  else .ready

/-- Stage 8 (R423, R424, R349, R422). A Stage 8 that a late host link runs again posts no second 0x552 (R431). -/
def stage8 (late : Bool) (s : State) : State :=
  let d := decidedState s
  let c := degradedNow s
  let begun := (s.life.reports.find? (fun r => r.stage == 0)).map (fun r => r.start)
  let ms := (s.now - begun.getD s.life.stageStart) / 10 ^ 6
  let s1 := report 8 (stageResult late false) none [stateCode d, c, ms] s
  let lossy := s1.life.reports.any (fun r => r.result == 1 || r.result == 2)
  let s2 := (s1.onLife (fun l => { l with
    stage := none, causes := BitVec.ofNat 32 c, wasDegraded := d == .readyDegraded })).enter d
  let s3 := if s2.serving then
      (s2.onLife (fun l => { l with reached := true })).onHost (fun h => { h with rdy := !h.resetting }) else s2
  let s4 := endRun (od 0x20 0 0) [] (activationEnds s3)
  if lossy && !s.life.reports.any (fun r => r.stage == 8) then wpost 0x552 0 0 [] s4 else s4

/-- STAGE_8_DECISION (R423). -/
def execStage8Decision (s : State) : Host.Outcome State Fault Refusal :=
  occurs (s.life.stage == some 8) (stage8 false) s

/-! ### Late stages, and the host link (R414, R420) -/

/-- The longest time of a stage in ms; Stage 6 adds the host wait (R414). -/
def stageMax (s : State) (n : Nat) : Nat :=
  nth [1000, 6000, 20000, 3000, 60000, 50000, 40000 + s.warden.stored.hostWait * 1000, 500, 500] n 500

/-- When the present stage's time began to run: Stage 2 does not count its wait for flow. -/
def stageClock (s : State) : Nat :=
  if s.life.stage = some 2 then max s.life.stageStart s.power.flowSince else s.life.stageStart

/-- A stage that exceeds its time has passed nothing that it has not reported (R414; log entry 20). -/
def lateStage (n : Nat) (s : State) : State :=
  match n with
  | 0 => romFails (beginStage0 s)
  | 1 => firmwareFails [0] s
  | 2 => stage2 { failedRails := List.range 33, badRows := [], badCols := [], badCores := [], badBanks := [] } true s
  | 3 => bringView (forEach (List.range 8) (fun w s => forEach (List.range 80) (fun h s => fenceHoop w h [] s) (fenceVat w [] s)) (stage3 true s))
  | 4 => stage4 { trained := [], failed := [] } true s
  | 5 => stage5 { badRows := [], badCols := [], badCores := [] } true s
  | 6 => stage6 { far := [], hinge := [], hostLink := none, hostQualified := false, worstBer := 0 } true s
  | 7 => stage7 [] true s
  | _ => stage8 true s

/-- STAGE_TIMEOUT (R414). -/
def execStageTimeout (s : State) : Host.Outcome State Fault Refusal :=
  match s.life.stage with
  | none => .next s
  | some n => occurs (s.power.aux && decide (stageClock s + stageMax s n * 10 ^ 6 < s.now) &&
      (n != 2 || (stage2Missing s).isEmpty)) (lateStage n) s

/-- The PCIe island is powered: with the main rails from Stage 6 on, or alone in RECOVERY with the latch set (R420, R500,
R510). -/
def pcieOn (s : State) : Bool :=
  (s.power.rails && !s.life.failedRails.contains 31 && match s.life.stage with
    | some n => decide (6 ≤ n)
    | none => true) || (s.life.state == .recovery && s.power.seated && s.power.input)

/-- HOST_LINK_TRAINING (R346, R367, R420): the link trains; in FAILED for want of one the Warden reruns Stage 8. -/
def execHostLinkTraining (width rate : Nat) (qualified : Bool) (s : State) : Host.Outcome State Fault Refusal :=
  occurs (!s.host.linkUp && pcieOn s) (fun s =>
    let s1 := linkTrained width rate qualified s
    if s.life.state = .failed ∧ qualified then
      s1.onLife (fun l => { l with stage := some 8, stageStart := s.now })
    else degrade s1) s

end Sys2Proof.Machine
end

