-- ==== Sys2Proof/Machine/Resets.lean ====
section
/-! DEFINITION. Drain then absorb (R425 to R429): the scopes, the begin of a reset or disable, the end of a drain, the
deadline, absorption with what follows it for each scope, escalation, and a wheel's return to service. -/

namespace Sys2Proof.Machine

/-! ### Scopes -/

/-- The unit ID that stands for a scope in an event: the core, hoop or port, the vat of a wheel, the device. -/
def scopeUnit : Scope → Nat
  | .core c => coreUnit c
  | .hoop w h => hoopUnit w h
  | .wheel w => vatUnit w
  | .port p => portUnit p
  | .cave => unitId 0xA 0 0
  | .capture => rindUnit
  | _ => 0

/-- A scope lies inside another (R425, R429). -/
def covers (s : State) (a b : Scope) : Bool :=
  a == b || match a, b with
  | .device, _ => true
  | .deviceOff, .device => false
  | .deviceOff, _ => true
  | .wheel w, .core c => c.wheel == w
  | .wheel w, .hoop v _ => v == w
  | .wheel w, .recipe h => (match s.recipe? h with
    | some r => bitOf r.wheels w
    | none => false)
  | .hoop w h, .core c => c.wheel == w && c.hoop == h
  | _, _ => false

/-- A drain that covers a scope is in progress. -/
def coveredBy (s : State) (x : Scope) : Bool := s.gate.drains.any (fun d => covers s d.scope x)

/-- Drop the drains that a larger scope takes in (R429). -/
def takeIn (x : Scope) (s : State) : State :=
  s.onGate (fun g => { g with drains := g.drains.filter (fun d => !covers s x d.scope) })

/-- Tasks of a recipe on a wheel that have not ended. -/
def liveOn (r : Recipe) (w : Nat) : List Nat :=
  match r.running with
  | some u => (u.runs.filter (fun x => x.live && (match r.tasks[x.idx]? with
    | some k => k.home == w
    | none => false))).map (fun x => x.idx)
  | none => []

/-- A started task of some recipe, or one that has ended with descriptors still in progress, satisfies a test. -/
def startedAny (s : State) (p : Recipe → Task → Bool) : Bool :=
  s.recipes.any (fun r => match r.running with
    | some u => u.runs.any (fun x => (x.started || x.descs.any (fun d => d.phase == .begun || d.phase == .worked)) && (match r.tasks[x.idx]? with
      | some k => p r k
      | none => false))
    | none => false)

/-- Work of a scope is in flight (R426). -/
def inFlight (s : State) : Scope → Bool
  | .core c => s.cores.any (fun x => x.id == c)
  | .hoop w h => s.cores.any (fun x => x.id.wheel == w && x.id.hoop == h)
  | .wheel w => startedAny s (fun _ k => k.home == w) || s.cores.any (fun x => x.id.wheel == w) ||
      s.tiers.requests.any (fun q => q.id.wheel == w)
  | .recipe h => startedAny s (fun r _ => r.handle == h) || s.chains.any (fun c => c.recipe == h) ||
      s.hinge.xfers.any (fun x => x.recipe == h) || s.tiers.requests.any (fun q => q.id.recipe == h)
  | .port p => s.hinge.xfers.any (fun x => x.port == p) || s.hinge.rx.any (fun x => x.port == p) ||
      !(s.port p).waiting.isEmpty
  | .cave => s.recipes.any (fun r => r.cave.segments.any (fun g => g.filling))
  | .capture => false
  | _ => startedAny s (fun _ _ => true) || !s.cores.isEmpty || !s.chains.isEmpty || !s.hinge.xfers.isEmpty ||
      !s.tiers.requests.isEmpty

/-! ### Beginning -/

/-- Mark the step of a recipe as ended from outside, with no drain of its own: it ends with the larger scope (R429). -/
def markEnded (h : Nat) (s : State) : State :=
  let mark := fun (u : StepRun) => { u with fault := some (u.fault.getD (outsideFault s 0x12)) }
  s.drawn.drawn.onStep h mark

/-- Recipes whose wheel set holds a wheel. -/
def recipesOf (s : State) (w : Nat) : List Nat := (s.recipes.filter (fun r => bitOf r.wheels w)).map (fun r => r.handle)

/-- A reset of a core or hoop begins, unless a drain that covers it runs (R425, R429). -/
def beginReset (x : Scope) (s : State) : State :=
  if coveredBy s x then s else beginDrain x .reset [] (takeIn x s)

/-- A wheel reset begins (R425): view update 1, with which the drain starts, and the steps of its recipes end. -/
def beginWheelReset (w : Nat) (s : State) : State :=
  if coveredBy s (.wheel w) then s
  else
    let s1 := takeIn (.wheel w) s
    let s2 := forEach (recipesOf s1 w) markEnded s1
    addDrain (.wheel w) .reset false []
      (queueUpdate { bar := some (.wheel w), changes := [.wheel w .fencing], drain := some (.wheel w), post := none } s2)

/-- A device reset begins (R425): everything smaller is taken into it. -/
def beginDeviceReset (s : State) : State :=
  if s.gate.drains.any (fun d => d.scope == .device) then s else beginDrain .device .reset [] (takeIn .device s)

/-- A disable begins: its first view update, with which its drain starts, and the updates that follow (R428). -/
def beginDisable (x : Scope) (first : Option ViewUpdate) (after : List ViewUpdate) (s : State) : State :=
  let s1 := match first with
    | some u => queueUpdate { u with drain := some x } s
    | none => s
  addDrain x .disable first.isNone after s1

/-! ### Absorption -/

/-- The granules of an absorbed write hold old or new contents, each whole: which is open (R426). -/
def absorbWrite (q : MemReq) (s : State) : State :=
  match q.data with
  | none => s
  | some bs =>
    let first := q.addr / 64
    let n := (q.addr + bs.length + 63) / 64 - first
    forEach (List.range n) (fun i s =>
      let lo := max q.addr (64 * (first + i))
      let hi := min (q.addr + bs.length) (64 * (first + i) + 64)
      let s1 := s.drawn
      if Config.freeBool s.free then locWrite (locOf lo) (slice bs (lo - q.addr) (hi - lo)) s1 else s1) s

/-- Granules of a request. -/
def requestGranules (q : MemReq) : Nat := match q.data with
  | some bs => (q.addr + bs.length + 63) / 64 - q.addr / 64
  | none => 0

/-- A bank left with no request stalls no longer: the time of its episode's end runs from now (R162, R484). -/
def restStalls (s : State) : State := s.onTiers (fun t => { t with stalls := t.stalls.map (fun x =>
  if x.2.isNone && !t.requests.any (fun q => q.bank == x.1) then (x.1, some s.now) else x) })

/-- Absorb the outstanding requests that satisfy a test; the answer counts requests and granules. -/
def absorbRequests (p : MemReq → Bool) (s : State) : State × Nat × Nat :=
  let qs := s.tiers.requests.filter p
  let s1 := forEach qs absorbWrite s
  (restStalls (s1.onTiers (fun t => { t with requests := t.requests.filter (fun q => !(p q)) })), qs.length,
    sumNat (qs.map requestGranules))

/-- A request is of a wheel or into its slice. -/
def ofWheel (w : Nat) (q : MemReq) : Bool := q.id.wheel == w || (match q.bank with
  | .curd v _ => v == w
  | .near _ _ => false)

/-- Started tasks that issued some requests. -/
def issuers (qs : List MemReq) (s : State) : List (Nat × Nat) :=
  ((qs.map (fun q => (q.id.recipe, q.id.task))).dedup).filter (fun p =>
    ((s.recipe? p.1).bind (fun r => r.run? p.2)).any (fun x => x.started))

/-- The started task of a recipe receives an ABSORBED completion, and ends ABSORBED (R426). -/
def absorbIssuer (h t : Nat) (s : State) : State :=
  match (s.recipe? h).bind (fun r => r.task? t) with
  | some k => if taskLive s h t then settle h (absorbTask h (taskUnit s h t k) t s) else s
  | none => s

/-- The started tasks that issued some absorbed requests end ABSORBED, where they have not ended (R426). -/
def absorbIssuers (qs : List MemReq) (s : State) : State := forEach (issuers qs s) (fun p => absorbIssuer p.1 p.2) s

/-- A request is of one of some tasks, given as for a core. -/
def ofTasks (ts : List (Nat × Nat × Nat)) (q : MemReq) : Bool :=
  ts.any (fun t => t.1 == q.id.recipe && t.2.1 == q.id.task)

/-- The task of a core. -/
def coreTasks (s : State) (p : CoreId → Bool) : List (Nat × Nat × Nat) :=
  ((s.cores.filter (fun c => p c.id)).map (fun c => (c.recipe, c.task, coreUnit c.id))).dedup

/-- The user scratch of a core is zeroed and its supervisor part reinitialised (R228), with contents that the spec does not
give: free bytes. -/
def zeroScratch (c : CoreId) (s : State) : State :=
  match logicalOf s c with
  | some n =>
    let part := (List.range 4096).map (Config.freeByte s.free)
    { s with dev := memWrite (memClear s.dev (scratchAt n) userScratch) (scratchAt n + userScratch) part }.drawn
  | none => s

/-- The completion of a reset posts 0x551 with its scope and counts (R427). -/
def resetComplete (x : Scope) (requests granules tasks : Nat) (s : State) : State :=
  post 0x551 (scopeUnit x) 0 (leBytes 4 requests ++ leBytes 4 granules ++ leBytes 4 tasks) s

/-- A core reset completes: its tasks end ABSORBED, and the core is as R228 says. Way 0 of its cache is reloaded from the
active supervisor image, which is what it held (R203). -/
def finishCore (c : CoreId) (s : State) : State :=
  let ts := coreTasks s (· == c)
  let a := absorbRequests (ofTasks ts) s
  let s1 := forEach ts (fun t s => settle t.1 (absorbTask t.1 t.2.2 t.2.1 s)) a.1
  resetComplete (.core c) a.2.1 a.2.2 ts.length (zeroScratch c { s1 with cores := s1.cores.filter (fun x => x.id != c) })

/-- The passed-over counts of a hoop's tasks are cleared (R425). -/
def clearPasses (w h : Nat) (s : State) : State :=
  { s with recipes := s.recipes.map (fun r =>
      let clear := fun (x : TaskRun) => match r.tasks[x.idx]? with
        | some k => if k.home == w && k.unit == h then { x with passedOver := 0 } else x
        | none => x
      { r with running := r.running.map (fun u => { u with runs := u.runs.map clear }) }) }

/-- A hoop reset completes: as for each of its cores; pins and passed-over counts are cleared (R425). -/
def finishHoop (w h : Nat) (s : State) : State :=
  let ts := coreTasks s (fun c => c.wheel == w && c.hoop == h)
  let a := absorbRequests (ofTasks ts) s
  let s1 := forEach ts (fun t s => settle t.1 (absorbTask t.1 t.2.2 t.2.1 s)) a.1
  let s2 := { s1 with cores := s1.cores.filter (fun x => !(x.id.wheel == w && x.id.hoop == h)) }
  let s3 := forEach (List.range 17) (fun k s => zeroScratch { wheel := w, hoop := h, slot := k } s) s2
  let s4 := if (hoopRec s3 w h).pin.isSome then onHoop w h (fun q => { q with pin := none }) s3 else s3
  resetComplete (.hoop w h) a.2.1 a.2.2 ts.length (clearPasses w h s4)

/-- The units of a wheel are cleared (R97, R228, R425); the curd slice keeps its contents. -/
def clearWheel (w : Nat) (s : State) : State :=
  let unpin := fun (q : Hoop) => { q with pin := none }
  let mode := (s.vat w).held || nth s.warden.stored.vatMode w 0 == 1
  let wheel := fun (x : Wheel) => { x with
    vat := { Vat.reset with starvation := x.vat.starvation, heldMargin := x.vat.heldMargin,
                            heldGap := x.vat.heldGap, broadcast := mode },
    hoops := x.hoops.map unpin, scratchOwner := [] }
  let zero := fun (n : Nat) (s : State) => { s with dev := memClear s.dev (scratchAt n) userScratch }
  let t := takeShape w s
  let s1 := { t with cores := t.cores.filter (fun c => c.id.wheel != w) }
  forEach ((List.range 1280).map (fun n => 1280 * w + n)) zero (s1.onWheel w wheel)

/-- The rails of a wheel go off: FENCED under R19, its slice without contents (R428). -/
def wheelGoesOff (w : Nat) (s : State) : State :=
  let off := fun (p : Power) => { p with
    wheelsOff := insertNew p.wheelsOff w,
    railTarget := ((p.railTarget.set w 0).set (w + 8) 0).set (w + 16) 0,
    deferred := p.deferred.filter (fun q => q.1 ≠ w ∧ q.1 ≠ w + 8) }
  let s1 := (clearWheel w s).onPower off
  queueUpdate (viewChange [.wheel w .disabled]) { s1 with dev := memClear s1.dev (w * GiB) GiB }

/-- A wheel reset is absorbed: the recipes of the wheel are retired, the other tasks whose requests were absorbed end, the
wheel is cleared, and its Stage 5 test is due; a wheel disabled meanwhile is FENCED without it (R425, R426, R429). -/
def finishWheelReset (w : Nat) (s : State) : State :=
  let qs := s.tiers.requests.filter (ofWheel w)
  let a := absorbRequests (ofWheel w) s
  let hs := recipesOf a.1 w
  let tasks := sumNat (hs.map (startedTasks a.1)) + ((issuers qs s).filter (fun p => !hs.contains p.1)).length
  let s1 := absorbIssuers qs (forEach hs (fun h s => match (s.recipe? h).map (fun r => r.running.isSome) with
    | some true => retireNow h (endFaulted h (refuseHeld h s))
    | _ => retireNow h (stopRestore h (refuseHeld h s))) a.1)
  let s2 := resetComplete (.wheel w) a.2.1 a.2.2 tasks (hostResetDone (clearWheel w s1))
  let tally := fun (o : RunOp) => if o.obj = od 0x20 (0x101 + 0x10 * w) 0 then { o with tally := [a.2.1, tasks] } else o
  let s3 := s2.onWarden (fun x => { x with run := x.run.map tally })
  replanReady (if nth s3.warden.stored.wheelEnable w true then s3.onWheel w (fun x => { x with resetTest := true })
    else endRun (od 0x20 (0x100 + 0x10 * w) 0) [] (wheelGoesOff w s3))

/-- A wheel disable is absorbed: tasks with a unit in the wheel, and those whose requests were absorbed, end ABSORBED, and
its rails go off (R426, R428). -/
def finishWheelDisable (w : Nat) (s : State) : State :=
  let a := absorbRequests (ofWheel w) s
  let s1 := absorbIssuers (s.tiers.requests.filter (ofWheel w)) (forEach (recipesOf a.1 w) (fun h s =>
    match s.recipe? h with
    | some r => settle h (forEach (liveOn r w) (absorbTask h (vatUnit w)) s)
    | none => s) a.1)
  endRun (od 0x20 (0x100 + 0x10 * w) 0) [] (wheelGoesOff w s1)

/-- The step of a recipe is absorbed, with the requests it issued: it ends; a recipe that is being retired goes (R179,
R365, R367, R426). -/
def finishStepEnd (h : Nat) (kind : DrainKind) (s : State) : State :=
  let s1 := endFaulted h (absorbRequests (fun q => q.id.recipe == h) s).1
  let s2 := if kind = .hostReset then hostResetDone (removeRecipe h s1)
    else if retiring s1 h then retireNow h s1 else s1
  replanReady s2

/-- Every recipe ends with the device's disable: STEP_FAULT with TSTATUS ABSORBED, and retired (R428). -/
def finishDeviceOff (s : State) : State :=
  let s1 := forEach (s.recipes.map (fun r => r.handle)) haltRecipe s
  endRun (od 0x20 0x000 0) [] ((railsOff s1).enter .off)

/-- A port's disable is absorbed: the tasks of its unanswered transfers end ABSORBED, and the port is DOWN (R298,
R428). -/
def finishPort (p : Nat) (s : State) : State :=
  let lost := s.hinge.xfers.filter (fun x => x.port == p)
  let s1 := s.onHinge (fun h => { h with
    xfers := h.xfers.filter (fun x => x.port != p), rx := h.rx.filter (fun x => x.port != p) })
  let s2 := forEach lost (fun x s => settle x.recipe (absorbTask x.recipe (portUnit p) x.task s)) s1
  endRun (od 0x22 p 0) [] (s2.onPort p (fun q => { freshLink q with
    state := .down, localMask := 0, peerMask := 0, credits := [0, 0, 0, 0] }))

/-- The cave is drained: its cache is invalidated, and its contents are undefined until the host writes them again: free
values (R149, R428). -/
def finishCave (s : State) : State :=
  let empty := fun (r : Recipe) => { r with cave := { r.cave with segments := [], trackers := [], misses := [], fillWaits := [] } }
  { (s.onTiers (fun t => { t with poisonCave := [], caveGen := t.caveGen + 1 })) with cave := [], recipes := s.recipes.map empty }

/-- Updates of the recipes that waited for a loss bound may begin (R325, R327). -/
def endAllWaits (s : State) : State :=
  forEach (s.recipes.map (fun r => r.handle)) (fun h s => settle h (endLossWait h s).1) s

/-- What follows the absorption of a scope (R425, R428); the drain itself has been removed. -/
def finishDrain (d : Drain) (s : State) : State :=
  let s1 := match d.scope, d.kind with
    | .core c, _ => finishCore c s
    | .hoop w h, _ => finishHoop w h s
    | .wheel w, .disable => finishWheelDisable w s
    | .wheel w, _ => finishWheelReset w s
    | .device, _ => resetComplete .device s.tiers.requests.length (sumNat (s.tiers.requests.map requestGranules))
        (sumNat (s.recipes.map (fun r => startedTasks s r.handle))) (deviceReset s)
    | .deviceOff, _ => finishDeviceOff s
    | .port p, _ => finishPort p s
    | .cave, _ => (List.range 4).foldl (fun s p => endRun (od 0x21 (0x100 + 0x10 * p) 0) [] s) (finishCave s)
    | .recipe h, k => finishStepEnd h k s
    | .capture, _ => endRun (od 0x40 0 0) [] (endAllWaits (abandonAll s))
  forEach d.after queueUpdate s1

/-! ### Commands -/

/-- Change the drain at place k. -/
def onDrain (k : Nat) (f : Drain → Drain) (s : State) : State :=
  s.onGate (fun g => { g with drains := modAt g.drains k f })

/-- DRAIN_END (R426): nothing of the scope is in flight. -/
def execDrainEnd (k : Nat) (s : State) : Host.Outcome State Fault Refusal :=
  match s.gate.drains[k]? with
  | none => .next s
  | some d => occurs (d.begun && !d.absorbing && !inFlight s d.scope)
      (onDrain k (fun d => { d with absorbing := true })) s

/-- DRAIN_DEADLINE (R426): the deadline that held when the drain began has passed. -/
def execDrainDeadline (k : Nat) (s : State) : Host.Outcome State Fault Refusal :=
  match s.gate.drains[k]? with
  | none => .next s
  | some d => occurs (d.begun && !d.absorbing && decide (d.began + d.deadline * 1000 ≤ s.now))
      (onDrain k (fun d => { d with absorbing := true })) s

/-- ABSORPTION_COMPLETE (R425, R426). -/
def execAbsorptionComplete (k : Nat) (s : State) : Host.Outcome State Fault Refusal :=
  match s.gate.drains[k]? with
  | none => .next s
  | some d => occurs d.absorbing (fun s =>
      finishDrain d (s.onGate (fun g => { g with drains := g.drains.eraseIdx k }))) s

/-- The smallest scope that holds the unit a step's end is stuck on: a core of the recipe, the wheel of a started task,
the device (R427). -/
def stuckScope (s : State) (h : Nat) : Scope :=
  match s.cores.find? (fun c => c.recipe == h) with
  | some c => .core c.id
  | none =>
    match (s.recipe? h).bind (fun r => r.running.bind (fun u => (u.runs.find? (fun x => x.started)).bind (fun x =>
        r.tasks[x.idx]?))) with
    | some k => if k.cls = 0 ∨ k.cls = 1 then .wheel k.home else .device
    | none => .device

/-- The scope to which a drain escalates (R427). -/
def nextScope (s : State) (d : Drain) : Scope :=
  match d.scope, d.kind with
  | .core c, _ => .hoop c.wheel c.hoop
  | .hoop w _, _ => .wheel w
  | .wheel w, .disable => .wheel w
  | .recipe h, _ => stuckScope s h
  | _, _ => .device

/-- Begin the reset of a scope. -/
def beginScope : Scope → State → State
  | .wheel w => beginWheelReset w
  | .device => beginDeviceReset
  | x => beginReset x

/-- RESET_ESCALATION (R427): absorption is not complete 1 ms after the deadline; a step's end goes on beside the reset
of the unit it is stuck on. -/
def execResetEscalation (k : Nat) (s : State) : Host.Outcome State Fault Refusal :=
  match s.gate.drains[k]? with
  | none => .next s
  | some d =>
    occurs (d.begun && decide (d.began + d.deadline * 1000 + 10 ^ 6 ≤ s.now) &&
        !(match d.scope with
          | .device => true
          | _ => false)) (fun s =>
      let x := nextScope s d
      let s1 := post 0x550 (scopeUnit x) 0 (leBytes 4 (scopeUnit d.scope) ++ leBytes 4 (scopeUnit x)) s
      let keep := match d.scope with
        | .recipe _ => true
        | _ => false
      let s2 := if keep then onDrain k (fun d => { d with began := s.now }) s1
        else s1.onGate (fun g => { g with drains := g.drains.eraseIdx k })
      beginScope x s2) s

/-- CORE_STALL_DETECT (R425): a core completes no instruction for 100 µs, neither in kz.twait nor on a full carry
queue. -/
def execCoreStallDetect (c : CoreId) (s : State) : Host.Outcome State Fault Refusal :=
  match s.core? c with
  | none => .next s
  | some k =>
    let waits := match k.wait with
      | .tumbler _ _ _ _ => true
      | .carryFull => true
      | _ => false
    occurs (!k.exited && !waits && !coveredBy s (.core c)) (fun s =>
      beginReset (.core c) (noteStall (coreUnit c) 0 (post 0x522 (coreUnit c) 0 [] s))) s

/-- CORE_STOP_TIMEOUT (R212, R425): a core of a step that ends does not stop within R212's maximum. -/
def execCoreStopTimeout (c : CoreId) (s : State) : Host.Outcome State Fault Refusal :=
  match s.core? c with
  | none => .next s
  | some k => occurs (match (s.recipe? k.recipe).bind (fun r => r.running) with
      | some u => u.fault.isSome
      | none => true) (beginReset (.core c)) s

/-- A task whose launch record waits for the hoop would find its cores idle (R211, R425). -/
def hoopWaits (s : State) (w h : Nat) : Bool :=
  (hoopCands s w h).any (fun a => decide (candCores a ≤ (idleSlots s w h).length))

/-- HOOP_PICK_STALL (R425): the hoop's pick logic starts nothing for 1 ms while tasks are ready and cores idle. -/
def execHoopPickStall (wheel hoop : Nat) (s : State) : Host.Outcome State Fault Refusal :=
  occurs (decide (wheel < 8) && decide (hoop < 80) && s.warden.up && hoopWaits s wheel hoop &&
      !hoopOut s wheel hoop && !coveredBy s (.hoop wheel hoop)) (fun s =>
    beginReset (.hoop wheel hoop) (wpost 0x523 (hoopUnit wheel hoop) 0 [] s)) s

/-- WHEEL_USABLE_AGAIN (R425): the Stage 5 test of a wheel after its reset; failures are entered and spares applied
again. -/
def execWheelUsableAgain (wheel : Nat) (r : Stage5Result) (s : State) : Host.Outcome State Fault Refusal :=
  occurs (decide (wheel < 8) && (s.wheel wheel).resetTest) (fun s =>
    let parts := (stage5Parts r).filter (fun p => bitsOf p.1 15 13 == wheel)
    let s1 := postSubstitutions s (respare s wheel (enterParts parts s))
    let s2 := s1.onWheel wheel (fun x => { x with resetTest := false })
    let obj := od 0x20 (0x101 + 0x10 * wheel) 0
    let detail := match s2.warden.run with
      | some o => leBytes 4 (nth o.tally 0 0) ++ leBytes 4 (nth o.tally 1 0)
      | none => []
    let mark := if s2.life.fencedWheels.contains wheel then WheelState.fenced else .usable
    endRun obj detail (queueUpdate (viewChange [.wheel wheel mark]) s2)) s

/-! ### Memory requests under a drain (R126, R127, R158, R426) -/

/-- A drain that has begun covers the issuer of a request: its wheel, its recipe, or a core of its task (R426). -/
def issuerDrains (s : State) (r : ReqId) : Bool :=
  s.gate.drains.any (fun d => d.begun && (covers s d.scope (.wheel r.wheel) || d.scope == .recipe r.recipe ||
    s.cores.any (fun c => c.recipe == r.recipe && c.task == r.task && covers s d.scope (.core c.id))))

/-- After a write is served, what waited for its visibility goes on (R139, R176). -/
def afterWrite (h : Nat) (data : Option (List Byte)) (s : State) : State := if data.isSome then settle h s else s

/-- A request comes to a bank (R158, R426): one that is outstanding runs on; a unit under a drain issues none; one from
outside that reaches a draining slice completes ABSORBED at once, and its task ends. -/
def reachBank (r : ReqId) (b : BankId) (a n : Nat) (data : Option (List Byte)) (sv : Serve) (s : State) : State :=
  if s.tiers.requests.any (fun x => x.id == r) then afterWrite r.recipe data (requestStep r b a n data sv s)
  else if issuerDrains s r then s
  else if bankDrains s b then absorbIssuer r.recipe r.task s
  else afterWrite r.recipe data (requestStep r b a n data sv s)

/-- MEMORY_READ (R126, R134, R158): a served read is checked and its data returned, never as valid where poisoned. -/
def execMemoryRead (r : ReqId) (addr len : Nat) (sv : Serve) (s : State) : Host.Outcome State Fault Refusal :=
  match bankOf s addr with
  | none => .next s
  | some b => occurs (oneGranule addr len) (reachBank r b addr len none sv) s

/-- MEMORY_WRITE (R127, R135, R158): whole per granule, or a read-modify-write of part of one. -/
def execMemoryWrite (r : ReqId) (addr : Nat) (bytes : List Byte) (sv : Serve) (s : State) :
    Host.Outcome State Fault Refusal :=
  match bankOf s addr with
  | none => .next s
  | some b => occurs (oneGranule addr bytes.length) (reachBank r b addr bytes.length (some bytes) sv) s

/-- BANK_FAILED (R159): none completed for 10 ms; the requests complete poisoned, the bank is spared or its channel
scheduled for map-out at the next device reset; what waited for the writes goes on (R176). -/
def execBankFailed (b : BankId) (s : State) : Host.Outcome State Fault Refusal :=
  occurs (decide (0 < heldAt s b)) (fun s =>
    let qs := s.tiers.requests.filter (fun q => q.bank == b)
    let s1 := forEach qs completePoisoned s
    let s2 := progress b (s1.onTiers (fun t => { t with requests := t.requests.filter (fun q => q.bank != b) }))
    let s3 := match b with
      | .curd w k => s2.onWheel w (fun x => { x with failedBanks := insertNew x.failedBanks k })
      | .near ch _ => scheduleMapOut ch s2
    forEach (qs.map (fun q => q.id.recipe)).dedup settle s3) s

/-- BANK_CAP_WAIT_END (R158): the oldest waiting request of the bank obtains a shared slot and is issued, unless its
issuer drains (R426). -/
def execBankCapWaitEnd (b : BankId) (s : State) : Host.Outcome State Fault Refusal :=
  match s.tiers.requests.find? (fun q => q.bank == b && !q.held) with
  | none => .next s
  | some q => occurs (slotRoom s q.id b && !issuerDrains s q.id) (State.onTiers (fun t => { t with
      requests := modFirst (fun x => x == q) (fun x => { x with held := true }) t.requests })) s

end Sys2Proof.Machine
end

