-- ==== Sys2Proof/Machine/Dict.lean ====
section
/-! DEFINITION. The object dictionary (R394, R411, R430, R454 to R472): every object with its type, access, length and
range, and the value that a READ of it returns. -/

namespace Sys2Proof.Machine

/-! ### Objects (R438, R456) -/

/-- Types of R438, by their encoding: ENUM is a U8, I32 and BITS are a U32. -/
inductive Ty where
  | u8 | bool | u16 | u32 | f32 | u64 | str | blob | cmd
  deriving DecidableEq, Repr

/-- Access of an object (R441). -/
inductive Acc where
  | ro | rw | rwd | cmd
  deriving DecidableEq, Repr

/-- What the tables say of an object: type, access, array length (1 for a scalar) and range. -/
structure Info where
  ty : Ty
  acc : Acc
  len : Nat
  lo : Nat
  hi : Nat
  deriving DecidableEq, Repr

/-- Bytes of a value; none for STR, BLOB and CMD. -/
def Ty.bytes : Ty → Option Nat
  | .u8 => some 1
  | .bool => some 1
  | .u16 => some 2
  | .u32 => some 4
  | .f32 => some 4
  | .u64 => some 8
  | _ => none

/-- A read-only scalar, a read-only array, a writable scalar. -/
def ro (t : Ty) : Option Info := some { ty := t, acc := .ro, len := 1, lo := 0, hi := 0 }
def roArr (t : Ty) (n : Nat) : Option Info := some { ty := t, acc := .ro, len := n, lo := 0, hi := 0 }
def rw (t : Ty) (lo hi : Nat) : Option Info := some { ty := t, acc := .rw, len := 1, lo := lo, hi := hi }
def cmdObj : Option Info := some { ty := .cmd, acc := .cmd, len := 1, lo := 0, hi := 0 }

/-- Group 00 (R454, R461). -/
def info00 (i : Nat) : Option Info :=
  if i ≤ 3 ∨ i = 0x010 ∨ i = 0x012 then ro .str
  else if i = 0x004 then ro .u16
  else if i = 0x005 ∨ i = 0x025 then ro .u8
  else if i = 0x006 ∨ i = 0x011 ∨ i = 0x013 ∨ i = 0x014 then ro .u32
  else if i = 0x020 ∨ i = 0x021 then ro .blob
  else if i = 0x022 then rw .u8 0 254
  else if i = 0x023 then rw .u8 1 255
  else if i = 0x024 then rw .u16 1024 65535
  else none

/-- Group 01 (R430, R454, R461). -/
def info01 (i : Nat) : Option Info :=
  if i = 0x000 then ro .u8
  else if i = 0x001 ∨ i = 0x003 ∨ i = 0x030 ∨ i = 0x031 then ro .u32
  else if i = 0x002 ∨ i = 0x020 then ro .u64
  else if i = 0x010 then rw .u8 0 1
  else none

/-- Groups 10 and 11 (R394, R462); a cap or a window out of range is refused with 0x0101, not by its range (R376). -/
def info10 (i : Nat) : Option Info :=
  if i ≤ 3 ∨ i = 0x022 ∨ i = 0x023 ∨ i = 0x050 then ro .f32
  else if i = 0x004 ∨ i = 0x005 then ro .u32
  else if i = 0x010 ∨ i = 0x011 then rw .u32 0 (2 ^ 32 - 1)
  else if i = 0x020 ∨ i = 0x030 then ro .u8
  else if i = 0x021 ∨ i = 0x031 then ro .bool
  else if 0x040 ≤ i ∧ i ≤ 0x043 then roArr .f32 34
  else if i = 0x060 then rw .u16 0 100
  else if i = 0x061 then rw .u16 600 850
  else none
def info11 (i : Nat) : Option Info :=
  if i ≤ 1 then roArr .f32 34
  else if i = 0x011 then rw .u8 95 110
  else if i = 0x012 then ro .u8
  else none

/-- Group 12 (R411). -/
def info12 (i : Nat) : Option Info :=
  if i = 0x000 ∨ i = 0x003 then roArr .u8 16
  else if i = 0x001 then roArr .u16 16
  else if i = 0x002 ∨ i = 0x004 ∨ i = 0x005 then roArr .f32 16
  else if i = 0x010 then ro .u32
  else if i = 0x011 then roArr .u32 8
  else if i = 0x012 ∨ (0x021 ≤ i ∧ i ≤ 0x024) then roArr .u8 8
  else if i = 0x020 then roArr .blob 8
  else if i = 0x100 ∨ i = 0x101 then ro .blob
  else if i = 0x102 then ro .u16
  else none

/-- Group 20 (R430, R462). -/
def info20 (i : Nat) : Option Info :=
  if i = 0x000 then rw .bool 0 1
  else if i = 0x001 then cmdObj
  else if i = 0x010 then rw .u32 100 100000
  else if 0x100 ≤ i ∧ i < 0x180 then
    match i % 16 with
    | 0 => rw .bool 0 1
    | 1 => cmdObj
    | 2 => rw .u8 0 1
    | 3 => ro .u8
    | 4 => ro .u8
    | 5 => ro .u64
    | _ => none
  else none

/-- Group 21 (R462, R463); the bits of OD 21.1p0 have checks of their own. -/
def info21 (i : Nat) : Option Info :=
  if i = 0x001 ∨ i = 0x040 then ro .u64
  else if i = 0x002 then ro .u16
  else if i = 0x003 ∨ i = 0x004 then ro .blob
  else if i = 0x010 then rw .u16 1 1024
  else if i = 0x011 then rw .u32 10 1000000
  else if i = 0x020 then roArr .u32 8
  else if i = 0x030 then rw .u16 0 512
  else if i = 0x031 then rw .u8 1 64
  else if 0x100 ≤ i ∧ i < 0x140 then
    match i % 16 with
    | 0 => rw .u8 0 255
    | 1 => ro .u64
    | 2 => ro .u8
    | _ => none
  else none

/-- Group 22 (R456, R465). -/
def info22 (i : Nat) : Option Info :=
  if i < 0x020 then rw .bool 0 1
  else if i = 0x040 then rw .u16 0 0xFFF
  else if i = 0x100 then some { ty := .u64, acc := .rw, len := 4096, lo := 0, hi := 2 ^ 64 - 1 }
  else if i = 0x101 then rw .blob 0 0
  else if i % 256 < 32 then
    match i / 256 with
    | 2 => ro .u8
    | 3 => ro .u16
    | 4 => some { ty := .u8, acc := .rwd, len := 1, lo := 0, hi := 2 }
    | 5 => ro .blob
    | _ => none
  else none

/-- Groups 23, 30 and 40 (R325, R430, R465, R467, R468). -/
def info23 (i : Nat) : Option Info :=
  if i ≤ 1 then ro .u8
  else if i = 2 ∨ i = 3 then ro .u16
  else if i = 0x010 then rw .u32 1 3600
  else if i = 0x011 ∨ i = 0x012 then ro .u32
  else if i = 0x020 then ro .bool
  else none
def info30 (i : Nat) : Option Info :=
  if i = 0 then ro .u64
  else if i = 1 then ro .u32
  else if i ≤ 6 then ro .blob
  else none
def info40 (s : State) (i : Nat) : Option Info :=
  if i = 0x000 then rw .bool 0 1
  else if i = 0x010 then rw .u32 1 10000
  else if i = 0x011 then rw .f32 0 0x3F800000
  else if i = 0x012 then rw .u32 0 s.warden.stored.lossBound
  else if i = 0x013 then rw .u8 1 8
  else if i = 0x020 ∨ i = 0x021 then ro .u64
  else if i = 0x030 then ro .blob
  else none

/-- Group 50 (R454, R468). -/
def info50 (i : Nat) : Option Info :=
  if i = 0x000 then rw .bool 0 1
  else if 0x010 ≤ i ∧ i ≤ 0x012 then ro .u8
  else if i = 0x020 then rw .blob 0 0
  else if i = 0x021 then some { ty := .blob, acc := .rw, len := 10, lo := 0, hi := 0 }
  else if i = 0x030 ∨ i = 0x031 then ro .str
  else none

/-- Groups 60 and 61: an index or item that is no detector does not exist (R470). -/
def info60 (i : Nat) : Option Info :=
  if i = 0 then rw .bool 0 1
  else if i = 1 ∨ i = 3 then roArr .u64 4096
  else if i = 2 then some { ty := .u32, acc := .rw, len := 4096, lo := 0, hi := 3 }
  else if i = 4 then roArr .u32 4096
  else none

/-- Groups 70 and 7F (R430, R454, R472, R473). -/
def info70 (i : Nat) : Option Info :=
  if i = 0x000 ∨ i = 0x120 ∨ i = 0x200 then ro .blob
  else if i = 0x001 ∨ i = 0x110 ∨ i = 0x201 ∨ i = 0x202 then ro .u32
  else if i = 0x002 then ro .u64
  else if i = 0x100 then roArr .blob 9
  else none

/-- The item's entry in the dictionary. -/
def infoOf (s : State) (g i : Nat) : Option Info :=
  match g with
  | 0x00 => info00 i
  | 0x01 => info01 i
  | 0x10 => info10 i
  | 0x11 => info11 i
  | 0x12 => info12 i
  | 0x20 => info20 i
  | 0x21 => info21 i
  | 0x22 => info22 i
  | 0x23 => info23 i
  | 0x30 => info30 i
  | 0x40 => info40 s i
  | 0x50 => info50 i
  | 0x60 => info60 i
  | 0x61 => if i ∈ detectors then rw .u32 0 (2 ^ 32 - 1) else none
  | 0x70 => info70 i
  | 0x7F => if 1 ≤ i ∧ i ≤ 8 then cmdObj else none
  | _ => none

/-- Fields of an OBJECT (R437). -/
def groupOf (obj : Nat) : Nat := obj / 2 ^ 24
def itemOf (obj : Nat) : Nat := obj / 2 ^ 12 % 2 ^ 12
def indexOf (obj : Nat) : Nat := obj % 2 ^ 12

/-- The ROM serves these objects in RECOVERY (R500). -/
def romServes (obj : Nat) : Bool :=
  let g := groupOf obj
  g == 0x00 || g == 0x70 || g == 0x50 ||
    decide (obj ∈ [od 0x01 0x000 0, od 0x01 0x030 0, od 0x01 0x031 0, od 0x10 0x020 0, od 0x7F 1 0, od 0x7F 6 0])

/-- The object of a request, where it exists (R439, R456, R470, R500). -/
def objInfo (s : State) (obj : Nat) : Option Info :=
  if s.life.state = .recovery ∧ ¬ romServes obj then none
  else match infoOf s (groupOf obj) (itemOf obj) with
    | none => none
    | some f =>
      if f.len ≤ indexOf obj then none
      else if groupOf obj = 0x60 ∧ 1 ≤ itemOf obj ∧ indexOf obj ∉ detectors then none
      else some f

/-! ### Values -/

/-- F32 and F64 bits of a real quantity, rounded to nearest. -/
def ratF32 (q : Rat) : Nat := f32.rne (Val.quo 30 (.ofInt q.num) (.ofInt q.den))
def ratF64 (q : Rat) : Nat := f64.rne (Val.quo 60 (.ofInt q.num) (.ofInt q.den))

/-- The mean of the samples of the last `span` ns; 0 where there are none. -/
def meanOf (l : List (Nat × Rat)) (now span : Nat) : Rat :=
  let r := (l.filter (fun e => decide (now < e.1 + span))).map (fun e => e.2)
  if r.isEmpty then 0 else r.sum / r.length

/-- OD 01.030 (R461). -/
def trayBits (s : State) : Nat :=
  bit s.power.flowOk + 2 * bit s.power.seated + 4 * bit s.power.recoveryReq + 8 * bit s.power.stby12 +
    16 * bit s.events.alertLow

/-- OD 12.012 (R411): an interrupted replan, which stays due (R401), reads interrupted. -/
def replanCode (s : State) (w : Nat) : Nat :=
  let c := nth s.ageing.replan w .none
  if c = .overdue then 5
  else if c = .interrupted then 2
  else if (replanDue s w).isSome then 4
  else match c with
    | .none => 0
    | .done => 1
    | .interrupted => 2
    | .aborted => 3
    | .due => 4
    | .overdue => 5

/-- OD 20.1w3 (R462). -/
def modeCode (s : State) (w : Nat) : Nat :=
  let v := s.vat w
  if ¬ v.broadcast then 0 else if v.held then 1 else 2

/-- OD 20.1w4 (R462). -/
def wheelStateCode : WheelState → Nat
  | .usable => 0
  | .fencing => 1
  | .fenced => 2
  | .disabled => 3

/-- OD 21.1p2 (R462). -/
def farStateCode : FarState → Nat
  | .off => 0
  | .usable => 1
  | .fencing => 2
  | .fenced => 3
  | .training => 4

/-- OD 22.2pp: a port that the view has FENCING reads so (R298). -/
def portStateCode (s : State) (p : Nat) : Nat :=
  if nth s.gate.view.ports p .down = .fencing then 4 else portCode (s.port p).state

/-- Slot states (R469). -/
def slotCode : SlotState → Nat
  | .empty => 0
  | .loaded => 1
  | .active => 2
  | .pending => 3
  | .onTrial => 4
  | .failed => 5

/-- An injection point as its object reads (R471). -/
def pointValue (s : State) (d : Nat) : Nat :=
  match s.events.points.find? (fun p => p.1 == d) with
  | some p => p.2.mode + 256 * p.2.n
  | none => 0

/-- Image states (R468). -/
def imageCode : ImageState → Nat
  | .capturing => 0
  | .durable => 1
  | .restorable => 2
  | .bad => 3
  | .oldFormat => 4

/-- Numbers of groups 00 and 01. -/
def num00 (s : State) (i : Nat) : Nat :=
  let st := s.warden.stored
  match i with
  | 0x004 => s.factory.board
  | 0x005 => if s.factory.code1280 then 64 else 48
  | 0x006 => s.factory.date
  | 0x011 => leAt s.activeFw.manifest 12 4
  | 0x013 => s.factory.romVersion
  | 0x014 => s.factory.tableSet
  | 0x022 => st.plcaId
  | 0x023 => st.plcaTimer
  | 0x024 => st.udpPort
  | _ => s.life.slotId
def num01 (s : State) (i : Nat) : Nat :=
  match i with
  | 0x000 => stateCode s.life.state
  | 0x001 => s.life.causes.toNat
  | 0x002 => s.now - s.life.stateSince
  | 0x003 => s.recipes.length
  | 0x010 => s.warden.stored.target
  | 0x020 => s.now
  | 0x030 => trayBits s
  | _ => if s.power.seated then (s.now - s.power.seatSince) / 10 ^ 9 else 0

/-- A domain's rail is up. -/
def domainOn (s : State) (d : Nat) : Bool := (s.power.rails && nth s.power.railTarget d 0 != 0) || (d == 33 && s.power.aux)

/-- The domain of a fenced unit: a vat's, or a wheel's whose hoops are all fenced (R460). -/
def domainFenced (s : State) (d : Nat) : Bool :=
  (decide (d < 24) && nth s.gate.view.wheels (d % 8) .usable == .fenced) ||
    (decide (d < 8) && nth s.gate.view.vatFence d .usable == .fenced) ||
    (decide (8 ≤ d) && decide (d < 16) && (List.range 80).all (fun h => (hoopRec s (d - 8) h).fenced))

/-- Numbers of groups 10 and 11; the measured rail and the beat rate are measurements that the spec relates to nothing
it states (R394), and read zero while the domain is off; no beat runs in a fenced unit (R460). -/
def num10 (s : State) (i d : Nat) : Nat :=
  let p := s.power
  match i with
  | 0x000 => ratF32 p.volts
  | 0x001 => ratF32 (meanOf p.measHist s.now (10 ^ 8))
  | 0x002 => ratF32 (meanOf p.estHist s.now (10 ^ 8))
  | 0x003 => ratF32 (meanOf p.estHist s.now (s.warden.stored.window * 10 ^ 9))
  | 0x004 => p.ceiling
  | 0x005 => p.inletLimit
  | 0x010 => s.warden.stored.cap
  | 0x011 => s.warden.stored.window
  | 0x020 => p.charge
  | 0x021 => bit p.flowOk
  | 0x022 => ratF32 (inletT s)
  | 0x023 => ratF32 p.outlet
  | 0x030 => match p.haltCause with
    | .none => 0
    | .flowLost => 1
    | .junctionTrip => 2
  | 0x031 => bit p.haltInjected
  | 0x040 => if d = 33 ∧ p.aux then ratF32 12 else ratF32 ((nth p.railTarget d 0 : Rat) / 1000)
  | 0x041 => if domainOn s d ∧ ¬ domainFenced s d then Config.freeNat (s.free + d) % 2 ^ 32 else 0
  | 0x042 => if domainOn s d ∧ ¬ domainFenced s d then ratF32 (domainEstimate s p.activity d) else 0
  | 0x043 => if d < 16 ∧ domainOn s d ∧ ¬ domainFenced s d then Config.freeNat (s.free + d) % 2 ^ 32 else 0
  | 0x050 => ratF32 p.gain
  | 0x060 => s.warden.stored.shift
  | _ => s.warden.stored.railMax
def num11 (s : State) (i d : Nat) : Nat :=
  match i with
  | 0x000 => if domainOn s d ∧ ¬ domainFenced s d then ratF32 (look s.power.junction d (0, 0)).1 else 0
  | 0x001 => if domainOn s d ∧ ¬ domainFenced s d then ratF32 (look s.power.junction d (0, 0)).2 else 0
  | 0x011 => s.warden.stored.softLimit
  | _ => 115

/-- Numbers of group 12. -/
def num12 (s : State) (i d : Nat) : Nat :=
  let p := nth s.ageing.plans d Plan.reset
  match i with
  | 0x000 => p.tap
  | 0x001 => p.floor
  | 0x002 => ratF32 p.minMargin
  | 0x003 => p.remaining
  | 0x004 => ratF32 p.years
  | 0x005 => ratF32 p.mRef
  | 0x010 => poweredHours s
  | 0x011 => nth s.ageing.lastReplan d 0
  | 0x012 => replanCode s d
  | 0x021 => (s.wheel d).rowOrder
  | 0x022 => (s.wheel d).colOrder
  | 0x023 => ((List.range 80).filter (fun h => (hoopRec s d h).posMap.length == 15)).length
  | 0x024 => spareBanks s d
  | _ => s.ageing.field.length

/-- Numbers of groups 20 and 21. -/
def num20 (s : State) (i : Nat) : Nat :=
  let st := s.warden.stored
  let w := i / 16 % 16
  if i = 0 then bit st.devEnable
  else if i = 0x010 then st.deadline
  else match i % 16 with
    | 0 => bit (nth st.wheelEnable w true)
    | 2 => nth st.vatMode w 0
    | 3 => modeCode s w
    | 4 => wheelStateCode (nth s.gate.view.wheels w .fenced)
    | _ => (s.vat w).starvation
def num21 (s : State) (i d : Nat) : Nat :=
  let st := s.warden.stored
  let p := i / 16 % 16
  match i with
  | 0x001 => s.gate.view.nearUsable
  | 0x002 => s.tiers.channels.length
  | 0x010 => st.poisonLimit
  | 0x011 => st.symbolLimit
  | 0x020 => nth s.gate.view.curdUsable d 0
  | 0x030 => st.caveGiB
  | 0x031 => st.devGiB
  | 0x040 => s.gate.view.caveCapacity
  | _ =>
    match i % 16 with
    | 0 => nth st.farMode p 0 + 128 * bit (nth st.farEnable p false)
    | 1 => if domainOn s 31 then (s.farPorts[p]?.map (fun f => f.capacity)).getD 0 else 0
    | _ => farStateCode (nth s.gate.view.far p .off)

/-- Numbers of groups 22, 23, 30 and 40. -/
def num22 (s : State) (i d : Nat) : Nat :=
  let st := s.warden.stored
  let p := i % 256
  if i < 0x020 then bit (nth st.portEnable i false)
  else if i = 0x040 then st.moduleId
  else if i = 0x100 then (look st.routes d 0#64).toNat
  else match i / 256 with
    | 2 => portStateCode s p
    | 3 => (s.port p).peerId
    | _ => nth st.pmd p 0
def num23 (s : State) (i : Nat) : Nat :=
  match i with
  | 0x000 => if domainOn s 31 || s.host.linkUp then s.host.width else 0
  | 0x001 => if domainOn s 31 || s.host.linkUp then s.host.rate else 0
  | 0x002 => s.factory.pciVendor
  | 0x003 => s.factory.pciDevice
  | 0x010 => s.warden.stored.hostWait
  | 0x011 => s.host.corrErr
  | 0x012 => s.host.uncorrErr
  | _ => bit s.host.qualified
def num30 (s : State) (i : Nat) : Nat := if i = 0 then s.gate.gen else s.gate.view.capCeiling
def num40 (s : State) (i : Nat) : Nat :=
  let st := s.warden.stored
  match i with
  | 0x000 => bit st.rindEnable
  | 0x010 => st.lossBound
  | 0x011 => st.tolerance.toNat
  | 0x012 => st.period
  | 0x013 => st.retained
  | 0x020 => rindCapacity
  | _ => match s.recipes.head?.bind (newestRestorable s) with
    | some i => i.no
    | none => 0

/-- Numbers of groups 50 to 70. -/
def num50 (s : State) (i : Nat) : Nat :=
  match i with
  | 0x000 => bit s.warden.stored.lock
  | 0x010 => bit s.warden.slotB
  | 0x011 => slotCode s.warden.fwA.state
  | _ => slotCode s.warden.fwB.state
def num60 (s : State) (i d : Nat) : Nat :=
  match i with
  | 0 => bit s.events.permit
  | 1 => look s.events.counts d 0
  | 2 => detConfig s.events d
  | 3 => look s.events.lastPost d 0
  | _ => look s.events.injCounts d 0
def num70 (s : State) (i : Nat) : Nat :=
  match i with
  | 0x001 => s.events.log.length
  | 0x002 => s.events.lost
  | 0x110 => s.life.bringup
  | 0x201 => s.warden.queueFull
  | _ => s.warden.discarded

/-- The number that an object holds. -/
def objNum (s : State) (g i d : Nat) : Nat :=
  match g with
  | 0x00 => num00 s i
  | 0x01 => num01 s i
  | 0x10 => num10 s i d
  | 0x11 => num11 s i d
  | 0x12 => num12 s i d
  | 0x20 => num20 s i
  | 0x21 => num21 s i d
  | 0x22 => num22 s i d
  | 0x23 => num23 s i
  | 0x30 => num30 s i
  | 0x40 => num40 s i
  | 0x50 => num50 s i
  | 0x60 => num60 s i d
  | 0x61 => pointValue s i
  | _ => num70 s i

/-! ### Strings -/

/-- The bytes of a string. -/
def textBytes (t : String) : List Byte := t.toList.map (fun c => BitVec.ofNat 8 c.toNat)

/-- SETVER of a manifest, up to its zero padding (R489). -/
def setVersion (f : FwSlot) : List Byte := (slice f.manifest 32 32).takeWhile (· != 0)

/-- The string that an object holds (R461, R468). -/
def objStr (s : State) (g i : Nat) : List Byte :=
  let held := fun (f : FwSlot) => if f.state = .empty then [] else setVersion f
  match g, i with
  | 0x00, 0x000 => textBytes "Kenilauz"
  | 0x00, 0x001 => textBytes "Orlivin MH8"
  | 0x00, 0x002 => textBytes (if s.factory.code1280 then "OLV-MH8-1280" else "OLV-MH8-960")
  | 0x00, 0x003 => s.factory.serial
  | 0x00, 0x010 => textBytes "rv64imafdcv_zicntr_zicsr_zifencei_zfh_zba_zbb_zvfbfmin_zvfbfwma_zvfh"
  | 0x00, _ => setVersion s.activeFw
  | _, 0x030 => held s.warden.fwA
  | _, _ => held s.warden.fwB

/-! ### BLOBs -/

/-- OD 00.021: fe80::/64 with the modified EUI-64 of the MAC address (R436). -/
def ipv6Address (mac : List Byte) : List Byte :=
  [0xFE#8, 0x80#8] ++ zeros 6 ++ [(nth mac 0 0) ^^^ 2#8] ++ slice mac 1 2 ++ [0xFF#8, 0xFE#8] ++ slice mac 3 3

/-- The 16 bytes of a defect-map entry (R408). -/
def defectBytes (d : Defect) : List Byte :=
  leBytes 4 d.unit ++ leBytes 2 d.part ++
    leBytes 1 (bit d.fused + 2 * bit d.field + 4 * bit d.failed + 8 * bit d.suspect) ++ zeros 1 ++ leBytes 4 d.firstH ++ zeros 4

/-- OD 12.020: spare rows, then spare columns, by physical segment (R411). -/
def spareBytes (s : State) (w : Nat) : List Byte :=
  (List.range 8).map (fun k => BitVec.ofNat 8 (spareLines s w (decide (4 ≤ k)) (k % 4)))

/-- OD 22.101: entry n at byte 8n, little-endian (R465). -/
def routeBytes (s : State) : List Byte :=
  ((List.range 4096).map (fun n => leBytes 8 (look s.warden.stored.routes n 0#64).toNat)).flatten

/-- OD 22.5pp (R465); the BER of a port that is DOWN or FENCED reads zero (R460). -/
def portCounters (q : HingePort) : List Byte :=
  leBytes 8 (ratF64 (if q.state == .down || q.state == .fenced then 0 else q.ber)) ++ leBytes 8 q.corrected ++ leBytes 8 q.uncorrectable ++ leBytes 8 q.replays

/-- OD 30.003: unpopulated logical core indices, ascending (R5, R467): n = 15 of each hoop that runs 15 cores. -/
def unpopulated (s : State) : List Byte :=
  (((List.range 640).filter (fun k => nth s.gate.view.hoopCores k 0 == 15)).map (fun k => leBytes 2 (16 * k + 15))).flatten

/-- State of an admitted recipe as OD 30.005 gives it. -/
def recipeCode (r : Recipe) : Nat :=
  if r.restoring.isSome then 3 else if r.running.isSome then 1 else if r.halted.isSome then 2 else 0

/-- A record of OD 30.005 (R467). -/
def recipeRecord (r : Recipe) : List Byte :=
  leBytes 4 r.handle ++ leBytes 1 r.wheels ++ leBytes 1 (recipeCode r) ++
    leBytes 2 (sumNat (r.tables.map (fun t => t.2.2 % 2 * 2 ^ t.1))) ++ leBytes 4 r.powerW ++ leBytes 4 r.ordinal ++
    leBytes 8 r.gen ++ leBytes 8 r.stamp

/-- An entry of OD 40.030 (R468). -/
def imageEntry (i : Image) : List Byte :=
  leBytes 8 i.no ++ leBytes 8 i.step ++ leBytes 4 i.crc ++ leBytes 1 (imageCode i.state) ++ zeros 3 ++ leBytes 8 (imageSize i)

/-- The 48 bytes of OD 70.200 (R449). Its fields are little-endian inside the BLOB (DESIGN CHOICE, log entry 83: R449
gives no byte order, and R437's big-endian concerns the values of a frame). -/
def resultBytes (c : CmdResult) : List Byte :=
  leBytes 4 c.obj ++ leBytes 1 (bit c.mailbox) ++ leBytes 1 c.result ++ leBytes 2 c.reason ++ leBytes 4 c.seq ++ zeros 4 ++
    leBytes 8 c.start ++ leBytes 8 c.finish ++ padTo 16 c.detail

/-- The slot that a download goes to: the one that is not active, or A where both have failed in RECOVERY (R501). -/
def targetB (s : State) : Bool :=
  if s.life.state = .recovery ∧ s.warden.fwA.state = .failed ∧ s.warden.fwB.state = .failed then false else !s.warden.slotB

/-- That slot. -/
def State.targetFw (s : State) : FwSlot := if targetB s then s.warden.fwB else s.warden.fwA

/-- The value of a BLOB. -/
def objBlob (s : State) (g i d : Nat) : List Byte :=
  match g, i with
  | 0x00, 0x020 => s.factory.mac
  | 0x00, _ => ipv6Address s.factory.mac
  | 0x12, 0x020 => spareBytes s d
  | 0x12, 0x100 => (s.ageing.field.map defectBytes).flatten
  | 0x12, _ => (s.factory.fuses.map (fun d =>
      defectBytes { d with failed := s.ageing.fusedFailed.contains (d.unit, d.part) })).flatten
  | 0x21, 0x003 => ((s.warden.stored.mapOut.foldl (fun l c => insertAsc c l) []).map (leBytes 2)).flatten
  | 0x21, _ => (s.tiers.channels.map (leBytes 2)).flatten
  | 0x22, 0x101 => routeBytes s
  | 0x22, _ => portCounters (s.port (i % 256))
  | 0x30, 0x002 => capacityBlock s
  | 0x30, 0x003 => unpopulated s
  | 0x30, 0x004 => s.gate.view.hoopCores.map (BitVec.ofNat 8)
  | 0x30, 0x005 => (s.recipes.map recipeRecord).flatten
  | 0x30, _ => (((privileged s).map (BitVec.ofNat 8)) ++ [0xFF#8, 0xFF#8]).take 2
  | 0x40, _ => (s.rind.images.map imageEntry).flatten
  | 0x50, 0x020 => s.targetFw.manifest
  | 0x50, _ => match s.targetFw.parts.find? (fun p => p.n == d) with
    | some p => p.image
    | none => []
  | 0x70, 0x000 => (s.events.log.map recordBytes).flatten
  | 0x70, 0x100 => match s.life.reports.find? (fun r => r.stage == d) with
    | some r => reportBytes r
    | none => []
  | 0x70, 0x120 => (s.life.history.map reportBytes).flatten
  | _, _ => match s.warden.result with
    | some c => resultBytes c
    | none => zeros 48

/-! ### READ (R439, R443) -/

/-- One element as a READ returns it: a number big-endian, a string with its length, or of a BLOB the total length and
up to 1,024 bytes from an offset (R438, R443). -/
def elementBytes (s : State) (f : Info) (obj off : Nat) : List Byte :=
  let g := groupOf obj
  let i := itemOf obj
  let d := indexOf obj
  match f.ty.bytes with
  | some n => beBytes n (objNum s g i d)
  | none =>
    if f.ty = .str then
      let t := objStr s g i
      leBytes 1 t.length ++ t.take 255
    else
      let b := objBlob s g i d
      beBytes 4 b.length ++ slice b off 1024

/-- Indices of an array from one on: of a detector array those of the catalogue (R439, R470). -/
def indicesFrom (f : Info) (obj : Nat) : List Nat :=
  let all := (List.range (f.len - indexOf obj)).map (fun k => indexOf obj + k)
  if groupOf obj = 0x60 ∧ 1 ≤ itemOf obj then all.filter (fun n => decide (n ∈ detectors)) else all

/-- Elements for a READ with WHOLE: the last is the last whole one that fits in 1,432 bytes with the count (R439). -/
def wholeElements (s : State) (f : Info) (obj off : Nat) : List (List Byte) :=
  ((indicesFrom f obj).foldl (fun (acc : List (List Byte) × Nat × Bool) n =>
    if acc.2.2 then acc
    else
      let e := elementBytes s f (obj - indexOf obj + n) off
      if 1432 < acc.2.1 + e.length then (acc.1, acc.2.1, true)
      else (acc.1 ++ [e], acc.2.1 + e.length, false)) ([], 2, false)).1

/-- The payload of a READ. -/
def readPayload (s : State) (f : Info) (obj off : Nat) (whole : Bool) : List Byte :=
  if whole then
    let l := wholeElements s f obj off
    beBytes 2 l.length ++ l.flatten
  else elementBytes s f obj off

/-- A READ uses up the free values that it shows. -/
def readDrawn (obj : Nat) (s : State) : State :=
  if groupOf obj = 0x10 ∧ (itemOf obj = 0x041 ∨ itemOf obj = 0x043) then { s with free := s.free + 34 } else s

end Sys2Proof.Machine
end

