-- ==== Sys2Proof/Machine/Oap.lean ====
section
/-! DEFINITION. The Object Access Protocol (R437 to R450): frames, the two paths, statuses and the order of their
checks, the response cache, the busy rule, notifications, and what says which command of the table a frame is. -/

namespace Sys2Proof.Machine

/-! ### Frames (R437) -/

/-- A request as its frame gives it. -/
structure Req where
  peer : Peer
  ver : Nat
  op : Nat
  flags : Nat
  seq : Nat
  obj : Nat
  pay : List Byte
  deriving DecidableEq, Repr

/-- An answer: status, reason, payload (R441). -/
structure Ans where
  status : Nat
  reason : Nat := 0
  pay : List Byte := []
  deriving DecidableEq, Repr

/-- Statuses of R441. -/
def okAns : Ans := { status := 0 }
def refusedAns (code : Nat) : Ans := { status := 2, reason := code }
def statusAns (n : Nat) : Ans := { status := n }

/-- A frame with its CRC, every field big-endian. -/
def frameBytes (op flags status seq obj reason : Nat) (pay : List Byte) : List Byte :=
  let b := beBytes 1 1 ++ beBytes 1 op ++ beBytes 1 flags ++ beBytes 1 status ++ beBytes 4 seq ++ beBytes 4 obj ++
    beBytes 2 pay.length ++ beBytes 2 reason ++ pay
  b ++ beBytes 4 (crc32c b)

/-- A frame is discarded without an answer: its LENGTH disagrees with its size, its CRC fails, or RESPONSE is set. -/
def frameBad (b : List Byte) : Bool :=
  decide (b.length < 20) || decide (1452 < b.length) || beAt b 12 2 + 20 != b.length ||
    beAt b (b.length - 4) 4 != crc32c (b.take (b.length - 4)) || bitOf (beAt b 2 1) 0

/-- The request of a frame. -/
def parseFrame (p : Peer) (b : List Byte) : Req :=
  { peer := p, ver := beAt b 0 1, op := beAt b 1 1, flags := beAt b 2 1, seq := beAt b 4 4, obj := beAt b 8 4,
    pay := slice b 16 (beAt b 12 2) }

/-- WHOLE of a request. -/
def Req.whole (r : Req) : Bool := bitOf r.flags 2

/-! ### The two paths (R25, R432, R445, R446) -/

/-- The Mailbox is served: the host link is up and EN is set. -/
def mailboxOn (s : State) : Bool :=
  s.host.linkUp && s.warden.mbCfg.getLsbD 0 && (s.life.state != .failed || s.host.qualified)

/-- Free slots of the response ring. -/
def responseFree (w : Warden) : Nat := 63 - (w.rspTail + 64 - w.rspHead) % 64

/-- Answers that the Mailbox is still owed: a WRITE that runs, an ABORT that waits. -/
def mailboxOwed (w : Warden) : Nat :=
  match w.run with
  | some o => bit (!o.exec && o.peer.mailbox) + bit (match o.aborting with
    | some a => a.1.mailbox
    | none => false)
  | none => 0

/-- The sender and the bytes of the frame that a command brings; none where the path has none. -/
def frameOf (s : State) : OapSrc → Option (Peer × List Byte)
  | .field a p _ b => some ({ mailbox := false, addr := a, port := p }, b)
  | .mailbox =>
    let w := s.warden
    if mailboxOn s && w.reqHead != w.reqTail && decide (mailboxOwed w < responseFree w) then
      let slot := 0x10000 + 0x800 * w.reqHead
      some ({ mailbox := true, addr := 0, port := 0 }, memRead w.bar4 (slot + 4) (min 2044 (memLe w.bar4 slot 4)))
    else none

/-- The request leaves its ring (R446). -/
def takeFrame (src : OapSrc) (s : State) : State :=
  match src with
  | .mailbox => s.onWarden (fun w => { w with reqHead := (w.reqHead + 1) % 64 })
  | _ => s

/-- Write a frame to a slot of a ring in BAR4. -/
def writeSlot (base i : Nat) (b : List Byte) (m : Memory) : Memory :=
  memWrite m (base + 0x800 * i) (leBytes 4 b.length ++ b)

/-- The vector of responses and notifications (R446). -/
def mbVector (w : Warden) : Nat := bitsOf w.mbCfg.toNat 13 8

/-- Send a response frame to its requester (R436, R446). -/
def sendFrame (p : Peer) (b : List Byte) (s : State) : State :=
  if p.mailbox then
    if mailboxOn s then
      raiseMsix (mbVector s.warden) (s.onWarden (fun w => { w with
        bar4 := writeSlot 0x30000 w.rspTail b w.bar4, rspTail := (w.rspTail + 1) % 64 }))
    else s
  else s.onWarden (fun w => { w with fieldOut := w.fieldOut ++ [(p.addr, p.port, b)] })

/-- The Warden answers: its firmware runs, or after a failed ROM self-test PROBE alone is served (R432, R433). -/
def awake (s : State) : Bool := s.power.aux && (s.warden.up || s.life.romFailed)

/-! ### Answers and the response cache (R442) -/

/-- BUSY and QUEUE_FULL answer requests that the Warden has not acted on; they are not kept, so that the same SEQ may
be tried again. -/
def cacheable (a : Ans) : Bool := a.status != 1 && a.status != 0x0D

/-- Answer a request. -/
def respond (p : Peer) (op seq obj : Nat) (a : Ans) (s : State) : State :=
  let b := frameBytes op 1 a.status seq obj a.reason a.pay
  let c : Cached := { peer := p, seq := seq, time := s.now, frame := b }
  let s1 := sendFrame p b s
  if cacheable a then s1.onWarden (fun w => { w with cache := (c :: w.cache).take 32 }) else s1

/-- The cached response of a request, not older than 30 s. -/
def cachedFor (s : State) (r : Req) : Option Cached :=
  s.warden.cache.find? (fun c => c.peer == r.peer && c.seq == r.seq && decide (s.now ≤ c.time + 30 * 10 ^ 9))

/-! ### The probe block (R448) -/

/-- PFLAGS. -/
def probeFlags (s : State) : Nat :=
  bit s.warden.run.isSome + 2 * bit s.warden.stored.lock +
    4 * bit (s.life.state == .recovery || s.life.romFailed) + 8 * bit s.events.permit

/-- The 32 bytes. -/
def probeBlock (s : State) : List Byte :=
  let run := match s.warden.run with
    | some o => beBytes 4 o.obj ++ beBytes 1 o.progress ++ beBytes 1 (bit o.peer.mailbox) ++ zeros 2 ++
        beBytes 4 o.seq ++ beBytes 4 ((s.now - o.start) / 10 ^ 6)
    | none => zeros 16
  beBytes 1 (stateCode s.life.state) ++ beBytes 1 (probeFlags s) ++ beBytes 1 s.life.slotId ++
    beBytes 1 (bit s.warden.slotB) ++ beBytes 4 s.life.causes.toNat ++ run ++ beBytes 8 s.now

/-- BUSY, with bytes 8–23 of the probe block (R441). -/
def busyAns (s : State) : Ans := { status := 1, pay := slice (probeBlock s) 8 16 }

/-! ### Which command a frame is -/

/-- The commands of the table that a frame may be. -/
inductive Row where
  | read | alertRead | write | execute | probe | abort | subscribe | blockBegin | blockData | blockEnd
  | cap | window | devOn | devOff | wheelOn | wheelOff | farOn | farOff | portOn | portOff | rindOn | rindOff
  | maintOn | maintOff | lock | permit | point | detCfg | route | region | vatMode
  | activate | replan | restore | reconcile | qualify | confirm | recovery | flush | devReset | wheelReset
  deriving DecidableEq, Repr

/-- A WRITE of a BOOL or of OD 01.010 by its value. -/
def byValue (pay : List Byte) (on off : Row) : Row :=
  if pay = [1#8] then on else if pay = [0#8] then off else .write

/-- A WRITE of OD 21.1p0 by what it does to EN (R463). -/
def farRow (s : State) (p : Nat) (pay : List Byte) : Row :=
  let v := beAt pay 0 1
  if pay.length ≠ 1 ∨ bitsOf v 6 2 ≠ 0 then .write
  else match bitOf v 7, nth s.warden.stored.farEnable p false with
    | true, false => .farOn
    | false, true => if v % 4 = nth s.warden.stored.farMode p 0 then .farOff else .write
    | _, _ => .write

/-- The command of a WRITE. -/
def writeRow (s : State) (r : Req) : Row :=
  let i := itemOf r.obj
  match groupOf r.obj with
  | 0x01 => if i = 0x010 then byValue r.pay .maintOn .maintOff else .write
  | 0x10 => if i = 0x010 then .cap else if i = 0x011 then .window else .write
  | 0x20 => if i = 0 then byValue r.pay .devOn .devOff
    else if 0x100 ≤ i ∧ i < 0x180 ∧ i % 16 = 0 then byValue r.pay .wheelOn .wheelOff
    else if 0x100 ≤ i ∧ i < 0x180 ∧ i % 16 = 2 then .vatMode
    else .write
  | 0x21 => if i = 0x030 ∨ i = 0x031 then .region
    else if 0x100 ≤ i ∧ i < 0x140 ∧ i % 16 = 0 then farRow s (i / 16 % 16) r.pay
    else .write
  | 0x22 => if i < 0x020 then byValue r.pay .portOn .portOff else if i = 0x100 then .route else .write
  | 0x40 => if i = 0 then byValue r.pay .rindOn .rindOff else .write
  | 0x50 => if i = 0 then .lock else .write
  | 0x60 => if i = 0 then .permit else if i = 2 then .detCfg else .write
  | 0x61 => .point
  | _ => .write

/-- The command of an EXECUTE. -/
def executeRow (obj : Nat) : Row :=
  let i := itemOf obj
  if indexOf obj ≠ 0 then .execute
  else match groupOf obj with
    | 0x7F =>
      match i with
      | 1 => .activate
      | 2 => .replan
      | 3 => .restore
      | 4 => .reconcile
      | 5 => .qualify
      | 6 => .confirm
      | 7 => .recovery
      | 8 => .flush
      | _ => .execute
    | 0x20 => if i = 1 then .devReset else if 0x100 ≤ i ∧ i < 0x180 ∧ i % 16 = 1 then .wheelReset else .execute
    | _ => .execute

/-- The command of a request (R440, R443); an unknown version or a reserved opcode, which UNSUPPORTED answers, comes as
the table's first, READ. -/
def rowOf (s : State) (r : Req) : Row :=
  if r.ver ≠ 1 then .read
  else match r.op with
    | 1 => if r.obj = od 0x70 1 0 then .alertRead else .read
    | 2 => writeRow s r
    | 3 => executeRow r.obj
    | 4 => .probe
    | 5 => .abort
    | 6 => .subscribe
    | 7 => if r.pay.head? = some 0#8 then .blockBegin else if r.pay.head? = some 1#8 then .blockData else .blockEnd
    | _ => .read

/-! ### The checks in the order of R441 -/

/-- A WRITE, BLOCK, EXECUTE or READ that the object's access forbids; an RWD object is held while its port is enabled. -/
def accessBad (s : State) (f : Info) (r : Req) : Bool :=
  match r.op with
  | 1 => f.acc == .cmd
  | 2 => f.acc == .ro || f.acc == .cmd || f.ty == .blob ||
      (f.acc == .rwd && nth s.warden.stored.portEnable (itemOf r.obj % 256) false)
  | 3 => f.acc != .cmd
  | 6 => f.acc == .cmd
  | 7 => f.ty != .blob || f.acc != .rw
  | _ => false

/-- A payload length that does not fit the type or the opcode (R438, R440, R443, R453, R473). -/
def lengthBad (f : Info) (r : Req) : Bool :=
  let n := r.pay.length
  match r.op with
  | 1 => if f.ty = .blob then n != 4 else n != 0
  | 2 => if r.obj = od 0x50 0 0 then n != 5 else n != (f.ty.bytes).getD 0
  | 3 => n != (if r.obj = od 0x7F 3 0 then 12 else 0)
  | 4 => n != 0
  | 5 => n != 0
  | 6 => n != 8
  | 7 => if r.pay.head? = some 1#8 then !(decide (6 ≤ n) && decide (n ≤ 1029)) else n != 5
  | _ => false

/-- POST of these detectors cannot be cleared (R470). -/
def postFixed (d : Nat) : Bool := d == 0x012 || d == 0x100 || d == 0x101 || (decide (0x520 ≤ d) && decide (d ≤ 0x545))

/-- An injection point's value (R471). -/
def pointOk (v : Nat) : Bool := bitsOf v 7 2 == 0 && (if v % 4 = 2 then v / 256 != 0 else v / 256 == 0)

/-- A value outside the object's range (R441). -/
def rangeBad (s : State) (f : Info) (r : Req) : Bool :=
  let v := beAt r.pay 0 r.pay.length
  let d := indexOf r.obj
  match r.op with
  | 1 => f.ty == .blob && decide ((objBlob s (groupOf r.obj) (itemOf r.obj) d).length < v)
  | 2 =>
    if r.obj = od 0x50 0 0 then decide (1 < beAt r.pay 0 1)
    else if f.ty = .f32 then !(Val.le (f32.decode f.lo) (f32.decode v) && Val.le (f32.decode v) (f32.decode f.hi))
    else if groupOf r.obj = 0x61 then !(pointOk v)
    else if groupOf r.obj = 0x60 ∧ itemOf r.obj = 2 ∧ v % 2 = 0 ∧ postFixed d then true
    else if groupOf r.obj = 0x21 ∧ 0x100 ≤ itemOf r.obj then bitsOf v 6 2 != 0
    else decide (v < f.lo) || decide (f.hi < v)
  | 7 => decide (2 < beAt r.pay 0 1)
  | _ => false

/-- The owner lock holds a request back (R452). -/
def lockHolds (s : State) (r : Req) : Bool :=
  s.warden.stored.lock &&
    (((r.op == 2 || r.op == 7) && groupOf r.obj == 0x50 && r.obj != od 0x50 0 0) ||
      (r.op == 3 && (r.obj == od 0x7F 1 0 || r.obj == od 0x7F 6 0 || r.obj == od 0x7F 7 0)))

/-- Opcode, flags and version that are not supported (R437, R439, R440). -/
def unsupported (r : Req) : Bool :=
  r.ver != 1 || r.op == 0 || decide (7 < r.op) || bitsOf r.flags 7 3 != 0 || (r.op == 2 && r.whole)

/-- The first check that fails, or the object's entry (R441, R447). -/
def precheck (s : State) (r : Req) : Except Ans Info :=
  if r.ver ≠ 1 then .error (statusAns 7)
  else if s.warden.run.isSome ∧ r.op ≠ 4 ∧ r.op ≠ 5 then .error (busyAns s)
  else if unsupported r then .error (statusAns 7)
  else match (if r.op = 4 then cmdObj else objInfo s r.obj) with
    | none => .error (statusAns 3)
    | some f =>
      if accessBad s f r then .error (statusAns 4)
      else if lengthBad f r then .error (statusAns 6)
      else if rangeBad s f r then .error (statusAns 5)
      else if lockHolds s r then .error (refusedAns 0x0501)
      else .ok f

/-- Field-network requests that wait in the queue as this one arrives (R441). -/
def waitingAt : OapSrc → Nat
  | .field _ _ n _ => n
  | .mailbox => 0

/-- What an object's own checks and effect give: the state, and the answer; none where it comes when a long operation
ends. -/
abbrev Act := Req → Info → State → State × Option Ans

/-- Answer by a list of a request's own checks: the first that fails refuses it. -/
def firstRefusal (l : List (Bool × Nat)) : Option Nat := (l.find? (fun p => p.1)).map (fun p => p.2)

/-- A request repeats the operation that is running, by its path, source and SEQ (R442). -/
def repeatsRunning (s : State) (r : Req) : Bool :=
  r.op != 4 && r.op != 5 && (match s.warden.run with
    | some o => o.peer == r.peer && o.seq == r.seq
    | none => false)

/-- Serve a request that has been taken (R441, R442, R447). -/
def answerReq (src : OapSrc) (r : Req) (act : Act) (s : State) : State :=
  if 32 ≤ waitingAt src then
    respond r.peer r.op r.seq r.obj (statusAns 0x0D) (s.onWarden (fun w => { w with queueFull := satAdd 32 w.queueFull 1 }))
  else if repeatsRunning s r then respond r.peer r.op r.seq r.obj (busyAns s) s
  else match cachedFor s r with
    | some c => sendFrame r.peer c.frame s
    | none =>
      match precheck s r with
      | .error a => respond r.peer r.op r.seq r.obj a s
      | .ok f =>
        let p := act r f s
        match p.2 with
        | some a => respond r.peer r.op r.seq r.obj a p.1
        | none => p.1

/-- A command of the Object Access Protocol: it comes about when the Warden answers and the frame is this command's;
after a failed ROM self-test only PROBE is served (R432). -/
def serve (src : OapSrc) (row : Row) (act : Act) (s : State) : Host.Outcome State Fault Refusal :=
  match frameOf s src with
  | none => .next s
  | some (p, b) =>
    let r := parseFrame p b
    occurs (awake s && !frameBad b && rowOf s r == row && (!s.life.romFailed || row == .probe))
      (fun s => answerReq src r act (takeFrame src s)) s

/-! ### Long operations (R447, R449) -/

/-- The interface becomes busy with an operation. -/
def startRun (r : Req) (committed : Bool) (s : State) : State :=
  let o : RunOp := { obj := r.obj, exec := r.op == 3, peer := r.peer, seq := r.seq, start := s.now, progress := 0,
                     committed := committed, aborting := none, ending := none, todo := [], done := [], scans := [],
                     tally := [] }
  s.onWarden (fun w => { w with run := some o })

/-- Change the running operation. -/
def onRun (f : RunOp → RunOp) (s : State) : State := s.onWarden (fun w => { w with run := w.run.map f })

/-- The work of the running operation is complete: its result, reason and DETAIL. -/
def finishRun (result reason : Nat) (detail : List Byte) (s : State) : State :=
  onRun (fun o => { o with ending := some (o.ending.getD (result, reason, detail)), progress := 100 }) s

/-! ### Notifications (R444) -/

/-- The value that a subscription's notification carries. -/
def subValue (s : State) (x : Sub) : List Byte :=
  match objInfo s x.obj with
  | some f => readPayload s f x.obj 0 false
  | none => []

/-- Send a notification: to the Mailbox's ring, where a full ring drops and counts it, or on the field network. -/
def sendNotice (p : Peer) (b : List Byte) (s : State) : State :=
  if p.mailbox then
    if ¬ mailboxOn s then s
    else if (s.warden.ntfTail + 1) % 256 = s.warden.ntfHead then
      s.onWarden (fun w => { w with ntfDropped := satAdd 32 w.ntfDropped 1 })
    else raiseMsix (mbVector s.warden) (s.onWarden (fun w => { w with
      bar4 := writeSlot 0x50000 w.ntfTail b w.bar4, ntfTail := (w.ntfTail + 1) % 256 }))
  else s.onWarden (fun w => { w with fieldOut := w.fieldOut ++ [(p.addr, p.port, b)] })

/-- Notify a subscriber of the present value. -/
def notify (k : Nat) (s : State) : State :=
  match s.warden.subs[k]? with
  | none => s
  | some x =>
    let v := subValue s x
    let mark := fun (y : Sub) => { y with lastSent := s.now, lastValue := v, seq := (y.seq + 1) % 2 ^ 32 }
    let s1 := sendNotice x.peer (frameBytes 6 3 0 x.seq x.obj 0 v) (readDrawn x.obj s)
    s1.onWarden (fun w => { w with subs := modAt w.subs k mark })

end Sys2Proof.Machine
end

