-- ==== Sys2Proof/Machine/Requests.lean ====
section
/-! DEFINITION. The plain requests of the Object Access Protocol: READ, WRITE of objects with no command of their own,
EXECUTE of other objects, PROBE, subscriptions and their notifications, discarded frames, and the registers of BAR0 and
BAR4 that have no command of their own. -/

namespace Sys2Proof.Machine

/-! ### READ, EXECUTE, PROBE -/

/-- The answer to a READ (R439, R443). -/
def readAct : Act := fun r f s =>
  (readDrawn r.obj s, some { status := 0, pay := readPayload s f r.obj (beAt r.pay 0 r.pay.length) r.whole })

/-- READ (R439). -/
def execRead (src : OapSrc) (s : State) : Host.Outcome State Fault Refusal := serve src .read readAct s

/-- ALERT_CLEARING_READ (R484): a READ of OD 70.001 that is answered releases MODULE_ALERT_N. -/
def execAlertClearingRead (src : OapSrc) (s : State) : Host.Outcome State Fault Refusal :=
  serve src .alertRead (fun r f s =>
    let p := readAct r f s
    (p.1.onEvents (fun e => { e with alertLow := false }), p.2)) s

/-- EXECUTE (R441, R473) of an object that is no command: NO_OBJECT or ACCESS. -/
def execExecute (src : OapSrc) (s : State) : Host.Outcome State Fault Refusal :=
  serve src .execute (fun _ _ s => (s, some (statusAns 4))) s

/-- PROBE (R436, R448); the delay of an answer to all nodes is a time, and changes nothing else. -/
def execProbe (src : OapSrc) (allNodes : Bool) (s : State) : Host.Outcome State Fault Refusal :=
  match src, allNodes with
  | .mailbox, true => .next s
  | _, _ => serve src .probe (fun _ _ s => (s, some { status := 0, pay := probeBlock s })) s

/-! ### WRITE of objects with no command of their own (R438, R457) -/

/-- A check of a WRITE passes: the value is stored. -/
def stored (f : Stored → Stored) (s : State) : State × Option Ans := (s.onStored f, some okAns)

/-- A WRITE is refused. -/
def refusedAct (code : Nat) (s : State) : State × Option Ans := (s, some (refusedAns code))

/-- The capture period: 0 means ⌈N / 2⌉ (R325). -/
def capturePeriod (t : Stored) : Nat := if t.period = 0 then (t.lossBound + 1) / 2 else t.period

/-- What the consistency check of the rind store refuses (R337). -/
def rindRefusal (s : State) : Option Nat :=
  let t := s.warden.stored
  firstRefusal [(decide (32768 < (t.retained + 2) * capturePeriod t), 0x0401), (!imagesFit s 0, 0x0402),
    (decide (s.power.charge < 90), 0x0403)]

/-- A WRITE of OD 40.010 to 40.013: while OD 40.000 is set the check runs on the new values (R325); a loss bound that
rises may end waits (R327). -/
def writeRind (f : Stored → Stored) (s : State) : State × Option Ans :=
  match (if s.warden.stored.rindEnable then rindRefusal (s.onStored f) else none) with
  | some code => refusedAct code s
  | none => (endAllWaits (s.onStored f), some okAns)

/-- A WRITE of OD 21.1p0 that neither sets nor clears EN alone (R145, R463). -/
def writeFar (p v : Nat) (s : State) : State × Option Ans :=
  let t := s.warden.stored
  let en := nth t.farEnable p false
  if en then
    if bitOf v 7 ∧ v % 4 = nth t.farMode p 0 then (s, some okAns) else (s, some (statusAns 4))
  else if v % 4 = 3 then refusedAct 0x0202 s
  else stored (fun t => { t with farMode := t.farMode.set p (v % 4) }) s

/-- A recipe with a job block is admitted (R291). -/
def hingeInUse (s : State) : Bool := s.recipes.any (fun r => r.job.isSome)

/-- The network identity stored in OD 00.022 to 00.024. -/
def netStored (s : State) : Nat × Nat × Nat := (s.warden.stored.plcaId, s.warden.stored.plcaTimer, s.warden.stored.udpPort)

/-- The network identity in force: a written value takes effect 100 ms after its write is answered (R454). -/
def netNow (s : State) : Nat × Nat × Nat := if s.now < s.warden.netUntil then s.warden.netBefore else netStored s

/-- The PLCA node ID: the value 0 means SLOT_ID + 1 (R435). -/
def plcaNode (s : State) : Nat := if (netNow s).1 = 0 then s.life.slotId + 1 else (netNow s).1

/-- A write of the network identity is stored at once and takes effect 100 ms later (R454). -/
def writeNet (f : Stored → Stored) (s : State) : State × Option Ans :=
  (((s.onStored f).onWarden (fun w => { w with netBefore := netNow s, netUntil := s.now + 10 ^ 8 })), some okAns)

/-- The WRITE of a checked value (R454, R394, R430, R462, R465, R325). -/
def writeAct : Act := fun r _ s =>
  let v := beAt r.pay 0 r.pay.length
  let i := itemOf r.obj
  match groupOf r.obj with
  | 0x00 =>
    match i with
    | 0x022 => writeNet (fun t => { t with plcaId := v }) s
    | 0x023 => writeNet (fun t => { t with plcaTimer := v }) s
    | _ => writeNet (fun t => { t with udpPort := v }) s
  | 0x10 => if i = 0x060 then stored (fun t => { t with shift := v }) s else stored (fun t => { t with railMax := v }) s
  | 0x11 => stored (fun t => { t with softLimit := v }) s
  | 0x20 => stored (fun t => { t with deadline := v }) s
  | 0x21 =>
    if i = 0x010 then stored (fun t => { t with poisonLimit := v }) s
    else if i = 0x011 then stored (fun t => { t with symbolLimit := v }) s
    else writeFar (i / 16 % 16) v s
  | 0x22 =>
    if i = 0x040 then
      if hingeInUse s then refusedAct 0x0303 s else stored (fun t => { t with moduleId := v }) s
    else stored (fun t => { t with pmd := t.pmd.set (i % 256) v }) s
  | 0x23 => stored (fun t => { t with hostWait := v }) s
  | 0x40 =>
    match i with
    | 0x010 => writeRind (fun t => { t with lossBound := v }) s
    | 0x011 => stored (fun t => { t with tolerance := BitVec.ofNat 32 v }) s
    | 0x012 => writeRind (fun t => { t with period := v }) s
    | _ => writeRind (fun t => { t with retained := v }) s
  | _ => (s, some (statusAns 4))

/-- WRITE (R438, R441, R457). -/
def execWrite (src : OapSrc) (s : State) : Host.Outcome State Fault Refusal := serve src .write writeAct s

/-! ### Subscriptions (R444) -/

/-- Two subscribers are on one path. -/
def samePath (p : Peer) (x : Sub) : Bool := x.peer.mailbox == p.mailbox

/-- Start, renew or cancel a subscription; one that starts or is renewed is notified at once. -/
def subscribeAct : Act := fun r _ s =>
  let period := beAt r.pay 0 4
  let life := beAt r.pay 4 4
  let subs := s.warden.subs
  let number := fun (n : Nat) => some ({ status := 0, pay := beBytes 4 n } : Ans)
  match subs.findIdx? (fun x => x.peer == r.peer && x.obj == r.obj) with
  | some k =>
    let n := (subs[k]?.map (fun x => x.number)).getD 0
    let renew := fun (x : Sub) => { x with period := period, lifetime := life, since := s.now }
    if life = 0 then (s.onWarden (fun w => { w with subs := w.subs.eraseIdx k }), number n)
    else (notify k (s.onWarden (fun w => { w with subs := modAt w.subs k renew })), number n)
  | none =>
    if life = 0 then (s, number 0)
    else if 64 ≤ (subs.filter (samePath r.peer)).length then refusedAct 0x0505 s
    else
      let x : Sub := { peer := r.peer, obj := r.obj, period := period, lifetime := life, since := s.now,
                       lastSent := s.now, seq := 0, number := s.warden.nextSub, lastValue := [] }
      let s1 := s.onWarden (fun w => { w with subs := w.subs ++ [x], nextSub := (w.nextSub + 1) % 2 ^ 32 })
      (notify subs.length s1, number x.number)

/-- SUBSCRIBE (R440, R444). -/
def execSubscribe (src : OapSrc) (s : State) : Host.Outcome State Fault Refusal := serve src .subscribe subscribeAct s

/-- NOTIFICATION_PERIOD (R444): the value has changed, or the period has passed. -/
def execNotificationPeriod (k : Nat) (s : State) : Host.Outcome State Fault Refusal :=
  match s.warden.subs[k]? with
  | none => .next s
  | some x => occurs (s.power.aux && s.warden.up && (subValue s x != x.lastValue ||
      (x.period != 0 && decide (x.lastSent + x.period * 10 ^ 6 ≤ s.now)))) (notify k) s

/-- SUBSCRIPTION_EXPIRY (R444). -/
def execSubscriptionExpiry (k : Nat) (s : State) : Host.Outcome State Fault Refusal :=
  match s.warden.subs[k]? with
  | none => .next s
  | some x => occurs (decide (x.since + x.lifetime * 10 ^ 9 ≤ s.now))
      (fun s => s.onWarden (fun w => { w with subs := w.subs.eraseIdx k })) s

/-! ### Discarded frames (R437, R455) -/

/-- 0xA21 when the count on one path exceeds 100 in a minute; the paths are counted apart. -/
def countDiscard (mailbox : Bool) (s : State) : State :=
  let w := s.now / (60 * 10 ^ 9)
  let old := look s.events.windows (0xA21, bit mailbox) (w, 0)
  let n := if old.1 = w then old.2 + 1 else 1
  let s1 := (countDet 0xA21 s).onEvents (fun e => { e with windows := put e.windows (0xA21, bit mailbox) (w, n) })
  let s2 := s1.onWarden (fun w => { w with discarded := satAdd 32 w.discarded 1 })
  if n = 101 then sendRec (mkRecord s true 0xA21 wardenUnit 0 []) s2 else s2

/-- FRAME_DISCARD (R437, R445). -/
def execFrameDiscard (src : OapSrc) (s : State) : Host.Outcome State Fault Refusal :=
  match frameOf s src with
  | none => .next s
  | some (p, b) => occurs (awake s && frameBad b) (fun s => countDiscard p.mailbox (takeFrame src s)) s

/-! ### Mailbox registers (R446) -/

/-- MAILBOX_DOORBELL (R446): ignored while EN is clear; frames that arrive during a restart of the Warden are lost
(R433). -/
def execMailboxDoorbell (v : Word) (s : State) : Host.Outcome State Fault Refusal :=
  occurs (hostAccess s && mailboxOn s) (fun s =>
    let tail := bitsOf v.toNat 5 0
    s.onWarden (fun w => { w with reqTail := tail, reqHead := if w.up then w.reqHead else tail })) s

/-- RSP_HEAD_WRITE (R446). -/
def execRspHeadWrite (v : Word) (s : State) : Host.Outcome State Fault Refusal :=
  occurs (hostAccess s) (fun s => s.onWarden (fun w => { w with rspHead := bitsOf v.toNat 5 0 })) s

/-! ### Registers and rings with no command of their own (R348, R445, R446, R478) -/

/-- A 64-bit register with some of its bytes written. -/
def spliceReg (old : Word) (off : Nat) (bs : List Byte) : Word :=
  BitVec.ofNat 64 (ofLe (splice (leBytes 8 old.toNat) (off % 8) (bs.take (8 - off % 8))))

/-- The host-interface registers (R349). -/
def hifReg (s : State) : Nat → Nat
  | 0x00 => 0x0001001010000040
  | 0x08 => bit s.host.rdy + 2 * bit s.host.resetting
  | 0x10 => s.gate.gen
  | 0x18 => s.host.bar2Base.toNat
  | 0x20 => s.host.droppedDb
  | _ => 0

/-- The Event Tray registers, whose reserved bits read zero (R478, R11). -/
def trayReg (e : Events) : Nat → Nat
  | 0x00 => (e.base &&& 0xFFFFFFFFF000#64).toNat
  | 0x08 => (e.cfg &&& 0x1FFFFF3F01#64).toNat
  | 0x10 => e.tail
  | 0x18 => e.head
  | 0x20 => e.lost
  | 0x28 => bit e.en + 2 * bit e.cfgErr + 4 * bit e.full + 8 * bit (!e.backlog.isEmpty)
  | _ => 0

/-- QCFG as it stands (R352). -/
def qcfgWord (x : Queue) : Nat :=
  bit x.en + 2 * x.size + 2 ^ 16 * x.vector + 2 ^ 32 * x.icount + 2 ^ 40 * x.itime + 2 ^ 48 * x.drain

/-- The registers of a queue; SQ_TAIL and CQ_HEAD are written only, and read zero (R352; DESIGN CHOICE, log entry 77). -/
def queueReg (x : Queue) : Nat → Nat
  | 0x00 => qcfgWord x
  | 0x08 => bit x.en + 2 * bit x.cfgErr + 4 * bit x.cqFull
  | 0x20 => x.sqHead
  | 0x28 => x.cqTail
  | _ => 0

/-- What the host reads of the 64 bits at an aligned offset of BAR0; reserved ranges read zero (R348). -/
def bar0Reg (s : State) (off : Nat) : Nat :=
  if off < 0x1000 then hifReg s off
  else if off < 0x2000 then 0
  else if off < 0x3000 then trayReg s.events (off - 0x2000)
  else if off < 0x10000 then 0
  else if off < 0x11000 then queueReg (s.queue ((off - 0x10000) / 0x100)) (off % 0x100)
  else if off < 0x20000 then 0
  else if off < 0x20400 then memLe s.host.bar0 off 8
  else if off = 0x21000 then s.host.pba.toNat
  else if off < 0x100000 then 0
  else if off < 0x900000 then memLe s.host.bar0 off 8
  else 0

/-- The Mailbox registers; those that are written only read zero (R446; DESIGN CHOICE, log entry 77). -/
def mailboxReg (w : Warden) : Nat → Nat
  | 0x00 => 0x0001010000400800
  | 0x08 => w.mbCfg.toNat
  | 0x18 => w.reqHead
  | 0x20 => w.rspTail
  | 0x30 => w.ntfTail
  | 0x40 => bit w.up + 2 ^ 32 * w.ntfDropped
  | _ => 0

/-- What the host reads of the 64 bits at an aligned offset of BAR4 (R445). -/
def bar4Reg (s : State) (off : Nat) : Nat :=
  if off < 0x10000 then mailboxReg s.warden off
  else if off < 0xD0000 then memLe s.warden.bar4 off 8
  else 0

/-- A write in BAR0: ET_BASE while the ring is not enabled, the MSI-X table, the rings; anything else is reserved,
read-only or a register with a command of its own. -/
def writeBar0 (off : Nat) (bs : List Byte) (s : State) : State :=
  let e := off + bs.length
  if 0x2000 ≤ off ∧ e ≤ 0x2008 then
    if s.events.en then s else s.onEvents (fun x => { x with base := spliceReg x.base off bs })
  else if 0x20000 ≤ off ∧ e ≤ 0x20400 then
    flushMsix (s.onHost (fun h => { h with bar0 := memWrite h.bar0 off bs }))
  else if 0x100000 ≤ off ∧ e ≤ 0x900000 then s.onHost (fun h => { h with bar0 := memWrite h.bar0 off bs })
  else s

/-- A write in BAR4: MB_CFG without its reserved bits, NTF_HEAD, the slots of the rings. -/
def writeBar4 (off : Nat) (bs : List Byte) (s : State) : State :=
  let e := off + bs.length
  if 0x08 ≤ off ∧ e ≤ 0x10 then
    s.onWarden (fun w => { w with mbCfg := spliceReg w.mbCfg off bs &&& 0x3F01#64 })
  else if 0x38 ≤ off ∧ e ≤ 0x40 then
    s.onWarden (fun w => { w with ntfHead := bitsOf (spliceReg (BitVec.ofNat 64 w.ntfHead) off bs).toNat 7 0 })
  else if 0x10000 ≤ off ∧ e ≤ 0xD0000 then s.onWarden (fun w => { w with bar4 := memWrite w.bar4 off bs })
  else s

/-- GENERIC_REGISTER_WRITE (R11, R348, R349, R445, R446, R478, R479). -/
def execGenericRegisterWrite (bar : Bar) (off : Nat) (bytes : List Byte) (s : State) :
    Host.Outcome State Fault Refusal :=
  occurs (hostAccess s) (match bar with
    | .bar0 => writeBar0 off bytes
    | .bar4 => writeBar4 off bytes) s

end Sys2Proof.Machine
end

