-- ==== Sys2Proof/Machine/Writes.lean ====
section
/-! DEFINITION. The WRITEs with a command of their own that enable nothing: the cap (R376), the target state with
MAINTENANCE and the cave-cache flush (R151, R424), the owner lock (R452, R453), injection and detectors (R470, R471,
R485, R486), routes (R292, R466), region sizes (R464) and the vat-mode override (R79, R80). -/

namespace Sys2Proof.Machine

/-- The value of a WRITE. -/
def Req.val (r : Req) : Nat := beAt r.pay 0 r.pay.length

/-! ### The cap (R376, R379, R384) -/

/-- CAP_WRITE: OD 10.010; the ceiling follows at once. -/
def execCapWrite (src : OapSrc) (s : State) : Host.Outcome State Fault Refusal :=
  serve src .cap (fun r _ s =>
    if r.val < 4000 ∨ 9000 < r.val then refusedAct 0x0101 s
    else (setCeiling (s.onStored (fun t => { t with cap := r.val })), some okAns)) s

/-- WINDOW_WRITE: OD 10.011. -/
def execWindowWrite (src : OapSrc) (s : State) : Host.Outcome State Fault Refusal :=
  serve src .window (fun r _ s =>
    if r.val < 1 ∨ 10 < r.val then refusedAct 0x0101 s else stored (fun t => { t with window := r.val }) s) s

/-! ### The cave-cache flush (R151) -/

/-- Write back the first `k` dirty segments of a list; what is left of `k`, and the list. -/
def cleanSegments : Nat → List Segment → Nat × List Segment
  | k, [] => (k, [])
  | k, g :: gs =>
    if g.dirty ∧ k ≠ 0 then
      let p := cleanSegments (k - 1) gs
      (p.1, { g with dirty := false } :: p.2)
    else
      let p := cleanSegments k gs
      (p.1, g :: p.2)

/-- Write back the first `k` dirty segments of the recipes' shares. -/
def cleanRecipes : Nat → List Recipe → List Recipe
  | _, [] => []
  | k, r :: rs =>
    let p := cleanSegments k r.cave.segments
    { r with cave := { r.cave with segments := p.2 } } :: cleanRecipes p.1 rs

/-- Write back the first `k` dirty segments, in the order of the recipes and of their segment lists: their dirty bits
clear (DESIGN CHOICE, log entry 74: R151 gives no order). -/
def writeBack (k : Nat) (s : State) : State := { s with recipes := cleanRecipes k s.recipes }

/-- The object whose flush runs. -/
def flushOf (s : State) : Nat := (s.warden.run.map (fun o => o.obj)).getD 0

/-- MAINTENANCE ends in the state that R423 gives (R424); a device that has been READY_DEGRADED since Stage 8 does not
return to READY (R423). -/
def leaveMaintenance (s : State) : State :=
  let s1 := s.onStored (fun t => { t with target := 0 })
  let c := degradedNow s1
  let d := if decidedState s1 = .ready ∧ s1.life.wasDegraded then .readyDegraded else decidedState s1
  (s1.onLife (fun l => { l with causes := BitVec.ofNat 32 c, wasDegraded := l.wasDegraded || d == .readyDegraded })).enter d

/-- CAVE_FLUSH_COMPLETE (R151, R424): every dirty segment is written back; or a port error stops the flush after some
number of segments, which is open, 0x322 posts and the state does not change. -/
def execCaveFlushComplete (portError : Option Nat) (s : State) : Host.Outcome State Fault Refusal :=
  occurs (s.flushing.isSome && (match portError with
    | some p => decide (p < 4)
    | none => true)) (fun s =>
    let n := dirtyCount s
    let cmd := flushOf s == od 0x7F 8 0
    match portError with
    | none =>
      let s1 := writeBack n { s with flushing := none }
      if cmd then finishRun 0 0 (flushDetail n 0) s1 else finishRun 0 0 [] (leaveMaintenance s1)
    | some p =>
      let k := Config.freeNat s.free % (n + 1)
      let s1 := post 0x322 (unitId 0xA 0 p) 0 [] (writeBack k { s.drawn with flushing := none })
      if cmd then finishRun 1 0 (flushDetail k (n - k)) s1 else finishRun 1 0x0616 [] s1) s

/-! ### The target state (R424) -/

/-- A step runs. -/
def stepRunning (s : State) : Bool := s.recipes.any (fun r => r.running.isSome)

/-- MAINTENANCE_REQUEST: OD 01.010 = 1. -/
def execMaintenanceRequest (src : OapSrc) (s : State) : Host.Outcome State Fault Refusal :=
  serve src .maintOn (fun _ _ s =>
    let ready := s.life.state == .ready || s.life.state == .readyDegraded
    stored (fun t => { t with target := 1 })
      (s.onLife (fun l => { l with maintenanceWaiting := l.maintenanceWaiting || ready }))) s

/-- MAINTENANCE_ENTRY: no step runs. -/
def execMaintenanceEntry (s : State) : Host.Outcome State Fault Refusal :=
  occurs (s.life.maintenanceWaiting && s.serving && !stepRunning s) (fun s =>
    (s.onLife (fun l => { l with maintenanceWaiting := false })).enter .maintenance) s

/-- MAINTENANCE_EXIT: OD 01.010 = 0; in MAINTENANCE a long operation, which the flush's end answers. -/
def execMaintenanceExit (src : OapSrc) (s : State) : Host.Outcome State Fault Refusal :=
  serve src .maintOff (fun r _ s =>
    if s.life.state = .maintenance then ({ startRun r false s with flushing := some s.now }, none)
    else stored (fun t => { t with target := 0 }) (s.onLife (fun l => { l with maintenanceWaiting := false }))) s

/-! ### The owner lock (R453) -/

/-- Ten minutes. -/
def tenMinutes : Nat := 600 * 10 ^ 9

/-- A wrong owner code: 0xA10; the fifth within ten minutes locks the object out, with 0xA11. -/
def wrongCode (s : State) : State :=
  let times := s.now :: s.warden.wrongCodes.filter (fun t => decide (s.now < t + tenMinutes))
  let s1 := wpost 0xA10 wardenUnit 0 [] (s.onWarden (fun w => { w with wrongCodes := times }))
  if 5 ≤ times.length then
    wpost 0xA11 wardenUnit 0 [] (s1.onWarden (fun w => { w with wrongCodes := [], lockout := some (s.now + tenMinutes) }))
  else s1

/-- The lockout holds. -/
def lockedOut (s : State) : Bool :=
  match s.warden.lockout with
  | some t => decide (s.now < t)
  | none => false

/-- OWNER_LOCK_WRITE: OD 50.000 with its code. -/
def execOwnerLockWrite (src : OapSrc) (s : State) : Host.Outcome State Fault Refusal :=
  serve src .lock (fun r _ s =>
    let on := beAt r.pay 0 1 == 1
    let code := beAt r.pay 1 4
    let t := s.warden.stored
    if lockedOut s then refusedAct 0x0501 s
    else if ¬ t.lock then
      if on then stored (fun t => { t with lock := true, ownerCode := code }) s else (s, some okAns)
    else if code ≠ t.ownerCode then refusedAct 0x0501 (wrongCode s)
    else stored (fun t => { t with lock := on }) s) s

/-- OWNER_LOCK_LOCKOUT_END: ten minutes have passed. -/
def execOwnerLockLockoutEnd (s : State) : Host.Outcome State Fault Refusal :=
  occurs (s.warden.lockout.isSome && !lockedOut s) (fun s => s.onWarden (fun w => { w with lockout := none })) s

/-! ### Injection and detectors (R470, R471, R485 to R487) -/

/-- INJECTION_PERMIT_WRITE: OD 60.000; clearing it sets every point to 0. -/
def execInjectionPermitWrite (src : OapSrc) (s : State) : Host.Outcome State Fault Refusal :=
  serve src .permit (fun r _ s =>
    (s.onEvents (fun e => { e with permit := r.val == 1, points := if r.val = 1 then e.points else [] }), some okAns)) s

/-- INJECTION_POINT_WRITE: OD 61.ddd; the ticks and the sequence number start anew. -/
def execInjectionPointWrite (src : OapSrc) (s : State) : Host.Outcome State Fault Refusal :=
  serve src .point (fun r _ s =>
    let det := itemOf r.obj
    if r.val ≠ 0 ∧ ¬ s.events.permit then refusedAct 0x0506 s
    else
      let p : InjPoint := { mode := r.val % 4, n := r.val / 256, ticks := 0, seq := 0 }
      let pts := if r.val = 0 then unput s.events.points det else put s.events.points det p
      (s.onEvents (fun e => { e with points := pts }), some okAns)) s

/-- The point of a detector. -/
def pointOf (s : State) (det : Nat) : Option InjPoint := (s.events.points.find? (fun p => p.1 == det)).map (fun p => p.2)

/-- A real condition of 0x100 or 0x101 is present: the flow is lost, or a junction sensor is at or above 115 °C
(R391). -/
def tripPresent (s : State) : Bool := !s.power.flowOk || s.power.junction.any (fun p => decide (115 ≤ p.2.1))

/-- An injected occurrence of 0x100 or 0x101 halts as a real one does, and its point is off; it is recorded as injected
where no real condition of either is present (R486). -/
def injectedHalt (det : Nat) (s : State) : State :=
  let s1 := s.onEvents (fun e => { e with points := unput e.points det })
  if s.power.rails then coolantHalt (if det = 0x100 then .flowLost else .junctionTrip) (!tripPresent s) s1 else s1

/-- INJECTION_TICK (R485, R486). -/
def execInjectionTick (det : Nat) (s : State) : Host.Outcome State Fault Refusal :=
  match pointOf s det with
  | none => .next s
  | some p => occurs (s.warden.up && s.events.permit) (fun s =>
      let s1 := injectionTick det p s
      if pointFires p && (det == 0x100 || det == 0x101) then injectedHalt det s1 else s1) s

/-- DETECTOR_CONFIG_WRITE: OD 60.002; a value equal to the catalogue's default is not listed. -/
def execDetectorConfigWrite (src : OapSrc) (s : State) : Host.Outcome State Fault Refusal :=
  serve src .detCfg (fun r _ s =>
    let d := indexOf r.obj
    let dflt := if severity d = 5 then 3 else 1
    (s.onEvents (fun e => { e with
      detCfg := if r.val = dflt then unput e.detCfg d else put e.detCfg d r.val }), some okAns)) s

/-! ### Routes (R291, R292, R466) -/

/-- A route entry without its reserved bits. -/
def routeBits (v : Nat) : Word := BitVec.ofNat 64 v &&& 0x8FFFFFFFFF000000#64

/-- The ports of a list are enabled and not fenced; `also` counts as enabled. -/
def portsServe (s : State) (also : Option Nat) (ps : List Nat) : Bool :=
  ps.all (fun p => (nth s.warden.stored.portEnable p false || also == some p) && (s.port p).state != .fenced)

/-- An entry passes R292. -/
def routeOk (s : State) (also : Option Nat) (id : Nat) (v : Word) : Bool :=
  let e := v.toNat
  let ps : List Nat := ((routePorts e).filter (fun p => p.2 != 0)).map (fun p => p.1)
  !(bitOf e 63) || (!ps.isEmpty && decide ps.Nodup && portsServe s also ps && id != s.warden.stored.moduleId)

/-- A table passes R292. -/
def routesOk (s : State) (also : Option Nat) (l : List (Nat × Word)) : Bool := l.all (fun e => routeOk s also e.1 e.2)

/-- A table with one entry written; an entry of zero is not listed. -/
def putRoute (l : List (Nat × Word)) (id : Nat) (v : Word) : List (Nat × Word) := if v = 0 then unput l id else put l id v

/-- ROUTE_ENTRY_WRITE: OD 22.100[n]. -/
def execRouteEntryWrite (src : OapSrc) (s : State) : Host.Outcome State Fault Refusal :=
  serve src .route (fun r _ s =>
    let l := putRoute s.warden.stored.routes (indexOf r.obj) (routeBits r.val)
    if hingeInUse s then refusedAct 0x0303 s
    else if ¬ routesOk s none l then refusedAct 0x0302 s
    else stored (fun t => { t with routes := l }) s) s

/-! ### Region sizes (R140, R451, R464) -/

/-- What a layout with these region sizes may not reach into: the extents of admitted recipes, the Event Tray ring, the
BAR2 window. -/
def layoutReach (s : State) : List Nat :=
  (s.recipes.map (fun r => r.owned.map (fun e => e.1 + e.2))).flatten ++
    (if s.events.en then [s.events.base.toNat + etSize s.events * 32] else []) ++
    (if s.host.linkUp then [s.host.bar2Base.toNat + bar2Bytes] else [])

/-- The regions of these sizes would reach into what the host has placed; before the near tier is placed nothing has
been. -/
def regionsReach (s : State) (cave dev : Nat) : Bool :=
  s.tiers.placed && (layoutReach s).any (fun e => decide (s.gate.view.nearUsable < e + (cave + dev) * GiB))

/-- REGION_SIZE_WRITE: OD 21.030 and OD 21.031, stored for the next device reset. -/
def execRegionSizeWrite (src : OapSrc) (s : State) : Host.Outcome State Fault Refusal :=
  serve src .region (fun r _ s =>
    let t := s.warden.stored
    if itemOf r.obj = 0x030 then
      if regionsReach s r.val t.devGiB then refusedAct 0x0203 s else stored (fun t => { t with caveGiB := r.val }) s
    else if regionsReach s t.caveGiB r.val then refusedAct 0x0203 s
    else stored (fun t => { t with devGiB := r.val }) s) s

/-! ### The vat-mode override (R79, R80) -/

/-- VAT_MODE_OVERRIDE_WRITE: OD 20.1w2; a change of mode waits for the vat's descriptors. -/
def execVatModeOverrideWrite (src : OapSrc) (s : State) : Host.Outcome State Fault Refusal :=
  serve src .vatMode (fun r _ s =>
    let w := (itemOf r.obj - 0x100) / 16
    let s1 := s.onStored (fun t => { t with vatMode := t.vatMode.set w r.val })
    (s1.onVat w (fun v => { v with pendingMode := wantsBroadcast s1 w != v.broadcast }), some okAns)) s

end Sys2Proof.Machine
end

