-- ==== Sys2Proof/Machine/Enables.lean ====
section
/-! DEFINITION. The enable objects (R428, R451): the checks of a WRITE that sets one, the work that follows it, and the
drain that clearing one begins. -/

namespace Sys2Proof.Machine

/-- A WRITE that is a long operation whose work is complete: it is answered when COMMAND_END comes (R447). -/
def operationDone (r : Req) (s : State) : State × Option Ans := (finishRun 0 0 [] (startRun r false s), none)

/-- A WRITE whose operation runs on. -/
def runsOn (s : State) : State × Option Ans := (s, none)

/-! ### The device (R392, R428, R451) -/

/-- TRAY_FLOW_OK has been asserted for the last 30 s. -/
def flowConfirmed (s : State) : Bool := s.power.flowOk && decide (s.power.flowSince + 30 * 10 ^ 9 ≤ s.now)

/-- The checks of OD 20.000. -/
def deviceRefusal (s : State) : Option Nat :=
  let t := s.warden.stored
  firstRefusal [(!s.power.seated, 0x0502),
    (!(decide (4000 ≤ t.cap) && decide (t.cap ≤ 9000) && decide (1 ≤ t.window) && decide (t.window ≤ 10)), 0x0101),
    (!flowConfirmed s, 0x0102), (decide (50 < inletT s), 0x0103)]

/-- DEVICE_ENABLE: bring-up runs from Stage 2, and the WRITE is answered at the end of Stage 8. -/
def execDeviceEnable (src : OapSrc) (s : State) : Host.Outcome State Fault Refusal :=
  serve src .devOn (fun r _ s =>
    if s.warden.stored.devEnable then (s, some okAns)
    else match deviceRefusal s with
      | some code => refusedAct code s
      | none => runsOn (enterStage 2 s.now (startRun r false (s.onStored (fun t => { t with devEnable := true }))))) s

/-- DEVICE_DISABLE: every wheel, hinge engine and update engine drains; with the main rails off there is nothing to
drain. A bring-up in progress goes no further. -/
def execDeviceDisable (src : OapSrc) (s : State) : Host.Outcome State Fault Refusal :=
  serve src .devOff (fun r _ s =>
    let s1 := (s.onStored (fun t => { t with devEnable := false })).onLife (fun l => { l with stage := none })
    if s.power.rails then runsOn (beginDisable .deviceOff none [] (takeIn .deviceOff (startRun r false s1)))
    else if s.life.state = .staging then (s1.enter .off, some okAns)
    else (s1, some okAns)) s

/-! ### Wheels (R428, R429, R451) -/

/-- The wheel of an object of group 20. -/
def wheelOf (obj : Nat) : Nat := (itemOf obj - 0x100) / 16

/-- A wheel is under a reset. -/
def underReset (s : State) (w : Nat) : Bool :=
  (s.wheel w).resetTest || s.gate.drains.any (fun d => d.kind == .reset && covers s d.scope (.wheel w))

/-- The rails of a wheel come up. -/
def wheelRails (w : Nat) (s : State) : State :=
  let s1 := s.onPower (fun p => { p with wheelsOff := p.wheelsOff.filter (· != w) })
  s1.onPower (fun p => { p with railTarget := (((p.railTarget.set w (railUp s1 w)).set (w + 8) (railUp s1 (w + 8))).set
    (w + 16) (railUp s1 (w + 16))) })

/-- The Stage 5 tests and the Stage 7 plan of a wheel, then the view update that marks it usable. -/
def wheelComesUp (w : Nat) (scan : WheelScan) (s : State) : State :=
  queueUpdate (viewChange [.wheel w .usable]) (replanWheel w scan (wheelRails w s))

/-- WHEEL_ENABLE: the scan is that of the tests and of the plan. A wheel whose rail failed at Stage 2 stays fenced. -/
def execWheelEnable (src : OapSrc) (scan : WheelScan) (s : State) : Host.Outcome State Fault Refusal :=
  serve src .wheelOn (fun r _ s =>
    let w := wheelOf r.obj
    if nth s.warden.stored.wheelEnable w true then (s, some okAns)
    else if ¬ s.serving ∨ underReset s w then refusedAct 0x0616 s
    else
      let s1 := s.onStored (fun t => { t with wheelEnable := t.wheelEnable.set w true })
      operationDone r (if s.life.fencedWheels.contains w then s1 else wheelComesUp w scan s1)) s

/-- WHEEL_DISABLE: the wheel drains, its rails go off. During a wheel reset it follows the reset's absorption, or the
Stage 5 retest, which is left out (R429). -/
def execWheelDisable (src : OapSrc) (s : State) : Host.Outcome State Fault Refusal :=
  serve src .wheelOff (fun r _ s =>
    let w := wheelOf r.obj
    let s1 := s.onStored (fun t => { t with wheelEnable := t.wheelEnable.set w false })
    if ¬ s.power.rails ∨ s.power.wheelsOff.contains w then (s1, some okAns)
    else if (s.wheel w).resetTest then
      operationDone r (wheelGoesOff w (s1.onWheel w (fun x => { x with resetTest := false })))
    else if coveredBy s (.wheel w) then runsOn (startRun r false s1)
    else
      let first : ViewUpdate := { bar := some (.wheel w), changes := [.wheel w .fencing], drain := none, post := none }
      runsOn (beginDisable (.wheel w) (some first) [] (takeIn (.wheel w) (startRun r false s1)))) s

/-! ### Far ports and the cave (R145 to R149, R428, R451) -/

/-- The far port of an object of group 21. -/
def farOf (obj : Nat) : Nat := itemOf obj / 16 % 16

/-- The device found does not match the mode (R145, R146). -/
def modeMismatch (mode : Nat) : FarFound → Bool
  | .none => mode != 0
  | .cxl _ multi _ => mode == 2 || (mode == 1 && multi)
  | .cb5 _ _ => mode == 1

/-- The checks of OD 21.1p0. -/
def farRefusal (s : State) (mode : Nat) (found : FarFound) : Option Nat :=
  firstRefusal [(!s.tiers.placed || s.warden.stored.caveGiB == 0, 0x0201), (mode == 3 || modeMismatch mode found, 0x0202)]

/-- Usable far ports. -/
def usableFar (s : State) : List Nat :=
  (List.range 4).filter (fun p => (s.farPorts[p]?.map (fun f => f.state)) == some .usable)

/-- Capacity of the cave over some ports (R148). -/
def caveOver (s : State) (ps : List Nat) : Nat :=
  match ps.filterMap (fun p => s.farPorts[p]?.map (fun f => f.capacity)) with
  | [] => 0
  | c :: cs => (cs.length + 1) * cs.foldl min c

/-- The set of ports under the cave changes (R149): the first update marks the cave FENCING and bars the recipes that
name it, the cave drains, and the second marks it FENCED with its new ports and capacity; a port that leaves becomes
`as`. The spec gives no later update that makes the cave usable: it stays FENCED until the next bring-up (DEDUCED, log
entry 64). -/
def rebuildCave (gone : List Nat) (as : FarState) (new : List Nat) (s : State) : State :=
  let now := usableFar s
  let ps := (List.range 4).filter (fun p => (now.contains p && !gone.contains p) || new.contains p)
  let first : ViewUpdate := { bar := some .cave, changes := .cave .fencing :: now.map (fun p => .far p .fencing), drain := none, post := none }
  let second := viewChange (.cave .fenced :: gone.map (fun p => .far p as) ++ ps.map (fun p => .far p .usable) ++
    [.caveCapacity (caveOver s ps)])
  beginDisable .cave (some first) [second] s

/-- The port has trained and passed its dwell: it joins the cave; a port that failed is fenced (R419). -/
def farComesUp (p mode : Nat) (found : FarFound) (s : State) : State :=
  match farUsable mode found with
  | some b =>
    rebuildCave [] .off [p] (queueUpdate (viewChange [.far p .training])
      (s.onFar p (fun _ => { state := .training, capacity := b })))
  | none => queueUpdate (viewChange [.far p .fenced]) (wpost 0x425 (unitId 0xA 0 p) 0 [] s)

/-- FAR_PORT_ENABLE: MODE and EN; mode 0 trains nothing. -/
def execFarPortEnable (src : OapSrc) (found : FarFound) (s : State) : Host.Outcome State Fault Refusal :=
  serve src .farOn (fun r _ s =>
    let p := farOf r.obj
    let mode := r.val % 4
    match farRefusal s mode found with
    | some code => refusedAct code s
    | none =>
      let s1 := s.onStored (fun t => { t with farMode := t.farMode.set p mode, farEnable := t.farEnable.set p true })
      if mode = 0 ∨ ¬ s.power.rails then (s1, some okAns)
      else
        let s2 := farComesUp p mode found (startRun r false s1)
        if (farUsable mode found).isSome then runsOn s2 else (finishRun 0 0 [] s2, none)) s

/-- FAR_PORT_DISABLE: the cave drains under R149 and is built over the other ports. -/
def execFarPortDisable (src : OapSrc) (s : State) : Host.Outcome State Fault Refusal :=
  serve src .farOff (fun r _ s =>
    let p := farOf r.obj
    let s1 := s.onStored (fun t => { t with farEnable := t.farEnable.set p false })
    if (usableFar s).contains p then runsOn (rebuildCave [p] .off [] (startRun r false s1))
    else (queueUpdate (viewChange [.far p .off]) s1, some okAns)) s

/-! ### Hinge ports (R295 to R298, R428, R451) -/

/-- The port of an object of group 22. -/
def hingeOf (obj : Nat) : Nat := itemOf obj % 256

/-- The checks of OD 22.0pp; the port that is being enabled counts as enabled. -/
def hingeRefusal (s : State) (p : Nat) : Option Nat :=
  firstRefusal [(nth s.warden.stored.pmd p 0 == 0, 0x0301), ((s.port p).state == .fenced, 0x0301),
    (s.warden.stored.moduleId == 0xFFF || !routesOk s (some p) s.warden.stored.routes, 0x0302)]

/-- Links train: the rails are on and bring-up is past Stage 6. -/
def linksTrain (s : State) : Bool := s.power.rails && (match s.life.stage with
  | none => true
  | some n => decide (6 < n))

/-- HINGE_PORT_ENABLE: training and dwell, then the port's state in the view. Before Stage 6 that stage trains it. -/
def execHingePortEnable (src : OapSrc) (train : HingeTrain) (s : State) : Host.Outcome State Fault Refusal :=
  serve src .portOn (fun r _ s =>
    let p := hingeOf r.obj
    if nth s.warden.stored.portEnable p false then (s, some okAns)
    else match hingeRefusal s p with
      | some code => refusedAct code s
      | none =>
        let s1 := s.onStored (fun t => { t with portEnable := t.portEnable.set p true })
        if ¬ linksTrain s then (s1, some okAns)
        else
          let s2 := trainHinge p train s1
          operationDone r (queueUpdate (viewChange [.port p (s2.port p).state]) s2)) s

/-- HINGE_PORT_DISABLE: a port in service, or retraining, drains under R298; a fenced port stays fenced. -/
def execHingePortDisable (src : OapSrc) (s : State) : Host.Outcome State Fault Refusal :=
  serve src .portOff (fun r _ s =>
    let p := hingeOf r.obj
    let s1 := s.onStored (fun t => { t with portEnable := t.portEnable.set p false })
    let st := (s.port p).state
    if st = .down ∨ st = .fenced then (s1, some okAns)
    else
      let first : ViewUpdate := { bar := some (.port p), changes := [.port p .fencing], drain := none, post := none }
      runsOn (beginDisable (.port p) (some first) [viewChange [.port p .down]] (startRun r false s1))) s

/-! ### Snapshots (R325, R327, R333, R337) -/

/-- d of every recipe with a capture table: its last completed step, or s0 − 1 (R327). -/
def restartBound (s : State) : State :=
  let d := fun (r : Recipe) => if r.capt.isEmpty then r
    else { r with durable := if r.completed = 0 then r.firstOrdinal else r.completed }
  { s with recipes := s.recipes.map d }

/-- RIND_ENABLE. -/
def execRindEnable (src : OapSrc) (s : State) : Host.Outcome State Fault Refusal :=
  serve src .rindOn (fun _ _ s =>
    if s.warden.stored.rindEnable then (s, some okAns)
    else match rindRefusal s with
      | some code => refusedAct code s
      | none => stored (fun t => { t with rindEnable := true }) (restartBound s)) s

/-- RIND_DISABLE: the update tasks that wait start at once; the disable completes once the capture in progress has
stopped and been abandoned. -/
def execRindDisable (src : OapSrc) (s : State) : Host.Outcome State Fault Refusal :=
  serve src .rindOff (fun r _ s =>
    if ¬ s.warden.stored.rindEnable then (s, some okAns)
    else runsOn (beginDisable .capture none [] (endAllWaits (startRun r false
      (s.onStored (fun t => { t with rindEnable := false })))))) s

end Sys2Proof.Machine
end

