-- ==== Sys2Proof/Machine/Firmware.lean ====
section
/-! DEFINITION. BLOCK sessions (R443), the check of manifests, parts and route tables that they carry (R466, R488 to
R492), firmware slots and their activation, confirmation and recovery (R493 to R496, R500). -/

namespace Sys2Proof.Machine

/-! ### Manifests (R489 to R491) -/

/-- Word `o` of a manifest. -/
def manU (m : List Byte) (o n : Nat) : Nat := leAt m o n

/-- Entry `n` of a manifest. -/
def manEntry (m : List Byte) (n : Nat) : List Byte := slice m (128 + 64 * n) 64

/-- The part is EMPTY. -/
def partEmpty (m : List Byte) (n : Nat) : Bool := bitOf (leAt (manEntry m n) 1 1) 0

/-- LENGTH and DIGEST of a part. -/
def partLength (m : List Byte) (n : Nat) : Nat := leAt (manEntry m n) 4 4
def partDigest (m : List Byte) (n : Nat) : List Byte := slice (manEntry m n) 16 48

/-- A continuation byte of UTF-8. -/
def contByte (b : Byte) : Bool := b.toNat / 64 == 2

/-- Bytes that are UTF-8, by their lead bytes; `n` continuation bytes are due. -/
def utf8Ok : Nat → List Byte → Bool
  | n, [] => n == 0
  | 0, b :: bs =>
    if b.toNat < 0x80 then utf8Ok 0 bs else if 0xC2 ≤ b.toNat ∧ b.toNat < 0xE0 then utf8Ok 1 bs
    else if 0xE0 ≤ b.toNat ∧ b.toNat < 0xF0 then utf8Ok 2 bs
    else if 0xF0 ≤ b.toNat ∧ b.toNat < 0xF5 then utf8Ok 3 bs else false
  | n + 1, b :: bs => contByte b && utf8Ok n bs

/-- A text field: UTF-8, zero-padded. -/
def textOk (bs : List Byte) : Bool :=
  let t := bs.takeWhile (· != 0)
  utf8Ok 0 t && allZero (bs.drop t.length)

/-- A part entry is as R490 says. -/
def entryOk (m : List Byte) (n : Nat) : Bool :=
  let e := manEntry m n
  let len := partLength m n
  leAt e 0 1 == n && decide (leAt e 1 1 ≤ 1) && leAt e 2 2 == 0 && leAt e 12 4 == 0 &&
    (if partEmpty m n then n == 8 && len == 0 && allZero (partDigest m n)
     else decide (1 ≤ len) && decide (len ≤ 2 ^ 28))

/-- A manifest is as R489 and R490 say. -/
def manifestOk (m : List Byte) : Bool :=
  m.length == 864 && manU m 0 4 == 0x464D5A4B && manU m 4 2 == 1 && decide (manU m 6 1 ≤ 3) && manU m 7 1 == 10 &&
    decide (manU m 8 4 ≤ 63) && decide (manU m 28 1 < 16) && allZero (slice m 29 3) && textOk (slice m 32 32) &&
    allZero (slice m 64 64) && (List.range 10).all (entryOk m)

/-- The signature verifies under a key that is not revoked, and SECVER is not below the counter (R491). -/
def manifestSigned (s : State) (m : List Byte) : Bool :=
  let key := manU m 6 1
  decide (key < 4) && Config.signatureValid key (m.take 768) (slice m 768 96) && !(bitOf s.warden.revoked.toNat key) &&
    decide (s.warden.secCounter ≤ manU m 8 4)

/-- What refuses a manifest (R491); one of another length breaks R489, and no signature is looked for in it. -/
def manifestRefusal (s : State) (m : List Byte) : Option Nat :=
  if m.length ≠ 864 then some 0x0503
  else firstRefusal [(!manifestSigned s m, 0x0504), (!manifestOk m, 0x0503),
    (decide (s.factory.romVersion < manU m 24 4), 0x0503), (bitOf (manU m 28 1) (manU m 6 1), 0x0503)]

/-- Parts that a set has to have (R488, R490). -/
def requiredParts (m : List Byte) : List Nat := (List.range 10).filter (fun n => !(partEmpty m n))

/-! ### Part 8: function tables (R491) -/

/-- Bytes of a table in the set. -/
def setTableBytes : Nat := 4168

/-- ROM_ID and image of table `k` of a set. -/
def setTable (b : List Byte) (k : Nat) : Nat × List Byte :=
  (leAt b (2 + setTableBytes * k) 2, slice b (2 + setTableBytes * k + 8) 4160)

/-- A table of the set is good: its six bytes zero, a ROM_ID that is not reserved, R242, NEGNAN where R245 asks for it,
and within its bound. -/
def setTableOk (b : List Byte) (k : Nat) : Bool :=
  let t := setTable b k
  allZero (slice b (2 + setTableBytes * k + 2) 6) && decide (1 ≤ t.1) && decide (t.1 ≤ 0x0E) && tableImageOk t.2 &&
    (decide (t.1 < 0x0D) || bitOf (leAt t.2 5 1) 4) && Config.tableBound t.1 t.2

/-- A function-table set is good. -/
def tableSetOk (b : List Byte) : Bool :=
  let n := leAt b 0 2
  b.length == 2 + setTableBytes * n && (List.range n).all (setTableOk b) &&
    decide ((List.range n).map (fun k => (setTable b k).1)).Nodup

/-! ### Slots (R492, R493) -/

/-- Change the slot that a download goes to. -/
def onTarget (f : FwSlot → FwSlot) (s : State) : State :=
  if targetB s then s.onWarden (fun w => { w with fwB := f w.fwB }) else s.onWarden (fun w => { w with fwA := f w.fwA })

/-- An empty slot. -/
def emptySlot : FwSlot := { state := .empty, manifest := [], parts := [] }

/-- A part has been accepted. -/
def hasPart (f : FwSlot) (n : Nat) : Bool := f.parts.any (fun p => p.n == n)

/-- A part is accepted; with the last required one the slot is pending activation. -/
def acceptPart (n : Nat) (b : List Byte) (f : FwSlot) : FwSlot :=
  let g := { f with parts := f.parts ++ [{ n := n, image := b }] }
  if (requiredParts f.manifest).all (hasPart g) then { g with state := .pending } else g

/-- A set verifies whole: signature, security counter and every digest (R494). -/
def slotVerifies (s : State) (f : FwSlot) : Bool :=
  manifestSigned s f.manifest && (requiredParts f.manifest).all (fun n => match f.parts.find? (fun p => p.n == n) with
    | some p => p.image.length == partLength f.manifest n && sha384 p.image == partDigest f.manifest n
    | none => false)

/-! ### BLOCK sessions (R443, R469, R492) -/

/-- The BLOBs written with BLOCK. -/
def isRoutes (obj : Nat) : Bool := groupOf obj == 0x22
def isManifest (obj : Nat) : Bool := obj == od 0x50 0x020 0

/-- A total length is in the object's range. -/
def totalOk (obj n : Nat) : Bool :=
  if isRoutes obj then n == 32768 else if isManifest obj then decide (n ≤ 65536) else decide (n ≤ 2 ^ 28)

/-- The open session on an object. -/
def sessionOf (s : State) (obj : Nat) : Option Session := s.warden.sessions.find? (fun x => x.obj == obj)

/-- The session on an object is closed. -/
def closeSession (obj : Nat) (s : State) : State :=
  s.onWarden (fun w => { w with sessions := w.sessions.filter (fun x => x.obj != obj) })

/-- BLOCK_ERROR with the offset that is expected next. -/
def blockError (next : Nat) : Option Ans := some { status := 0x0E, pay := beBytes 4 next }

/-- A part comes before its manifest, or repeats an accepted one. -/
def partMisplaced (s : State) (n : Nat) : Bool := s.targetFw.manifest.isEmpty || hasPart s.targetFw n

/-- BEGIN. -/
def blockBeginAct : Act := fun r _ s =>
  let total := beAt r.pay 1 4
  if ¬ totalOk r.obj total then (s, some (statusAns 5))
  else if ¬ isRoutes r.obj ∧ onTrial s then refusedAct 0x0503 s
  else if ¬ isRoutes r.obj ∧ ¬ isManifest r.obj ∧ partMisplaced s (indexOf r.obj) then (s, blockError 0)
  else if 2 ≤ (s.warden.sessions.filter (fun x => x.obj != r.obj)).length then refusedAct 0x0504 s
  else
    let x : Session := { obj := r.obj, total := total, data := [], lastOff := 0, lastChunk := [], lastTime := s.now }
    let s1 := (closeSession r.obj s).onWarden (fun w => { w with sessions := w.sessions ++ [x] })
    (if isManifest r.obj then onTarget (fun _ => emptySlot) s1
     else if isRoutes r.obj then s1 else onTarget (fun f => { f with state := .empty }) s1, some okAns)

/-- BLOCK_BEGIN (R443). -/
def execBlockBegin (src : OapSrc) (s : State) : Host.Outcome State Fault Refusal := serve src .blockBegin blockBeginAct s

/-- DATA. -/
def blockDataAct : Act := fun r _ s =>
  let off := beAt r.pay 1 4
  let bs := r.pay.drop 5
  match sessionOf s r.obj with
  | none => (s, blockError 0)
  | some x =>
    let set := fun (f : Session → Session) =>
      s.onWarden (fun w => { w with sessions := modFirst (fun y => y.obj == r.obj) f w.sessions })
    if off = x.data.length then
      (set (fun y => { y with data := y.data ++ bs, lastOff := off, lastChunk := bs, lastTime := s.now }), some okAns)
    else if off = x.lastOff ∧ bs = x.lastChunk then (set (fun y => { y with lastTime := s.now }), some okAns)
    else (s, blockError x.data.length)

/-- BLOCK_DATA (R443). -/
def execBlockData (src : OapSrc) (s : State) : Host.Outcome State Fault Refusal := serve src .blockData blockDataAct s

/-- The entries of a route table that are not zero (R465). -/
def parseRoutes (b : List Byte) : List (Nat × Word) :=
  ((List.range 4096).map (fun i => (i, routeBits (leAt b (8 * i) 8)))).filter (fun p => p.2 != 0)

/-- The END of a whole route table: it changes as a unit or not at all (R466). -/
def routesEnd (b : List Byte) (s : State) : State × Option Ans :=
  let l := parseRoutes b
  if hingeInUse s then refusedAct 0x0303 s
  else if ¬ routesOk s none l then refusedAct 0x0302 s
  else stored (fun t => { t with routes := l }) s

/-- The END of a manifest or part is a long operation: it is answered when COMMAND_END comes (R447, R492). -/
def firmwareEnd (r : Req) (code : Option Nat) (s : State) : State × Option Ans :=
  (match code with
    | some c => finishRun 1 c [] (startRun r false s)
    | none => finishRun 0 0 [] (startRun r false s), none)

/-- The END of a manifest. -/
def manifestEnd (r : Req) (m : List Byte) (s : State) : State × Option Ans :=
  match manifestRefusal s m with
  | some c => firmwareEnd r (some c) s
  | none => firmwareEnd r none (onTarget (fun _ => { emptySlot with manifest := m }) s)

/-- What refuses a part (R491). -/
def partRefusal (s : State) (n : Nat) (b : List Byte) : Option Nat :=
  let m := s.targetFw.manifest
  firstRefusal [(b.length != partLength m n || sha384 b != partDigest m n, 0x0504), (n == 8 && !tableSetOk b, 0x0503)]

/-- The END of a part. -/
def partEnd (r : Req) (b : List Byte) (s : State) : State × Option Ans :=
  let n := indexOf r.obj
  if partMisplaced s n then (s, blockError 0)
  else match partRefusal s n b with
    | some c => firmwareEnd r (some c) s
    | none => firmwareEnd r none (onTarget (acceptPart n b) s)

/-- END: length and CRC, then the object's own checks; the session closes either way. -/
def blockEndAct : Act := fun r _ s =>
  match sessionOf s r.obj with
  | none => (s, blockError 0)
  | some x =>
    let s1 := closeSession r.obj s
    if x.data.length ≠ x.total ∨ crc32c x.data ≠ beAt r.pay 1 4 then (s1, blockError 0)
    else if isRoutes r.obj then routesEnd x.data s1
    else if onTrial s then refusedAct 0x0503 s1
    else if isManifest r.obj then manifestEnd r x.data s1
    else partEnd r x.data s1

/-- BLOCK_END (R443). -/
def execBlockEnd (src : OapSrc) (s : State) : Host.Outcome State Fault Refusal := serve src .blockEnd blockEndAct s

/-- BLOCK_SESSION_TIMEOUT (R443): 60 s without a chunk. -/
def execBlockSessionTimeout (obj : Nat) (s : State) : Host.Outcome State Fault Refusal :=
  match sessionOf s obj with
  | none => .next s
  | some x => occurs (s.warden.up && decide (x.lastTime + 60 * 10 ^ 9 ≤ s.now)) (closeSession obj) s

/-! ### Activation (R473, R493 to R495) -/

/-- EXECUTE is accepted (R441). -/
def startedAns : Option Ans := some (statusAns 8)

/-- SEAT_LATCHED has been set for 60 s. -/
def seatedLong (s : State) : Bool := s.power.seated && decide (s.power.seatSince + 60 * 10 ^ 9 ≤ s.now)

/-- What refuses OD 7F.001 before it starts. -/
def activateRefusal (s : State) : Option Nat :=
  firstRefusal [(!seatedLong s, 0x0502), (decide (s.power.charge < 90), 0x0403),
    (s.targetFw.state != .pending, 0x0503), (stepRunning s, 0x0616)]

/-- ACTIVATE_FIRMWARE (R494): the refusals of R473; the verification and the commit follow when the command's own end
comes (COMMAND_END), so that an abort may be granted before them. -/
def execActivateFirmware (src : OapSrc) (s : State) : Host.Outcome State Fault Refusal :=
  serve src .activate (fun r _ s => match activateRefusal s with
    | some code => refusedAct code s
    | none => (startRun r false s, startedAns)) s

/-- The switch of R493: the pending slot goes on trial and is named, an active one becomes loaded. -/
def switchSlots (s : State) : State :=
  let b := targetB s
  let old := fun (f : FwSlot) => if f.state = .active then { f with state := .loaded } else f
  s.onWarden (fun w => if b
    then { w with slotB := true, fwB := { w.fwB with state := .onTrial }, fwA := old w.fwA }
    else { w with slotB := false, fwA := { w.fwA with state := .onTrial }, fwB := old w.fwB })

/-- Steps 1 to 4 of R494. -/
def activationSteps (s : State) : State :=
  if ¬ slotVerifies s s.targetFw then finishRun 1 0x0504 [] s
  else match firstRefusal [(!seatedLong s, 0x0502), (decide (s.power.charge < 90), 0x0403), (stepRunning s, 0x0616)] with
    | some code => finishRun 1 code [] s
    | none => beginDeviceReset (onRun (fun o => { o with committed := true }) (switchSlots s))

/-! ### Confirmation and recovery (R496, R500) -/

/-- The changes of R496. -/
def confirmSlot (s : State) : State :=
  let m := s.activeFw.manifest
  (setSlots .active s.otherFw.state s).onWarden (fun w => { w with
    secCounter := max w.secCounter (manU m 8 4), revoked := w.revoked ||| BitVec.ofNat 4 (manU m 28 1),
    otherStores := [], otherHist := [] })

/-- Images kept in the older format are freed (R496, R499). -/
def freeOldImages (s : State) : State :=
  s.onRind (fun x => { x with images := x.images.filter (fun i => i.state != .oldFormat) })

/-- CONFIRM_FIRMWARE (R496). -/
def execConfirmFirmware (src : OapSrc) (s : State) : Host.Outcome State Fault Refusal :=
  serve src .confirm (fun r _ s =>
    if ¬ onTrial s then refusedAct 0x0616 s
    else (finishRun 0 0 (leBytes 1 (bit s.warden.slotB)) (freeOldImages (confirmSlot (startRun r true s))), startedAns)) s

/-- ENTER_RECOVERY (R500): the device resets into RECOVERY. -/
def execEnterRecovery (src : OapSrc) (s : State) : Host.Outcome State Fault Refusal :=
  serve src .recovery (fun r _ s =>
    (beginDeviceReset ((startRun r true s).onLife (fun l => { l with toRecovery := true })), startedAns)) s

end Sys2Proof.Machine
end

