-- ==== Sys2Proof/Machine/Commands.lean ====
section
/-! DEFINITION. The command objects (R447 to R450, R473): their refusals before start and their work, ABORT, the links'
qualification (R418, R419, R421), and the end of a command. -/

namespace Sys2Proof.Machine

/-! ### Resets (R425, R429, R473) -/

/-- DEVICE_RESET: OD 20.001; during bring-up the stage in progress reports ABORTED, and bring-up restarts at Stage 0. -/
def execDeviceReset (src : OapSrc) (s : State) : Host.Outcome State Fault Refusal :=
  serve src .devReset (fun r _ s =>
    let s1 := startRun r true s
    (match s.life.stage with
      | some n => deviceReset (resetComplete .device 0 0 0 (report n 3 none [] s1))
      | none => beginDeviceReset s1, startedAns)) s

/-- WHEEL_RESET: OD 20.1w1. -/
def execWheelReset (src : OapSrc) (s : State) : Host.Outcome State Fault Refusal :=
  serve src .wheelReset (fun r _ s =>
    let w := wheelOf r.obj
    if ¬ s.serving ∨ ¬ nth s.warden.stored.wheelEnable w true ∨ underReset s w then refusedAct 0x0616 s
    else (beginWheelReset w (startRun r true s), startedAns)) s

/-! ### Replan, restore, reconcile, flush (R151, R341, R402, R409) -/

/-- REPLAN_MARGINS (R402): every wheel with no step running is replanned at once, the others as their steps complete. -/
def execReplanMargins (src : OapSrc) (scans : List (Nat × WheelScan)) (s : State) : Host.Outcome State Fault Refusal :=
  serve src .replan (fun r _ s =>
    if ¬ s.serving then refusedAct 0x0616 s
    else
      let ws := plannedWheels s
      let s1 := onRun (fun o => { o with todo := ws, scans := scans }) (startRun r false s)
      (if ws.isEmpty then finishRun 0 0 (leBytes 1 0 ++ leBytes 1 0 ++ zeros 4) s1 else replanReady s1, startedAns)) s

/-- What refuses OD 7F.003 before it starts (R473). -/
def restoreRefusal (s : State) (h : Nat) : Option Nat :=
  firstRefusal [((s.recipe? h).isNone || retiring s h, 0x0614),
    (!s.warden.stored.rindEnable || (match s.recipe? h with
      | some r => r.capt.isEmpty
      | none => true), 0x0617), (!s.serving, 0x0616)]

/-- The STEP of an image of a recipe, 0 where there is none (R473). -/
def imageStep (s : State) (r : Recipe) (no : Nat) : Nat :=
  ((s.rind.images.find? (fun i => i.no == no && imageOf r i)).map (fun i => i.step)).getD 0

/-- RESTORE_RIND_IMAGE (R341): the checks of R341 step 1, then the body is written as for RESTORE. -/
def execRestoreRindImage (src : OapSrc) (nand : Nand) (s : State) : Host.Outcome State Fault Refusal :=
  serve src .restore (fun r _ s =>
    let h := beAt r.pay 0 4
    let s1 := startRun r false s
    match restoreRefusal s h, s.recipe? h with
    | some code, _ => refusedAct code s
    | none, none => refusedAct 0x0614 s
    | none, some x => (match restoreStart s x (beAt r.pay 4 8) .wardenRestore (nand == .uncorrectable) with
      | .error code => finishRun 1 0 (leBytes 4 code ++ zeros 4 ++ leBytes 8 (imageStep s x (beAt r.pay 4 8))) s1
      | .ok y => abandonRecipe h (nandEvent nand (s1.onRecipe h (fun x => { x with restoring := some y }))), startedAns)) s

/-- RECONCILE_DEFECT_MAP (R409): `passed` are the places in the field map of the entries that pass three times; the
flash write comes with the command's own end. -/
def execReconcileDefectMap (src : OapSrc) (passed : List Nat) (s : State) : Host.Outcome State Fault Refusal :=
  serve src .reconcile (fun r _ s =>
    if s.life.state ≠ .maintenance then refusedAct 0x0616 s
    else (onRun (fun o => { o with todo := passed }) (startRun r false s), startedAns)) s

/-- Entries that are retested: those not fused bad. -/
def retested (s : State) : List (Nat × Defect) :=
  (s.ageing.field.zipIdx.map (fun p => (p.2, p.1))).filter (fun p => !fusedBad s p.2.unit p.2.part)

/-- The flash write of the map: the entries that passed go, and their parts count bad until the next device reset. -/
def commitReconcile (passed : List Nat) (s : State) : State :=
  let l := retested s
  let gone := (l.filter (fun p => passed.contains p.1)).map (fun p => p.2)
  let bad := gone.filter (fun d => partBad s d.unit d.part)
  let s1 := s.onAgeing (fun a => { a with
    field := a.field.filter (fun d => !gone.contains d), unstored := a.unstored ++ bad })
  finishRun 0 0 (leBytes 2 l.length ++ leBytes 2 gone.length) s1

/-- FLUSH_CAVE_CACHE (R151, R473): in MAINTENANCE the dirty segments are written back; with nothing dirty the command
completes at once. -/
def execFlushCaveCache (src : OapSrc) (s : State) : Host.Outcome State Fault Refusal :=
  serve src .flush (fun r _ s =>
    let s1 := startRun r false s
    (if dirtyCount s = 0 then finishRun 0 0 (flushDetail 0 0) s1 else { s1 with flushing := some s.now }, startedAns)) s

/-- A flush stops after the segment being written; how many were written is open (R151). -/
def stopFlush (s : State) : State × List Byte :=
  let n := dirtyCount s
  let k := Config.freeNat s.free % (n + 1)
  (writeBack k { s.drawn with flushing := none }, flushDetail k (n - k))

/-! ### Qualification of links (R418, R419, R421) -/

/-- Keys of links in the lists of OD 7F.005: hinge port p, far port 32 + p; 64 + p marks a far port that failed once. -/
def farKey (p : Nat) : Nat := 32 + p
def farOnce (p : Nat) : Nat := 64 + p

/-- Enabled links. -/
def enabledLinks (s : State) : List Nat :=
  (List.range 32).filter (fun p => nth s.warden.stored.portEnable p false) ++
    ((List.range 4).filter (fun p => nth s.warden.stored.farEnable p false)).map farKey

/-- A link is qualified: it is enabled and not fenced, and no admitted recipe names it, or the device is in MAINTENANCE. -/
def qualifies (s : State) (k : Nat) : Bool :=
  let free := fun (x : Res) => s.life.state == .maintenance || !s.recipes.any (fun r => names s r x)
  if k < 32 then (s.port k).state != .fenced && (s.port k).state != .fencing && free (.port k)
  else (match s.farPorts[k - 32]? with
    | some f => f.state != .fenced && f.state != .fencing
    | none => false) && free .cave

/-- A hinge port goes through RETRAINING. -/
def beginQualify (k : Nat) (s : State) : State :=
  if k < 32 then portStop k 0x403 (s.onPort k (fun q => { q with
    before := q.state, state := .retraining, retrainStart := s.now, dwellFails := 0 })) else s

/-- QUALIFY_LINKS (R421). -/
def execQualifyLinks (src : OapSrc) (s : State) : Host.Outcome State Fault Refusal :=
  serve src .qualify (fun r _ s =>
    if ¬ s.serving then refusedAct 0x0616 s
    else
      let all := enabledLinks s
      let ks := all.filter (qualifies s)
      let skipped := all.filter (fun k => !qualifies s k)
      let s1 := forEach ks beginQualify (onRun (fun o => { o with todo := ks, tally := skipped }) (startRun r false s))
      let o0 : RunOp := { obj := r.obj, exec := true, peer := r.peer, seq := r.seq, start := s.now, progress := 0,
                          committed := false, aborting := none, ending := none, todo := [], done := [], scans := [],
                          tally := skipped }
      (if ks.isEmpty then finishRun 0 0 (qualDetail o0) s1 else s1, startedAns)) s

/-- A hinge port returns as it was. -/
def portReturns (p : Nat) (s : State) : State := s.onPort p (fun q => { freshLink q with state := q.before, dwellFails := 0 })

/-- The links that OD 7F.005 has not qualified keep their old state. -/
def keepOthers (o : RunOp) (s : State) : State := forEach (o.todo.filter (· < 32)) portReturns s

/-- A hinge port fails a dwell: once more, then pair by pair (R419). -/
def hingeFails (p : Nat) (s : State) : State := s.onPort p (fun q => { q with dwellFails := q.dwellFails + 1 })

/-- The outcome of a dwell for a hinge port: still to do, or settled, and whether it is qualified. -/
def hingeDwell (p : Nat) (r : DwellResult) (s : State) : State × Bool × Bool :=
  let q := s.port p
  let pairs := decide (2 ≤ q.dwellFails)
  let fresh := s.onPort p (fun q => { freshLink q with dwellFails := 0 })
  match r, pairs with
  | .pass, false => (if q.before = .down then setPort p .up4 fresh else portReturns p s, true, true)
  | .pairPass _, true => (if q.before = .up2 then setPort p .up2 fresh else withdrawPort p .up2 0x405 fresh, true, true)
  | .fail, false => (hingeFails p s, false, false)
  | .fail, true => (withdrawPort p .fenced 0x406 (portPost 0x409 p fresh), true, false)
  | _, _ => (s, false, false)

/-- The outcome of a dwell for a far port: the second failure fences it, and the cave is built over the others. -/
def farDwell (p : Nat) (r : DwellResult) (o : RunOp) (s : State) : State × Bool × Bool :=
  match r with
  | .pass => (s, true, true)
  | .fail =>
    if o.tally.contains (farOnce p) then
      (wpost 0x425 (unitId 0xA 0 p) 0 [] (rebuildCave [p] .fenced [] s), true, false)
    else (onRun (fun o => { o with tally := o.tally ++ [farOnce p] }) s, false, false)
  | .pairPass _ => (s, false, false)

/-- The key of a link. -/
def linkKey : LinkId → Nat
  | .hinge p => p
  | .far p => farKey p

/-- One link is settled; the last ends the command, and so does an abort that waits for the dwell's end. -/
def linkSettled (k : Nat) (settled good : Bool) (s : State) : State :=
  let upd := fun (o : RunOp) => if settled
    then { o with todo := o.todo.filter (· != k), done := if good then o.done ++ [k] else o.done } else o
  let s1 := onRun upd s
  match s1.warden.run with
  | none => s1
  | some o =>
    if o.aborting.isSome then finishRun 2 0 (qualDetail o) (keepOthers o s1)
    else if o.todo.isEmpty then finishRun 0 0 (qualDetail o) s1
    else s1

/-- QUALIFICATION_DWELL_END (R418, R419, R421). -/
def execQualificationDwellEnd (link : LinkId) (r : DwellResult) (s : State) : Host.Outcome State Fault Refusal :=
  match s.warden.run with
  | none => .next s
  | some o =>
    let k := linkKey link
    occurs (o.obj == od 0x7F 5 0 && o.ending.isNone && o.todo.contains k) (fun s =>
      let x := match link with
        | .hinge p => hingeDwell p r s
        | .far p => farDwell p r o s
      linkSettled k x.2.1 x.2.2 x.1) s

/-! ### ABORT (R450) -/

/-- The wheels that OD 7F.002 has not replanned when it ends keep their old plans, and OD 12.012 shows them aborted, or
interrupted where the Warden restarted (R402, R411). -/
def leaveReplans (ws : List Nat) (s : State) : State :=
  let st : ReplanState := match s.warden.run.bind (fun o => o.aborting) with
    | some _ => .aborted
    | none => .interrupted
  s.onAgeing (fun a => { a with replan := a.replan.mapIdx (fun w x => if ws.contains w then st else x) })

/-- What a granted abort, or a restart of the Warden, undoes of a command before its commit point: its state, and
DETAIL (R473). -/
def rollBack (o : RunOp) (s : State) : State × List Byte :=
  if o.obj = od 0x7F 2 0 then (leaveReplans o.todo s, replanDetail o)
  else if o.obj = od 0x7F 3 0 then
    match s.recipes.find? (fun r => match r.restoring with
      | some x => x.origin == .wardenRestore
      | none => false) with
    | some r =>
      let step := (r.restoring.map (fun x => x.step)).getD 0
      (haltRestored r.handle ((bodyStopped r.handle s).onRecipe r.handle (fun r => { r with restoring := none })),
        leBytes 4 0x22 ++ zeros 4 ++ leBytes 8 step)
    | none => (s, [])
  else if o.obj = od 0x7F 5 0 then (keepOthers o s, qualDetail o)
  else if s.flushing.isSome then stopFlush s
  else (s, [])

/-- An ABORT of the running command. -/
def abortAct : Act := fun r _ s =>
  match s.warden.run with
  | none => (s, some (statusAns 0x0C))
  | some o =>
    if o.obj ≠ r.obj then (s, some (statusAns 0x0C))
    else if o.aborting.isSome then (s, some (statusAns 0x0B))
    else if o.ending.isSome then (s, some (statusAns 0x0A))
    else if o.committed ∨ ¬ o.exec then (s, some (statusAns 0x0B))
    else
      let s1 := onRun (fun o => { o with aborting := some (r.peer, r.seq) }) s
      if o.obj = od 0x7F 5 0 then (s1, none)
      else
        let p := rollBack o s1
        (finishRun 2 0 p.2 p.1, none)

/-- ABORT (R450): granted at once, or at the end of the dwell in progress; it is answered when the command ends. -/
def execAbort (src : OapSrc) (s : State) : Host.Outcome State Fault Refusal := serve src .abort abortAct s

/-! ### COMMAND_END (R447, R449) -/

/-- OD 70.200 is written and 0xA30 posts, with the first 16 bytes of the record. -/
def writeResult (o : RunOp) (e : Nat × Nat × List Byte) (s : State) : State :=
  let c : CmdResult := { obj := o.obj, mailbox := o.peer.mailbox, result := e.1, reason := e.2.1, seq := o.seq,
                         start := o.start, finish := s.now, detail := padTo 16 e.2.2 }
  wpost 0xA30 wardenUnit 0 ((resultBytes c).take 16) (s.onWarden (fun w => { w with result := some c }))

/-- The answer that a WRITE or a BLOCK END owes. -/
def owedAnswer (o : RunOp) (e : Nat × Nat × List Byte) (s : State) : State :=
  respond o.peer (if groupOf o.obj = 0x50 then 7 else 2) o.seq o.obj (if e.1 = 0 then okAns else refusedAns e.2.1) s

/-- The answer that an ABORT waits for; none where a restart of the Warden interrupted the command (log entry 24). -/
def abortAnswer (o : RunOp) (e : Nat × Nat × List Byte) (s : State) : State :=
  match o.aborting with
  | some (p, q) => if e.1 = 3 then s else respond p 5 q o.obj (statusAns (if e.1 = 2 then 9 else 0x0A)) s
  | none => s

/-- The command is over. -/
def closeRun (o : RunOp) (e : Nat × Nat × List Byte) (s : State) : State :=
  let s1 := s.onWarden (fun w => { w with run := none })
  if o.exec then abortAnswer o e (writeResult o e s1) else owedAnswer o e s1

/-- COMMAND_END: a command whose work is complete ends; a firmware activation makes its verification and its commit
(R494); a reconcile begins its flash write, which is its commit point, and the next COMMAND_END completes the write (R409,
R473). -/
def execCommandEnd (s : State) : Host.Outcome State Fault Refusal :=
  match s.warden.run with
  | none => .next s
  | some o =>
    match o.ending with
    | some e => occurs s.warden.up (closeRun o e) s
    | none => occurs (s.warden.up && o.exec) (fun s =>
        if o.obj = od 0x7F 4 0 then
          if o.committed then commitReconcile o.todo s else onRun (fun o => { o with committed := true }) s
        else if o.obj = od 0x7F 1 0 ∧ ¬ o.committed then activationSteps s
        else s) s

end Sys2Proof.Machine
end

