-- ==== Sys2Proof/Machine/Riscv.lean ====
section
/-! DEFINITION. The integer instructions of a helper core (R196): RV64IMAC, Zicsr, Zifencei, Zba and Zbb, as the
RISC-V specification that R196 names defines them (PRESUMED, log entry 15), over the address space of R199 to R202. -/

namespace Sys2Proof.Machine

/-! ### Results -/

/-- What one instruction comes to: the core and the state afterwards with its issue beats, or an exception by unit
fault code, subcode and mtval (R214). -/
inductive IRes where
  | next (c : Core) (s : State) (beats : Nat)
  | trap (code sub mtval : Nat)
  /-- an exception of a vector store after the elements before it are stored. -/
  | trapAfter (s : State) (code mtval : Nat)
  deriving DecidableEq, Repr

/-- An illegal instruction. -/
def illegal (w : Nat) : IRes := .trap 1 0 w

/-- Register writes of an instruction of `len` bytes: rd and the next pc. -/
def wrote (c : Core) (s : State) (len rd v : Nat) : IRes := .next ((c.wx rd v).jump (c.pc.toNat + len)) s 1

/-! ### Fields -/

def fOp (w : Nat) : Nat := w % 128
def fRd (w : Nat) : Nat := bitsOf w 11 7
def fF3 (w : Nat) : Nat := bitsOf w 14 12
def fRs1 (w : Nat) : Nat := bitsOf w 19 15
def fRs2 (w : Nat) : Nat := bitsOf w 24 20
def fF7 (w : Nat) : Nat := bitsOf w 31 25

/-- Sign extension of n bits to 64. -/
def sx (n v : Nat) : Nat := if 2 ^ (n - 1) ≤ v % 2 ^ n then v % 2 ^ n + 2 ^ 64 - 2 ^ n else v % 2 ^ n

def immI (w : Nat) : Nat := sx 12 (bitsOf w 31 20)
def immS (w : Nat) : Nat := sx 12 (bitsOf w 31 25 * 32 + bitsOf w 11 7)
def immB (w : Nat) : Nat :=
  sx 13 (bitsOf w 31 31 * 4096 + bitsOf w 7 7 * 2048 + bitsOf w 30 25 * 32 + bitsOf w 11 8 * 2)
def immU (w : Nat) : Nat := sx 32 (bitsOf w 31 12 * 4096)
def immJ (w : Nat) : Nat :=
  sx 21 (bitsOf w 31 31 * 2 ^ 20 + bitsOf w 19 12 * 4096 + bitsOf w 20 20 * 2048 + bitsOf w 30 21 * 2)

/-- Modulo 2^64. -/
def m64 (v : Nat) : Nat := v % 2 ^ 64

/-- The signed value of n bits. -/
def toS (n v : Nat) : Int := if 2 ^ (n - 1) ≤ v % 2 ^ n then (v % 2 ^ n : Nat) - (2 ^ n : Nat) else (v % 2 ^ n : Nat)

/-- A signed value as n bits. -/
def ofS (n : Nat) (v : Int) : Nat := (v % (2 ^ n : Nat)).toNat

/-! ### Arithmetic -/

/-- Signed division of RISC-V, quotient and remainder, on n bits. -/
def divS (n a b : Nat) : Nat × Nat :=
  let x := toS n a
  let y := toS n b
  if y = 0 then (2 ^ n - 1, ofS n x) else (ofS n (x.tdiv y), ofS n (x.tmod y))

/-- Unsigned division of RISC-V on n bits. -/
def divU (n a b : Nat) : Nat × Nat :=
  let x := a % 2 ^ n
  let y := b % 2 ^ n
  if y = 0 then (2 ^ n - 1, x) else (x / y, x % y)

/-- Arithmetic shift right on n bits. -/
def sraN (n a sh : Nat) : Nat := ofS n (toS n a / (2 ^ sh : Nat))

/-- Rotate left on n bits. -/
def rolN (n a sh : Nat) : Nat := (a % 2 ^ n * 2 ^ (sh % n) % 2 ^ n) + a % 2 ^ n / 2 ^ (n - sh % n)

/-- Leading zeros, trailing zeros and set bits of n bits. -/
def clzN (n a : Nat) : Nat := if a % 2 ^ n = 0 then n else n - 1 - Nat.log2 (a % 2 ^ n)
def ctzN (n a : Nat) : Nat := ((List.range n).find? (fun i => bitOf a i)).getD n
def cpopN (n a : Nat) : Nat := ((List.range n).filter (fun i => bitOf a i)).length

/-- Bitwise operations on 64 bits. -/
def and64 (a b : Nat) : Nat := Nat.land a b
def or64 (a b : Nat) : Nat := Nat.lor a b
def xor64 (a b : Nat) : Nat := Nat.xor a b
def not64 (a : Nat) : Nat := 2 ^ 64 - 1 - a % 2 ^ 64

/-- OR-combine of bytes, and byte reverse (Zbb). -/
def orcB (a : Nat) : Nat := ofLe ((leBytes 8 a).map (fun b => if b = 0 then 0#8 else 0xFF#8))
def rev8 (a : Nat) : Nat := ofBe (leBytes 8 a)

/-- Register-register operations on 64 bits (RV64I, M, Zba, Zbb). -/
def opReg (f7 f3 a b : Nat) : Option Nat :=
  match f7, f3 with
  | 0x00, 0 => some (a + b)
  | 0x20, 0 => some (a + 2 ^ 64 - b)
  | 0x00, 1 => some (a * 2 ^ (b % 64))
  | 0x00, 2 => some (bit (toS 64 a < toS 64 b))
  | 0x00, 3 => some (bit (a < b))
  | 0x00, 4 => some (xor64 a b)
  | 0x00, 5 => some (a / 2 ^ (b % 64))
  | 0x20, 5 => some (sraN 64 a (b % 64))
  | 0x00, 6 => some (or64 a b)
  | 0x00, 7 => some (and64 a b)
  | 0x01, 0 => some (a * b)
  | 0x01, 1 => some (ofS 128 (toS 64 a * toS 64 b) / 2 ^ 64)
  | 0x01, 2 => some (ofS 128 (toS 64 a * (b : Int)) / 2 ^ 64)
  | 0x01, 3 => some (a * b / 2 ^ 64)
  | 0x01, 4 => some (divS 64 a b).1
  | 0x01, 5 => some (divU 64 a b).1
  | 0x01, 6 => some (divS 64 a b).2
  | 0x01, 7 => some (divU 64 a b).2
  | 0x10, 2 => some (2 * a + b)
  | 0x10, 4 => some (4 * a + b)
  | 0x10, 6 => some (8 * a + b)
  | 0x20, 7 => some (and64 a (not64 b))
  | 0x20, 6 => some (or64 a (not64 b))
  | 0x20, 4 => some (not64 (xor64 a b))
  | 0x05, 4 => some (if toS 64 a < toS 64 b then a else b)
  | 0x05, 5 => some (min a b)
  | 0x05, 6 => some (if toS 64 a < toS 64 b then b else a)
  | 0x05, 7 => some (max a b)
  | 0x30, 1 => some (rolN 64 a (b % 64))
  | 0x30, 5 => some (rolN 64 a (64 - b % 64))
  | _, _ => none

/-- Register-register operations on words (RV64I, M, Zba, Zbb); zext.h is the form with rs2 = 0. -/
def opRegW (f7 f3 rs2 a b : Nat) : Option Nat :=
  match f7, f3 with
  | 0x00, 0 => some (sx 32 (a + b))
  | 0x20, 0 => some (sx 32 (a + 2 ^ 64 - b))
  | 0x00, 1 => some (sx 32 (a * 2 ^ (b % 32)))
  | 0x00, 5 => some (sx 32 (a % 2 ^ 32 / 2 ^ (b % 32)))
  | 0x20, 5 => some (sx 32 (sraN 32 a (b % 32)))
  | 0x01, 0 => some (sx 32 (a * b))
  | 0x01, 4 => some (sx 32 (divS 32 a b).1)
  | 0x01, 5 => some (sx 32 (divU 32 a b).1)
  | 0x01, 6 => some (sx 32 (divS 32 a b).2)
  | 0x01, 7 => some (sx 32 (divU 32 a b).2)
  | 0x04, 0 => some (a % 2 ^ 32 + b)
  | 0x10, 2 => some (2 * (a % 2 ^ 32) + b)
  | 0x10, 4 => some (4 * (a % 2 ^ 32) + b)
  | 0x10, 6 => some (8 * (a % 2 ^ 32) + b)
  | 0x30, 1 => some (sx 32 (rolN 32 a (b % 32)))
  | 0x30, 5 => some (sx 32 (rolN 32 a (32 - b % 32)))
  | 0x04, 4 => if rs2 = 0 then some (a % 65536) else none
  | _, _ => none

/-- Register-immediate operations on 64 bits (RV64I, Zbb). -/
def opImm (w a : Nat) : Option Nat :=
  let i := immI w
  let sh := bitsOf w 25 20
  let f6 := bitsOf w 31 26
  match fF3 w with
  | 0 => some (a + i)
  | 2 => some (bit (toS 64 a < toS 64 i))
  | 3 => some (bit (a < i))
  | 4 => some (xor64 a i)
  | 6 => some (or64 a i)
  | 7 => some (and64 a i)
  | 1 =>
    if f6 = 0 then some (a * 2 ^ sh)
    else match bitsOf w 31 20 with
      | 0x600 => some (clzN 64 a)
      | 0x601 => some (ctzN 64 a)
      | 0x602 => some (cpopN 64 a)
      | 0x604 => some (sx 8 a)
      | 0x605 => some (sx 16 a)
      | _ => none
  | _ =>
    if f6 = 0 then some (a / 2 ^ sh)
    else if f6 = 0x10 then some (sraN 64 a sh)
    else if f6 = 0x18 then some (rolN 64 a (64 - sh))
    else match bitsOf w 31 20 with
      | 0x287 => some (orcB a)
      | 0x6B8 => some (rev8 a)
      | _ => none

/-- Register-immediate operations on words (RV64I, Zba, Zbb). -/
def opImmW (w a : Nat) : Option Nat :=
  let sh := fRs2 w
  match fF3 w, fF7 w with
  | 0, _ => some (sx 32 (a + immI w))
  | 1, 0x00 => some (sx 32 (a * 2 ^ sh))
  | 1, 0x30 => match sh with
    | 0 => some (clzN 32 a)
    | 1 => some (ctzN 32 a)
    | 2 => some (cpopN 32 a)
    | _ => none
  | 1, f7 => if f7 / 2 = 0x02 then some (a % 2 ^ 32 * 2 ^ bitsOf w 25 20) else none
  | 5, 0x00 => some (sx 32 (a % 2 ^ 32 / 2 ^ sh))
  | 5, 0x20 => some (sx 32 (sraN 32 a sh))
  | 5, 0x30 => some (sx 32 (rolN 32 a (32 - sh)))
  | _, _ => none

/-- Branch conditions. -/
def branchTaken (f3 a b : Nat) : Option Bool :=
  match f3 with
  | 0 => some (a == b)
  | 1 => some (a != b)
  | 4 => some (decide (toS 64 a < toS 64 b))
  | 5 => some (decide (toS 64 b ≤ toS 64 a))
  | 6 => some (decide (a < b))
  | 7 => some (decide (b ≤ a))
  | _ => none

/-! ### Compressed instructions (C) -/

/-- Encode the 32-bit forms that compressed instructions stand for. -/
def encR (op f3 f7 rd rs1 rs2 : Nat) : Nat := op + rd * 128 + f3 * 4096 + rs1 * 2 ^ 15 + rs2 * 2 ^ 20 + f7 * 2 ^ 25
def encI (op f3 rd rs1 imm : Nat) : Nat := op + rd * 128 + f3 * 4096 + rs1 * 2 ^ 15 + imm % 4096 * 2 ^ 20
def encS (op f3 rs1 rs2 imm : Nat) : Nat :=
  op + imm % 32 * 128 + f3 * 4096 + rs1 * 2 ^ 15 + rs2 * 2 ^ 20 + bitsOf imm 11 5 * 2 ^ 25
def encB (f3 rs1 rs2 imm : Nat) : Nat :=
  0x63 + bitsOf imm 11 11 * 128 + bitsOf imm 4 1 * 256 + f3 * 4096 + rs1 * 2 ^ 15 + rs2 * 2 ^ 20 +
    bitsOf imm 10 5 * 2 ^ 25 + bitsOf imm 12 12 * 2 ^ 31
def encJ (rd imm : Nat) : Nat :=
  0x6F + rd * 128 + bitsOf imm 19 12 * 2 ^ 12 + bitsOf imm 11 11 * 2 ^ 20 + bitsOf imm 10 1 * 2 ^ 21 +
    bitsOf imm 20 20 * 2 ^ 31

/-- Quadrant 0. -/
def expand0 (h : Nat) : Option Nat :=
  let rd := 8 + bitsOf h 4 2
  let rs := 8 + bitsOf h 9 7
  let ud := bitsOf h 12 10 * 8 + bitsOf h 6 5 * 64
  let uw := bitsOf h 12 10 * 8 + bitsOf h 6 6 * 4 + bitsOf h 5 5 * 64
  match bitsOf h 15 13 with
  | 0 =>
    let imm := bitsOf h 12 11 * 16 + bitsOf h 10 7 * 64 + bitsOf h 6 6 * 4 + bitsOf h 5 5 * 8
    if imm = 0 then none else some (encI 0x13 0 rd 2 imm)
  | 1 => some (encI 0x07 3 rd rs ud)
  | 2 => some (encI 0x03 2 rd rs uw)
  | 3 => some (encI 0x03 3 rd rs ud)
  | 5 => some (encS 0x27 3 rs rd ud)
  | 6 => some (encS 0x23 2 rs rd uw)
  | 7 => some (encS 0x23 3 rs rd ud)
  | _ => none

/-- Quadrant 1. -/
def expand1 (h : Nat) : Option Nat :=
  let rd := bitsOf h 11 7
  let rp := 8 + bitsOf h 9 7
  let r2 := 8 + bitsOf h 4 2
  let imm := sx 6 (bitsOf h 12 12 * 32 + bitsOf h 6 2)
  let sh := bitsOf h 12 12 * 32 + bitsOf h 6 2
  let j := sx 12 (bitsOf h 12 12 * 2048 + bitsOf h 11 11 * 16 + bitsOf h 10 9 * 256 + bitsOf h 8 8 * 1024 +
    bitsOf h 7 7 * 64 + bitsOf h 6 6 * 128 + bitsOf h 5 3 * 2 + bitsOf h 2 2 * 32)
  let b := sx 9 (bitsOf h 12 12 * 256 + bitsOf h 11 10 * 8 + bitsOf h 6 5 * 64 + bitsOf h 4 3 * 2 + bitsOf h 2 2 * 32)
  match bitsOf h 15 13 with
  | 0 => some (encI 0x13 0 rd rd imm)
  | 1 => if rd = 0 then none else some (encI 0x1B 0 rd rd imm)
  | 2 => some (encI 0x13 0 rd 0 imm)
  | 3 =>
    if rd = 2 then
      let i := sx 10 (bitsOf h 12 12 * 512 + bitsOf h 6 6 * 16 + bitsOf h 5 5 * 64 + bitsOf h 4 3 * 128 + bitsOf h 2 2 * 32)
      if i = 0 then none else some (encI 0x13 0 2 2 i)
    else if imm = 0 then none
    else some (0x37 + rd * 128 + imm % 2 ^ 20 * 4096)
  | 4 =>
    match bitsOf h 11 10 with
    | 0 => some (encI 0x13 5 rp rp sh)
    | 1 => some (encI 0x13 5 rp rp (0x400 + sh))
    | 2 => some (encI 0x13 7 rp rp imm)
    | _ =>
      match bitsOf h 12 12, bitsOf h 6 5 with
      | 0, 0 => some (encR 0x33 0 0x20 rp rp r2)
      | 0, 1 => some (encR 0x33 4 0 rp rp r2)
      | 0, 2 => some (encR 0x33 6 0 rp rp r2)
      | 0, _ => some (encR 0x33 7 0 rp rp r2)
      | _, 0 => some (encR 0x3B 0 0x20 rp rp r2)
      | _, 1 => some (encR 0x3B 0 0 rp rp r2)
      | _, _ => none
  | 5 => some (encJ 0 j)
  | 6 => some (encB 0 rp 0 b)
  | _ => some (encB 1 rp 0 b)

/-- Quadrant 2. -/
def expand2 (h : Nat) : Option Nat :=
  let rd := bitsOf h 11 7
  let r2 := bitsOf h 6 2
  let sh := bitsOf h 12 12 * 32 + r2
  let ld := bitsOf h 12 12 * 32 + bitsOf h 6 5 * 8 + bitsOf h 4 2 * 64
  let lw := bitsOf h 12 12 * 32 + bitsOf h 6 4 * 4 + bitsOf h 3 2 * 64
  let sd := bitsOf h 12 10 * 8 + bitsOf h 9 7 * 64
  let sw := bitsOf h 12 9 * 4 + bitsOf h 8 7 * 64
  match bitsOf h 15 13 with
  | 0 => some (encI 0x13 1 rd rd sh)
  | 1 => some (encI 0x07 3 rd 2 ld)
  | 2 => if rd = 0 then none else some (encI 0x03 2 rd 2 lw)
  | 3 => if rd = 0 then none else some (encI 0x03 3 rd 2 ld)
  | 4 =>
    if bitsOf h 12 12 = 0 then
      (if r2 = 0 then (if rd = 0 then none else some (encI 0x67 0 0 rd 0)) else some (encR 0x33 0 0 rd 0 r2))
    else if r2 = 0 then (if rd = 0 then some 0x00100073 else some (encI 0x67 0 1 rd 0))
    else some (encR 0x33 0 0 rd rd r2)
  | 5 => some (encS 0x27 3 2 r2 sd)
  | 6 => some (encS 0x23 2 2 r2 sw)
  | _ => some (encS 0x23 3 2 r2 sd)

/-- The 32-bit instruction that a compressed one stands for; none is illegal. -/
def expandC (h : Nat) : Option Nat :=
  match h % 4 with
  | 0 => expand0 h
  | 1 => expand1 h
  | _ => expand2 h

/-! ### Loads, stores and atomics (R199 to R201) -/

/-- A scalar load of n bytes: misaligned is fault 0x02, outside scratch 0x03. -/
def loadScalar (s : State) (c : Core) (a n : Nat) : Except (Nat × Nat) Nat :=
  if a % n ≠ 0 then .error (2, a)
  else match scratchRead s c a n with
    | some bs => .ok (ofLe bs)
    | none => .error (3, a)

/-- A scalar store of n bytes. -/
def storeScalar (c : Core) (a n v : Nat) (s : State) : Except (Nat × Nat) State :=
  if a % n ≠ 0 then .error (2, a)
  else match scratchWrite c a (leBytes n v) s with
    | some s1 => .ok s1
    | none => .error (3, a)

/-- The core's registers as the state holds them after a store of its own (its reservation may be broken). -/
def withResv (c : Core) (s : State) : Core :=
  match s.core? c.id with
  | some k => { c with resv := k.resv }
  | none => c

/-- Integer loads. -/
def execLoad (c : Core) (s : State) (w len : Nat) : IRes :=
  let a := m64 (c.rx (fRs1 w) + immI w)
  let f3 := fF3 w
  if f3 = 7 then illegal w
  else
    let n := 2 ^ (f3 % 4)
    match loadScalar s c a n with
    | .error (code, x) => .trap code 0 x
    | .ok v => wrote c s len (fRd w) (if f3 < 4 then sx (8 * n) v else v)

/-- Integer stores. -/
def execStore (c : Core) (s : State) (w len : Nat) : IRes :=
  let a := m64 (c.rx (fRs1 w) + immS w)
  if 3 < fF3 w then illegal w
  else match storeScalar c a (2 ^ fF3 w) (c.rx (fRs2 w)) s with
    | .error (code, x) => .trap code 0 x
    | .ok s1 => .next ((withResv c s1).jump (c.pc.toNat + len)) s1 1

/-- The value an AMO writes, on n bits. -/
def amoValue (f5 n old b : Nat) : Option Nat :=
  match f5 with
  | 0x01 => some b
  | 0x00 => some (old + b)
  | 0x04 => some (xor64 old b)
  | 0x0C => some (and64 old b)
  | 0x08 => some (or64 old b)
  | 0x10 => some (if toS n old < toS n b then old else b)
  | 0x14 => some (if toS n old < toS n b then b else old)
  | 0x18 => some (min (old % 2 ^ n) (b % 2 ^ n))
  | 0x1C => some (max (old % 2 ^ n) (b % 2 ^ n))
  | _ => none

/-- Atomics of the A extension: AMOs on own and mate scratch, LR and SC on own scratch only (R201). -/
def execAmo (c : Core) (s : State) (w len : Nat) : IRes :=
  let a := c.rx (fRs1 w)
  let f5 := bitsOf w 31 27
  if fF3 w ≠ 2 ∧ fF3 w ≠ 3 then illegal w
  else
    let n := 2 ^ fF3 w
    if a % n ≠ 0 then .trap 2 0 a
    else match scratchPlace s c a n with
      | none => .trap 3 0 a
      | some (p, id) =>
        let old := memLe s.dev p n
        if f5 = 0x02 ∨ f5 = 0x03 then
          if id ≠ c.id then .trap 3 0 a
          else if f5 = 0x02 then
            if fRs2 w ≠ 0 then illegal w
            else .next ((({ c with resv := some p }).wx (fRd w) (sx (8 * n) old)).jump (c.pc.toNat + len)) s 1
          else if c.resv = some p then
            let s1 := { s with dev := memWrite s.dev p (leBytes n (c.rx (fRs2 w))) }
            .next ((({ c with resv := none }).wx (fRd w) 0).jump (c.pc.toNat + len)) s1 1
          else .next ((({ c with resv := none }).wx (fRd w) 1).jump (c.pc.toNat + len)) s 1
        else match amoValue f5 (8 * n) old (c.rx (fRs2 w)) with
          | none => illegal w
          | some v =>
            let s1 := breakReservation id p n { s with dev := memWrite s.dev p (leBytes n v) }
            .next (((withResv c s1).wx (fRd w) (sx (8 * n) old)).jump (c.pc.toNat + len)) s1 1

/-! ### Control and status registers (Zicsr, Zicntr) -/

/-- Read a CSR of U-mode; none is illegal (R196, R205). cycle reads the beats executed, which leave out those suspended in
kz.twait or stalled on a full carry queue (DESIGN CHOICE, log entry 92: R196 counts handshake beats and does not say). -/
def csrRead (s : State) (c : Core) (n : Nat) : Option Nat :=
  match n with
  | 0x001 => some c.fflags
  | 0x002 => some c.frm
  | 0x003 => some (c.frm * 32 + c.fflags)
  | 0x008 => some c.vstart
  | 0x009 => some (bit c.vxsat)
  | 0x00A => some c.vxrm
  | 0x00F => some (c.vxrm * 2 + bit c.vxsat)
  | 0xC00 => some c.beats
  | 0xC01 => some s.now
  | 0xC02 => some c.instret
  | 0xC20 => some c.vl
  | 0xC21 => some c.vtype.toNat
  | 0xC22 => some 64
  | _ => none

/-- misa (R196): RV64, with A, C, D, F, I, M, U and V. -/
def misaValue : Nat := 2 ^ 63 + 2 ^ 21 + 2 ^ 20 + 2 ^ 12 + 2 ^ 8 + 2 ^ 5 + 2 ^ 3 + 2 ^ 2 + 1

/-- A CSR of physical memory protection (R196): pmpcfg0 to pmpcfg14, the even ones, and pmpaddr0 to pmpaddr63. -/
def isPmp (n : Nat) : Bool :=
  (decide (0x3A0 ≤ n) && decide (n ≤ 0x3AE) && n % 2 == 0) || (decide (0x3B0 ≤ n) && decide (n ≤ 0x3EF))

/-- The bits that a register of M-mode's traps holds, by CSR number; none for another register (R196; PRESUMED from the
RISC-V privileged architecture, log entry 93): mstatus MIE, MPIE and MPP, mie's three machine bits, mtvec, mscratch, an even
mepc, mcause, mtval. -/
def trapMask : Nat → Option Nat
  | 0x300 => some 0x1888
  | 0x304 => some 0x888
  | 0x305 => some (2 ^ 64 - 3)
  | 0x340 => some (2 ^ 64 - 1)
  | 0x341 => some (2 ^ 64 - 2)
  | 0x342 => some (2 ^ 64 - 1)
  | 0x343 => some (2 ^ 64 - 1)
  | _ => none

/-- MPP holds the encoding of a mode that the core has: M, or U (R196; PRESUMED, log entry 93). -/
def legalMpp (v : Nat) : Nat := if bitsOf v 12 11 = 3 then v else v - 2048 * bitsOf v 12 11

/-- The CSRs of M-mode: misa, the memory protection that reads zero, the machine counters (R196), and those of its traps. -/
def csrMachine (c : Core) (n : Nat) : Option Nat :=
  if isPmp n then some 0
  else if (trapMask n).isSome then some (look c.mcsr n 0)
  else match n with
    | 0x301 => some misaValue
    | 0xB00 => some c.beats
    | 0xB02 => some c.instret
    | 0xB03 => some (nth c.hpm 0 0)
    | 0xB04 => some (nth c.hpm 1 0)
    | 0xB05 => some (nth c.hpm 2 0)
    | _ => none

/-- A CSR that the core's mode may read (R196). -/
def csrValue (s : State) (c : Core) (n : Nat) : Option Nat :=
  match csrRead s c n with
  | some v => some v
  | none => if c.priv = .machine then csrMachine c n else none

/-- Write a CSR. Writes of misa and of the memory protection are ignored (R196). -/
def csrWrite (c : Core) (n v : Nat) : Core :=
  match trapMask n with
  | some m => { c with mcsr := put c.mcsr n (if n = 0x300 then legalMpp (v &&& m) else v &&& m) }
  | none => match n with
  | 0x001 => { c with fflags := v % 32 }
  | 0x002 => { c with frm := v % 8 }
  | 0x003 => { c with frm := v / 32 % 8, fflags := v % 32 }
  | 0x008 => { c with vstart := v % 512 }
  | 0x009 => { c with vxsat := v % 2 == 1 }
  | 0x00A => { c with vxrm := v % 4 }
  | 0x00F => { c with vxrm := v / 2 % 4, vxsat := v % 2 == 1 }
  | 0xB00 => { c with beats := v % 2 ^ 64 }
  | 0xB02 => { c with instret := v % 2 ^ 64 }
  | 0xB03 => { c with hpm := c.hpm.set 0 (v % 2 ^ 64) }
  | 0xB04 => { c with hpm := c.hpm.set 1 (v % 2 ^ 64) }
  | 0xB05 => { c with hpm := c.hpm.set 2 (v % 2 ^ 64) }
  | _ => c

/-- CSRRW, CSRRS, CSRRC and their immediate forms. -/
def execCsr (c : Core) (s : State) (w len : Nat) : IRes :=
  let n := bitsOf w 31 20
  let f3 := fF3 w
  let src := if f3 < 4 then c.rx (fRs1 w) else fRs1 w
  match csrValue s c n with
  | none => illegal w
  | some old =>
    let writes := f3 % 4 == 1 || fRs1 w != 0
    if f3 = 4 ∨ (writes ∧ 0xC00 ≤ n) then illegal w
    else
      let new := if f3 % 4 = 1 then src else if f3 % 4 = 2 then or64 old src else and64 old (not64 src)
      wrote (if writes then csrWrite c n new else c) s len (fRd w) old

/-- MRET (R196, R205; PRESUMED, log entry 93): the pc is mepc, the mode MPP's, MIE is MPIE; MPIE is set and MPP names
U-mode. -/
def mret (c : Core) : Core :=
  let st := look c.mcsr 0x300 0
  let k := { c with
    priv := if bitsOf st 12 11 = 3 then .machine else .user,
    mcsr := put c.mcsr 0x300 (0x80 + 8 * bitsOf st 7 7) }
  k.jump (look c.mcsr 0x341 0)

/-- SYSTEM: ebreak is a breakpoint; ecall is ECALL_EXIT's; MRET returns from M-mode, where WFI has no effect; every other
form without a CSR is illegal. -/
def execSystem (c : Core) (s : State) (w len : Nat) : IRes :=
  if w = 0x00100073 then .trap 7 0 c.pc.toNat
  else if w = 0x30200073 ∧ c.priv = .machine then .next (mret c) s 1
  else if w = 0x10500073 ∧ c.priv = .machine then .next (c.jump (c.pc.toNat + len)) s 1
  else if fF3 w = 0 then illegal w
  else execCsr c s w len

/-- MISC-MEM: FENCE orders nothing that the model leaves unordered; FENCE.I empties ways 1 to 7 (R202, R203); the
encoding of PAUSE is not implemented (R196). -/
def execFenceInstr (c : Core) (s : State) (w len : Nat) : IRes :=
  if w = 0x0100000F then illegal w
  else match fF3 w with
    | 0 => .next (c.jump (c.pc.toNat + len)) s 1
    | 1 => .next ({ c with icache := [] }.jump (c.pc.toNat + len)) s 1
    | _ => illegal w

/-- The integer instructions by opcode; none is not one of them. -/
def execInt (c : Core) (s : State) (w len : Nat) : Option IRes :=
  let pc := c.pc.toNat
  let a := c.rx (fRs1 w)
  let b := c.rx (fRs2 w)
  let res := fun (v : Option Nat) => match v with
    | some x => wrote c s len (fRd w) x
    | none => illegal w
  match fOp w with
  | 0x37 => some (wrote c s len (fRd w) (immU w))
  | 0x17 => some (wrote c s len (fRd w) (pc + immU w))
  | 0x6F => some (.next ((c.wx (fRd w) (pc + len)).jump (pc + immJ w)) s 1)
  | 0x67 => some (if fF3 w = 0 then .next ((c.wx (fRd w) (pc + len)).jump ((a + immI w) / 2 * 2)) s 1 else illegal w)
  | 0x63 => some (match branchTaken (fF3 w) a b with
    | none => illegal w
    | some t => .next (c.jump (if t then pc + immB w else pc + len)) s 1)
  | 0x03 => some (execLoad c s w len)
  | 0x23 => some (execStore c s w len)
  | 0x13 => some (res (opImm w a))
  | 0x1B => some (res (opImmW w a))
  | 0x33 => some (res (opReg (fF7 w) (fF3 w) a b))
  | 0x3B => some (res (opRegW (fF7 w) (fF3 w) (fRs2 w) a b))
  | 0x2F => some (execAmo c s w len)
  | 0x0F => some (execFenceInstr c s w len)
  | 0x73 => some (execSystem c s w len)
  | _ => none

end Sys2Proof.Machine
end

