-- ==== Sys2Proof/Machine/KzData.lean ====
section
/-! DEFINITION. The custom-0 instructions of a helper core (R213, R215 to R221, R227): kz.quant, kz.dequant,
kz.eyepick, kz.topk and kz.hist. -/

namespace Sys2Proof.Machine

/-! ### The frame of a custom instruction -/

/-- A failed operand check (R215): a parameter fault by subcode, or an illegal instruction (R32, R214). -/
inductive KzFault where
  | param (sub : Nat)
  | illegalInstr
  deriving DecidableEq, Repr

/-- The first failed check of a list, in the order listed (the order is a DESIGN CHOICE, log entry 16). -/
def kzChecks : List (Bool × KzFault) → Option KzFault
  | [] => none
  | p :: l => if p.1 then some p.2 else kzChecks l

/-- A custom instruction is about to execute: its word. -/
def kzWord (s : State) (k : Core) (op f3 f7 : Nat) : Option Nat :=
  match fetch k with
  | .word w n => if executing s k && n == 4 && fOp w == op && fF3 w == f3 && fF7 w == f7 then some w else none
  | _ => none

/-- The exception of a failed check; mtval of a parameter fault is open (log entry 7). -/
def kzFault (k : Core) (w : Nat) (f : KzFault) (s : State) : State :=
  match f with
  | .param sub => (coreFault k 5 sub (Config.freeNat s.free) s).drawn
  | .illegalInstr => coreFault k 1 0 w s

/-- A custom instruction ends: rd, the next pc, its cost in beats. -/
def kzDone (k : Core) (rd v beats : Nat) (s : State) : State :=
  retireInstr ((k.wx rd v).jump (k.pc.toNat + 4)) beats s

/-- Address of `n` bytes of the issuing core's own user scratch. -/
def ownPlace (s : State) (k : Core) (a n : Nat) : Option Nat :=
  match userPlace s k a n with
  | some (p, id) => if id = k.id then some p else none
  | none => none

/-- Operand bytes lie outside own or mate user scratch. -/
def outside (s : State) (k : Core) (a n : Nat) : Bool := (userPlace s k a n).isNone

/-- Operand bytes. -/
def operand (s : State) (k : Core) (a n : Nat) : List Byte := (scratchRead s k a n).getD []

/-- Store result bytes, checked before. -/
def store (k : Core) (a : Nat) (bs : List Byte) (s : State) : State := (scratchWrite k a bs s).getD s

/-- The 64-byte parameter block, or the fault of its place. -/
def paramBlock (s : State) (k : Core) (a : Nat) : Except KzFault (List Byte) :=
  if a % 64 ≠ 0 then .error (.param 4)
  else match ownPlace s k a 64 with
    | none => .error (.param 3)
    | some p => .ok (memRead s.dev p 64)

/-- Value i of an FP32 or BF16 vector. -/
def vecVal (fmt : Nat) (bs : List Byte) (i : Nat) : Val :=
  if fmt = 0 then bf16.decode (leAt bs (2 * i) 2) else f32.decode (leAt bs (4 * i) 4)

/-- Bytes of an element of an FP32 or BF16 vector. -/
def vecBytes (fmt : Nat) : Nat := if fmt = 0 then 2 else 4

/-- FP32 or BF16. -/
def isVec (fmt : Nat) : Bool := fmt == 0 || fmt == 11

/-- A format that kz.quant and kz.dequant take (R32). -/
def isKzFmt (fmt : Nat) : Bool := decide (fmt ≤ 11)

/-! ### kz.quant and kz.dequant (R216, R217) -/

/-- Block size for counting: 32 for an unblocked format. -/
def kzBlock (fmt : Nat) : Nat := if isBlocked fmt then blockLen fmt else 32

/-- Bytes of a block. -/
def kzUnit (fmt : Nat) : Nat := elemBits fmt * kzBlock fmt / 8

/-- The operands of kz.quant and kz.dequant. `fmt` is the blocked side's format, `vfmt` the vector's. -/
structure QOps where
  src : Nat
  dst : Nat
  scale : Nat
  eyeMap : Nat
  eyeRec : Nat
  crec : Nat
  bbase : Nat
  bstride : Nat
  limit : Nat
  fmt : Nat
  vfmt : Nat
  flags : Nat
  logp : Nat
  nb : Nat
  quant : Bool
  deriving DecidableEq, Repr

/-- The operands in a parameter block. -/
def qOps (quant : Bool) (nb : Nat) (b : List Byte) : QOps :=
  { src := leAt b 0 8, dst := leAt b 8 8, scale := leAt b 16 8, eyeMap := leAt b 24 8, eyeRec := leAt b 32 8,
    crec := leAt b 40 8, bbase := leAt b 48 4, bstride := leAt b 52 4, limit := leAt b 56 4,
    fmt := if quant then leAt b 61 1 else leAt b 60 1, vfmt := if quant then leAt b 60 1 else leAt b 61 1,
    flags := leAt b 62 1, logp := leAt b 63 1, nb := nb, quant := quant }

/-- Elements along k. -/
def QOps.len (q : QOps) : Nat := q.nb * kzBlock q.fmt

/-- Segments that the blocks touch. -/
def QOps.segs (q : QOps) : Nat := (q.len + 1023) / 1024

/-- The vector's address and the blocked side's address. -/
def QOps.vecAddr (q : QOps) : Nat := if q.quant then q.src else q.dst
def QOps.blkAddr (q : QOps) : Nat := if q.quant then q.dst else q.src

/-- The eye list of the operands; empty for none (R41). -/
def qEyes (s : State) (k : Core) (q : QOps) : List Byte := if q.eyeMap = 0 then [] else operand s k q.eyeMap (128 * q.segs)

/-- Eye indices of each segment. -/
def segEyes (q : QOps) (eyes : List Byte) : List (List Nat) := (List.range q.segs).map (eyesOf eyes)

/-- Bytes of the eye records of the line. -/
def eyeBytes (q : QOps) (eyes : List Byte) : Nat := sumNat ((segEyes q eyes).map (fun l => eyeRecSize l.length))

/-- The checks of the operands (R215, R216). -/
def qChecks (s : State) (k : Core) (q : QOps) : List (Bool × KzFault) :=
  [(!isVec q.vfmt || !isKzFmt q.fmt, .illegalInstr),
   (decide (3 < q.flags) || (!isBlocked q.fmt && q.scale != 0) ||
      (!q.quant && (q.bbase != 0 || q.bstride != 0 || q.limit != 0 || q.flags != 0 || q.logp != 0)), .param 6),
   (decide (16 < q.logp), .param 7),
   (q.nb == 0 || decide (1024 < q.nb), .param 1),
   (q.eyeMap != 0 && !isNarrow q.fmt, .param 5),
   (q.crec % 64 != 0, .param 4),
   (outside s k q.vecAddr (q.len * vecBytes q.vfmt) || outside s k q.blkAddr (q.nb * kzUnit q.fmt) ||
      (isBlocked q.fmt && outside s k q.scale q.nb) ||
      (q.eyeMap != 0 && outside s k q.eyeMap (128 * q.segs)), .param 3),
   (q.eyeMap != 0 && !eyesOk (qEyes s k q) q.len, .param 2),
   (q.eyeMap != 0 && eyeBytes q (qEyes s k q) != 0 && outside s k q.eyeRec (eyeBytes q (qEyes s k q)), .param 3)]

/-- The counts in rd (R217). -/
def packCounts (c : Counts) : Nat :=
  min c.sat 0xFFFF + 2 ^ 16 * min c.flush 0xFFFF + 2 ^ 32 * min c.nanInf 0xFFFF + 2 ^ 48 * min c.exceed 0xFFFF

/-- What one block of kz.quant comes to: its bytes, its scale, the decoded outputs of the non-eye elements, counts. -/
structure QBlock where
  bytes : List Byte
  scale : Nat
  outs : List Val
  counts : Counts
  deriving DecidableEq, Repr

/-- Quantise one block; `none` marks an eye slot (R43, R57 to R61). -/
def quantBlock (fmt rule : Nat) (xs : List (Option Val)) : QBlock :=
  if isBlocked fmt then
    let p := narrowBlock fmt rule (allNearest xs.length) xs
    { bytes := packUnit fmt p.2.1, scale := p.1, outs := p.2.1.map (fun c => r32 (scaled (elemVal fmt c) (e8m0 p.1))),
      counts := p.2.2 }
  else
    let es := xs.map (fun x => narrowPlain fmt .nearest (x.getD .zero))
    { bytes := packUnit fmt (es.map (fun e => e.1)), scale := 0,
      outs := es.map (fun e => elemVal fmt e.1), counts := es.foldl (fun c e => c.add e.2) {} }

/-- The relative error of a block in FP32, in ascending k (R62; the order of the sums DEDUCED, log entry 16): the two
sums. -/
def errorSums (ps : List (Val × Val)) : Val × Val :=
  ps.foldl (fun a p =>
    let d := sub32 p.1 p.2
    (add32 a.1 (mul32 d d), add32 a.2 (mul32 p.1 p.1))) (.zero, .zero)

/-- The sentinel's counts of one sampled block (R62). -/
def sentinelCounts (limit : Nat) (ps : List (Val × Val)) : Counts :=
  let e := errorSums ps
  if e.2.isZero then {}
  else
    let r := div32 e.1 e.2
    let lim : Val := if limit % 2 ^ 31 = 0 then .pow2 (-5) else f32.decode limit
    { samples := 1, maxE := f32.rne r, exceed := bit (lim.lt r) }

/-- Block i is sampled (R62, R217 step 4). -/
def isSampled (q : QOps) (i : Nat) : Bool :=
  bitOf q.flags 1 && (q.bbase + i * q.bstride) % 2 ^ 32 % 2 ^ q.logp == 0

/-- The result of kz.quant: vectors to write, with the counts and the number of sampled blocks. -/
structure QResult where
  blocks : List Byte
  scales : List Byte
  recs : List Byte
  counts : Counts
  sampled : Nat
  deriving DecidableEq, Repr

/-- Quantise a line (R217). -/
def quantLine (q : QOps) (eyes : List Byte) (xs : List Val) : QResult :=
  let rule := q.flags % 2
  let g := kzBlock q.fmt
  let isEye := fun (i : Nat) => q.eyeMap != 0 && eyeBit eyes i
  let recs := (segEyes q eyes).map (fun l => eyeRecord rule (allNearest l.length) (l.map (fun i => nth xs i .zero)))
  let eyeOut : List (Nat × Val) := if q.eyeMap = 0 then [] else
    (((segEyes q eyes).zip recs).map (fun p => p.1.zip ((eyeVals p.1.length p.2.1).map r32))).flatten
  let blocks := (List.range q.nb).map (fun b => quantBlock q.fmt rule
    ((List.range g).map (fun j => if isEye (g * b + j) then none else some (nth xs (g * b + j) .zero))))
  let sents := blocks.zipIdx.map (fun p => if isSampled q p.2 then
      sentinelCounts q.limit ((List.range g).map (fun j =>
        let i := g * p.2 + j
        (nth xs i .zero, if isEye i then look eyeOut i .zero else nth p.1.outs j .zero)))
    else {})
  let sum := fun (l : List Counts) => l.foldl Counts.add {}
  { blocks := (blocks.map (fun b => b.bytes)).flatten,
    scales := if isBlocked q.fmt then blocks.map (fun b => BitVec.ofNat 8 b.scale) else [],
    recs := if q.eyeMap = 0 then [] else (recs.map (fun r => r.1)).flatten,
    counts := sum (blocks.map (fun b => b.counts) ++ (if q.eyeMap = 0 then [] else recs.map (fun r => r.2)) ++ sents),
    sampled := ((List.range q.nb).filter (isSampled q)).length }

/-- Segments that hold an eye channel. -/
def eyeSegs (q : QOps) (eyes : List Byte) : Nat := if q.eyeMap = 0 then 0 else ((segEyes q eyes).filter (fun l => !l.isEmpty)).length

/-- Eye channels of the line. -/
def eyeCount (q : QOps) (eyes : List Byte) : Nat := if q.eyeMap = 0 then 0 else sumNat ((segEyes q eyes).map List.length)

/-- Cost of kz.quant in beats (R227). -/
def quantBeats (q : QOps) (eyes : List Byte) (sampled : Nat) : Nat :=
  let per := if q.fmt = 10 then (if q.vfmt = 0 then 3 else 5) else (if q.vfmt = 0 then 2 else 3)
  16 + per * q.nb + 24 * eyeSegs q eyes + eyeCount q eyes + 2 * sampled

/-- KZ_QUANT (R216, R217). -/
def execKzQuant (c : CoreId) (s : State) : Host.Outcome State Fault Refusal :=
  match s.core? c with
  | none => .next s
  | some k0 =>
    match kzWord s k0 0x0B 0 0 with
    | none => .next s
    | some w =>
      let k := touchFetch k0
      .next (match paramBlock s k (k.rx (fRs1 w)) with
        | .error f => kzFault k w f s
        | .ok b =>
          let q := qOps true (k.rx (fRs2 w)) b
          match kzChecks (qChecks s k q) with
          | some f => kzFault k w f s
          | none =>
            let eyes := qEyes s k q
            let xs := (List.range q.len).map (vecVal q.vfmt (operand s k q.src (q.len * vecBytes q.vfmt)))
            let r := quantLine q eyes xs
            let s1 := store k q.eyeRec r.recs (store k q.scale r.scales (store k q.dst r.blocks s))
            let s2 := countTask k.recipe k.task (coreUnit c) q.crec r.counts s1
            kzDone k (fRd w) (packCounts r.counts) (quantBeats q eyes r.sampled) s2)

/-- The values of a line that kz.dequant reads (R60, R217): an eye index reads its eye value, and no unit reads its
slot (R43). -/
def dequantVals (q : QOps) (eyes : List Byte) (blk scl recs : List Byte) : List Val :=
  let g := kzBlock q.fmt
  let segs := segEyes q eyes
  let offs := (List.range q.segs).map (fun i => sumNat ((segs.take i).map (fun l => eyeRecSize l.length)))
  let eyeIn : List (Nat × Val) := if q.eyeMap = 0 then [] else
    ((segs.zip offs).map (fun p => p.1.zip (eyeVals p.1.length (recs.drop p.2)))).flatten
  (List.range q.len).map (fun i =>
    if q.eyeMap != 0 && eyeBit eyes i then look eyeIn i .zero
    else
      let c := elemAt q.fmt (slice blk (i / g * kzUnit q.fmt) (kzUnit q.fmt)) (i % g)
      if isBlocked q.fmt then scaled (elemVal q.fmt c) (e8m0 (leAt scl (i / g) 1)) else elemVal q.fmt c)

/-- Invalid O2 codes that kz.dequant reads (R39). -/
def dequantInvalid (q : QOps) (eyes blk : List Byte) : Nat :=
  if q.fmt = 10 then ((List.range q.len).filter (fun i =>
      !(q.eyeMap != 0 && eyeBit eyes i) && elemAt 10 (slice blk (i / 64 * 16) 16) (i % 64) == 2)).length
  else 0

/-- KZ_DEQUANT (R216, R217). -/
def execKzDequant (c : CoreId) (s : State) : Host.Outcome State Fault Refusal :=
  match s.core? c with
  | none => .next s
  | some k0 =>
    match kzWord s k0 0x0B 1 0 with
    | none => .next s
    | some w =>
      let k := touchFetch k0
      .next (match paramBlock s k (k.rx (fRs1 w)) with
        | .error f => kzFault k w f s
        | .ok b =>
          let q := qOps false (k.rx (fRs2 w)) b
          match kzChecks (qChecks s k q) with
          | some f => kzFault k w f s
          | none =>
            let eyes := qEyes s k q
            let blk := operand s k q.src (q.nb * kzUnit q.fmt)
            let scl := if isBlocked q.fmt then operand s k q.scale q.nb else []
            let recs := if q.eyeMap = 0 then [] else operand s k q.eyeRec (eyeBytes q eyes)
            let es := (dequantVals q eyes blk scl recs).map (narrowPlain q.vfmt .nearest)
            let counts := es.foldl (fun c e => c.add e.2) { invalid := dequantInvalid q eyes blk }
            let s1 := store k q.dst ((es.map (fun e => leBytes (vecBytes q.vfmt) e.1)).flatten) s
            let s2 := countTask k.recipe k.task (coreUnit c) q.crec counts s1
            kzDone k (fRd w) (packCounts counts) (12 + 2 * q.nb + 16 * eyeSegs q eyes) s2)

/-! ### kz.eyepick (R218, R219) -/

/-- RATIO of a block: 0 means 12.0. -/
def pickRatio (b : List Byte) : Val := if leAt b 32 4 % 2 ^ 31 = 0 then .fin false 12 0 else f32.decode (leAt b 32 4)

/-- LIMIT of a block: 0 means 20. -/
def pickLimit (b : List Byte) : Nat := if leAt b 31 1 = 0 then 20 else leAt b 31 1

/-- The checks that both modes share (R215, R218). -/
def pickChecks (k : Core) (w : Nat) (b : List Byte) : List (Bool × KzFault) :=
  [(!isVec (leAt b 28 1), .illegalInstr),
   (decide (3 < leAt b 30 1) || !allZero (slice b 40 24) || k.rx (fRs2 w) != 0, .param 6),
   (decide (1 < leAt b 29 1) || decide (64 < leAt b 31 1) || !(pickRatio b).isFinite ||
      (pickRatio b).lt .one, .param 7),
   (leAt b 36 4 == 0 || decide (1024 < leAt b 36 4), .param 1),
   (leAt b 8 8 % 64 != 0, .param 4)]

/-- The checks of an accumulation (R215, R218). -/
def accChecks (s : State) (k : Core) (w : Nat) (b : List Byte) : List (Bool × KzFault) :=
  let nl := leAt b 24 4
  pickChecks k w b ++ [(nl == 0 || decide (64 < nl), .param 1),
    (outside s k (leAt b 0 8) (nl * 1024 * vecBytes (leAt b 28 1)) || outside s k (leAt b 8 8) 4096, .param 3)]

/-- The 1,024 channel maxima after `nl` lines: NaN values are ignored (R218). -/
def accMaxima (fmt nl : Nat) (xs st : List Byte) : List Nat :=
  (List.range 1024).map (fun ch => (List.range nl).foldl (fun m l =>
    match vecVal fmt xs (1024 * l + ch) with
    | .nan => m
    | v => maxF32 m (f32.rne v.abs)) (leAt st (4 * ch) 4))

/-- KZ_EYEPICK_ACCUMULATE (R218): every channel maximum rises over the lines. A parameter block without a mode 1 is
checked here. -/
def execKzEyepickAccumulate (c : CoreId) (s : State) : Host.Outcome State Fault Refusal :=
  match s.core? c with
  | none => .next s
  | some k0 =>
    match kzWord s k0 0x0B 2 0 with
    | none => .next s
    | some w =>
      let k := touchFetch k0
      match paramBlock s k (k.rx (fRs1 w)) with
      | .error f => .next (kzFault k w f s)
      | .ok b =>
        let fmt := leAt b 28 1
        let nl := leAt b 24 4
        occurs (leAt b 29 1 != 1) (fun s =>
          match kzChecks (accChecks s k w b) with
          | some f => kzFault k w f s
          | none =>
            let out := accMaxima fmt nl (operand s k (leAt b 0 8) (nl * 1024 * vecBytes fmt)) (operand s k (leAt b 8 8) 4096)
            kzDone k (fRd w) 0 (8 + (if fmt = 0 then 32 else 64) * nl)
              (store k (leAt b 8 8) ((out.map (leBytes 4)).flatten) s)) s

/-- The channel of a list with the largest value, the lowest on ties. -/
def largest (st : Nat → Val) : List Nat → Option Nat
  | [] => none
  | c :: l => some (l.foldl (fun b x => if (st b).lt (st x) then x else b) c)

/-- Candidates of one block, with scores (R219). -/
def blockCands (ratio : Val) (st : Nat → Val) : Nat → List Nat → List (Nat × Val)
  | 0, _ => []
  | fuel + 1, rem =>
    match largest st rem with
    | none => []
    | some c1 =>
      match largest st (rem.filter (· != c1)) with
      | none => []
      | some c2 =>
        if (st c1).isZero || (st c1).lt (mul32 ratio (st c2)) then []
        else (c1, if (st c2).isZero then .inf false else div32 (st c1) (st c2)) ::
          blockCands ratio st fuel (rem.filter (· != c1))

/-- Insert a candidate by descending score, ties by channel ascending. -/
def insertScore (a : Nat × Val) : List (Nat × Val) → List (Nat × Val)
  | [] => [a]
  | b :: l => if b.2.lt a.2 || (!a.2.lt b.2 && decide (a.1 < b.1)) then a :: b :: l else b :: insertScore a l

/-- PAIR (R219): each block with exactly one chosen channel gains its largest other one. -/
def pairUp (limit : Nat) (st : Nat → Val) (blocks : List (List Nat)) (chosen : List Nat) : List Nat :=
  blocks.foldl (fun acc blk =>
    if (blk.filter (fun c => c ∈ acc)).length = 1 ∧ acc.length < limit then
      match largest st (blk.filter (fun c => !(c ∈ acc))) with
      | some c => if (Val.zero).lt (st c) then acc ++ [c] else acc
      | none => acc
    else acc) chosen

/-- The choice of kz.eyepick: the chosen channels and the number of candidates. -/
def eyepick (g kvalid limit : Nat) (pair : Bool) (ratio : Val) (st : Nat → Val) : List Nat × Nat :=
  let blocks := (List.range (1024 / g)).map (fun i =>
    ((List.range g).map (fun j => g * i + j)).filter (fun c => decide (c < kvalid)))
  let cands := (blocks.map (fun b => blockCands ratio st b.length b)).flatten
  let chosen := ((cands.foldl (fun l a => insertScore a l) []).take limit).map (fun p => p.1)
  (if pair then pairUp limit st blocks chosen else chosen, cands.length)

/-- The bitmap of a set of channels. -/
def bitmapOf (cs : List Nat) : List Byte :=
  (List.range 128).map (fun i => BitVec.ofNat 8 (sumNat ((List.range 8).map (fun j => if 8 * i + j ∈ cs then 2 ^ j else 0))))

/-- The checks of a selection (R215, R219). -/
def selChecks (s : State) (k : Core) (w : Nat) (b : List Byte) : List (Bool × KzFault) :=
  pickChecks k w b ++ [(leAt b 16 8 % 128 != 0, .param 4),
    (outside s k (leAt b 8 8) 4096 || outside s k (leAt b 16 8) 128, .param 3)]

/-- The choice that a parameter block asks for, from the channel maxima `st` (R219). -/
def selPick (b st : List Byte) : List Nat × Nat :=
  eyepick (if bitOf (leAt b 30 1) 1 then 64 else 32) (leAt b 36 4) (pickLimit b) (bitOf (leAt b 30 1) 0) (pickRatio b)
    (fun ch => f32.decode (leAt st (4 * ch) 4))

/-- KZ_EYEPICK_SELECT (R219). -/
def execKzEyepickSelect (c : CoreId) (s : State) : Host.Outcome State Fault Refusal :=
  match s.core? c with
  | none => .next s
  | some k0 =>
    match kzWord s k0 0x0B 2 0 with
    | none => .next s
    | some w =>
      let k := touchFetch k0
      match paramBlock s k (k.rx (fRs1 w)) with
      | .error f => .next (kzFault k w f s)
      | .ok b =>
        let g := if bitOf (leAt b 30 1) 1 then 64 else 32
        occurs (leAt b 29 1 != 0) (fun s =>
          match kzChecks (selChecks s k w b) with
          | some f => kzFault k w f s
          | none =>
            let r := selPick b (operand s k (leAt b 8 8) 4096)
            kzDone k (fRd w) r.1.length (40 + 12 * (1024 / g) + 4 * r.2) (store k (leAt b 16 8) (bitmapOf r.1) s)) s

/-! ### kz.topk (R220) -/

/-- Score a goes before score b: larger, or equal with a lower index; a NaN ranks below −∞. -/
def goesBefore (a b : Nat × Val) : Bool :=
  match a.2, b.2 with
  | .nan, .nan => decide (a.1 < b.1)
  | .nan, _ => false
  | _, .nan => true
  | x, y => y.lt x || (!x.lt y && decide (a.1 < b.1))

/-- Insert by rank. -/
def insertRank (a : Nat × Val) : List (Nat × Val) → List (Nat × Val)
  | [] => [a]
  | b :: l => if goesBefore a b then a :: b :: l else b :: insertRank a l

/-- The K largest of one row, with their bits as FP32; missing entries are 0xFFFF and −∞. -/
def topRow (k : Nat) (bits : List Nat) (eligible : Nat → Bool) : List (Nat × Nat) :=
  let es := (bits.zipIdx.filter (fun p => eligible p.2)).foldl (fun l p => insertRank (p.2, f32.decode p.1) l) []
  let top := (es.take k).map (fun e => (e.1, nth bits e.1 0))
  top ++ List.replicate (k - top.length) (0xFFFF, 0xFF800000)

/-- Bits of an element widened to FP32: a BF16 is its upper half. -/
def wideBits (fmt : Nat) (bs : List Byte) (i : Nat) : Nat :=
  if fmt = 0 then leAt bs (2 * i) 2 * 2 ^ 16 else leAt bs (4 * i) 4

/-- The bytes of the mask of a kz.topk; none where it names no mask (R220). -/
def topkMask (s : State) (k : Core) (b : List Byte) : List Byte :=
  if leAt b 32 8 = 0 then [] else operand s k (leAt b 32 8) ((leAt b 28 2 + 63) / 64 * 8)

/-- The checks of a kz.topk (R215, R220). -/
def topkChecks (s : State) (k : Core) (w : Nat) (b : List Byte) : List (Bool × KzFault) :=
  let ntok := leAt b 24 4
  let nexp := leAt b 28 2
  let kk := leAt b 30 1
  let mask := leAt b 32 8
  [(!isVec (leAt b 31 1), .illegalInstr),
   (!allZero (slice b 40 24) || k.rx (fRs2 w) != 0, .param 6),
   (ntok == 0 || decide (4096 < ntok) || nexp == 0 || decide (1024 < nexp), .param 1),
   (kk == 0 || decide (16 < kk) || decide (nexp < kk), .param 7),
   (mask % 8 != 0, .param 4),
   (outside s k (leAt b 0 8) (ntok * (nexp * vecBytes (leAt b 31 1))) || outside s k (leAt b 8 8) (ntok * kk * 2) ||
     (leAt b 16 8 != 0 && outside s k (leAt b 16 8) (ntok * kk * 4)) ||
     (mask != 0 && outside s k mask ((nexp + 63) / 64 * 8)), .param 3),
   (decide (2 ^ nexp ≤ ofLe (topkMask s k b)), .param 6)]

/-- The scores of a kz.topk, row by row, as FP32 bits. -/
def topkRows (b src : List Byte) : List (List Nat) :=
  (List.range (leAt b 24 4)).map (fun t => (List.range (leAt b 28 2)).map (fun e =>
    wideBits (leAt b 31 1) src (leAt b 28 2 * t + e)))

/-- KZ_TOPK (R220). -/
def execKzTopk (c : CoreId) (s : State) : Host.Outcome State Fault Refusal :=
  match s.core? c with
  | none => .next s
  | some k0 =>
    match kzWord s k0 0x0B 3 0 with
    | none => .next s
    | some w =>
      let k := touchFetch k0
      .next (match paramBlock s k (k.rx (fRs1 w)) with
        | .error f => kzFault k w f s
        | .ok b =>
          let ntok := leAt b 24 4
          let nexp := leAt b 28 2
          let kk := leAt b 30 1
          match kzChecks (topkChecks s k w b) with
          | some f => kzFault k w f s
          | none =>
            let rows := topkRows b (operand s k (leAt b 0 8) (ntok * (nexp * vecBytes (leAt b 31 1))))
            let mask := ofLe (topkMask s k b)
            let tops := (rows.map (fun r => topRow kk r (fun e => !bitOf mask e))).flatten
            let nans := sumNat (rows.map (fun r => (r.filter isNan32).length))
            let s1 := store k (leAt b 8 8) ((tops.map (fun p => leBytes 2 p.1)).flatten) s
            let s2 := if leAt b 16 8 = 0 then s1 else store k (leAt b 16 8) ((tops.map (fun p => leBytes 4 p.2)).flatten) s1
            kzDone k (fRd w) nans (8 + ntok * ((nexp + 15) / 16 * ((kk + 3) / 4) + 2)) s2)

/-! ### kz.hist (R221) -/

/-- The bin of an exponent-mode input; none for a zero or a NaN. -/
def exponentBin (nbins : Nat) (ebase : Int) (v : Val) : Option Nat :=
  match v with
  | .nan => none
  | .inf _ => some (nbins - 1)
  | .fin _ m e => if m = 0 then none else some ((max 0 (min ((Nat.log2 m : Int) + e - ebase) (nbins - 1))).toNat)

/-- Bytes of the inputs of a kz.hist. -/
def histBytes (b : List Byte) : Nat := leAt b 16 4 * (if leAt b 22 1 = 0 then 2 else vecBytes (leAt b 23 1))

/-- The checks of a kz.hist (R215, R221). -/
def histChecks (s : State) (k : Core) (w : Nat) (b : List Byte) : List (Bool × KzFault) :=
  let n := leAt b 16 4
  let nbins := leAt b 20 2
  let mode := leAt b 22 1
  let fmt := leAt b 23 1
  [(decide (1 < mode), .param 7), (mode == 1 && !isVec fmt, .illegalInstr),
   ((mode == 0 && (fmt != 0 || leAt b 24 2 != 0)) || !allZero (slice b 26 38) || k.rx (fRs2 w) != 0, .param 6),
   (n == 0 || decide (65536 < n) || nbins == 0 || decide (1024 < nbins), .param 1),
   (leAt b 8 8 % 4 != 0, .param 4),
   (outside s k (leAt b 0 8) (histBytes b) || outside s k (leAt b 8 8) (4 * nbins), .param 3)]

/-- The bin of input `i`: none for an index out of range, a zero or a NaN (R221). -/
def histBin (b src : List Byte) (i : Nat) : Option Nat :=
  if leAt b 22 1 = 0 then
    (if leAt src (2 * i) 2 < leAt b 20 2 then some (leAt src (2 * i) 2) else none)
  else exponentBin (leAt b 20 2) (toS 16 (leAt b 24 2)) (vecVal (leAt b 23 1) src i)

/-- The bins, each saturating, and the inputs that no bin takes. -/
def histCounts (b src : List Byte) (start : List Nat) : List Nat × Nat :=
  (List.range (leAt b 16 4)).foldl (fun (acc : List Nat × Nat) i => match histBin b src i with
    | some x => (modAt acc.1 x (fun v => satAdd 32 v 1), acc.2)
    | none => (acc.1, acc.2 + 1)) (start, 0)

/-- KZ_HIST (R221). -/
def execKzHist (c : CoreId) (s : State) : Host.Outcome State Fault Refusal :=
  match s.core? c with
  | none => .next s
  | some k0 =>
    match kzWord s k0 0x0B 4 0 with
    | none => .next s
    | some w =>
      let k := touchFetch k0
      .next (match paramBlock s k (k.rx (fRs1 w)) with
        | .error f => kzFault k w f s
        | .ok b =>
          let n := leAt b 16 4
          let nbins := leAt b 20 2
          match kzChecks (histChecks s k w b) with
          | some f => kzFault k w f s
          | none =>
            let old := operand s k (leAt b 8 8) (4 * nbins)
            let r := histCounts b (operand s k (leAt b 0 8) (histBytes b)) ((List.range nbins).map (fun i => leAt old (4 * i) 4))
            kzDone k (fRd w) r.2 (8 + (if leAt b 22 1 = 0 then (n + 7) / 8 else (n + 15) / 16))
              (store k (leAt b 8 8) ((r.1.map (leBytes 4)).flatten) s))

end Sys2Proof.Machine
end

