-- ==== Sys2Proof/Machine/Kz.lean ====
section
/-! DEFINITION. The custom-1 instructions of a helper core (R213, R222 to R227): carries, tumbler operations and
write regions. -/

namespace Sys2Proof.Machine

/-! ### Carries (R222 to R224) -/

/-- Where a carry's end lies (R223). -/
inductive CarrySpace where
  | scratch | curd | near | cave | other
  deriving DecidableEq, Repr

/-- The space of a device address. -/
def carrySpace (a : Nat) : CarrySpace :=
  if a < scratchBase then .curd
  else if (scratchBase ≤ a ∧ a < scratchEnd) ∨ (ownBase ≤ a ∧ a < ownBase + 65536) then .scratch
  else if nearBase ≤ a ∧ a < nearEnd then .near
  else if caveBase ≤ a ∧ a < caveEnd then .cave
  else .other

/-- The carry of a record. -/
def carryOf (b : List Byte) (waiting : Option Nat) (inRegion : Bool) : Carry :=
  { src := leAt b 0 8, dst := leAt b 8 8, len := leAt b 16 4, rows := leAt b 20 2, zero := bitOf (leAt b 22 2) 0,
    spitch := leAt b 24 4, dpitch := leAt b 28 4, waiting := waiting, inRegion := inRegion,
    demanded := [] }

/-- A scratch end with a row outside own or mate user scratch (R199, R223). -/
def badRows (s : State) (k : Core) (a len rows pitch : Nat) : Bool :=
  carrySpace a == .scratch && (List.range rows).any (fun i => outside s k (a + i * pitch) len)

/-- The checks of kz.carry (R215, R222, R223). -/
def carryChecks (s : State) (k : Core) (flags : Nat) (b : List Byte) (y : Carry) : List (Bool × KzFault) :=
  [(decide (1 < flags) || decide (1 < leAt b 22 2), .param 6),
   (y.len == 0 || decide (2 ^ 24 < y.len) || y.rows == 0, .param 8),
   ((!y.zero && carrySpace y.src == .cave && carrySpace y.dst == .cave) || carrySpace y.dst == .other ||
      (!y.zero && carrySpace y.src == .other) ||
      badRows s k y.dst y.len y.rows y.dpitch || (!y.zero && badRows s k y.src y.len y.rows y.spitch), .param 8)]

/-- Address of own or mate scratch through the device address map. -/
def scratchDev (s : State) (k : Core) (a : Nat) : Nat :=
  if ownBase ≤ a then
    match logicalOf s k.id with
    | some n => scratchAt n + (a - ownBase)
    | none => a
  else a

/-- Bytes of a carry's cave source: those of the segments that have arrived (R152, R153). -/
def carryCave (s : State) (k : Core) (y : Carry) (a n : Nat) : Except Access (List Byte) :=
  (piecesOf a n).foldl (fun acc q =>
    match acc with
    | .error e => .error e
    | .ok bs => match readPlace s k.recipe k.task q.1 with
      | .error sub => .error (.fault sub)
      | .ok l =>
        let m := match l with
          | .cave p => p / 65536
          | _ => 0
        match y.demanded.find? (fun d => d.1 == m && d.2.isSome) with
        | none => .error .wait
        | some d => if d.2 = some true then .error .poisoned else .ok (bs ++ locRead s l q.2)) (.ok [])

/-- One row that a carry reads. -/
def carryRow (s : State) (k : Core) (y : Carry) (i : Nat) : Except Access (List Byte) :=
  if y.zero then .ok (zeros y.len)
  else if carrySpace y.src == .scratch then .ok (memRead s.dev (scratchDev s k y.src + i * y.spitch) y.len)
  else if carrySpace y.src == .cave then carryCave s k y (y.src + i * y.spitch) y.len
  else taskRead s k.recipe k.task (y.src + i * y.spitch) y.len

/-- The rows of a carry, with the first fault of its reads. -/
def carryRows (s : State) (k : Core) (y : Carry) : List Put × Option Access :=
  (List.range y.rows).foldl (fun (acc : List Put × Option Access) i => match acc.2 with
    | some _ => acc
    | none => match carryRow s k y i with
      | .ok bs => (acc.1 ++ [{ addr := y.dst + i * y.dpitch, bytes := bs, word := 0 }], none)
      | .error e => (acc.1, some e)) ([], none)

/-- A row writes a declared page of the task (R226). -/
def rowDeclared (s : State) (k : Core) (a n : Nat) : Bool :=
  match (s.recipe? k.recipe).bind (fun r => r.run? k.task) with
  | some x => x.shadows.any (fun p => decide (p.page < a + n) && decide (a < p.page + pageBytes))
  | none => false

/-- What the writes of a carry come to. -/
inductive CarryOut where
  | done (s : State)
  /-- waits for a stash open (R233). -/
  | wait (s : State)
  | failed (s : State) (a : Access)
  deriving DecidableEq, Repr

/-- Write the rows of a carry (R181, R182, R223, R226). -/
def carryWrite (k : Core) (y : Carry) (ps : List Put) (s : State) : CarryOut :=
  let u := coreUnit k.id
  if carrySpace y.dst == .scratch then
    .done (forEach ps (fun p s =>
      let a := scratchDev s k p.addr
      let s1 := { s with dev := memWrite s.dev a p.bytes }
      match coreOfLogical s ((a - scratchBase) / 65536) with
      | some id => breakReservation id a p.bytes.length s1
      | none => s1) s)
  else if specRunning s k.recipe k.task then
    .done (forEach ps (fun p s =>
      if !y.inRegion && rowDeclared s k p.addr p.bytes.length then breach k.recipe k.task u s
      else (doPutsSpec k.recipe k.task u (fun sub _ => hoopDetail s k 0x14 sub (Config.freeNat s.free)) [p] s).1.drawn) s)
  else
    let o := preOpen k.recipe k.task ps s
    if o.2 then .wait o.1
    else match doPuts k.recipe k.task u ps o.1 with
      | (s1, none) => .done s1
      | (s1, some (.wait, _, _)) => .wait s1
      | (s1, some (a, _)) => .failed s1 a

/-- Finish the kz.spec.end of a core (R226). -/
def specEndValue (s : State) (k : Core) : Nat :=
  match (s.recipe? k.recipe).bind (fun r => r.run? k.task) with
  | some x =>
    if x.specRun then
      (match x.deferred with
        | some d => d.code
        | none => 0) + 256 * bit x.verdict.isSome + 512 * (match x.verdict with
        | some true => 1
        | some false => 2
        | none => 0)
    else 0
  | none => 0

/-- What a core waits for ends, if the completed carry and the rest of its queue end it (R222, R224, R226). -/
def carryWake (k : Core) (y : Carry) (s : State) : State :=
  let go := { k with wait := CoreWait.none }
  match k.wait with
  | .carryAll rd => if k.carries.isEmpty then kzDone go rd 0 4 s else putCore k s
  | .carryOne rd => if y.waiting.isSome then kzDone go rd k.carries.length 4 s else putCore k s
  | .carryFull => (putCore { go with hpm := modAt k.hpm 2 (fun v => (v + Config.freeNat s.free) % 2 ^ 64) } s).drawn
  | .specEnd rd =>
    if k.carries.any (fun z => z.inRegion) then putCore k s
    else kzDone { go with region := false } rd (specEndValue s k) 4 s
  | _ => putCore k s

/-- A carry leaves its queue. -/
def carryGone (k : Core) (i : Nat) (y : Carry) (s : State) : State :=
  settle k.recipe (recordEnd k.recipe k.task (carryWake { k with carries := k.carries.eraseIdx i } y s))

/-- A fault of a carry on its way: the task ends, or a speculative one defers (R135, R214, R223); a breach of R182 by a
task whose guard committed before it started ends it (R184). -/
def carryFault (k : Core) (i : Nat) (y : Carry) (a : Access) (s : State) : State :=
  let fault := fun (sub : Nat) => ({ code := 0x14, sub := sub, unit := coreUnit k.id,
                                     detail := hoopDetail s k 0x14 sub (Config.freeNat s.free) } : Deferred)
  if specRunning s k.recipe k.task then
    carryGone k i y (match a with
      | .fault sub => (deferFault k.recipe k.task (fault sub) s).drawn
      | .poisoned => deferFault k.recipe k.task { code := 0x1D, sub := 0, unit := coreUnit k.id, detail := [] } s
      | _ => s)
  else match a with
    | .fault sub => (coreFault k 0x14 sub (Config.freeNat s.free) s).drawn
    | .breach => settle k.recipe (breachFault k.recipe k.task (coreUnit k.id) s)
    | .absorbed => settle k.recipe (absorbTask k.recipe (coreUnit k.id) k.task s)
    | _ => coreMemoryError k s

/-- The rows of a carry's cave source reach the recipe's share (R152, R154, R223); the carry notes the segments that it
has demanded. -/
def carryDemand (k : Core) (i : Nat) (y : Carry) (s : State) : State × Core × Carry :=
  if y.zero || carrySpace y.src != .cave then (s, k, y)
  else
    let layer := (((s.recipe? k.recipe).bind (fun r => r.task? k.task)).map (fun t => t.layer)).getD 0
    let o := (List.range y.rows).foldl (fun acc j =>
      demandRange k.recipe layer (y.src + j * y.spitch) y.len acc.2 acc.1) (s, y.demanded)
    let y1 := { y with demanded := o.2 }
    let k1 := { k with carries := k.carries.set i y1 }
    (putCore k1 o.1, k1, y1)

/-- The bank of a near-tier or curd end of a row, none elsewhere. -/
def rowBank (s : State) (r : Recipe) (a : Nat) (write : Bool) : Option BankId :=
  match translate s r a write with
  | .ok (.curd p) => bankOf s p
  | .ok (.near p) => bankOf s (nearBase + p)
  | _ => none

/-- The banks that a carry's rows touch, piece by piece (R124, R131). -/
def carryBanks (s : State) (r : Recipe) (y : Carry) : List BankId :=
  ((List.range y.rows).map (fun j =>
    (if y.zero then [] else (piecesOf (y.src + j * y.spitch) y.len).filterMap (fun q => rowBank s r q.1 false)) ++
      (piecesOf (y.dst + j * y.dpitch) y.len).filterMap (fun q => rowBank s r q.1 true))).flatten

/-- The requests of a carry find request slots and room under every cap of the banks they touch (R158, R224). -/
def carryRoom (s : State) (k : Core) (y : Carry) : Bool :=
  match s.recipe? k.recipe with
  | none => true
  | some r =>
    let id : ReqId := { wheel := k.id.wheel, recipe := k.recipe, task := k.task, tag := 0,
                        spec := specRunning s k.recipe k.task }
    (carryBanks s r y).all (slotFree s id)

/-- The move of a carry: every row is read and then written; after a fault the rows before it have moved. A row whose
cave segment is not resident, or whose stash entry is not open, makes the carry wait (R153, R233). -/
def carryMove (k0 : Core) (i : Nat) (y0 : Carry) (s0 : State) : State :=
  let d := carryDemand k0 i y0 s0
  let s := d.1
  let k := d.2.1
  let y := d.2.2
  let r := carryRows s k y
  if r.2 = some .wait then s
  else match carryWrite k y r.1 s with
  | .wait s1 => s1
  | .failed s1 a => carryFault k i y a s1
  | .done s1 =>
    match s1.core? k.id with
    | none => s1
    | some k1 => match r.2 with
      | some a => carryFault k1 i y a s1
      | none => carryGone k1 i y s1

/-- Absorption covers a core: a drain of its hoop, wheel or recipe, or of the device, absorbs (R426). -/
def absorbs (s : State) (k : Core) : Bool :=
  s.gate.drains.any (fun d => d.absorbing && (match d.scope with
    | .core c => c == k.id
    | .hoop w h => w == k.id.wheel && h == k.id.hoop
    | .wheel w => w == k.id.wheel
    | .device => true
    | .deviceOff => true
    | .recipe h => h == k.recipe
    | _ => false))

/-- A carry from outside reaches a draining curd slice (R426). -/
def carryMeetsDrain (s : State) (k : Core) (y : Carry) : Bool :=
  !drainsWheel s k.id.wheel && (match s.recipe? k.recipe with
    | some r => (carryBanks s r y).any (bankDrains s)
    | none => false)

/-- CARRY_COMPLETE (R158, R224): with request slots for it, carry `n` of the core's queue moves and leaves the queue, or is
absorbed and its task ends ABSORBED (R178, R426). -/
def execCarryComplete (c : CoreId) (n : Nat) (e : CarryEnd) (s : State) : Host.Outcome State Fault Refusal :=
  match s.core? c with
  | none => .next s
  | some k =>
    match k.carries[n]? with
    | none => .next s
    | some y =>
      let absorb := fun (s : State) => settle k.recipe (taskFault k.recipe k.task (coreUnit c) 0x12 0 s)
      match e with
      | .done => occurs (!s.power.gatesClosed && carryRoom s k y)
          (if carryMeetsDrain s k y then absorb else carryMove k n y) s
      | .absorbed => occurs (absorbs s k) absorb s

/-- KZ_CARRY (R222 to R224): with rs1 = x0, waits for every carry of the core. -/
def execKzCarry (c : CoreId) (s : State) : Host.Outcome State Fault Refusal :=
  match s.core? c with
  | none => .next s
  | some k0 =>
    match kzWord s k0 0x2B 0 0 with
    | none => .next s
    | some w =>
      let k := touchFetch k0
      let flags := k.rx (fRs2 w)
      .next (if fRs1 w = 0 then
          (if 1 < flags then kzFault k w (.param 6) s
            else if k.carries.isEmpty then kzDone k (fRd w) 0 4 s
            else putCore { k with wait := .carryAll (fRd w) } s)
        else if k.rx (fRs1 w) % 32 ≠ 0 then kzFault k w (.param 4) s
        else match ownPlace s k (k.rx (fRs1 w)) 32 with
          | none => kzFault k w (.param 3) s
          | some p =>
            let b := memRead s.dev p 32
            let waits := bitOf flags 0
            let y := carryOf b (if waits then some (fRd w) else none) k.region
            match kzChecks (carryChecks s k flags b y) with
            | some f => kzFault k w f s
            | none =>
              if 8 ≤ k.carries.length then putCore { k with wait := .carryFull } s
              else
                let k1 := { k with carries := k.carries ++ [y] }
                if waits then putCore { k1 with wait := .carryOne (fRd w) } s
                else kzDone k1 (fRd w) k1.carries.length 4 s)

/-! ### Tumblers (R225) -/

/-- A core's instruction ends where its task still runs (R170, R179). -/
def kzAfter (k : Core) (rd v beats : Nat) (s : State) : State :=
  match s.core? k.id with
  | none => s
  | some _ => settle k.recipe (kzDone k rd v beats s)

/-- KZ_TADD (R165, R225): ADD, or READ with n = 0. A core's writes are visible before it (R139, R224). -/
def execKzTadd (c : CoreId) (s : State) : Host.Outcome State Fault Refusal :=
  match s.core? c, (s.core? c).bind (fun k => s.recipe? k.recipe) with
  | some k0, some r =>
    match kzWord s k0 0x2B 1 0 with
    | none => .next s
    | some w =>
      let k := touchFetch k0
      let h := k.rx (fRs1 w)
      let n := k.rx (fRs2 w)
      let iss := Issuer.ofTask k.task (coreUnit c) false
      occurs (k.carries.isEmpty && !writesOut s k.recipe k.task) (fun s =>
        if 65536 ≤ h then kzFault k w (.param 6) s
        else if n = 0 then
          match accessMisuse r h { iss with op := 2 } with
          | some d => settle k.recipe (misuse k.recipe d h { iss with op := 2 } s)
          | none => kzDone k (fRd w) (r.value h) 2 s
        else
          let old := if addRule s k.recipe k.task h = .allowed then r.value h else 0
          kzAfter k (fRd w) old 2 (underR182 k.recipe k.task (coreUnit c) h (tAdd k.recipe h n iss) s)) s
  | _, _ => .next s

/-- KZ_TWAIT (R165, R225). -/
def execKzTwait (c : CoreId) (s : State) : Host.Outcome State Fault Refusal :=
  match s.core? c, (s.core? c).bind (fun k => s.recipe? k.recipe) with
  | some k0, some r =>
    match kzWord s k0 0x2B 2 0 with
    | none => .next s
    | some w =>
      let k := touchFetch k0
      let h := k.rx (fRs1 w)
      let v := k.rx (fRs2 w)
      let iss := { Issuer.ofTask k.task (coreUnit c) false with op := 2 }
      .next (if 65536 ≤ h then kzFault k w (.param 6) s
        else match accessMisuse r h iss with
          | some d => settle k.recipe (misuse k.recipe d h iss s)
          | none =>
            if r.reached h v then kzDone k (fRd w) (r.value h) 2 s
            else trackWatchdog k.recipe (putCore { k with wait := .tumbler h v (fRd w) s.now } s))
  | _, _ => .next s

/-- TWAIT_WAKE (R225): the tumbler has reached the threshold; the beats suspended are counted, their number is a
matter of timing and free (R196). -/
def execTwaitWake (c : CoreId) (s : State) : Host.Outcome State Fault Refusal :=
  match s.core? c, (s.core? c).bind (fun k => s.recipe? k.recipe) with
  | some k, some r =>
    match k.wait with
    | .tumbler h v rd _ =>
      occurs (r.reached h v) (fun s =>
        trackWatchdog k.recipe
          (kzDone { k with wait := .none, hpm := modAt k.hpm 1 (fun n => (n + Config.freeNat (s.free + 1)) % 2 ^ 64) }
            rd (r.value h) 2 s).drawn) s
    | _ => .next s
  | _, _ => .next s

/-- KZ_TARM (R165, R225). -/
def execKzTarm (c : CoreId) (s : State) : Host.Outcome State Fault Refusal :=
  match s.core? c, (s.core? c).bind (fun k => s.recipe? k.recipe) with
  | some k0, some r =>
    match kzWord s k0 0x2B 3 0 with
    | none => .next s
    | some w =>
      let k := touchFetch k0
      let x := k.rx (fRs1 w)
      let h := x % 65536
      occurs (k.carries.isEmpty && !writesOut s k.recipe k.task) (fun s =>
        if bitsOf x 31 18 ≠ 0 then kzFault k w (.param 6) s
        else if bitsOf x 17 16 = 3 then kzFault k w (.param 7) s
        else
          let s0 := if addRule s k.recipe k.task h = .allowed then s else s.drawn
          let old := if addRule s k.recipe k.task h = .allowed then r.value h else Config.freeNat s.free
          kzAfter k (fRd w) old 2 (underR182 k.recipe k.task (coreUnit c) h (tArm k.recipe h (k.rx (fRs2 w))
            (bitsOf x 17 16) (bitsOf x 47 32) (bitsOf x 63 48) (Issuer.ofTask k.task (coreUnit c) false)) s0)) s
  | _, _ => .next s

/-- KZ_POST (R176, R182, R225): adds to an output of the task; a speculative task's add is held until the verdict. -/
def execKzPost (c : CoreId) (s : State) : Host.Outcome State Fault Refusal :=
  match s.core? c, (s.core? c).bind (fun k => (s.recipe? k.recipe).bind (fun r => (r.task? k.task).map (fun t => (r, t)))) with
  | some k0, some (r, t) =>
    match kzWord s k0 0x2B 4 0 with
    | none => .next s
    | some w =>
      let k := touchFetch k0
      let n := k.rx (fRs2 w)
      occurs (k.carries.isEmpty && !writesOut s k.recipe k.task) (fun s =>
        match t.outs[k.rx (fRs1 w)]? with
        | none => kzFault k w .illegalInstr s
        | some o =>
          if 2 ^ 32 ≤ n then kzFault k w (.param 7) s
          else if specRunning s k.recipe k.task then
            kzAfter k (fRd w) (r.value o.2) 2
              (s.onTask k.recipe k.task (fun x => { x with heldPosts := x.heldPosts ++ [(o.2, n, coreUnit c)] }))
          else kzAfter k (fRd w) (r.value o.2) 2
            (tAdd k.recipe o.2 n (Issuer.ofTask k.task (coreUnit c) t.vread) s)) s
  | _, _ => .next s

/-! ### Write regions (R226) -/

/-- KZ_SPEC_BEGIN (R226); its rs1 and rs2 are zero (R213, log entry 16). -/
def execKzSpecBegin (c : CoreId) (s : State) : Host.Outcome State Fault Refusal :=
  match s.core? c with
  | none => .next s
  | some k0 =>
    match kzWord s k0 0x2B 5 0 with
    | none => .next s
    | some w =>
      let k := touchFetch k0
      .next (if k.rx (fRs1 w) ≠ 0 ∨ k.rx (fRs2 w) ≠ 0 then kzFault k w (.param 6) s
        else if k.region then kzFault k w .illegalInstr s
        else kzDone { k with region := true } (fRd w) (bit (specRunning s k.recipe k.task)) 1 s)

/-- KZ_SPEC_END (R226); its rs1 and rs2 are zero (R213, log entry 16). -/
def execKzSpecEnd (c : CoreId) (s : State) : Host.Outcome State Fault Refusal :=
  match s.core? c with
  | none => .next s
  | some k0 =>
    match kzWord s k0 0x2B 5 1 with
    | none => .next s
    | some w =>
      let k := touchFetch k0
      .next (if k.rx (fRs1 w) ≠ 0 ∨ k.rx (fRs2 w) ≠ 0 then kzFault k w (.param 6) s
        else if ¬ k.region then kzFault k w .illegalInstr s
        else if specRunning s k.recipe k.task ∧ k.carries.any (fun y => y.inRegion) then
          putCore { k with wait := .specEnd (fRd w) } s
        else kzDone { k with region := false } (fRd w) (specEndValue s k) 4 s)

end Sys2Proof.Machine
end

