-- ==== Sys2Proof/Machine/Restart.lean ====
section
/-! DEFINITION. Seating and the auxiliary supply (R433, R507 to R513), and the restarts of the Warden (R433 to R435,
R494). -/

namespace Sys2Proof.Machine

/-! ### SEAT_LATCHED (R510, R511, R513) and STBY12_SENSE (R509) -/

/-- A main rail is on: those of the device, or the PCIe island alone in RECOVERY (R500, R510). -/
def anyRail (s : State) : Bool := s.power.rails || (s.life.state == .recovery && s.host.linkUp)

/-- Bring-up waits for the latch to be set for 1 s. -/
def restartWaits (s : State) : Bool := s.life.stage == some 1 && decide (s.now < s.life.stageStart)

/-- SEAT_LATCHED_CLEAR (R511): with a main rail on it acts as input loss with CODE 0x0001, and bring-up restarts at
Stage 1 when the latch has been set for 1 s; in RECOVERY, which ends only as R501 says, the state stays. -/
def execSeatLatchedClear (s : State) : Host.Outcome State Fault Refusal :=
  occurs (s.power.aux && s.power.seated) (fun s =>
    let s1 := s.onPower (fun p => { p with seated := false })
    let waits := fun (x : State) => x.onPower (fun p => { p with seatWait := true })
    if s.power.rails then waits (mainLoss 1 s1)
    else if anyRail s then mainLoss 1 s1
    else if restartWaits s then waits ((s1.onLife (fun l => { l with stage := none })).enter .off)
    else s1) s

/-- SEAT_LATCHED_SET (R510, R511): the latch is set; where bring-up waits for it, Stage 1 begins 1 s later. -/
def execSeatLatchedSet (s : State) : Host.Outcome State Fault Refusal :=
  occurs (s.power.aux && !s.power.seated) (fun s =>
    let s1 := s.onPower (fun p => { p with seated := true, seatSince := s.now, seatWait := false })
    if s.power.seatWait ∧ s.power.input ∧ s.life.stage.isNone then enterStage 1 (s.now + 10 ^ 9) s1 else s1) s

/-- STBY12_SENSE_CHANGE (R509). -/
def execStby12SenseChange (level : Bool) (s : State) : Host.Outcome State Fault Refusal :=
  occurs s.power.aux (fun s => s.onPower (fun p => { p with stby12 := level })) s

/-! ### The auxiliary supply (R370, R433, R457) -/

/-- The power train without the auxiliary supply: the samples and the governor's values are lost; the input, the charge
of the hold-up store and the stored halt cause stay. -/
def darkAux (p : Power) : Power :=
  { Power.reset with volts := p.volts, input := p.input, lost := p.lost, charge := p.charge, holdupMs := p.holdupMs,
                     stby12 := p.stby12, haltCause := p.haltCause, haltInjected := p.haltInjected,
                     excursions := p.excursions }

/-- The Warden without its supply: flash stays, retention memory and RAM are lost. -/
def darkWarden (w : Warden) : Warden :=
  { Warden.reset with stored := w.stored, otherStores := w.otherStores, storeVer := w.storeVer, otherHist := w.otherHist,
                      histFormat := w.histFormat, fieldOut := w.fieldOut, slotB := w.slotB, fwA := w.fwA, fwB := w.fwB,
                      secCounter := w.secCounter, revoked := w.revoked, fellBack := w.fellBack }

/-- The detectors without the Warden: the log and OD 60.002 are stored, everything else is lost. -/
def darkEvents (e : Events) : Events := { Events.reset with log := e.log, detCfg := e.detCfg }

/-- The life cycle without the Warden. -/
def darkLife (l : Life) : Life := { Life.reset with history := l.history, bringup := l.bringup, stateSince := l.stateSince }

/-- AUXILIARY_SUPPLY_LOSS (R433, R457): the main rails cannot stay on, and every recipe is lost with no completion. -/
def execAuxiliarySupplyLoss (s : State) : Host.Outcome State Fault Refusal :=
  occurs s.power.aux (fun s =>
    let s1 := restartCounts (clearFences (railsOff (loseRecipes s)))
    let s2 := (((s1.onPower darkAux).onWarden darkWarden).onEvents darkEvents).onLife darkLife
    let c := min s.warden.stored.cap Power.reset.inletLimit
    (((s2.onGate (fun _ => { Gate.reset with view := { View.reset with capCeiling := c } })).onPower (fun p => { p with
      ceiling := c })).onAgeing (fun a => { a with
        suspects := [], fullPosted := false, unstored := [], fusedFailed := [],
        replan := a.replan.map (fun x => if x = .overdue then x else .none) })).enter .off) s

/-! ### Restarts of the Warden (R433, R434, R494) -/

/-- The command that runs is rolled back before its commit point and recorded interrupted; a WRITE loses its answer,
and a flush that it waits for stops (R434). -/
def interruptCommand (s : State) : State :=
  match s.warden.run with
  | none => s
  | some o =>
    if ¬ o.exec ∧ s.gate.drains.any (fun d => d.kind == .disable) then s
    else if ¬ o.exec then
      let s1 := if s.flushing.isSome then (stopFlush s).1 else s
      s1.onWarden (fun w => { w with run := none })
    else if o.committed ∨ o.ending.isSome then s
    else
      let p := rollBack o s
      finishRun 3 0 p.2 p.1

/-- The Warden firmware restarts; three restarts of a set on trial within ten minutes are a failed start of part 0. -/
def restartWarden (det : Nat) (s : State) : State :=
  let times := s.now :: s.warden.restarts.filter (fun t => decide (s.now < t + tenMinutes))
  let s1 := (loseRam (interruptCommand s)).onWarden (fun w => { w with restarts := times, restartDet := some det })
  if onTrial s ∧ 3 ≤ times.length then
    trialFails 1 wardenUnit [bit s.warden.slotB, 9, 1, 1]
      (wpost det wardenUnit 0 [] (s1.onWarden (fun w => { w with restarts := [], restartDet := none })))
  else s1

/-- LOCKSTEP_MISMATCH (R433). -/
def execLockstepMismatch (s : State) : Host.Outcome State Fault Refusal :=
  occurs (s.power.aux && s.warden.up) (restartWarden 0xA00) s

/-- WARDEN_WATCHDOG_EXPIRY (R433). -/
def execWardenWatchdogExpiry (s : State) : Host.Outcome State Fault Refusal :=
  occurs (s.power.aux && s.warden.up) (restartWarden 0xA01) s

/-- WARDEN_RESTART_COMPLETE (R433, R434): the Warden serves again, and the detector of the restart posts. -/
def execWardenRestartComplete (s : State) : Host.Outcome State Fault Refusal :=
  occurs (s.power.aux && s.warden.restartDet.isSome && !s.warden.up && s.life.stage != some 0 && s.life.stage != some 1)
    (fun s => postRestart (s.onWarden (fun w => { w with up := true }))) s

/-- PLCA_BEACON_LOSS (R435): CSMA/CD, and 0xA20 once per episode. -/
def execPlcaBeaconLoss (s : State) : Host.Outcome State Fault Refusal :=
  occurs (s.power.aux && s.warden.up) (fun s =>
    absentEpisode 0xA20 wardenUnit (postEpisode true 0xA20 wardenUnit 0 [] (s.onWarden (fun w => { w with csma := true })))) s

end Sys2Proof.Machine
end

