-- ==== Sys2Proof/Machine/RiscvFp.lean ====
section
/-! DEFINITION. The scalar floating point of a helper core (R196, R198): F, D and Zfh with IEEE 754 subnormals and the
RISC-V canonical NaN, frm and fflags, as the RISC-V specification that R196 names defines them (PRESUMED, log entry
15). -/

namespace Sys2Proof.Machine

/-! ### Formats and registers -/

/-- The format of an encoding's fmt field: 0 single, 1 double, 2 half. -/
def fpFormat : Nat → Option Ieee
  | 0 => some f32
  | 1 => some f64
  | 2 => some f16
  | _ => none

/-- Bits of a format. -/
def Ieee.width (f : Ieee) : Nat := 1 + f.eb + f.mb

/-- The value bits of a NaN-boxed register; a value not boxed is the canonical NaN. -/
def unbox (f : Ieee) (v : Nat) : Nat :=
  if v / 2 ^ f.width = 2 ^ (64 - f.width) - 1 then v % 2 ^ f.width else f.nanCode

/-- NaN-box a value. -/
def box (f : Ieee) (v : Nat) : Nat := v % 2 ^ f.width + (2 ^ 64 - 2 ^ f.width)

/-- Read an f register as a format. -/
def Core.rf (c : Core) (f : Ieee) (i : Nat) : Nat := unbox f (nth c.f i 0).toNat

/-- Write an f register as a format. -/
def Core.wf (c : Core) (f : Ieee) (i v : Nat) : Core := { c with f := c.f.set i (BitVec.ofNat 64 (box f v)) }

/-- Raise exception flags. -/
def Core.raise (c : Core) (fl : Nat) : Core := { c with fflags := Nat.lor c.fflags fl }

/-- A signalling NaN. -/
def isSnan (f : Ieee) (b : Nat) : Bool :=
  f.decode b == .nan && !bitOf b (f.mb - 1)

/-- Invalid where an operand is a signalling NaN. -/
def snanFlag (f : Ieee) (l : List Nat) : Nat := if l.any (isSnan f) then 16 else 0

/-- Invalid where a NaN comes of operands that are none. -/
def newNan (l : List Val) (r : Val) : Nat := if r = .nan ∧ l.all (· ≠ .nan) then 16 else 0

/-! ### Arithmetic -/

/-- A sum with the sign of an exact zero under a rounding mode. -/
def addRm (rm : Nat) (a b : Val) : Val :=
  match a.add b with
  | .fin _ 0 _ =>
    match a, b with
    | .fin s 0 _, .fin t 0 _ => if s = t then .fin s 0 0 else .fin (rm == 2) 0 0
    | _, _ => .fin (rm == 2) 0 0
  | v => v

/-- Round a result, with its flags and those already found. -/
def fpRound (f : Ieee) (rm fl : Nat) (v : Val) : Nat × Nat :=
  let p := f.round rm v
  (p.1, Nat.lor fl p.2)

def fpAdd (f : Ieee) (rm a b : Nat) : Nat × Nat :=
  let r := addRm rm (f.decode a) (f.decode b)
  fpRound f rm (Nat.lor (snanFlag f [a, b]) (newNan [f.decode a, f.decode b] r)) r

def fpNegBits (f : Ieee) (a : Nat) : Nat := if bitOf a (f.width - 1) then a - f.signOf else a + f.signOf

/-- Subtraction: a NaN operand keeps its kind. -/
def fpSub (f : Ieee) (rm a b : Nat) : Nat × Nat := fpAdd f rm a (fpNegBits f b)

def fpMul (f : Ieee) (rm a b : Nat) : Nat × Nat :=
  let r := (f.decode a).mul (f.decode b)
  fpRound f rm (Nat.lor (snanFlag f [a, b]) (newNan [f.decode a, f.decode b] r)) r

def fpDiv (f : Ieee) (rm a b : Nat) : Nat × Nat :=
  let x := f.decode a
  let y := f.decode b
  let r := Val.quo 64 x y
  let dz := if x.isFinite && !x.isZero && y.isZero then 8 else 0
  fpRound f rm (Nat.lor dz (Nat.lor (snanFlag f [a, b]) (newNan [x, y] r))) r

def fpSqrt (f : Ieee) (rm a : Nat) : Nat × Nat :=
  let r := Val.root 64 (f.decode a)
  fpRound f rm (Nat.lor (snanFlag f [a]) (newNan [f.decode a] r)) r

/-- a × b + c, rounded once; infinity times zero is invalid whatever c is. -/
def fpFma (f : Ieee) (rm a b c : Nat) : Nat × Nat :=
  let x := f.decode a
  let y := f.decode b
  let z := f.decode c
  let p := x.mul y
  let r := addRm rm p z
  let inv := if p = .nan ∧ x ≠ .nan ∧ y ≠ .nan then 16 else newNan [x, y, z] r
  fpRound f rm (Nat.lor (snanFlag f [a, b, c]) inv) r

/-- minimum and maximum: a NaN yields the other operand, −0 is below +0. -/
def fpMinMax (f : Ieee) (isMax : Bool) (a b : Nat) : Nat × Nat :=
  let x := f.decode a
  let y := f.decode b
  let fl := snanFlag f [a, b]
  if x = .nan ∧ y = .nan then (f.nanCode, fl)
  else if x = .nan then (b, fl)
  else if y = .nan then (a, fl)
  else
    let less := x.lt y || (x.eqv y && x.signBit && !y.signBit)
    (if less != isMax then a else b, fl)

/-- Comparisons: 0 ≤, 1 <, 2 =; the ordered ones are invalid on any NaN. -/
def fpCmp (f : Ieee) (k a b : Nat) : Nat × Nat :=
  let x := f.decode a
  let y := f.decode b
  if x = .nan ∨ y = .nan then (0, if k = 2 then snanFlag f [a, b] else 16)
  else (bit (match k with
    | 0 => x.le y
    | 1 => x.lt y
    | _ => x.eqv y), 0)

/-- Sign injection. -/
def fpSgnj (f : Ieee) (k a b : Nat) : Nat :=
  let s := bitOf b (f.width - 1)
  let t := match k with
    | 0 => s
    | 1 => !s
    | _ => s != bitOf a (f.width - 1)
  a % f.signOf + bit t * f.signOf

/-- FCLASS. -/
def fpClass (f : Ieee) (a : Nat) : Nat :=
  match f.decode a with
  | .nan => if isSnan f a then 2 ^ 8 else 2 ^ 9
  | .inf s => if s then 1 else 2 ^ 7
  | .fin s m _ =>
    let sub := decide (a % f.signOf < 2 ^ f.mb)
    if m = 0 then (if s then 2 ^ 3 else 2 ^ 4)
    else if sub then (if s then 2 ^ 2 else 2 ^ 5)
    else if s then 2 else 2 ^ 6

/-- Round to an integer between lo and hi; out of range saturates and is invalid, a NaN is the largest. -/
def fpToInt (rm : Nat) (lo hi : Int) (v : Val) : Int × Nat :=
  match v with
  | .nan => (hi, 16)
  | .inf s => (if s then lo else hi, 16)
  | .fin s m e =>
    let u := units m e 0
    let n := roundUnits rm s u.1 u.2
    let x : Int := if s then -(n : Int) else n
    if x < lo then (lo, 16) else if hi < x then (hi, 16) else (x, if u.2 = 0 then 0 else 1)

/-- Range of an integer type: w, wu, l, lu. -/
def intRange : Nat → Int × Int
  | 0 => (-(2 ^ 31), 2 ^ 31 - 1)
  | 1 => (0, 2 ^ 32 - 1)
  | 2 => (-(2 ^ 63), 2 ^ 63 - 1)
  | _ => (0, 2 ^ 64 - 1)

/-- The integer that a register holds as a type. -/
def intOf (t a : Nat) : Int :=
  match t with
  | 0 => toS 32 a
  | 1 => (a % 2 ^ 32 : Nat)
  | 2 => toS 64 a
  | _ => (a : Int)

/-! ### Instructions -/

/-- The rounding mode of an instruction; none is reserved. -/
def rmOf (c : Core) (k : Nat) : Option Nat :=
  let r := if k = 7 then c.frm else k
  if r < 5 then some r else none

/-- Write an f register and the flags. -/
def fpWrote (c : Core) (s : State) (f : Ieee) (len rd : Nat) (p : Nat × Nat) : IRes :=
  .next (((c.wf f rd p.1).raise p.2).jump (c.pc.toNat + len)) s 1

/-- Write an x register and the flags. -/
def fpWroteX (c : Core) (s : State) (len rd v fl : Nat) : IRes :=
  .next (((c.wx rd v).raise fl).jump (c.pc.toNat + len)) s 1

/-- Conversion between formats. -/
def fpCvt (g f : Ieee) (rm a : Nat) : Nat × Nat := fpRound f rm (snanFlag g [a]) (g.decode a)

/-- OP-FP. -/
def execOpFp (c : Core) (s : State) (w len : Nat) : IRes :=
  match fpFormat (bitsOf w 26 25) with
  | none => illegal w
  | some f =>
    let f5 := bitsOf w 31 27
    let f3 := fF3 w
    let rd := fRd w
    let rs2 := fRs2 w
    let a := c.rf f (fRs1 w)
    let b := c.rf f rs2
    let arith := fun (op : Nat → Nat × Nat) => match rmOf c f3 with
      | some rm => fpWrote c s f len rd (op rm)
      | none => illegal w
    match f5 with
    | 0x00 => arith (fun rm => fpAdd f rm a b)
    | 0x01 => arith (fun rm => fpSub f rm a b)
    | 0x02 => arith (fun rm => fpMul f rm a b)
    | 0x03 => arith (fun rm => fpDiv f rm a b)
    | 0x0B => if rs2 = 0 then arith (fun rm => fpSqrt f rm a) else illegal w
    | 0x04 => if f3 < 3 then fpWrote c s f len rd (fpSgnj f f3 a b, 0) else illegal w
    | 0x05 => if f3 < 2 then fpWrote c s f len rd (fpMinMax f (f3 == 1) a b) else illegal w
    | 0x14 => if f3 < 3 then
        let p := fpCmp f f3 a b
        fpWroteX c s len rd p.1 p.2 else illegal w
    | 0x08 =>
      match fpFormat rs2 with
      | some g => if g = f then illegal w else arith (fun rm => fpCvt g f rm (c.rf g (fRs1 w)))
      | none => illegal w
    | 0x18 =>
      if 3 < rs2 then illegal w
      else match rmOf c f3 with
        | none => illegal w
        | some rm =>
          let r := intRange rs2
          let p := fpToInt rm r.1 r.2 (f.decode a)
          fpWroteX c s len rd (if rs2 < 2 then sx 32 (ofS 32 p.1) else ofS 64 p.1) p.2
    | 0x1A =>
      if 3 < rs2 then illegal w
      else arith (fun rm => f.round rm (.ofInt (intOf rs2 (c.rx (fRs1 w)))))
    | 0x1C =>
      if rs2 ≠ 0 then illegal w
      else if f3 = 0 then fpWroteX c s len rd (sx f.width (nth c.f (fRs1 w) 0).toNat) 0
      else if f3 = 1 then fpWroteX c s len rd (fpClass f a) 0
      else illegal w
    | 0x1E => if rs2 = 0 ∧ f3 = 0 then fpWrote c s f len rd (c.rx (fRs1 w), 0) else illegal w
    | _ => illegal w

/-- Fused multiply-add: 0x43 FMADD, 0x47 FMSUB, 0x4B FNMSUB, 0x4F FNMADD. -/
def execFmaInstr (c : Core) (s : State) (w len : Nat) : IRes :=
  match fpFormat (bitsOf w 26 25), rmOf c (fF3 w) with
  | some f, some rm =>
    let a := c.rf f (fRs1 w)
    let b := c.rf f (fRs2 w)
    let z := c.rf f (bitsOf w 31 27)
    let a1 := if fOp w = 0x4B ∨ fOp w = 0x4F then fpNegBits f a else a
    let z1 := if fOp w = 0x47 ∨ fOp w = 0x4F then fpNegBits f z else z
    fpWrote c s f len (fRd w) (fpFma f rm a1 b z1)
  | _, _ => illegal w

/-- The format of an FP load or store by width field: 1 half, 2 single, 3 double. -/
def memFormat : Nat → Option Ieee
  | 1 => some f16
  | 2 => some f32
  | 3 => some f64
  | _ => none

/-- FP loads. -/
def execFpLoad (c : Core) (s : State) (w len : Nat) : Option IRes :=
  (memFormat (fF3 w)).map (fun f =>
    match loadScalar s c (m64 (c.rx (fRs1 w) + immI w)) (f.width / 8) with
    | .error (code, x) => .trap code 0 x
    | .ok v => .next ((c.wf f (fRd w) v).jump (c.pc.toNat + len)) s 1)

/-- FP stores. -/
def execFpStore (c : Core) (s : State) (w len : Nat) : Option IRes :=
  (memFormat (fF3 w)).map (fun f =>
    match storeScalar c (m64 (c.rx (fRs1 w) + immS w)) (f.width / 8) ((nth c.f (fRs2 w) 0).toNat % 2 ^ f.width) s with
    | .error (code, x) => .trap code 0 x
    | .ok s1 => .next ((withResv c s1).jump (c.pc.toNat + len)) s1 1)

/-- The floating-point instructions by opcode; none is not one of them. -/
def execFp (c : Core) (s : State) (w len : Nat) : Option IRes :=
  match fOp w with
  | 0x07 => execFpLoad c s w len
  | 0x27 => execFpStore c s w len
  | 0x43 => some (execFmaInstr c s w len)
  | 0x47 => some (execFmaInstr c s w len)
  | 0x4B => some (execFmaInstr c s w len)
  | 0x4F => some (execFmaInstr c s w len)
  | 0x53 => some (execOpFp c s w len)
  | _ => none

end Sys2Proof.Machine
end

