-- ==== Sys2Proof/Machine/RiscvV.lean ====
section
/-! DEFINITION. The vector instructions of a helper core (R196): RVV 1.0 with VLEN 512 and ELEN 64, Zvfh, Zvfbfmin and
Zvfbfwma, as the RISC-V specification that R196 names defines them (PRESUMED, log entry 15). -/

namespace Sys2Proof.Machine

/-! ### Elements and configuration -/

/-- Element i of e bits of the group at register r. -/
def vgetE (v : List (BitVec 512)) (r e i : Nat) : Nat :=
  (nth v (r + i * e / 512) 0).toNat / 2 ^ (i * e % 512) % 2 ^ e

/-- Set an element. -/
def vsetE (v : List (BitVec 512)) (r e i x : Nat) : List (BitVec 512) :=
  modAt v (r + i * e / 512) (fun q =>
    let sh := i * e % 512
    let old := q.toNat
    BitVec.ofNat 512 (old - old / 2 ^ sh % 2 ^ e * 2 ^ sh + x % 2 ^ e * 2 ^ sh))

/-- Fields of vtype. -/
def vsew (t : Nat) : Nat := 8 * 2 ^ bitsOf t 5 3
/-- LMUL in eighths. -/
def vlmul8 (t : Nat) : Nat := match bitsOf t 2 0 with
  | 0 => 8
  | 1 => 16
  | 2 => 32
  | 3 => 64
  | 5 => 1
  | 6 => 2
  | 7 => 4
  | _ => 0
def Core.vill (c : Core) : Bool := bitOf c.vtype.toNat 63
def Core.sew (c : Core) : Nat := vsew c.vtype.toNat
def Core.lmul8 (c : Core) : Nat := vlmul8 c.vtype.toNat
def Core.vta (c : Core) : Bool := bitOf c.vtype.toNat 6
def Core.vma (c : Core) : Bool := bitOf c.vtype.toNat 7

/-- A supported vtype: SEW up to 64, a defined LMUL with SEW ≤ LMUL × ELEN, reserved bits zero. -/
def vtypeOk (t : Nat) : Bool :=
  decide (bitsOf t 5 3 < 4) && vlmul8 t != 0 && decide (vsew t ≤ 8 * vlmul8 t) && decide (t < 256)

/-- VLMAX. -/
def vlmax (t : Nat) : Nat := vlmul8 t * 512 / (8 * vsew t)

/-- Mask bit i of v0. -/
def Core.vmask (c : Core) (i : Nat) : Bool := bitOf (nth c.v 0 0).toNat i

/-- A register group of eighths m is aligned and within the file. -/
def groupOk (r m8 : Nat) : Bool := let n := max 1 (m8 / 8)
  r % n == 0 && decide (r + n ≤ 32) && decide (1 ≤ m8) && decide (m8 ≤ 64)

/-- Elements of a group, at least one register's. -/
def groupLen (e m8 : Nat) : Nat := max 1 (m8 / 8) * (512 / e)

/-- Set vl and vtype. -/
def vsetCfg (c : Core) (t avl : Nat) (keep : Bool) : Core :=
  if vtypeOk t then
    { c with vtype := BitVec.ofNat 64 t, vl := if keep then min c.vl (vlmax t) else min avl (vlmax t), vstart := 0 }
  else { c with vtype := BitVec.ofNat 64 (2 ^ 63), vl := 0, vstart := 0 }

/-- VSETVLI, VSETIVLI, VSETVL. -/
def execVset (c : Core) (s : State) (w len : Nat) : IRes :=
  let rd := fRd w
  let rs1 := fRs1 w
  let out := fun (k : Core) => wrote k s len rd k.vl
  let avl := if rs1 ≠ 0 then c.rx rs1 else 2 ^ 64 - 1
  if ¬ bitOf w 31 then out (vsetCfg c (bitsOf w 30 20) avl (rs1 == 0 && rd == 0))
  else if bitOf w 30 then out (vsetCfg c (bitsOf w 29 20) rs1 false)
  else if bitsOf w 30 25 = 0 then out (vsetCfg c (c.rx (fRs2 w)) avl (rs1 == 0 && rd == 0))
  else illegal w

/-! ### Writing results -/

/-- Write the active elements of a destination by a function that gives the value and the flags; inactive and tail
elements that are agnostic are either kept or all ones, a free choice (log entry 15). -/
def vWrite (c : Core) (s : State) (vd e m8 : Nat) (vm : Bool) (f : Nat → Nat × Nat) : List (BitVec 512) × Nat :=
  let ag := Config.freeBool s.free
  if c.vl ≤ c.vstart then (c.v, 0)
  else (List.range (groupLen e m8)).foldl (fun acc i =>
    if i < c.vstart then acc
    else if i < c.vl then
      (if vm || c.vmask i then (vsetE acc.1 vd e i (f i).1, Nat.lor acc.2 (f i).2)
       else if c.vma && ag then (vsetE acc.1 vd e i (2 ^ e - 1), acc.2) else acc)
    else if c.vta && ag then (vsetE acc.1 vd e i (2 ^ e - 1), acc.2) else acc) (c.v, 0)

/-- The end of a vector instruction: flags 0 to 4 to fflags, bit 5 to vxsat, vstart zero. -/
def vDone (c : Core) (s : State) (len : Nat) (p : List (BitVec 512) × Nat) : IRes :=
  .next ({ c with v := p.1, fflags := Nat.lor c.fflags (p.2 % 32), vxsat := c.vxsat || bitOf p.2 5, vstart := 0 }.jump
    (c.pc.toNat + len)) s (max 1 (c.lmul8 / 8))

/-- Write mask bits: the active elements below vl; the tail is agnostic. -/
def vWriteMask (c : Core) (s : State) (vd : Nat) (vm : Bool) (f : Nat → Bool × Nat) : List (BitVec 512) × Nat :=
  let ag := Config.freeBool s.free
  if c.vl ≤ c.vstart then (c.v, 0)
  else (List.range 512).foldl (fun acc i =>
    if i < c.vstart then acc
    else if i < c.vl then
      (if vm || c.vmask i then (vsetE acc.1 vd 1 i (bit (f i).1), Nat.lor acc.2 (f i).2)
       else if c.vma && ag then (vsetE acc.1 vd 1 i 1, acc.2) else acc)
    else if ag then (vsetE acc.1 vd 1 i 1, acc.2) else acc) (c.v, 0)

/-- Active element indices. -/
def Core.active (c : Core) (vm : Bool) : List Nat :=
  (List.range c.vl).filter (fun i => decide (c.vstart ≤ i) && (vm || c.vmask i))

/-! ### Fixed point -/

/-- Round v / 2^d under vxrm. -/
def vxRound (rm d : Nat) (v : Int) : Int :=
  if d = 0 then v
  else
    let q := v / (2 ^ d : Nat)
    let r := (v % (2 ^ d : Nat)).toNat
    let half := 2 ^ (d - 1)
    let up := match rm with
      | 0 => decide (half ≤ r)
      | 1 => decide (half < r) || (r == half && q % 2 == 1)
      | 2 => false
      | _ => r != 0 && q % 2 == 0
    if up then q + 1 else q

/-- Clip to a signed or unsigned range of e bits, with the saturation flag. -/
def vClip (signed : Bool) (e : Nat) (v : Int) : Nat × Nat :=
  let lo : Int := if signed then -(2 ^ (e - 1) : Nat) else 0
  let hi : Int := if signed then (2 ^ (e - 1) : Nat) - 1 else (2 ^ e : Nat) - 1
  if v < lo then (ofS e lo, 32) else if hi < v then (ofS e hi, 32) else (ofS e v, 0)

/-! ### Integer element operations -/

/-- Signed or unsigned value of e bits. -/
def vS (e a : Nat) : Int := toS e a
def vU (e a : Nat) : Int := (a % 2 ^ e : Nat)

/-- Single-width integer operations of OPIVV, OPIVX and OPIVI: a is vs2, b is vs1, x or the immediate. -/
def vIntOp (c : Core) (f6 e a b : Nat) : Option (Nat × Nat) :=
  let A := vS e a
  let B := vS e b
  let sh := b % e
  match f6 with
  | 0x00 => some (a + b, 0)
  | 0x02 => some (ofS e (A - B), 0)
  | 0x03 => some (ofS e (B - A), 0)
  | 0x04 => some (min a (b % 2 ^ e), 0)
  | 0x05 => some (if A < B then a else b, 0)
  | 0x06 => some (max a (b % 2 ^ e), 0)
  | 0x07 => some (if A < B then b else a, 0)
  | 0x09 => some (Nat.land a (b % 2 ^ e), 0)
  | 0x0A => some (Nat.lor a (b % 2 ^ e), 0)
  | 0x0B => some (Nat.xor a (b % 2 ^ e), 0)
  | 0x20 => some (vClip false e (vU e a + vU e b))
  | 0x21 => some (vClip true e (A + B))
  | 0x22 => some (vClip false e (vU e a - vU e b))
  | 0x23 => some (vClip true e (A - B))
  | 0x25 => some (a * 2 ^ sh, 0)
  | 0x27 => some (vClip true e (vxRound c.vxrm (e - 1) (A * B)))
  | 0x28 => some (a / 2 ^ sh, 0)
  | 0x29 => some (sraN e a sh, 0)
  | 0x2A => some (ofS e (vxRound c.vxrm sh (vU e a)), 0)
  | 0x2B => some (ofS e (vxRound c.vxrm sh A), 0)
  | _ => none

/-- Compares of OPIVV, OPIVX and OPIVI. -/
def vCmpOp (f6 e a b : Nat) : Option Bool :=
  let A := vS e a
  let B := vS e b
  let u := b % 2 ^ e
  match f6 with
  | 0x18 => some (a == u)
  | 0x19 => some (a != u)
  | 0x1A => some (decide (a < u))
  | 0x1B => some (decide (A < B))
  | 0x1C => some (decide (a ≤ u))
  | 0x1D => some (decide (A ≤ B))
  | 0x1E => some (decide (u < a))
  | 0x1F => some (decide (B < A))
  | _ => none

/-- Narrowing operations: a is of 2e bits. -/
def vNarrowOp (c : Core) (f6 e a b : Nat) : Option (Nat × Nat) :=
  let sh := b % (2 * e)
  match f6 with
  | 0x2C => some (a / 2 ^ sh, 0)
  | 0x2D => some (sraN (2 * e) a sh, 0)
  | 0x2E => some (vClip false e (vxRound c.vxrm sh (vU (2 * e) a)))
  | 0x2F => some (vClip true e (vxRound c.vxrm sh (vS (2 * e) a)))
  | _ => none

/-- Single-width operations of OPMVV and OPMVX; d is the old destination. -/
def vMulOp (c : Core) (f6 e a b d : Nat) : Option Nat :=
  let A := vS e a
  let B := vS e b
  let u := b % 2 ^ e
  match f6 with
  | 0x08 => some (ofS e (vxRound c.vxrm 1 (vU e a + vU e b)))
  | 0x09 => some (ofS e (vxRound c.vxrm 1 (A + B)))
  | 0x0A => some (ofS e (vxRound c.vxrm 1 (vU e a - vU e b)))
  | 0x0B => some (ofS e (vxRound c.vxrm 1 (A - B)))
  | 0x20 => some (divU e a b).1
  | 0x21 => some (divS e a b).1
  | 0x22 => some (divU e a b).2
  | 0x23 => some (divS e a b).2
  | 0x24 => some (a * u / 2 ^ e)
  | 0x25 => some (a * u)
  | 0x26 => some (ofS (2 * e) (A * vU e b) / 2 ^ e)
  | 0x27 => some (ofS (2 * e) (A * B) / 2 ^ e)
  | 0x29 => some (ofS e (B * vS e d + A))
  | 0x2B => some (ofS e (A - B * vS e d))
  | 0x2D => some (ofS e (A * B + vS e d))
  | 0x2F => some (ofS e (vS e d - A * B))
  | _ => none

/-- Widening operations of OPMVV and OPMVX: a is vs2 of e bits, or of 2e bits for the .w forms; d the old
destination. -/
def vWideOp (f6 e a b d : Nat) : Option Nat :=
  let n := 2 * e
  let A := vS e a
  let B := vS e b
  let au := vU e a
  let bu := vU e b
  match f6 with
  | 0x30 => some (ofS n (au + bu))
  | 0x31 => some (ofS n (A + B))
  | 0x32 => some (ofS n (au - bu))
  | 0x33 => some (ofS n (A - B))
  | 0x34 => some (ofS n (vU n a + bu))
  | 0x35 => some (ofS n (vU n a + B))
  | 0x36 => some (ofS n (vU n a - bu))
  | 0x37 => some (ofS n (vU n a - B))
  | 0x38 => some (ofS n (au * bu))
  | 0x3A => some (ofS n (A * bu))
  | 0x3B => some (ofS n (A * B))
  | 0x3C => some (ofS n (au * bu + vU n d))
  | 0x3D => some (ofS n (A * B + vU n d))
  | 0x3E => some (ofS n (A * bu + vU n d))
  | 0x3F => some (ofS n (au * B + vU n d))
  | _ => none

/-- Reductions: the accumulator and one element. -/
def vRedOp (f6 e acc a : Nat) : Option Nat :=
  match f6 with
  | 0x00 => some ((acc + a) % 2 ^ e)
  | 0x01 => some (Nat.land acc a)
  | 0x02 => some (Nat.lor acc a)
  | 0x03 => some (Nat.xor acc a)
  | 0x04 => some (min acc a)
  | 0x05 => some (if vS e acc < vS e a then acc else a)
  | 0x06 => some (max acc a)
  | 0x07 => some (if vS e acc < vS e a then a else acc)
  | _ => none

/-- Write element 0 of a destination register and treat the rest as tail, where vl is not zero. -/
def vScalarDest (c : Core) (s : State) (vd e x fl : Nat) : List (BitVec 512) × Nat :=
  let ag := Config.freeBool s.free && c.vta
  if c.vl ≤ c.vstart then (c.v, 0)
  else ((List.range (512 / e)).foldl (fun v i =>
    if i = 0 then vsetE v vd e 0 x else if ag then vsetE v vd e i (2 ^ e - 1) else v) c.v, fl)

/-! ### OPIVV, OPIVX, OPIVI -/

/-- The second operand of an element: a vector, a scalar, an immediate. -/
def vOpB (c : Core) (w e i : Nat) : Nat :=
  match fF3 w with
  | 0 => vgetE c.v (fRs1 w) e i
  | 2 => vgetE c.v (fRs1 w) e i
  | 3 => sx 5 (fRs1 w) % 2 ^ e
  | _ => c.rx (fRs1 w) % 2 ^ e

/-- The unsigned immediate or scalar of slides and gathers. -/
def vOffset (c : Core) (w : Nat) : Nat := if fF3 w = 3 then fRs1 w else c.rx (fRs1 w)

/-- Adds and subtracts with carry: the sum's value and carry. -/
def vCarryOp (f6 e a b ci : Nat) : Nat × Bool :=
  if f6 = 0x10 ∨ f6 = 0x11 then (a + b + ci, decide (2 ^ e ≤ a + b + ci))
  else (a + 2 ^ e - (b + ci) % 2 ^ (e + 1), decide (a < b + ci))

/-- The integer formats. -/
def execOpi (c : Core) (s : State) (w len : Nat) : IRes :=
  let f6 := bitsOf w 31 26
  let vm := bitOf w 25
  let vd := fRd w
  let vs2 := fRs2 w
  let e := c.sew
  let m := c.lmul8
  let g1 := fF3 w != 0 || groupOk (fRs1 w) (if f6 = 0x0E then m * 16 / e else m)
  let ok := !c.vill && groupOk vd m && groupOk vs2 m && g1
  let done := fun (f : Nat → Nat × Nat) => vDone c s len (vWrite c s vd e m vm f)
  let a := fun i => vgetE c.v vs2 e i
  let n := vlmax c.vtype.toNat
  if c.vill then illegal w
  else if f6 = 0x27 ∧ fF3 w = 3 then
    let k := fRs1 w + 1
    if (k = 1 ∨ k = 2 ∨ k = 4 ∨ k = 8) ∧ vd % k = 0 ∧ vs2 % k = 0 ∧ vm then
      .next ({ c with v := (List.range k).foldl (fun v i => v.set (vd + i) (nth c.v (vs2 + i) 0)) c.v, vstart := 0 }.jump
        (c.pc.toNat + len)) s k
    else illegal w
  else if 0x18 ≤ f6 ∧ f6 ≤ 0x1F then
    if groupOk vs2 m && g1 then
      vDone c s len (vWriteMask c s vd vm (fun i => ((vCmpOp f6 e (a i) (vOpB c w e i)).getD false, 0)))
    else illegal w
  else if f6 = 0x11 ∨ f6 = 0x13 then
    vDone c s len (vWriteMask c s vd true (fun i =>
      ((vCarryOp f6 e (a i) (vOpB c w e i) (if vm then 0 else bit (c.vmask i))).2, 0)))
  else if f6 = 0x10 ∨ f6 = 0x12 then
    if vm ∨ vd = 0 ∨ ¬ ok then illegal w
    else vDone c s len (vWrite c s vd e m true (fun i => ((vCarryOp f6 e (a i) (vOpB c w e i) (bit (c.vmask i))).1, 0)))
  else if f6 = 0x17 then
    if ¬ (groupOk vd m && g1) || (vm && vs2 != 0) then illegal w
    else vDone c s len (vWrite c s vd e m true (fun i =>
      (if vm || c.vmask i then vOpB c w e i else a i, 0)))
  else if 0x2C ≤ f6 ∧ f6 ≤ 0x2F then
    if groupOk vd m && groupOk vs2 (2 * m) && g1 && decide (2 * e ≤ 64) && (vm || vd != 0) then
      done (fun i => (vNarrowOp c f6 e (vgetE c.v vs2 (2 * e) i) (if fF3 w = 3 then fRs1 w else vOpB c w e i)).getD (0, 0))
    else illegal w
  else if f6 = 0x30 ∨ f6 = 0x31 then
    if fF3 w = 0 && groupOk vs2 m && decide (2 * e ≤ 64) && c.vstart == 0 then
      let acc := (c.active vm).foldl (fun t i =>
        (t + (if f6 = 0x30 then a i else ofS (2 * e) (vS e (a i)))) % 2 ^ (2 * e)) (vgetE c.v (fRs1 w) (2 * e) 0)
      vDone c s len (vScalarDest c s vd (2 * e) acc 0)
    else illegal w
  else if ¬ ok || (!vm && vd == 0) then illegal w
  else match f6, fF3 w with
    | 0x0C, 0 => done (fun i => let k := vgetE c.v (fRs1 w) e i
                                (if k < n then a k else 0, 0))
    | 0x0C, _ => done (fun _ => (if vOffset c w < n then a (vOffset c w) else 0, 0))
    | 0x0E, 0 => done (fun i => let k := vgetE c.v (fRs1 w) 16 i
                                (if k < n then a k else 0, 0))
    | 0x0E, _ => done (fun i => (if vOffset c w ≤ i then a (i - vOffset c w) else vgetE c.v vd e i, 0))
    | 0x0F, 0 => illegal w
    | 0x0F, _ => done (fun i => (if i + vOffset c w < n then a (i + vOffset c w) else 0, 0))
    | 0x02, 3 => illegal w
    | 0x03, 0 => illegal w
    | _, f3 =>
      let b := fun i => if f3 = 3 ∧ (f6 = 0x25 ∨ (0x28 ≤ f6 ∧ f6 ≤ 0x2B)) then fRs1 w else vOpB c w e i
      if (vIntOp c f6 e 0 0).isSome then done (fun i => (vIntOp c f6 e (a i) (b i)).getD (0, 0)) else illegal w

/-! ### OPMVV, OPMVX -/

/-- Mask-register logic. -/
def vMaskOp (f6 : Nat) (a b : Bool) : Bool :=
  match f6 with
  | 0x18 => a && !b
  | 0x19 => a && b
  | 0x1A => a || b
  | 0x1B => a != b
  | 0x1C => a || !b
  | 0x1D => !(a && b)
  | 0x1E => !(a || b)
  | _ => a == b

/-- Bit i of a mask register. -/
def vBit (c : Core) (r i : Nat) : Bool := vgetE c.v r 1 i == 1

/-- The unary mask operations: set-before-first, set-only-first, set-including-first, iota, index. -/
def execVmunary (c : Core) (s : State) (w len : Nat) (vm : Bool) : IRes :=
  let vd := fRd w
  let vs2 := fRs2 w
  let first := (c.active vm).find? (fun i => vBit c vs2 i)
  let e := c.sew
  let at_ := fun (i : Nat) => match first with
    | some k => (decide (i < k), i == k)
    | none => (true, false)
  if c.vstart ≠ 0 ∧ fRs1 w ≠ 17 then illegal w
  else match fRs1 w with
  | 1 => vDone c s len (vWriteMask c s vd vm (fun i => ((at_ i).1, 0)))
  | 2 => vDone c s len (vWriteMask c s vd vm (fun i => ((at_ i).2, 0)))
  | 3 => vDone c s len (vWriteMask c s vd vm (fun i => ((at_ i).1 || (at_ i).2, 0)))
  | 16 => if groupOk vd c.lmul8 && (vm || vd != 0) then
      vDone c s len (vWrite c s vd e c.lmul8 vm (fun i =>
        (((c.active vm).filter (fun k => decide (k < i) && vBit c vs2 k)).length, 0)))
    else illegal w
  | 17 => if groupOk vd c.lmul8 && (vm || vd != 0) && vs2 == 0 then
      vDone c s len (vWrite c s vd e c.lmul8 vm (fun i => (i, 0)))
    else illegal w
  | _ => illegal w

/-- vmv.x.s, vcpop.m, vfirst.m, vmv.s.x. -/
def execVxunary (c : Core) (s : State) (w len : Nat) (vm : Bool) : IRes :=
  let e := c.sew
  if fF3 w = 6 then
    (if fRs2 w = 0 && vm then vDone c s len (vScalarDest c s (fRd w) e (c.rx (fRs1 w)) 0) else illegal w)
  else match fRs1 w with
    | 0 => if vm then wrote { c with vstart := 0 } s len (fRd w) (sx e (vgetE c.v (fRs2 w) e 0)) else illegal w
    | 16 => if c.vstart ≠ 0 then illegal w else wrote { c with vstart := 0 } s len (fRd w) ((c.active vm).filter (vBit c (fRs2 w))).length
    | 17 => if c.vstart ≠ 0 then illegal w else wrote { c with vstart := 0 } s len (fRd w) (match (c.active vm).find? (vBit c (fRs2 w)) with
        | some i => i
        | none => 2 ^ 64 - 1)
    | _ => illegal w

/-- vzext and vsext. -/
def execVext (c : Core) (s : State) (w len : Nat) (vm : Bool) : IRes :=
  let e := c.sew
  let k := fRs1 w
  let d := if k = 2 ∨ k = 3 then 8 else if k = 4 ∨ k = 5 then 4 else if k = 6 ∨ k = 7 then 2 else 0
  if d = 0 ∨ e / d < 8 ∨ ¬ (groupOk (fRd w) c.lmul8 && groupOk (fRs2 w) (c.lmul8 / d)) ∨ (¬ vm ∧ fRd w = 0) then illegal w
  else vDone c s len (vWrite c s (fRd w) e c.lmul8 vm (fun i =>
    let x := vgetE c.v (fRs2 w) (e / d) i
    (if k % 2 = 1 then ofS e (vS (e / d) x) else x, 0)))

/-- vcompress. -/
def execVcompress (c : Core) (s : State) (w len : Nat) : IRes :=
  let e := c.sew
  let ids := (List.range c.vl).filter (vBit c (fRs1 w))
  if c.vstart ≠ 0 ∨ ¬ (groupOk (fRd w) c.lmul8 && groupOk (fRs2 w) c.lmul8) then illegal w
  else
    let ag := Config.freeBool s.free && c.vta
    let v := (List.range (groupLen e c.lmul8)).foldl (fun v i => match ids[i]? with
      | some k => vsetE v (fRd w) e i (vgetE c.v (fRs2 w) e k)
      | none => if ag && c.vl != 0 then vsetE v (fRd w) e i (2 ^ e - 1) else v) c.v
    vDone c s len (v, 0)

/-- The multiply formats. -/
def execOpm (c : Core) (s : State) (w len : Nat) : IRes :=
  let f6 := bitsOf w 31 26
  let vm := bitOf w 25
  let vd := fRd w
  let vs2 := fRs2 w
  let e := c.sew
  let m := c.lmul8
  let vv := fF3 w == 2
  let g1 := !vv || groupOk (fRs1 w) m
  let a := fun i => vgetE c.v vs2 e i
  let b := fun i => vOpB c w e i
  if c.vill then illegal w
  else if f6 < 8 then
    if vv && groupOk vs2 m && c.vstart == 0 then
      let acc := (c.active vm).foldl (fun t i => (vRedOp f6 e t (a i)).getD 0) (vgetE c.v (fRs1 w) e 0)
      vDone c s len (vScalarDest c s vd e acc 0)
    else illegal w
  else if f6 = 0x10 then execVxunary c s w len vm
  else if f6 = 0x12 then (if vv then execVext c s w len vm else illegal w)
  else if f6 = 0x14 then (if vv then execVmunary c s w len vm else illegal w)
  else if f6 = 0x17 then (if vv && vm then execVcompress c s w len else illegal w)
  else if 0x18 ≤ f6 ∧ f6 ≤ 0x1F then
    if vv && vm then vDone c s len (vWriteMask c s vd true (fun i => (vMaskOp f6 (vBit c vs2 i) (vBit c (fRs1 w) i), 0)))
    else illegal w
  else if 0x30 ≤ f6 then
    let wide := decide (0x34 ≤ f6) && decide (f6 ≤ 0x37)
    if groupOk vd (2 * m) && groupOk vs2 (if wide then 2 * m else m) && g1 && decide (2 * e ≤ 64) && (vm || vd != 0) &&
        (vWideOp f6 e 0 0 0).isSome && (f6 != 0x3E || !vv) then
      vDone c s len (vWrite c s vd (2 * e) (2 * m) vm (fun i =>
        ((vWideOp f6 e (vgetE c.v vs2 (if wide then 2 * e else e) i) (b i) (vgetE c.v vd (2 * e) i)).getD 0, 0)))
    else illegal w
  else if ¬ (groupOk vd m && groupOk vs2 m && g1) || (!vm && vd == 0) then illegal w
  else if f6 = 0x0E ∨ f6 = 0x0F then
    if vv then illegal w
    else vDone c s len (vWrite c s vd e m vm (fun i =>
      if f6 = 0x0E then (if i = 0 then c.rx (fRs1 w) else a (i - 1), 0)
      else (if i + 1 = c.vl then c.rx (fRs1 w) else a (i + 1), 0)))
  else if (vMulOp c f6 e 0 0 0).isSome then
    vDone c s len (vWrite c s vd e m vm (fun i => ((vMulOp c f6 e (a i) (b i) (vgetE c.v vd e i)).getD 0, 0)))
  else illegal w

/-! ### OPFVV, OPFVF -/

/-- The floating-point format of an element width. -/
def vFormat : Nat → Option Ieee
  | 16 => some f16
  | 32 => some f32
  | 64 => some f64
  | _ => none

/-- Single-width arithmetic: a is vs2, b is vs1 or f, d the old destination. -/
def vFpOp (f : Ieee) (rm f6 a b d : Nat) : Option (Nat × Nat) :=
  match f6 with
  | 0x00 => some (fpAdd f rm a b)
  | 0x02 => some (fpSub f rm a b)
  | 0x27 => some (fpSub f rm b a)
  | 0x04 => some (fpMinMax f false a b)
  | 0x06 => some (fpMinMax f true a b)
  | 0x08 => some (fpSgnj f 0 a b, 0)
  | 0x09 => some (fpSgnj f 1 a b, 0)
  | 0x0A => some (fpSgnj f 2 a b, 0)
  | 0x20 => some (fpDiv f rm a b)
  | 0x21 => some (fpDiv f rm b a)
  | 0x24 => some (fpMul f rm a b)
  | 0x28 => some (fpFma f rm b d a)
  | 0x29 => some (fpFma f rm (fpNegBits f b) d (fpNegBits f a))
  | 0x2A => some (fpFma f rm b d (fpNegBits f a))
  | 0x2B => some (fpFma f rm (fpNegBits f b) d a)
  | 0x2C => some (fpFma f rm b a d)
  | 0x2D => some (fpFma f rm (fpNegBits f b) a (fpNegBits f d))
  | 0x2E => some (fpFma f rm b a (fpNegBits f d))
  | 0x2F => some (fpFma f rm (fpNegBits f b) a d)
  | _ => none

/-- Widening arithmetic on operands already widened. -/
def vFpWide (f : Ieee) (rm f6 a b d : Nat) : Option (Nat × Nat) :=
  match f6 with
  | 0x30 => some (fpAdd f rm a b)
  | 0x32 => some (fpSub f rm a b)
  | 0x34 => some (fpAdd f rm a b)
  | 0x36 => some (fpSub f rm a b)
  | 0x38 => some (fpMul f rm a b)
  | 0x3B => some (fpFma f rm b a d)
  | 0x3C => some (fpFma f rm b a d)
  | 0x3D => some (fpFma f rm (fpNegBits f b) a (fpNegBits f d))
  | 0x3E => some (fpFma f rm b a (fpNegBits f d))
  | 0x3F => some (fpFma f rm (fpNegBits f b) a d)
  | _ => none

/-- Widen exactly, keeping a signalling NaN signalling. -/
def widenFp (g f : Ieee) (a : Nat) : Nat :=
  if isSnan g a then f.nanCode - 2 ^ (f.mb - 1) + 1 else (f.round 0 (g.decode a)).1

/-- Compares: feq, fle, flt, fne, fgt, fge. -/
def vFpCmp (f : Ieee) (f6 a b : Nat) : Option (Bool × Nat) :=
  let p := fun k x y => let q := fpCmp f k x y
                        (q.1 == 1, q.2)
  match f6 with
  | 0x18 => some (p 2 a b)
  | 0x19 => some (p 0 a b)
  | 0x1B => some (p 1 a b)
  | 0x1C => some (!(p 2 a b).1, (p 2 a b).2)
  | 0x1D => some (p 1 b a)
  | 0x1F => some (p 0 b a)
  | _ => none

/-- The 7-bit reciprocal estimate of a significand index. -/
def rec7 (i : Nat) : Nat := (2 * 65536 / (2 * i + 257) + 1) / 2 - 128

/-- The 7-bit reciprocal square-root estimate of an exponent parity and a significand index. -/
def rsqrt7 (odd : Bool) (j : Nat) : Nat :=
  (Val.isqrt (4 * (if odd then 2 ^ 23 else 2 ^ 22) / (2 * j + 129)) + 1) / 2 - 128

/-- vfrec7: an estimate of 1/x to seven bits. -/
def fpRec7 (f : Ieee) (rm a : Nat) : Nat × Nat :=
  match f.decode a with
  | .nan => (f.nanCode, snanFlag f [a])
  | .inf s => (bit s * f.signOf, 0)
  | .fin s m e =>
    if m = 0 then (bit s * f.signOf + f.infCode, 8)
    else
      let lg := Nat.log2 m
      let ex := (lg : Int) + e
      let sig := if 7 ≤ lg then m / 2 ^ (lg - 7) % 128 else m * 2 ^ (7 - lg) % 128
      if ex < -f.bias - 1 then
        let toInf := rm == 0 || rm == 4 || (rm == 2 && s) || (rm == 3 && !s)
        (bit s * f.signOf + (if toInf then f.infCode else f.infCode - 1), 5)
      else (bit s * f.signOf + (f.round 1 (.fin false (128 + rec7 sig) (-1 - ex - 7))).1, 0)

/-- vfrsqrt7: an estimate of 1/√x to seven bits. -/
def fpRsqrt7 (f : Ieee) (a : Nat) : Nat × Nat :=
  match f.decode a with
  | .nan => (f.nanCode, snanFlag f [a])
  | .inf s => if s then (f.nanCode, 16) else (0, 0)
  | .fin s m e =>
    if m = 0 then (bit s * f.signOf + f.infCode, 8)
    else if s then (f.nanCode, 16)
    else
      let lg := Nat.log2 m
      let ex := (lg : Int) + e
      let sig := if 6 ≤ lg then m / 2 ^ (lg - 6) % 64 else m * 2 ^ (6 - lg) % 64
      let odd := decide (ex % 2 = 0)
      let oe := if ex % 2 = 0 then -(ex / 2) - 1 else -((ex - 1) / 2) - 1
      ((f.round 1 (.fin false (128 + rsqrt7 odd sig) (oe - 7))).1, 0)

/-- The second operand of a floating-point format. -/
def vFpB (c : Core) (w : Nat) (f : Ieee) (e i : Nat) : Nat :=
  if fF3 w = 1 then vgetE c.v (fRs1 w) e i else c.rf f (fRs1 w)

/-- Conversions of VFUNARY0 by vs1: (source width, destination width, operation). -/
def execVfcvt (c : Core) (s : State) (w len : Nat) (vm : Bool) (rm : Nat) : IRes :=
  let e := c.sew
  let m := c.lmul8
  let k := fRs1 w
  let vd := fRd w
  let vs2 := fRs2 w
  let kind := k % 8
  let form := if k = 0x1D then 2 else k / 8
  let rm1 := if kind = 6 ∨ kind = 7 then 1 else rm
  let es := if form = 2 then 2 * e else e
  let ed := if form = 1 then 2 * e else e
  let ms := if form = 2 then 2 * m else m
  let md := if form = 1 then 2 * m else m
  let run := fun (g : Nat → Nat × Nat) =>
    if groupOk vd md && groupOk vs2 ms && (vm || vd != 0) && decide (es ≤ 64) && decide (ed ≤ 64) && decide (form ≤ 2) then
      vDone c s len (vWrite c s vd ed md vm (fun i => g (vgetE c.v vs2 es i)))
    else illegal w
  let toInt := fun (f : Ieee) (signed : Bool) (x : Nat) =>
    let p := fpToInt rm1 (if signed then -(2 ^ (ed - 1) : Nat) else 0)
      (if signed then (2 ^ (ed - 1) : Nat) - 1 else (2 ^ ed : Nat) - 1) (f.decode x)
    (ofS ed p.1, p.2)
  if k = 0x1D then (if e = 16 then run (fun x => fpCvt f32 bf16 rm x) else illegal w)
  else if k = 0x0D then (if e = 16 then run (fun x => (widenFp bf16 f32 x, snanFlag bf16 [x])) else illegal w)
  else match kind with
    | 2 => match vFormat ed with
      | some f => run (fun x => f.round rm (.ofInt (vU es x)))
      | none => illegal w
    | 3 => match vFormat ed with
      | some f => run (fun x => f.round rm (.ofInt (vS es x)))
      | none => illegal w
    | 4 => match vFormat es, vFormat ed with
      | some g, some f => if form = 0 then illegal w else run (fun x => fpCvt g f rm x)
      | _, _ => illegal w
    | 5 => match vFormat es, vFormat ed with
      | some g, some f => if form ≠ 2 then illegal w
        else run (fun x =>
          let p := fpCvt g f 1 x
          (if bitOf p.2 0 && g.decode x != .nan then Nat.lor p.1 1 else p.1, p.2))
      | _, _ => illegal w
    | _ => match vFormat es with
      | some f => run (toInt f (kind % 2 == 1))
      | none => illegal w

/-- Reductions: sums in order; the unordered sum, whose order the RISC-V specification leaves open, is a free function
of its operands (log entry 15). -/
def vFpReduce (c : Core) (w : Nat) (f : Ieee) (rm f6 e ew : Nat) (g : Ieee) (vm : Bool) : Nat × Nat :=
  let xs := (c.active vm).map (fun i => let x := vgetE c.v (fRs2 w) e i
                                        if ew = e then x else widenFp g f x)
  let init := vgetE c.v (fRs1 w) ew 0
  let step := fun (op : Nat → Nat → Nat × Nat) => xs.foldl (fun acc x =>
    let p := op acc.1 x
    (p.1, Nat.lor acc.2 p.2)) (init, 0)
  match f6 with
  | 0x05 => step (fpMinMax f false)
  | 0x07 => step (fpMinMax f true)
  | 0x03 => step (fpAdd f rm)
  | 0x33 => step (fpAdd f rm)
  | _ =>
    let r := Config.riscvOpen w ((init :: xs).map (BitVec.ofNat 64))
    let fl := Config.riscvOpen (w + 2 ^ 32) ((init :: xs).map (BitVec.ofNat 64))
    if xs.isEmpty then (init, 0) else (r.toNat % 2 ^ ew, fl.toNat % 32)

/-- The floating-point formats. -/
def execOpf (c : Core) (s : State) (w len : Nat) : IRes :=
  let f6 := bitsOf w 31 26
  let vm := bitOf w 25
  let vd := fRd w
  let vs2 := fRs2 w
  let e := c.sew
  let m := c.lmul8
  let vv := fF3 w == 1
  match rmOf c 7 with
  | none => illegal w
  | some rm =>
    if c.vill then illegal w
    else if f6 = 0x12 then (if vv then execVfcvt c s w len vm rm else illegal w)
    else match vFormat e with
    | none => illegal w
    | some f =>
      let g1 := !vv || groupOk (fRs1 w) m
      let a := fun i => vgetE c.v vs2 e i
      let b := fun i => vFpB c w f e i
      if f6 = 0x01 ∨ f6 = 0x03 ∨ f6 = 0x05 ∨ f6 = 0x07 then
        if vv && groupOk vs2 m && c.vstart == 0 then
          let p := vFpReduce c w f rm f6 e e f vm
          vDone c s len (vScalarDest c s vd e p.1 p.2)
        else illegal w
      else if f6 = 0x31 ∨ f6 = 0x33 then
        match vFormat (2 * e) with
        | some h => if vv && groupOk vs2 m && c.vstart == 0 then
            let p := vFpReduce c w h rm f6 e (2 * e) f vm
            vDone c s len (vScalarDest c s vd (2 * e) p.1 p.2)
          else illegal w
        | none => illegal w
      else if f6 = 0x10 then
        (if vv then
          (if vm && fRs1 w == 0 then .next (({ c with vstart := 0 }.wf f vd (vgetE c.v vs2 e 0)).jump (c.pc.toNat + len)) s 1
           else illegal w)
         else if vm && vs2 == 0 then vDone c s len (vScalarDest c s vd e (c.rf f (fRs1 w)) 0) else illegal w)
      else if 0x18 ≤ f6 ∧ f6 ≤ 0x1F then
        if groupOk vs2 m && g1 && (vFpCmp f f6 0 0).isSome && (!vv || decide (f6 < 0x1D)) then
          vDone c s len (vWriteMask c s vd vm (fun i => (vFpCmp f f6 (a i) (b i)).getD (false, 0)))
        else illegal w
      else if 0x30 ≤ f6 then
        let wide := f6 == 0x34 || f6 == 0x36
        let src := if f6 = 0x3B then bf16 else f
        match vFormat (2 * e) with
        | none => illegal w
        | some h =>
          if groupOk vd (2 * m) && groupOk vs2 (if wide then 2 * m else m) && g1 && (vm || vd != 0) &&
              (vFpWide h rm f6 0 0 0).isSome && (f6 != 0x3B || e == 16) then
            let bb := fun i => if f6 = 0x3B ∧ ¬ vv then (nth c.f (fRs1 w) 0).toNat % 65536 else b i
            vDone c s len (vWrite c s vd (2 * e) (2 * m) vm (fun i =>
              (vFpWide h rm f6 (if wide then vgetE c.v vs2 (2 * e) i else widenFp src h (a i)) (widenFp src h (bb i))
                (vgetE c.v vd (2 * e) i)).getD (0, 0)))
          else illegal w
      else if f6 = 0x17 then
        if vv ∨ ¬ groupOk vd m ∨ (vm ∧ vs2 ≠ 0) then illegal w
        else vDone c s len (vWrite c s vd e m true (fun i => (if vm || c.vmask i then b i else a i, 0)))
      else if ¬ (groupOk vd m && groupOk vs2 m && (g1 || f6 == 0x13)) || (!vm && vd == 0) then illegal w
      else if f6 = 0x13 then
        if ¬ vv then illegal w
        else match fRs1 w with
          | 0 => vDone c s len (vWrite c s vd e m vm (fun i => fpSqrt f rm (a i)))
          | 4 => vDone c s len (vWrite c s vd e m vm (fun i => fpRsqrt7 f (a i)))
          | 5 => vDone c s len (vWrite c s vd e m vm (fun i => fpRec7 f rm (a i)))
          | 16 => vDone c s len (vWrite c s vd e m vm (fun i => (fpClass f (a i), 0)))
          | _ => illegal w
      else if f6 = 0x0E ∨ f6 = 0x0F then
        if vv then illegal w
        else vDone c s len (vWrite c s vd e m vm (fun i =>
          if f6 = 0x0E then (if i = 0 then b 0 else a (i - 1), 0)
          else (if i + 1 = c.vl then b 0 else a (i + 1), 0)))
      else if (vFpOp f rm f6 0 0 0).isSome && !(vv && (f6 == 0x27 || f6 == 0x21)) then
        vDone c s len (vWrite c s vd e m vm (fun i => (vFpOp f rm f6 (a i) (b i) (vgetE c.v vd e i)).getD (0, 0)))
      else illegal w

/-! ### Vector loads and stores (R201) -/

/-- Element width of a vector access by its width field. -/
def vWidth : Nat → Option Nat
  | 0 => some 8
  | 5 => some 16
  | 6 => some 32
  | 7 => some 64
  | _ => none

/-- The plan of an access: element width of data, eighths of its group, element count, whether it is masked, the
address of field k of element i, and the fields. -/
structure VPlan where
  e : Nat
  m8 : Nat
  n : Nat
  nf : Nat
  first : Bool
  addr : Nat → Nat → Nat

/-- Work out the plan of a vector access; none is illegal. -/
def vPlan (c : Core) (w : Nat) : Option VPlan :=
  match vWidth (fF3 w) with
  | none => none
  | some ew =>
    let nf := bitsOf w 31 29 + 1
    let base := c.rx (fRs1 w)
    let mop := bitsOf w 27 26
    let em := ew * c.lmul8 / c.sew
    let unit := fun (e n m nf : Nat) (ff : Bool) =>
      some { e := e, m8 := m, n := n, nf := nf, first := ff, addr := fun i k => m64 (base + (i * nf + k) * (e / 8)) }
    if bitOf w 28 then none
    else if mop = 0 then
      match fRs2 w with
      | 8 => if nf = 1 ∨ nf = 2 ∨ nf = 4 ∨ nf = 8 then unit ew (nf * 512 / ew) (8 * nf) 1 false else none
      | 11 => if ew = 8 ∧ nf = 1 ∧ ¬ c.vill then unit 8 ((c.vl + 7) / 8) 8 1 false else none
      | 0 => if c.vill then none else unit ew c.vl em nf false
      | 16 => if c.vill then none else unit ew c.vl em nf true
      | _ => none
    else if c.vill then none
    else if mop = 2 then
      some { e := ew, m8 := em, n := c.vl, nf := nf, first := false,
             addr := fun i k => m64 (base + i * c.rx (fRs2 w) + k * (ew / 8)) }
    else
      let d := c.sew
      some { e := d, m8 := c.lmul8, n := c.vl, nf := nf, first := false,
             addr := fun i k => m64 (base + vgetE c.v (fRs2 w) ew i + k * (d / 8)) }

/-- The register that holds field k of a plan. -/
def VPlan.reg (p : VPlan) (vd k : Nat) : Nat := vd + k * max 1 (p.m8 / 8)

/-- A plan's registers are legal. -/
def VPlan.ok (p : VPlan) (vd : Nat) : Bool :=
  groupOk vd p.m8 && decide (p.nf * max 1 (p.m8 / 8) ≤ 8) && decide (vd + p.nf * max 1 (p.m8 / 8) ≤ 32)

/-- The elements and fields that an access touches, in order. -/
def VPlan.items (p : VPlan) (c : Core) (vm : Bool) : List (Nat × Nat) :=
  (((List.range p.n).filter (fun i => decide (c.vstart ≤ i) && (vm || c.vmask i))).map (fun i =>
    (List.range p.nf).map (fun k => (i, k)))).flatten

/-- Vector loads. -/
def execVload (c : Core) (s : State) (w len : Nat) : IRes :=
  match vPlan c w with
  | none => illegal w
  | some p =>
    let vm := bitOf w 25
    let vd := fRd w
    if ¬ p.ok vd || (!vm && vd == 0) then illegal w
    else
      let r := (p.items c vm).foldl (fun (acc : List (BitVec 512) × Option (Nat × Nat × Nat)) q =>
        match acc.2 with
        | some _ => acc
        | none => match loadScalar s c (p.addr q.1 q.2) (p.e / 8) with
          | .error (code, a) => (acc.1, some (code, a, q.1))
          | .ok x => (vsetE acc.1 (p.reg vd q.2) p.e q.1 x, none)) (c.v, none)
      let fin := fun (v : List (BitVec 512)) (vl : Nat) =>
        IRes.next ({ c with v := v, vl := vl, vstart := 0 }.jump (c.pc.toNat + len)) s (max 1 (p.n * p.nf * p.e / 512))
      match r.2 with
      | none => fin r.1 c.vl
      | some (code, a, i) => if p.first ∧ 0 < i then fin r.1 i else .trap code 0 a

/-- Vector stores. -/
def execVstore (c : Core) (s : State) (w len : Nat) : IRes :=
  match vPlan c w with
  | none => illegal w
  | some p =>
    let vm := bitOf w 25
    let vd := fRd w
    if ¬ p.ok vd || p.first then illegal w
    else
      let r := (p.items c vm).foldl (fun (acc : State × Option (Nat × Nat)) q =>
        match acc.2 with
        | some _ => acc
        | none => match storeScalar c (p.addr q.1 q.2) (p.e / 8) (vgetE c.v (p.reg vd q.2) p.e q.1) acc.1 with
          | .error x => (acc.1, some x)
          | .ok s1 => (s1, none)) (s, none)
      match r.2 with
      | some (code, a) => .trapAfter r.1 code a
      | none => .next ({ withResv c r.1 with vstart := 0 }.jump (c.pc.toNat + len)) r.1 (max 1 (p.n * p.nf * p.e / 512))

/-- The vector instructions by opcode; none is not one of them. -/
def execVec (c : Core) (s : State) (w len : Nat) : Option IRes :=
  match fOp w with
  | 0x07 => some (execVload c s w len)
  | 0x27 => some (execVstore c s w len)
  | 0x57 => some (match fF3 w with
    | 7 => execVset c s w len
    | 1 => execOpf c s w len
    | 5 => execOpf c s w len
    | 2 => execOpm c s w len
    | 6 => execOpm c s w len
    | _ => execOpi c s w len)
  | _ => none

end Sys2Proof.Machine
end

