-- ==== Sys2Proof/Machine/RiscvRun.lean ====
section
/-! DEFINITION. RISCV_INSTRUCTION (R196, R205, R213, R214): one standard instruction of a helper core, or the miss that
its fetch meets. -/

namespace Sys2Proof.Machine

/-- An encoding of R213. -/
def isKz (w : Nat) : Bool :=
  (fOp w == 0x0B && decide (fF3 w ≤ 4) && fF7 w == 0) ||
    (fOp w == 0x2B && ((decide (fF3 w ≤ 5) && fF7 w == 0) || (fF3 w == 5 && fF7 w == 1)))

/-- One standard instruction of 32 bits, or of 16 with its expansion. -/
def stdInstr (c : Core) (s : State) (w len : Nat) : IRes :=
  match (if len = 2 then expandC w else some w) with
  | none => illegal w
  | some x =>
    match execInt c s x len with
    | some r => r
    | none => match execFp c s x len with
      | some r => r
      | none => match execVec c s x len with
        | some r => r
        | none => illegal w

/-- The effect of an instruction's result. -/
def applyIRes (c : Core) (s : State) (r : IRes) : State :=
  match r with
  | .next k t beats => retireInstr k beats t
  | .trap code sub mtval => coreFault c code sub mtval s
  | .trapAfter t code mtval => coreFault c code 0 mtval t

/-- RISCV_INSTRUCTION (R196): a fetch outside the code window is fault 0x04; a missing line begins a fill; the custom
instructions and ecall are other commands. -/
def execRiscvInstruction (c : CoreId) (s : State) : Host.Outcome State Fault Refusal :=
  match s.core? c with
  | none => .next s
  | some k =>
    occurs (executing s k) (fun s =>
      match fetch k with
      | .bad a => coreFault k 4 0 a s
      | .miss line => beginMiss k line s
      | .word w len =>
        if len = 4 ∧ (isKz w ∨ w = ecallWord) then s
        else applyIRes k s (stdInstr (touchFetch k) s w len)) s

end Sys2Proof.Machine
end

