-- ==== Sys2Proof/Machine/Dispatch.lean ====
section
/-! DEFINITION. The dispatch: one arm for each command, one direct call of its meaning. -/

namespace Sys2Proof.Machine

/-- The effect of a command on everything but the queue. -/
def exec (i : Instr) (s : State) : Host.Outcome State Fault Refusal :=
  match i with
  | .submissionDoorbell q tail => Sys2Proof.Machine.execSubmissionDoorbell q tail s
  | .cqHeadWrite q index => Sys2Proof.Machine.execCqHeadWrite q index s
  | .qcfgWrite q v => Sys2Proof.Machine.execQcfgWrite q v s
  | .bar2BaseWrite v => Sys2Proof.Machine.execBar2BaseWrite v s
  | .bar2Access off op => Sys2Proof.Machine.execBar2Access off op s
  | .genericRegisterWrite bar off bytes => Sys2Proof.Machine.execGenericRegisterWrite bar off bytes s
  | .invalidSubmissionEntry => Sys2Proof.Machine.execInvalidSubmissionEntry s
  | .admitRecipe => Sys2Proof.Machine.execAdmitRecipe s
  | .startStep => Sys2Proof.Machine.execStartStep s
  | .startStepHeldBegin recipe => Sys2Proof.Machine.execStartStepHeldBegin recipe s
  | .retireRecipe => Sys2Proof.Machine.execRetireRecipe s
  | .copy busError => Sys2Proof.Machine.execCopy busError s
  | .copyQueuedBegin busError => Sys2Proof.Machine.execCopyQueuedBegin busError s
  | .snapshotNow => Sys2Proof.Machine.execSnapshotNow s
  | .restore nand => Sys2Proof.Machine.execRestore nand s
  | .restoreBodyWritten recipe => Sys2Proof.Machine.execRestoreBodyWritten recipe s
  | .queryCapacity => Sys2Proof.Machine.execQueryCapacity s
  | .fenceQueue => Sys2Proof.Machine.execFenceQueue s
  | .etCfgWrite v => Sys2Proof.Machine.execEtCfgWrite v s
  | .etHeadWrite v => Sys2Proof.Machine.execEtHeadWrite v s
  | .eventCollectorWrite k => Sys2Proof.Machine.execEventCollectorWrite k s
  | .interruptDelayExpiry ring => Sys2Proof.Machine.execInterruptDelayExpiry ring s
  | .hostFunctionReset cause => Sys2Proof.Machine.execHostFunctionReset cause s
  | .hostLinkTraining width rate qualified => Sys2Proof.Machine.execHostLinkTraining width rate qualified s
  | .mailboxDoorbell v => Sys2Proof.Machine.execMailboxDoorbell v s
  | .rspHeadWrite v => Sys2Proof.Machine.execRspHeadWrite v s
  | .read src => Sys2Proof.Machine.execRead src s
  | .alertClearingRead src => Sys2Proof.Machine.execAlertClearingRead src s
  | .write src => Sys2Proof.Machine.execWrite src s
  | .execute src => Sys2Proof.Machine.execExecute src s
  | .probe src allNodes => Sys2Proof.Machine.execProbe src allNodes s
  | .abort src => Sys2Proof.Machine.execAbort src s
  | .subscribe src => Sys2Proof.Machine.execSubscribe src s
  | .blockBegin src => Sys2Proof.Machine.execBlockBegin src s
  | .blockData src => Sys2Proof.Machine.execBlockData src s
  | .blockEnd src => Sys2Proof.Machine.execBlockEnd src s
  | .frameDiscard src => Sys2Proof.Machine.execFrameDiscard src s
  | .notificationPeriod k => Sys2Proof.Machine.execNotificationPeriod k s
  | .subscriptionExpiry k => Sys2Proof.Machine.execSubscriptionExpiry k s
  | .blockSessionTimeout obj => Sys2Proof.Machine.execBlockSessionTimeout obj s
  | .capWrite src => Sys2Proof.Machine.execCapWrite src s
  | .windowWrite src => Sys2Proof.Machine.execWindowWrite src s
  | .deviceEnable src => Sys2Proof.Machine.execDeviceEnable src s
  | .deviceDisable src => Sys2Proof.Machine.execDeviceDisable src s
  | .wheelEnable src scan => Sys2Proof.Machine.execWheelEnable src scan s
  | .wheelDisable src => Sys2Proof.Machine.execWheelDisable src s
  | .farPortEnable src found => Sys2Proof.Machine.execFarPortEnable src found s
  | .farPortDisable src => Sys2Proof.Machine.execFarPortDisable src s
  | .hingePortEnable src train => Sys2Proof.Machine.execHingePortEnable src train s
  | .hingePortDisable src => Sys2Proof.Machine.execHingePortDisable src s
  | .rindEnable src => Sys2Proof.Machine.execRindEnable src s
  | .rindDisable src => Sys2Proof.Machine.execRindDisable src s
  | .maintenanceRequest src => Sys2Proof.Machine.execMaintenanceRequest src s
  | .maintenanceEntry => Sys2Proof.Machine.execMaintenanceEntry s
  | .maintenanceExit src => Sys2Proof.Machine.execMaintenanceExit src s
  | .caveFlushComplete portError => Sys2Proof.Machine.execCaveFlushComplete portError s
  | .ownerLockWrite src => Sys2Proof.Machine.execOwnerLockWrite src s
  | .ownerLockLockoutEnd => Sys2Proof.Machine.execOwnerLockLockoutEnd s
  | .injectionPermitWrite src => Sys2Proof.Machine.execInjectionPermitWrite src s
  | .injectionPointWrite src => Sys2Proof.Machine.execInjectionPointWrite src s
  | .injectionTick det => Sys2Proof.Machine.execInjectionTick det s
  | .detectorConfigWrite src => Sys2Proof.Machine.execDetectorConfigWrite src s
  | .routeEntryWrite src => Sys2Proof.Machine.execRouteEntryWrite src s
  | .regionSizeWrite src => Sys2Proof.Machine.execRegionSizeWrite src s
  | .vatModeOverrideWrite src => Sys2Proof.Machine.execVatModeOverrideWrite src s
  | .commandEnd => Sys2Proof.Machine.execCommandEnd s
  | .activateFirmware src => Sys2Proof.Machine.execActivateFirmware src s
  | .replanMargins src scans => Sys2Proof.Machine.execReplanMargins src scans s
  | .restoreRindImage src nand => Sys2Proof.Machine.execRestoreRindImage src nand s
  | .reconcileDefectMap src passed => Sys2Proof.Machine.execReconcileDefectMap src passed s
  | .qualifyLinks src => Sys2Proof.Machine.execQualifyLinks src s
  | .confirmFirmware src => Sys2Proof.Machine.execConfirmFirmware src s
  | .enterRecovery src => Sys2Proof.Machine.execEnterRecovery src s
  | .flushCaveCache src => Sys2Proof.Machine.execFlushCaveCache src s
  | .deviceReset src => Sys2Proof.Machine.execDeviceReset src s
  | .wheelReset src => Sys2Proof.Machine.execWheelReset src s
  | .taskLoad recipe wheel spec => Sys2Proof.Machine.execTaskLoad recipe wheel spec s
  | .taskStart t => Sys2Proof.Machine.execTaskStart t s
  | .taskRetire t => Sys2Proof.Machine.execTaskRetire t s
  | .pageReturn recipe page => Sys2Proof.Machine.execPageReturn recipe page s
  | .stepComplete recipe => Sys2Proof.Machine.execStepComplete recipe s
  | .stepWatchdogExpiry recipe => Sys2Proof.Machine.execStepWatchdogExpiry recipe s
  | .spanPatienceExpiry recipe => Sys2Proof.Machine.execSpanPatienceExpiry recipe s
  | .completionRingStall q => Sys2Proof.Machine.execCompletionRingStall q s
  | .hoopPick wheel hoop => Sys2Proof.Machine.execHoopPick wheel hoop s
  | .riscvInstruction c => Sys2Proof.Machine.execRiscvInstruction c s
  | .icacheMissFill c => Sys2Proof.Machine.execIcacheMissFill c s
  | .ecallExit c => Sys2Proof.Machine.execEcallExit c s
  | .budgetExceeded c => Sys2Proof.Machine.execBudgetExceeded c s
  | .kzQuant c => Sys2Proof.Machine.execKzQuant c s
  | .kzDequant c => Sys2Proof.Machine.execKzDequant c s
  | .kzEyepickAccumulate c => Sys2Proof.Machine.execKzEyepickAccumulate c s
  | .kzEyepickSelect c => Sys2Proof.Machine.execKzEyepickSelect c s
  | .kzTopk c => Sys2Proof.Machine.execKzTopk c s
  | .kzHist c => Sys2Proof.Machine.execKzHist c s
  | .kzCarry c => Sys2Proof.Machine.execKzCarry c s
  | .carryComplete c k e => Sys2Proof.Machine.execCarryComplete c k e s
  | .kzTadd c => Sys2Proof.Machine.execKzTadd c s
  | .chainAction k => Sys2Proof.Machine.execChainAction k s
  | .kzTwait c => Sys2Proof.Machine.execKzTwait c s
  | .twaitWake c => Sys2Proof.Machine.execTwaitWake c s
  | .kzTarm c => Sys2Proof.Machine.execKzTarm c s
  | .kzPost c => Sys2Proof.Machine.execKzPost c s
  | .kzSpecBegin c => Sys2Proof.Machine.execKzSpecBegin c s
  | .kzSpecEnd c => Sys2Proof.Machine.execKzSpecEnd c s
  | .mac d => Sys2Proof.Machine.execMac d s
  | .macClear d => Sys2Proof.Machine.execMacClear d s
  | .drain d => Sys2Proof.Machine.execDrain d s
  | .loadAcc d => Sys2Proof.Machine.execLoadAcc d s
  | .transpose d => Sys2Proof.Machine.execTranspose d s
  | .fence d => Sys2Proof.Machine.execFence d s
  | .descriptorSignal d => Sys2Proof.Machine.execDescriptorSignal d s
  | .arrangementReconfigure vat => Sys2Proof.Machine.execArrangementReconfigure vat s
  | .vatChangeApply vat => Sys2Proof.Machine.execVatChangeApply vat s
  | .recomputeOpenGrant recipe entry => Sys2Proof.Machine.execRecomputeOpenGrant recipe entry s
  | .recomputeOpenWaitTimeout recipe entry => Sys2Proof.Machine.execRecomputeOpenWaitTimeout recipe entry s
  | .feederStarvationTimeout vat => Sys2Proof.Machine.execFeederStarvationTimeout vat s
  | .vatHandshakeStall vat suspect => Sys2Proof.Machine.execVatHandshakeStall vat suspect s
  | .updateNativeApply d => Sys2Proof.Machine.execUpdateNativeApply d s
  | .updateMh4Apply d => Sys2Proof.Machine.execUpdateMh4Apply d s
  | .updateCopiesOnly d => Sys2Proof.Machine.execUpdateCopiesOnly d s
  | .ratioPassNative d => Sys2Proof.Machine.execRatioPassNative d s
  | .ratioPassMh4 d => Sys2Proof.Machine.execRatioPassMh4 d s
  | .updatePacket d packet => Sys2Proof.Machine.execUpdatePacket d packet s
  | .emissionUnit d record unit => Sys2Proof.Machine.execEmissionUnit d record unit s
  | .versionWaitTimeout t wait => Sys2Proof.Machine.execVersionWaitTimeout t wait s
  | .rindWaitTimeout d => Sys2Proof.Machine.execRindWaitTimeout d s
  | .hingePut d => Sys2Proof.Machine.execHingePut d s
  | .dispatchOrdinary d => Sys2Proof.Machine.execDispatchOrdinary d s
  | .dispatchSpeculative d => Sys2Proof.Machine.execDispatchSpeculative d s
  | .dispatchResend d => Sys2Proof.Machine.execDispatchResend d s
  | .verify d => Sys2Proof.Machine.execVerify d s
  | .unpack d => Sys2Proof.Machine.execUnpack d s
  | .combine d => Sys2Proof.Machine.execCombine d s
  | .allReduce d => Sys2Proof.Machine.execAllReduce d s
  | .reduceScatter d => Sys2Proof.Machine.execReduceScatter d s
  | .allGather d => Sys2Proof.Machine.execAllGather d s
  | .span d => Sys2Proof.Machine.execSpan d s
  | .nullFlit port flit => Sys2Proof.Machine.execNullFlit port flit s
  | .flitCrcFailure port flit => Sys2Proof.Machine.execFlitCrcFailure port flit s
  | .linkInit port flit => Sys2Proof.Machine.execLinkInit port flit s
  | .spanAdd port flit => Sys2Proof.Machine.execSpanAdd port flit s
  | .guard port flit => Sys2Proof.Machine.execGuard port flit s
  | .notice port flit => Sys2Proof.Machine.execNotice port flit s
  | .get port flit => Sys2Proof.Machine.execGet port flit s
  | .getData port flit => Sys2Proof.Machine.execGetData port flit s
  | .put port flit => Sys2Proof.Machine.execPut port flit s
  | .putAck port flit => Sys2Proof.Machine.execPutAck port flit s
  | .nack port flit => Sys2Proof.Machine.execNack port flit s
  | .guardAck port flit => Sys2Proof.Machine.execGuardAck port flit s
  | .portRetrain port cause => Sys2Proof.Machine.execPortRetrain port cause s
  | .retrainComplete port train => Sys2Proof.Machine.execRetrainComplete port train s
  | .qualificationDwellEnd link r => Sys2Proof.Machine.execQualificationDwellEnd link r s
  | .preFecBerWindow port ber corrected uncorrectable => Sys2Proof.Machine.execPreFecBerWindow port ber corrected uncorrectable s
  | .caveDemandRead t addr => Sys2Proof.Machine.execCaveDemandRead t addr s
  | .caveFillComplete recipe segment poisoned => Sys2Proof.Machine.execCaveFillComplete recipe segment poisoned s
  | .trackerClose recipe k => Sys2Proof.Machine.execTrackerClose recipe k s
  | .memoryRead r addr len sv => Sys2Proof.Machine.execMemoryRead r addr len sv s
  | .memoryWrite r addr bytes sv => Sys2Proof.Machine.execMemoryWrite r addr bytes sv s
  | .adds32 addr operand => Sys2Proof.Machine.execAdds32 addr operand s
  | .add64 addr operand => Sys2Proof.Machine.execAdd64 addr operand s
  | .maxf32 addr operand => Sys2Proof.Machine.execMaxf32 addr operand s
  | .cas width addr expected new => Sys2Proof.Machine.execCas width addr expected new s
  | .bankCapWaitEnd b => Sys2Proof.Machine.execBankCapWaitEnd b s
  | .patrolScrub addr e => Sys2Proof.Machine.execPatrolScrub addr e s
  | .bankNoProgress b => Sys2Proof.Machine.execBankNoProgress b s
  | .bankFailed b => Sys2Proof.Machine.execBankFailed b s
  | .channelSymbolRateExceeded channel => Sys2Proof.Machine.execChannelSymbolRateExceeded channel s
  | .viewUpdate => Sys2Proof.Machine.execViewUpdate s
  | .paceLineRefresh activity => Sys2Proof.Machine.execPaceLineRefresh activity s
  | .paceLineKeepaliveLoss => Sys2Proof.Machine.execPaceLineKeepaliveLoss s
  | .shuntSample volts watts => Sys2Proof.Machine.execShuntSample volts watts s
  | .powerExcursion joules longerThan10ms => Sys2Proof.Machine.execPowerExcursion joules longerThan10ms s
  | .droopBegin d => Sys2Proof.Machine.execDroopBegin d s
  | .droopClear d => Sys2Proof.Machine.execDroopClear d s
  | .deferredRateStep d => Sys2Proof.Machine.execDeferredRateStep d s
  | .junctionSample d hottest mean => Sys2Proof.Machine.execJunctionSample d hottest mean s
  | .regionalPullStep k a b => Sys2Proof.Machine.execRegionalPullStep k a b s
  | .inletSample celsius outlet => Sys2Proof.Machine.execInletSample celsius outlet s
  | .inletRecoveryTimer => Sys2Proof.Machine.execInletRecoveryTimer s
  | .flowLoss => Sys2Proof.Machine.execFlowLoss s
  | .junctionTrip d => Sys2Proof.Machine.execJunctionTrip d s
  | .trayFlowOkAssert => Sys2Proof.Machine.execTrayFlowOkAssert s
  | .inputLoss => Sys2Proof.Machine.execInputLoss s
  | .inputOvervoltage volts => Sys2Proof.Machine.execInputOvervoltage volts s
  | .inputReturn volts => Sys2Proof.Machine.execInputReturn volts s
  | .powerUp volts => Sys2Proof.Machine.execPowerUp volts s
  | .prechargeComplete => Sys2Proof.Machine.execPrechargeComplete s
  | .holdupMeasurement ms => Sys2Proof.Machine.execHoldupMeasurement ms s
  | .monitorSample d margin => Sys2Proof.Machine.execMonitorSample d margin s
  | .idleWindowReplan wheel scan => Sys2Proof.Machine.execIdleWindowReplan wheel scan s
  | .replanOverdue wheel => Sys2Proof.Machine.execReplanOverdue wheel s
  | .auxPowerUp romOk holdupMs recoveryReq slotId => Sys2Proof.Machine.execAuxPowerUp romOk holdupMs recoveryReq slotId s
  | .stage1Firmware slotA slotB => Sys2Proof.Machine.execStage1Firmware slotA slotB s
  | .stage2Rails r => Sys2Proof.Machine.execStage2Rails r s
  | .stage3Spares => Sys2Proof.Machine.execStage3Spares s
  | .stage4Hbm r => Sys2Proof.Machine.execStage4Hbm r s
  | .stage5Tests r => Sys2Proof.Machine.execStage5Tests r s
  | .stage6Links r => Sys2Proof.Machine.execStage6Links r s
  | .stage7Plan scans => Sys2Proof.Machine.execStage7Plan scans s
  | .stage8Decision => Sys2Proof.Machine.execStage8Decision s
  | .stageTimeout => Sys2Proof.Machine.execStageTimeout s
  | .hostLinkWaitExpiry => Sys2Proof.Machine.execHostLinkWaitExpiry s
  | .coreStallDetect c => Sys2Proof.Machine.execCoreStallDetect c s
  | .coreStopTimeout c => Sys2Proof.Machine.execCoreStopTimeout c s
  | .hoopPickStall wheel hoop => Sys2Proof.Machine.execHoopPickStall wheel hoop s
  | .drainEnd k => Sys2Proof.Machine.execDrainEnd k s
  | .drainDeadline k => Sys2Proof.Machine.execDrainDeadline k s
  | .absorptionComplete k => Sys2Proof.Machine.execAbsorptionComplete k s
  | .resetEscalation k => Sys2Proof.Machine.execResetEscalation k s
  | .wheelUsableAgain wheel r => Sys2Proof.Machine.execWheelUsableAgain wheel r s
  | .lockstepMismatch => Sys2Proof.Machine.execLockstepMismatch s
  | .wardenWatchdogExpiry => Sys2Proof.Machine.execWardenWatchdogExpiry s
  | .wardenRestartComplete => Sys2Proof.Machine.execWardenRestartComplete s
  | .plcaBeaconLoss => Sys2Proof.Machine.execPlcaBeaconLoss s
  | .captureEntry recipe n => Sys2Proof.Machine.execCaptureEntry recipe n s
  | .imageDurable recipe => Sys2Proof.Machine.execImageDurable recipe s
  | .seatLatchedSet => Sys2Proof.Machine.execSeatLatchedSet s
  | .seatLatchedClear => Sys2Proof.Machine.execSeatLatchedClear s
  | .stby12SenseChange level => Sys2Proof.Machine.execStby12SenseChange level s
  | .auxiliarySupplyLoss => Sys2Proof.Machine.execAuxiliarySupplyLoss s
  | .holdUpChargeThreshold percent => Sys2Proof.Machine.execHoldUpChargeThreshold percent s
  | .hostLinkError correctable => Sys2Proof.Machine.execHostLinkError correctable s
  | .caveDeviceErrorReport port uncorrected addr => Sys2Proof.Machine.execCaveDeviceErrorReport port uncorrected addr s
  | .retrainTimeout port => Sys2Proof.Machine.execRetrainTimeout port s

end Sys2Proof.Machine
end

