-- ==== Sys2Proof/Safety.lean ====
section
/-! DEFINITION. What holds in every run: the invariant that every step keeps, whatever state it starts from. -/

namespace Sys2Proof.Machine

/-- The byte stores are in canonical form: the near tier, the curd store with the scratches, the cave, host memory, the
rings in BAR0 and the Mailbox rings in BAR4. Equal stores are then equal data, and an address that is not listed reads
zero (log entry 3). -/
structure StoresCanonical (s : State) : Prop where
  near : s.near.wf = true
  dev : s.dev.wf = true
  cave : s.cave.wf = true
  hostMem : s.hostMem.wf = true
  bar0 : s.host.bar0.wf = true
  bar4 : s.warden.bar4.wf = true

/-- The fixed numbers of units: eight wheels (R3), four far ports (R145), 32 hinge ports (R281), sixteen queues (R352). -/
structure UnitsWhole (s : State) : Prop where
  wheels : s.wheels.length = 8
  farPorts : s.farPorts.length = 4
  hingePorts : s.hinge.ports.length = 32
  queues : s.host.queues.length = 16

/-- The bounds that the spec gives the Warden's lists: 65,536 records in its event log (R472), 256 in its backlog
(R481), 32 cached responses (R442). -/
structure ListsBounded (s : State) : Prop where
  log : s.events.log.length ≤ 65536
  backlog : s.events.backlog.length ≤ 256
  cache : s.warden.cache.length ≤ 32

/-- The invariant. -/
structure Inv (s : State) : Prop where
  stores : StoresCanonical s
  units : UnitsWhole s
  lists : ListsBounded s

end Sys2Proof.Machine
end

