-- ==== Sys2Proof/WellFormed.lean ====
section
/-! DEFINITION. Well-formed commands: the operands lie in the ranges that the spec gives the things they name (queues
R352, wheels, hoops and cores R3, R4, ports R281, power domains R374, channels R131, flits R284, stages R414). The
meanings need no such premise: a command that is not well formed has a meaning too, and changes nothing where what it
names is not there. -/

namespace Sys2Proof

/-! ### The checks -/

def wfQueue (q : Nat) : Bool := decide (q < 16)
def wfWheel (w : Nat) : Bool := decide (w < 8)
def wfHoop (w h : Nat) : Bool := wfWheel w && decide (h < 80)

/-- A helper core is at one of the 17 physical slots of a hoop (R4). -/
def wfCore (c : CoreId) : Bool := wfHoop c.wheel c.hoop && decide (c.slot < 17)

def wfPort (p : Nat) : Bool := decide (p < 32)
def wfFarPort (p : Nat) : Bool := decide (p < 4)

/-- The 34 power domains (R374). -/
def wfDomain (d : Nat) : Bool := decide (d < 34)

/-- A recipe handle has 32 bits (R363). -/
def wfHandle (h : Nat) : Bool := decide (h < 2 ^ 32)

def wfTask (t : TaskRef) : Bool := wfHandle t.recipe && decide (t.task < 2 ^ 32)
def wfDesc (d : DescRef) : Bool := wfHandle d.recipe && decide (d.task < 2 ^ 32)

/-- A flit has 256 bytes (R284). -/
def wfFlit (port : Nat) (flit : List Byte) : Bool := wfPort port && decide (flit.length = 256)

/-- A field-network frame comes from an IPv6 address and a UDP port (R436). -/
def wfSrc : OapSrc → Bool
  | .field a p _ _ => decide (a < 2 ^ 128) && decide (p < 2 ^ 16)
  | .mailbox => true

/-- A hinge training gives masks of four lanes and a module ID of 12 bits (R296). -/
def wfTrain (t : HingeTrain) : Bool :=
  decide (t.localMask < 16) && decide (t.peerMask < 16) && decide (t.peerId < 2 ^ 12)

def wfLink : LinkId → Bool
  | .hinge p => wfPort p
  | .far p => wfFarPort p

/-- A bank of a curd slice, or a bank group of a near-tier channel (R124, R158). -/
def wfBank : BankId → Bool
  | .curd w b => wfWheel w && decide (b < 264)
  | .near ch _ => decide (ch < 640)

/-- A sweep has one measurement, itself well-formed, for each of the sixteen taps and 51 rails (R398). -/
def wfSweep {α : Type} (ok : α → Bool) (t : List (List α)) : Bool :=
  decide (t.length = 16) && t.all (fun rails => decide (rails.length = 51) && rails.all ok)

/-- A scan measures the eight segments of a vat and the 80 hoops of a wheel (R396, R398). -/
def wfScan (x : WheelScan) : Bool :=
  wfSweep (fun m => decide (m.forward.length = 8)) x.vat && wfSweep (fun m => decide (m.hoops.length = 80)) x.hoops

def wfScans (l : List (Nat × WheelScan)) : Bool := l.all (fun p => wfWheel p.1 && wfScan p.2)

def wfStage5 (r : Stage5Result) : Bool :=
  (r.badRows ++ r.badCols).all (fun p => wfWheel p.1 && decide (p.2 < 1040)) && r.badCores.all wfCore

def wfStage6 (r : Stage6Result) : Bool := decide (r.far.length = 4) && decide (r.hinge.length = 32) && r.hinge.all wfTrain

/-! ### Commands -/

/-- A well-formed command. -/
def Instr.wf : Instr → Bool
  | .submissionDoorbell q tail => wfQueue q && decide (tail < 4096)
  | .cqHeadWrite q index => wfQueue q && decide (index < 4096)
  | .qcfgWrite q _ => wfQueue q
  | .bar2BaseWrite _ => true
  | .bar2Access off _ => decide (off < 2 ^ 36)
  | .genericRegisterWrite bar off _ => decide (off < match bar with
      | .bar0 => 2 ^ 26
      | .bar4 => 2 ^ 20)
  | .invalidSubmissionEntry => true
  | .admitRecipe => true
  | .startStep => true
  | .startStepHeldBegin recipe => wfHandle recipe
  | .retireRecipe => true
  | .copy _ => true
  | .copyQueuedBegin _ => true
  | .snapshotNow => true
  | .restore _ => true
  | .restoreBodyWritten recipe => wfHandle recipe
  | .queryCapacity => true
  | .fenceQueue => true
  | .etCfgWrite _ => true
  | .etHeadWrite _ => true
  | .eventCollectorWrite _ => true
  | .interruptDelayExpiry (.completion q) => wfQueue q
  | .interruptDelayExpiry .eventTray => true
  | .hostFunctionReset _ => true
  | .hostLinkTraining width _ _ => decide (width ≤ 16)
  | .mailboxDoorbell _ => true
  | .rspHeadWrite _ => true
  | .read src => wfSrc src
  | .alertClearingRead src => wfSrc src
  | .write src => wfSrc src
  | .execute src => wfSrc src
  | .probe src _ => wfSrc src
  | .abort src => wfSrc src
  | .subscribe src => wfSrc src
  | .blockBegin src => wfSrc src
  | .blockData src => wfSrc src
  | .blockEnd src => wfSrc src
  | .frameDiscard src => wfSrc src
  | .notificationPeriod _ => true
  | .subscriptionExpiry _ => true
  | .blockSessionTimeout obj => decide (obj < 2 ^ 32)
  | .capWrite src => wfSrc src
  | .windowWrite src => wfSrc src
  | .deviceEnable src => wfSrc src
  | .deviceDisable src => wfSrc src
  | .wheelEnable src scan => wfSrc src && wfScan scan
  | .wheelDisable src => wfSrc src
  | .farPortEnable src _ => wfSrc src
  | .farPortDisable src => wfSrc src
  | .hingePortEnable src train => wfSrc src && wfTrain train
  | .hingePortDisable src => wfSrc src
  | .rindEnable src => wfSrc src
  | .rindDisable src => wfSrc src
  | .maintenanceRequest src => wfSrc src
  | .maintenanceEntry => true
  | .maintenanceExit src => wfSrc src
  | .caveFlushComplete (some p) => wfFarPort p
  | .caveFlushComplete none => true
  | .ownerLockWrite src => wfSrc src
  | .ownerLockLockoutEnd => true
  | .injectionPermitWrite src => wfSrc src
  | .injectionPointWrite src => wfSrc src
  | .injectionTick det => decide (det < 4096)
  | .detectorConfigWrite src => wfSrc src
  | .routeEntryWrite src => wfSrc src
  | .regionSizeWrite src => wfSrc src
  | .vatModeOverrideWrite src => wfSrc src
  | .commandEnd => true
  | .activateFirmware src => wfSrc src
  | .replanMargins src scans => wfSrc src && wfScans scans
  | .restoreRindImage src _ => wfSrc src
  | .reconcileDefectMap src _ => wfSrc src
  | .qualifyLinks src => wfSrc src
  | .confirmFirmware src => wfSrc src
  | .enterRecovery src => wfSrc src
  | .flushCaveCache src => wfSrc src
  | .deviceReset src => wfSrc src
  | .wheelReset src => wfSrc src
  | .taskLoad recipe wheel _ => wfHandle recipe && wfWheel wheel
  | .taskStart t => wfTask t
  | .taskRetire t => wfTask t
  | .pageReturn recipe _ => wfHandle recipe
  | .stepComplete recipe => wfHandle recipe
  | .stepWatchdogExpiry recipe => wfHandle recipe
  | .spanPatienceExpiry recipe => wfHandle recipe
  | .completionRingStall q => wfQueue q
  | .hoopPick wheel hoop => wfHoop wheel hoop
  | .riscvInstruction c => wfCore c
  | .icacheMissFill c => wfCore c
  | .ecallExit c => wfCore c
  | .budgetExceeded c => wfCore c
  | .kzQuant c => wfCore c
  | .kzDequant c => wfCore c
  | .kzEyepickAccumulate c => wfCore c
  | .kzEyepickSelect c => wfCore c
  | .kzTopk c => wfCore c
  | .kzHist c => wfCore c
  | .kzCarry c => wfCore c
  | .carryComplete c k _ => wfCore c && decide (k < 8)
  | .kzTadd c => wfCore c
  | .chainAction _ => true
  | .kzTwait c => wfCore c
  | .twaitWake c => wfCore c
  | .kzTarm c => wfCore c
  | .kzPost c => wfCore c
  | .kzSpecBegin c => wfCore c
  | .kzSpecEnd c => wfCore c
  | .mac d => wfDesc d
  | .macClear d => wfDesc d
  | .drain d => wfDesc d
  | .loadAcc d => wfDesc d
  | .transpose d => wfDesc d
  | .fence d => wfDesc d
  | .descriptorSignal d => wfDesc d
  | .arrangementReconfigure vat => wfWheel vat
  | .vatChangeApply vat => wfWheel vat
  | .recomputeOpenGrant recipe _ => wfHandle recipe
  | .recomputeOpenWaitTimeout recipe _ => wfHandle recipe
  | .feederStarvationTimeout vat => wfWheel vat
  | .vatHandshakeStall vat _ => wfWheel vat
  | .updateNativeApply d => wfDesc d
  | .updateMh4Apply d => wfDesc d
  | .updateCopiesOnly d => wfDesc d
  | .ratioPassNative d => wfDesc d
  | .ratioPassMh4 d => wfDesc d
  | .updatePacket d _ => wfDesc d
  | .emissionUnit d _ _ => wfDesc d
  | .versionWaitTimeout t _ => wfTask t
  | .rindWaitTimeout d => wfDesc d
  | .hingePut d => wfDesc d
  | .dispatchOrdinary d => wfDesc d
  | .dispatchSpeculative d => wfDesc d
  | .dispatchResend d => wfDesc d
  | .verify d => wfDesc d
  | .unpack d => wfDesc d
  | .combine d => wfDesc d
  | .allReduce d => wfDesc d
  | .reduceScatter d => wfDesc d
  | .allGather d => wfDesc d
  | .span d => wfDesc d
  | .nullFlit port flit => wfFlit port flit
  | .flitCrcFailure port flit => wfFlit port flit
  | .linkInit port flit => wfFlit port flit
  | .spanAdd port flit => wfFlit port flit
  | .guard port flit => wfFlit port flit
  | .notice port flit => wfFlit port flit
  | .get port flit => wfFlit port flit
  | .getData port flit => wfFlit port flit
  | .put port flit => wfFlit port flit
  | .putAck port flit => wfFlit port flit
  | .nack port flit => wfFlit port flit
  | .guardAck port flit => wfFlit port flit
  | .portRetrain port _ => wfPort port
  | .retrainComplete port train => wfPort port && wfTrain train
  | .qualificationDwellEnd link _ => wfLink link
  | .preFecBerWindow port ber _ _ => wfPort port && decide (0 ≤ ber)
  | .caveDemandRead t _ => wfTask t
  | .caveFillComplete recipe _ _ => wfHandle recipe
  | .trackerClose recipe _ => wfHandle recipe
  | .memoryRead r _ _ _ => wfWheel r.wheel
  | .memoryWrite r _ _ _ => wfWheel r.wheel
  | .adds32 addr _ => decide (addr % 4 = 0)
  | .add64 addr _ => decide (addr % 8 = 0)
  | .maxf32 addr _ => decide (addr % 4 = 0)
  | .cas _ _ _ _ => true
  | .bankCapWaitEnd b => wfBank b
  | .patrolScrub _ _ => true
  | .bankNoProgress b => wfBank b
  | .bankFailed b => wfBank b
  | .channelSymbolRateExceeded channel => decide (channel < 640)
  | .viewUpdate => true
  | .paceLineRefresh activity => decide (activity.length = 34)
  | .paceLineKeepaliveLoss => true
  | .shuntSample volts watts => decide (0 ≤ volts) && decide (0 ≤ watts)
  | .powerExcursion joules _ => decide (0 ≤ joules)
  | .droopBegin d => wfDomain d
  | .droopClear d => wfDomain d
  | .deferredRateStep d => wfDomain d
  | .junctionSample d _ _ => wfDomain d
  | .regionalPullStep _ a b => wfDomain a && wfDomain b
  | .inletSample _ _ => true
  | .inletRecoveryTimer => true
  | .flowLoss => true
  | .junctionTrip d => wfDomain d
  | .trayFlowOkAssert => true
  | .inputLoss => true
  | .inputOvervoltage volts => decide (0 ≤ volts)
  | .inputReturn volts => decide (0 ≤ volts)
  | .powerUp volts => decide (0 ≤ volts)
  | .prechargeComplete => true
  | .holdupMeasurement _ => true
  | .monitorSample d _ => wfDomain d
  | .idleWindowReplan wheel scan => wfWheel wheel && wfScan scan
  | .replanOverdue wheel => wfWheel wheel
  | .auxPowerUp _ _ _ slotId => decide (slotId < 64)
  | .stage1Firmware _ _ => true
  | .stage2Rails r => r.badCores.all wfCore
  | .stage3Spares => true
  | .stage4Hbm r => r.trained.all (fun k => decide (k < 20)) && r.failed.all (fun ch => decide (ch < 640))
  | .stage5Tests r => wfStage5 r
  | .stage6Links r => wfStage6 r
  | .stage7Plan scans => wfScans scans
  | .stage8Decision => true
  | .stageTimeout => true
  | .hostLinkWaitExpiry => true
  | .coreStallDetect c => wfCore c
  | .coreStopTimeout c => wfCore c
  | .hoopPickStall wheel hoop => wfHoop wheel hoop
  | .drainEnd _ => true
  | .drainDeadline _ => true
  | .absorptionComplete _ => true
  | .resetEscalation _ => true
  | .wheelUsableAgain wheel r => wfWheel wheel && wfStage5 r
  | .lockstepMismatch => true
  | .wardenWatchdogExpiry => true
  | .wardenRestartComplete => true
  | .plcaBeaconLoss => true
  | .captureEntry recipe _ => wfHandle recipe
  | .imageDurable recipe => wfHandle recipe
  | .seatLatchedSet => true
  | .seatLatchedClear => true
  | .stby12SenseChange _ => true
  | .auxiliarySupplyLoss => true
  | .holdUpChargeThreshold percent => decide (percent ≤ 100)
  | .hostLinkError _ => true
  | .caveDeviceErrorReport port _ _ => wfFarPort port
  | .retrainTimeout port => wfPort port

end Sys2Proof
end

