-- ==== Sys2Proof/Certificates/Slice0/Obligations.lean ====
section
/-! DEFINITION. The statements for the provers. Each docstring names the rules that the statement comes from; a clause
that rests on a choice of the model names the log entry. Clauses of one shape say that a command answers a next state,
and which one, under conditions on the state and the operands alone. -/

open Sys2Proof Sys2Proof.Machine

/-! ### The machine as a whole -/

/-- A step takes the command at the front of the queue and runs it on the state with the rest of the queue; on an empty
queue the device time base (R20) advances by one nanosecond and nothing else changes (log entry 1). -/
def Obligations.StepRunsTheFrontCommand : Prop :=
  (∀ (c : Instr) (cs : List Instr) (s : State), s.pending = c :: cs → step s = exec c { s with pending := cs }) ∧
  (∀ s : State, s.pending = [] → step s = .next { s with now := (s.now + 1) % 2 ^ 64 })

/-- The state after reset meets the invariant of Safety.lean. -/
def Obligations.ResetMeetsTheInvariant : Prop := Inv State.reset

/-- Every step keeps the invariant: each store keeps its canonical form, the eight wheels, four far ports, 32 hinge ports
and 16 queues stay that many (R3, R145, R281, R352), and the Warden's lists stay within their lengths (R442, R472,
R481). -/
def Obligations.StepKeepsTheInvariant : Prop :=
  ∀ s t : State, Inv s → step s = .next t → Inv t

/-- No step changes the factory data (R457: it is written at manufacture only). -/
def Obligations.StepKeepsFactoryData : Prop :=
  ∀ s t : State, Inv s → step s = .next t → t.factory = s.factory

/-! ### The host interface -/

/-- SUBMISSION_DOORBELL (R349, R352), CQ_HEAD_WRITE (R357) and QCFG_WRITE (R353) on a trained link, with the function in
D0. A doorbell of an enabled queue moves its tail, and while RDY is clear is dropped and counted; a head write that
consumes entries that have been written moves the head and lets the entries held for lack of room follow in order, and
with none held leaves the ring not full; a write that sets EN applies the fields where they are good, and otherwise sets
CFGERR and nothing else; while EN is clear a write without EN sets the fields; while EN is set a write without EN clears
it where the queue is empty, and no other field changes. -/
def Obligations.QueueRegistersAnswer : Prop :=
  (∀ (s : State) (q tail : Nat), s.host.linkUp = true → s.host.hostPower = .d0 → q < 16 → s.host.rdy = false →
    exec (.submissionDoorbell q tail) s =
      .next (s.onHost (fun h => { h with droppedDb := min (h.droppedDb + 1) (2 ^ 64 - 1) }))) ∧
  (∀ (s : State) (q tail : Nat), s.host.linkUp = true → s.host.hostPower = .d0 →
      q < 16 → s.host.rdy = true → (s.queue q).en = true →
      tail < (s.queue q).size →
    exec (.submissionDoorbell q tail) s = .next (s.onQueue q (fun x => { x with sqTail := tail }))) ∧
  (∀ (s : State) (q index : Nat), s.host.linkUp = true → s.host.hostPower = .d0 →
      q < 16 → (s.queue q).en = true → index < (s.queue q).size →
      (s.queue q).held = [] → index ≠ (s.queue q).cqHead →
      (index + (s.queue q).size - (s.queue q).cqHead) % (s.queue q).size ≤
        ((s.queue q).cqTail + (s.queue q).size - (s.queue q).cqHead) % (s.queue q).size →
    exec (.cqHeadWrite q index) s = .next ((s.onQueue q (fun x => { x with
      cqHead := index, fullSince := none, stallPosted := false })).onQueue q (fun x => { x with cqFull := false }))) ∧
  (∀ (s : State) (q index : Nat), s.host.linkUp = true → s.host.hostPower = .d0 → q < 16 → (s.queue q).en = true →
      index < (s.queue q).size →
      (index + (s.queue q).size - (s.queue q).cqHead) % (s.queue q).size ≤
        ((s.queue q).cqTail + (s.queue q).size - (s.queue q).cqHead) % (s.queue q).size →
    exec (.cqHeadWrite q index) s = .next (drainHeld ((s.queue q).held.length + 1) q
      (s.onQueue q (consume index)))) ∧
  (∀ (s : State) (q : Nat) (v : Word), s.host.linkUp = true → s.host.hostPower = .d0 →
      q < 16 → (s.queue q).en = false → v.getLsbD 0 = true →
      bitsOf v.toNat 63 48 ≠ 0 → bitsOf v.toNat 13 1 ∈ [16, 32, 64, 128, 256, 512, 1024, 2048, 4096] →
      bitsOf v.toNat 31 22 = 0 → bitsOf v.toNat 15 14 = 0 →
    exec (.qcfgWrite q v) s = .next (s.onQueue q (fun x => { x with
      drain := bitsOf v.toNat 63 48, itime := bitsOf v.toNat 47 40, icount := bitsOf v.toNat 39 32,
      vector := bitsOf v.toNat 21 16, size := bitsOf v.toNat 13 1, en := true, cfgErr := false, sqHead := 0, sqTail := 0,
      cqHead := 0, cqTail := 0, phase := true, unsignalled := 0, firstUnsignalled := none, cqFull := false,
      fullSince := none, stallPosted := false }))) ∧
  (∀ (s : State) (q : Nat) (v : Word), s.host.linkUp = true → s.host.hostPower = .d0 →
      q < 16 → (s.queue q).en = false → v.getLsbD 0 = true →
      bitsOf v.toNat 63 48 = 0 →
    exec (.qcfgWrite q v) s = .next (s.onQueue q (fun x => { x with cfgErr := true }))) ∧
  (∀ (s : State) (q : Nat) (v : Word), s.host.linkUp = true → s.host.hostPower = .d0 → q < 16 → (s.queue q).en = false →
      v.getLsbD 0 = false →
    exec (.qcfgWrite q v) s = .next (s.onQueue q (fun x => { x with
      drain := bitsOf v.toNat 63 48, itime := bitsOf v.toNat 47 40, icount := bitsOf v.toNat 39 32,
      vector := bitsOf v.toNat 21 16, size := bitsOf v.toNat 13 1 }))) ∧
  (∀ (s : State) (q : Nat) (v : Word), s.host.linkUp = true → s.host.hostPower = .d0 →
      q < 16 → (s.queue q).en = true → v.getLsbD 0 = false →
      s.host.cmds.all (fun c => c.q != q) = true → (s.queue q).held = [] → (s.queue q).cqHead = (s.queue q).cqTail →
      (s.queue q).sqHead = (s.queue q).sqTail →
    exec (.qcfgWrite q v) s = .next (s.onQueue q (fun x => { x with en := false }))) ∧
  (∀ (s : State) (q : Nat) (v : Word), (s.queue q).en = true → v.getLsbD 0 = true → exec (.qcfgWrite q v) s = .next s)

/-- COMPLETION_RING_STALL posts 0x541 once when the ring has been full beyond DRAIN, and INTERRUPT_DELAY_EXPIRY raises the
vector of a ring with an unsignalled entry (R357, R480). -/
def Obligations.RingTimersAnswer : Prop :=
  (∀ (s : State) (q t : Nat), (s.queue q).fullSince = some t → t + (s.queue q).drain * 100000 < s.now →
      (s.queue q).stallPosted = false →
    exec (.completionRingStall q) s =
      .next (post 0x541 0xB0000 0 [] (s.onQueue q (fun x => { x with stallPosted := true })))) ∧
  (∀ (s : State) (q t : Nat), (s.queue q).firstUnsignalled = some t → (s.queue q).itime ≠ 0 →
      t + (s.queue q).itime * 1000 ≤ s.now →
    exec (.interruptDelayExpiry (.completion q)) s = .next (raiseMsix (s.queue q).vector
      (s.onQueue q (fun x => { x with unsignalled := 0, firstUnsignalled := none })))) ∧
  (∀ (s : State) (t : Nat), s.events.en = true → s.events.firstUnsignalled = some t →
      bitsOf s.events.cfg.toNat 31 24 ≠ 0 → t + bitsOf s.events.cfg.toNat 31 24 * 1000 ≤ s.now →
    exec (.interruptDelayExpiry .eventTray) s = .next (raiseMsix (bitsOf s.events.cfg.toNat 13 8)
      (s.onEvents (fun e => { e with unsignalled := 0, firstUnsignalled := none }))))

/-- The near-tier window and the registers that the host writes (R348, R349, R350, R445, R446, R478): BAR2_BASE_WRITE
within and beyond host space, BAR2_ACCESS within host space, GENERIC_REGISTER_WRITE of the base of the Event Tray, of
a ring and of a reserved range, MAILBOX_DOORBELL and RSP_HEAD_WRITE; and what the host-interface registers and reserved
ranges read. -/
def Obligations.HostWindowAnswers : Prop :=
  (∀ (s : State) (v : Word), s.host.linkUp = true → s.host.hostPower = .d0 →
      v.toNat / 2 ^ 30 * 2 ^ 30 + 2 ^ 36 ≤ hostSpace s →
    exec (.bar2BaseWrite v) s =
      .next (s.onHost (fun h => { h with bar2Base := BitVec.ofNat 64 (v.toNat / 2 ^ 30 * 2 ^ 30) }))) ∧
  (∀ (s : State) (v : Word), hostSpace s < v.toNat / 2 ^ 30 * 2 ^ 30 + 2 ^ 36 → exec (.bar2BaseWrite v) s = .next s) ∧
  (∀ (s : State) (off n : Nat), s.host.linkUp = true → s.host.hostPower = .d0 → off + n ≤ 2 ^ 36 →
      s.host.bar2Base.toNat + off + n ≤ hostSpace s →
    exec (.bar2Access off (.read n)) s = .next (s.onHost (fun h => { h with
      readData := memRead s.near (s.host.bar2Base.toNat + off) n,
      readEp := poisoned s (.near (s.host.bar2Base.toNat + off)) n }))) ∧
  (∀ (s : State) (off : Nat) (bs : List Byte), s.host.linkUp = true → s.host.hostPower = .d0 →
      s.near.wf = true → off + bs.length ≤ 2 ^ 36 →
      s.host.bar2Base.toNat + off + bs.length ≤ hostSpace s →
    ∃ t, exec (.bar2Access off (.write bs)) s = .next t ∧
      memRead t.near (s.host.bar2Base.toNat + off) bs.length = bs ∧
      (∀ a, a < s.host.bar2Base.toNat + off ∨ s.host.bar2Base.toNat + off + bs.length ≤ a →
        memGet t.near a = memGet s.near a)) ∧
  (∀ (s : State) (v : Word), s.host.linkUp = true → s.host.hostPower = .d0 → s.events.en = false →
    exec (.genericRegisterWrite .bar0 0x2000 (leBytes 8 v.toNat)) s =
      .next (s.onEvents (fun e => { e with base := v }))) ∧
  (∀ (s : State) (off : Nat) (bs : List Byte), s.host.linkUp = true → s.host.hostPower = .d0 →
      0x100000 ≤ off → off + bs.length ≤ 0x900000 →
    exec (.genericRegisterWrite .bar0 off bs) s =
      .next (s.onHost (fun h => { h with bar0 := memWrite h.bar0 off bs }))) ∧
  (∀ (s : State) (off : Nat) (bs : List Byte), 0x900000 ≤ off →
    exec (.genericRegisterWrite .bar0 off bs) s = .next s) ∧
  (∀ (s : State) (v : Word), s.host.linkUp = true → s.host.hostPower = .d0 → s.warden.mbCfg.getLsbD 0 = true →
      (s.life.state ≠ .failed ∨ s.host.qualified = true) → s.warden.up = true →
    exec (.mailboxDoorbell v) s = .next (s.onWarden (fun w => { w with reqTail := v.toNat % 64 }))) ∧
  (∀ (s : State) (v : Word), s.host.linkUp = true → s.host.hostPower = .d0 → s.warden.mbCfg.getLsbD 0 = true →
      (s.life.state ≠ .failed ∨ s.host.qualified = true) → s.warden.up = false →
    exec (.mailboxDoorbell v) s = .next (s.onWarden (fun w => { w with
      reqTail := v.toNat % 64, reqHead := v.toNat % 64 }))) ∧
  (∀ (s : State) (v : Word), s.host.linkUp = true → s.host.hostPower = .d0 →
    exec (.rspHeadWrite v) s = .next (s.onWarden (fun w => { w with rspHead := v.toNat % 64 }))) ∧
  (∀ s : State, bar0Reg s 0x00 = 0x0001001010000040 ∧ bar0Reg s 0x10 = s.gate.gen ∧
    bar0Reg s 0x18 = s.host.bar2Base.toNat ∧ bar0Reg s 0x20 = s.host.droppedDb ∧
    (∀ off, 0x1000 ≤ off → off < 0x2000 → bar0Reg s off = 0) ∧ (∀ off, 0x900000 ≤ off → bar0Reg s off = 0))

/-- The registers of the Event Tray (R478, R479, R480, R481): ET_CFG_WRITE that enables a good ring and that is refused,
ET_HEAD_WRITE within the records written, and EVENT_COLLECTOR_WRITE of the oldest record of its producer. -/
def Obligations.EventTrayAnswers : Prop :=
  (∀ (s : State) (v : Word), s.host.linkUp = true → s.host.hostPower = .d0 → s.events.en = false → v.getLsbD 0 = true →
      etEnableOk s v.toNat = true → s.events.backlog = [] →
    exec (.etCfgWrite v) s = .next (s.onEvents (fun e => { e with
      cfg := v, en := true, cfgErr := false, tail := 0, head := 0, unsignalled := 0,
      firstUnsignalled := none, backlog := [] }))) ∧
  (∀ (s : State) (v : Word), s.host.linkUp = true → s.host.hostPower = .d0 → s.events.en = false → v.getLsbD 0 = true →
      etEnableOk s v.toNat = false →
    exec (.etCfgWrite v) s = .next (s.onEvents (fun e => { e with cfg := v - 1, cfgErr := true }))) ∧
  (∀ (s : State) (v : Word), s.host.linkUp = true → s.host.hostPower = .d0 → s.events.full = false →
      v.toNat % 2 ^ 20 < etSize s.events →
      (v.toNat % 2 ^ 20 + etSize s.events - s.events.head) % etSize s.events ≤
        (s.events.tail + etSize s.events - s.events.head) % etSize s.events →
    exec (.etHeadWrite v) s = .next (s.onEvents (fun e => { e with head := v.toNat % 2 ^ 20 }))) ∧
  (∀ (s : State) (r : EventRec) (rs : List EventRec), s.events.transit = r :: rs →
    exec (.eventCollectorWrite 0) s = .next (collect r (s.onEvents (fun e => { e with transit := rs }))))

/-- The next entry that the queues give is taken (R354, R355): it is valid and carries operation code `opc`, or is not
valid where `opc` is 0; `c` is the command and `t` the state in which the queue has moved past the entry. -/
def Taken (s : State) (opc : Nat) (c : HostCmd) (t : State) : Prop :=
  ∃ q, nextQueue s = some q ∧ (if entryValid (entryAt s q) then leAt (entryAt s q) 0 1 else 0) = opc ∧
    takeEntry q true s = (c, t)

/-- A taken entry moves SQ_HEAD of its queue by one, gives the turn to the next queue, and puts the command behind those
that have not completed; nothing else changes (R355). -/
def Obligations.TakingAnEntry : Prop :=
  ∀ (s : State) (opc : Nat) (c : HostCmd) (t : State), Taken s opc c t →
    c.q < 16 ∧ (s.queue c.q).en = true ∧ (s.queue c.q).sqHead ≠ (s.queue c.q).sqTail ∧
    c.cid = leAt c.entry 2 2 ∧ c.recipe = leAt c.entry 4 4 ∧ c.begun = true ∧
    t = { s with host := { s.host with
      queues := modAt s.host.queues c.q (fun x => { x with sqHead := (x.sqHead + 1) % x.size }),
      cmds := s.host.cmds ++ [c], nextOrder := s.host.nextOrder + 1, turn := (c.q + 1) % 16 } }

/-- The commands of the submission queues that answer at once (R354, R355, R358, R359, R360, R363, R364, R366, R424):
an entry that is not valid completes INVALID; ADMIT_RECIPE is refused with the code of the first failing check, or the
recipe is installed under the next handle and the entry completes with it, or it waits while MAINTENANCE is requested
or the Warden restarts, which is the model's reading of R17 (log entry 67), and is then served before a later one;
QUERY_CAPACITY writes the capacity block; SNAPSHOT_NOW marks the recipe and returns the ordinal; COPY is refused, runs
on a free engine, or waits behind an earlier one; FENCE_QUEUE waits (mode 0), or first completes as FLUSHED a command of
the target queue that waits, or the entries that have not been taken (mode 1). -/
def Obligations.QueueCommandsAnswer : Prop :=
  (∀ (s : State) (c : HostCmd) (t : State), Taken s 0 c t →
    exec .invalidSubmissionEntry s = .next (finish c { status := 5, recipe := c.recipe } t)) ∧
  (∀ (s : State) (c : HostCmd) (t : State) (code : Nat), heldAdmission s = none → Taken s 1 c t →
      t.life.maintenanceWaiting = false → t.warden.up = true →
      imageCheck t (leAt c.entry 8 8) = .error code →
    exec .admitRecipe s =
      .next (finish c { status := 1, reason := code, recipe := c.recipe, gen := t.gate.gen } t)) ∧
  (∀ (s : State) (c : HostCmd) (t : State) (r : Recipe), heldAdmission s = none → Taken s 1 c t →
      t.life.maintenanceWaiting = false → t.warden.up = true →
      imageCheck t (leAt c.entry 8 8) = .ok r → gateCheck (applyPending t) r = none →
    exec .admitRecipe s = .next (finish c
      { status := 0, recipe := (applyPending t).gate.nextHandle, gen := (applyPending t).gate.gen }
      (installRecipe (applyPending t).gate.nextHandle r (applyPending t)))) ∧
  (∀ (s : State) (c : HostCmd) (t : State) (r : Recipe) (code : Nat), heldAdmission s = none → Taken s 1 c t →
      t.life.maintenanceWaiting = false → t.warden.up = true →
      imageCheck t (leAt c.entry 8 8) = .ok r → gateCheck (applyPending t) r = some code →
    exec .admitRecipe s = .next (finish c
      { status := 1, reason := code, recipe := c.recipe, gen := (applyPending t).gate.gen } (applyPending t))) ∧
  (∀ (s : State) (c : HostCmd) (t : State), heldAdmission s = none → Taken s 1 c t →
      (t.life.maintenanceWaiting = true ∨ t.warden.up = false) →
    exec .admitRecipe s = .next (t.onHost (fun h => { h with
      cmds := modFirst (fun d => d.order == c.order) (fun d => { d with begun := false }) h.cmds }))) ∧
  (∀ (s : State) (c : HostCmd), heldAdmission s = some c → exec .admitRecipe s = .next (admitImage c s)) ∧
  (∀ (s : State) (c : HostCmd) (t : State), Taken s 7 c t →
    exec .queryCapacity s = .next (finish c { status := 0, gen := t.gate.gen }
      { t with hostMem := memWrite t.hostMem (leAt c.entry 8 8) (capacityBlock t) })) ∧
  (∀ (s : State) (c : HostCmd) (t : State) (r : Recipe), Taken s 5 c t → t.serving = true →
      t.recipe? c.recipe = some r → retiring t c.recipe = false → t.warden.stored.rindEnable = true → r.capt ≠ [] →
    exec .snapshotNow s = .next (finish c { status := 0, recipe := c.recipe, step := nextBegun r }
      (t.onRecipe c.recipe (fun r => { r with snapNow := true })))) ∧
  (∀ (s : State) (c : HostCmd) (t : State) (e : Option Nat) (code : Nat), Taken s 4 c t → copyRefusal t c = some code →
    exec (.copy e) s = .next (finish c { status := 1, reason := code, recipe := c.recipe, gen := t.gate.gen } t)) ∧
  (∀ (s : State) (c : HostCmd) (t : State) (e : Option Nat), Taken s 4 c t → copyRefusal t c = none →
      (copyEngineFree t).isSome = true → t.host.cmds.any (fun d => d.opc == 4 && !d.begun) = false →
    exec (.copy e) s = .next (runCopy c e t)) ∧
  (∀ (s : State) (c : HostCmd) (t : State) (e : Option Nat), Taken s 4 c t → copyRefusal t c = none →
      copyEngineFree t = none →
    exec (.copy e) s = .next (t.onHost (fun h => { h with
      cmds := modFirst (fun d => d.order == c.order) (fun d => { d with begun := false }) h.cmds }))) ∧
  (∀ (s : State) (c : HostCmd) (e : Option Nat),
      s.host.cmds.find? (fun d => d.opc == 4 && !d.begun) = some c → (copyEngineFree s).isSome = true →
    exec (.copyQueuedBegin e) s = .next (runCopy c e (beginCmd c s))) ∧
  (∀ (s : State) (c : HostCmd) (t : State), Taken s 8 c t → leAt c.entry 9 1 = 0 →
    exec .fenceQueue s = .next (fencesCheck t.host.cmds.length t)) ∧
  (∀ (s : State) (c : HostCmd) (t u : State), Taken s 8 c t → leAt c.entry 9 1 = 1 →
      t.host.cmds.filter (fun d => d.q == leAt c.entry 8 1 && !d.begun && leAt c.entry 8 1 != c.q) = [] →
      u = flushEntries (t.queue (leAt c.entry 8 1)).size (leAt c.entry 8 1) t →
    exec .fenceQueue s = .next (fencesCheck u.host.cmds.length u)) ∧
  (∀ (s : State) (c d : HostCmd) (t u : State), Taken s 8 c t → leAt c.entry 9 1 = 1 →
      t.host.cmds.filter (fun d => d.q == leAt c.entry 8 1 && !d.begun && leAt c.entry 8 1 != c.q) = [d] →
      hasEntry ((finishOne d { status := 4, recipe := d.recipe } t).queue (leAt c.entry 8 1)) = false →
      u = finishOne d { status := 4, recipe := d.recipe } t →
    exec .fenceQueue s = .next (fencesCheck u.host.cmds.length u))

/-- The commands of the submission queues that begin a step, a restore or a retirement (R161, R169, R177, R341, R342,
R344, R355, R358, R364, R365, R424): START_STEP begins its step, or the halted one again, or is refused, or is
held behind the recipe's running step and begins as START_STEP_HELD_BEGIN; RETIRE_RECIPE; RESTORE; and
RESTORE_BODY_WRITTEN, which replays the next step with the journal's seeds. -/
def Obligations.StepCommandsAnswer : Prop :=
  (∀ (s : State) (c : HostCmd) (t : State) (r : Recipe), Taken s 2 c t →
      t.serving = true → t.recipe? c.recipe = some r → retiring t c.recipe = false → startHeld t r c = false →
      startRefusal t r (bitOf (leAt c.entry 1 1) 0) = none → r.halted = none →
    exec .startStep s = .next (beginStep r.handle (nextOrd r) (leAt c.entry 8 8) (leAt c.entry 16 8)
      (.command c.q c.cid) (beginCmd c t))) ∧
  (∀ (s : State) (c : HostCmd) (t : State) (r : Recipe), Taken s 2 c t →
      t.serving = true → t.recipe? c.recipe = some r → retiring t c.recipe = false → r.running.isSome = true →
    exec .startStep s = .next (t.onHost (fun h => { h with
      cmds := modFirst (fun d => d.order == c.order) (fun d => { d with begun := false }) h.cmds }))) ∧
  (∀ (s : State) (c : HostCmd) (t : State), Taken s 2 c t → t.serving = false →
    exec .startStep s =
      .next (finish c { status := 1, reason := 0x616, recipe := c.recipe, gen := t.gate.gen } t)) ∧
  (∀ (s : State) (c : HostCmd) (t : State), Taken s 2 c t → t.serving = true → t.recipe? c.recipe = none →
    exec .startStep s =
      .next (finish c { status := 1, reason := 0x614, recipe := c.recipe, gen := t.gate.gen } t)) ∧
  (∀ (s : State) (c : HostCmd) (t : State) (r : Recipe) (code : Nat), Taken s 2 c t → t.serving = true →
      t.recipe? c.recipe = some r → retiring t c.recipe = false → startHeld t r c = false →
      startRefusal t r (bitOf (leAt c.entry 1 1) 0) = some code →
    exec .startStep s =
      .next (finish c { status := 1, reason := code, recipe := c.recipe, gen := t.gate.gen } t)) ∧
  (∀ (s : State) (c : HostCmd) (t : State) (r : Recipe), Taken s 2 c t → t.serving = true →
      t.recipe? c.recipe = some r → retiring t c.recipe = true →
    exec .startStep s =
      .next (finish c { status := 1, reason := 0x614, recipe := c.recipe, gen := t.gate.gen } t)) ∧
  (∀ (s : State) (c : HostCmd) (t : State) (r : Recipe) (o : Nat × Bool), Taken s 2 c t → t.serving = true →
      t.recipe? c.recipe = some r → retiring t c.recipe = false → startHeld t r c = false →
      startRefusal t r (bitOf (leAt c.entry 1 1) 0) = none → r.halted = some o →
    exec .startStep s = .next (beginStep r.handle o.1 (leAt c.entry 8 8) (leAt c.entry 16 8)
      (.command c.q c.cid) (beginCmd c t))) ∧
  (∀ (s : State) (c : HostCmd) (h : Nat) (r : Recipe), s.life.maintenanceWaiting = false →
      s.host.cmds.find? (fun d => d.opc == 2 && d.recipe == h && !d.begun) = some c → c.recipe = h →
      s.recipe? h = some r → startHeld s r c = false → startRefusal s r (bitOf (leAt c.entry 1 1) 0) = none →
      r.halted = none →
    exec (.startStepHeldBegin h) s = .next (beginStep r.handle (nextOrd r) (leAt c.entry 8 8) (leAt c.entry 16 8)
      (.command c.q c.cid) (beginCmd c s))) ∧
  (∀ (s : State) (c : HostCmd) (t : State) (r : Recipe), Taken s 3 c t → t.recipe? c.recipe = some r →
      t.host.cmds.any (fun d => d.opc == 3 && d.recipe == c.recipe && d.order != c.order) = false →
    exec .retireRecipe s = .next (retire c.recipe t)) ∧
  (∀ (s : State) (c : HostCmd) (t : State), Taken s 3 c t → t.recipe? c.recipe = none →
    exec .retireRecipe s =
      .next (finish c { status := 1, reason := 0x614, recipe := c.recipe, gen := t.gate.gen } t)) ∧
  (∀ (s : State) (c : HostCmd) (t : State) (r : Recipe) (x : RestoreRun) (n : Nand), Taken s 6 c t → t.serving = true →
      t.recipe? c.recipe = some r → retiring t c.recipe = false → t.warden.stored.rindEnable = true → r.capt ≠ [] →
      restoreStart t r (leAt c.entry 8 8) (.command c.q c.cid) (n == .uncorrectable) = .ok x →
    exec (.restore n) s = .next (abandonRecipe c.recipe (nandEvent n (t.onRecipe c.recipe (fun r => { r with
      restoring := some x }))))) ∧
  (∀ (s : State) (h : Nat) (r : Recipe) (x : RestoreRun) (i : Image) (j : JournalRec), s.recipe? h = some r →
      r.restoring = some x → s.image? x.image = some i → x.replaying = false → r.running = none → replanWaits s r = false →
      x.nandBad = false →
      journalOf (writeBody h r i false s) i.crc i.stamp (i.step + 1) = some j →
    ∃ o u, exec (.restoreBodyWritten h) s = .next (beginStep h (i.step + 1) j.seed j.dataSeed o u) ∧
      (∀ q cid, x.origin = .command q cid → o = .restore q cid))

/-! ### The Object Access Protocol -/

/-- A frame is taken as the command `row` (R436 to R442): the Warden answers, the frame is whole, its opcode and object
are the command's, fewer than 32 requests wait, it does not repeat the operation that runs, and no response to it is
cached; `r` is the request and `t` the state in which the Mailbox's ring has moved past it. -/
def FrameTaken (s : State) (src : OapSrc) (row : Row) (r : Req) (t : State) : Prop :=
  ∃ p b, frameOf s src = some (p, b) ∧ r = parseFrame p b ∧ t = takeFrame src s ∧ awake s = true ∧ frameBad b = false ∧
    rowOf s r = row ∧ s.life.romFailed = false ∧ waitingAt src < 32 ∧ repeatsRunning t r = false ∧
    cachedFor t r = none

/-- The request passes the checks of R441, and `f` is its object's entry in the dictionary. -/
def Accepted (s : State) (src : OapSrc) (row : Row) (r : Req) (f : Info) (t : State) : Prop :=
  FrameTaken s src row r t ∧ precheck t r = .ok f

/-- Answer a request. -/
def reply (r : Req) (a : Ans) (s : State) : State := respond r.peer r.op r.seq r.obj a s

/-- The commands that are requests of the Object Access Protocol, with the place each comes from and what its frame is. -/
def oapOf : Instr → Option (OapSrc × Row)
  | .read p => some (p, .read)
  | .alertClearingRead p => some (p, .alertRead)
  | .write p => some (p, .write)
  | .execute p => some (p, .execute)
  | .abort p => some (p, .abort)
  | .subscribe p => some (p, .subscribe)
  | .blockBegin p => some (p, .blockBegin)
  | .blockData p => some (p, .blockData)
  | .blockEnd p => some (p, .blockEnd)
  | .capWrite p => some (p, .cap)
  | .windowWrite p => some (p, .window)
  | .deviceEnable p => some (p, .devOn)
  | .deviceDisable p => some (p, .devOff)
  | .wheelEnable p _ => some (p, .wheelOn)
  | .wheelDisable p => some (p, .wheelOff)
  | .farPortEnable p _ => some (p, .farOn)
  | .farPortDisable p => some (p, .farOff)
  | .hingePortEnable p _ => some (p, .portOn)
  | .hingePortDisable p => some (p, .portOff)
  | .rindEnable p => some (p, .rindOn)
  | .rindDisable p => some (p, .rindOff)
  | .maintenanceRequest p => some (p, .maintOn)
  | .maintenanceExit p => some (p, .maintOff)
  | .ownerLockWrite p => some (p, .lock)
  | .injectionPermitWrite p => some (p, .permit)
  | .injectionPointWrite p => some (p, .point)
  | .detectorConfigWrite p => some (p, .detCfg)
  | .routeEntryWrite p => some (p, .route)
  | .regionSizeWrite p => some (p, .region)
  | .vatModeOverrideWrite p => some (p, .vatMode)
  | .activateFirmware p => some (p, .activate)
  | .replanMargins p _ => some (p, .replan)
  | .restoreRindImage p _ => some (p, .restore)
  | .reconcileDefectMap p _ => some (p, .reconcile)
  | .qualifyLinks p => some (p, .qualify)
  | .confirmFirmware p => some (p, .confirm)
  | .enterRecovery p => some (p, .recovery)
  | .flushCaveCache p => some (p, .flush)
  | .deviceReset p => some (p, .devReset)
  | .wheelReset p => some (p, .wheelReset)
  | _ => none

/-- Every request is checked in the order of R441 before its object is touched: with 32 requests waiting it is answered
QUEUE_FULL and counted (R441, R442); a request whose response is cached is answered with that frame and has no second
effect, and one that repeats the operation that runs is answered BUSY (R442); one that fails a check is answered with
that check's status and changes nothing else. -/
def Obligations.RequestsAreCheckedBeforeTheirEffect : Prop :=
  ∀ (i : Instr) (src : OapSrc) (row : Row), oapOf i = some (src, row) →
    (∀ (s : State) (p : Peer) (b : List Byte), frameOf s src = some (p, b) → awake s = true → frameBad b = false →
        rowOf s (parseFrame p b) = row → s.life.romFailed = false → 32 ≤ waitingAt src →
      exec i s = .next (reply (parseFrame p b) { status := 0x0D }
        ((takeFrame src s).onWarden (fun w => { w with queueFull := satAdd 32 w.queueFull 1 })))) ∧
    (∀ (s : State) (p : Peer) (b : List Byte) (c : Cached), frameOf s src = some (p, b) → awake s = true →
        frameBad b = false → rowOf s (parseFrame p b) = row → s.life.romFailed = false → waitingAt src < 32 →
        repeatsRunning (takeFrame src s) (parseFrame p b) = false →
        cachedFor (takeFrame src s) (parseFrame p b) = some c →
      exec i s = .next (sendFrame p c.frame (takeFrame src s))) ∧
    (∀ (s : State) (p : Peer) (b : List Byte), frameOf s src = some (p, b) → awake s = true → frameBad b = false →
        rowOf s (parseFrame p b) = row → s.life.romFailed = false → waitingAt src < 32 →
        repeatsRunning (takeFrame src s) (parseFrame p b) = true →
      exec i s = .next (reply (parseFrame p b) (busyAns (takeFrame src s)) (takeFrame src s))) ∧
    (∀ (s : State) (r : Req) (t : State) (a : Ans), FrameTaken s src row r t → precheck t r = .error a →
      exec i s = .next (reply r a t))

/-- READ, the READ that clears ALERT, PROBE, EXECUTE of an object that is no command, SUBSCRIBE and what follows it, and
FRAME_DISCARD (R437, R438, R439, R440, R441, R444, R445, R448, R473, R484): each answers, and a discarded frame is
counted and not answered. -/
def Obligations.ReadsAndSubscriptionsAnswer : Prop :=
  (∀ (s : State) (src : OapSrc) (r : Req) (f : Info) (t : State), Accepted s src .read r f t →
    exec (.read src) s = .next (reply r
      { status := 0, pay := readPayload t f r.obj (beAt r.pay 0 r.pay.length) r.whole } (readDrawn r.obj t))) ∧
  (∀ (s : State) (src : OapSrc) (r : Req) (f : Info) (t : State), Accepted s src .alertRead r f t →
    exec (.alertClearingRead src) s = .next (reply r
      { status := 0, pay := readPayload t f r.obj (beAt r.pay 0 r.pay.length) r.whole }
      ((readDrawn r.obj t).onEvents (fun e => { e with alertLow := false })))) ∧
  (∀ (s : State) (src : OapSrc) (r : Req) (f : Info) (t : State), Accepted s src .probe r f t →
    exec (.probe src false) s = .next (reply r { status := 0, pay := probeBlock t } t)) ∧
  (∀ (s : State) (src : OapSrc) (r : Req) (t : State) (f : Info), FrameTaken s src .execute r t → r.ver = 1 →
      bitsOf r.flags 7 3 = 0 → t.warden.run = none → objInfo t r.obj = some f → f.acc ≠ .cmd →
    exec (.execute src) s = .next (reply r { status := 4 } t)) ∧
  (∀ (s : State) (src : OapSrc) (r : Req) (f : Info) (t : State), Accepted s src .subscribe r f t →
      beAt r.pay 4 4 ≠ 0 → t.warden.subs = [] →
    ∃ u, exec (.subscribe src) s = .next (reply r { status := 0, pay := beBytes 4 t.warden.nextSub } (notify 0 u)) ∧
      u.warden.subs = [{ peer := r.peer, obj := r.obj, period := beAt r.pay 0 4, lifetime := beAt r.pay 4 4,
                         since := t.now, lastSent := t.now, seq := 0, number := t.warden.nextSub,
                         lastValue := [] }]) ∧
  (∀ (s : State) (k : Nat) (x : Sub), s.warden.subs[k]? = some x → s.power.aux = true → s.warden.up = true →
      x.period ≠ 0 → x.lastSent + x.period * 10 ^ 6 ≤ s.now →
    exec (.notificationPeriod k) s = .next (notify k s)) ∧
  (∀ (s : State) (k : Nat) (x : Sub), s.warden.subs[k]? = some x → x.since + x.lifetime * 10 ^ 9 ≤ s.now →
    exec (.subscriptionExpiry k) s = .next (s.onWarden (fun w => { w with subs := w.subs.eraseIdx k }))) ∧
  (∀ (s : State) (src : OapSrc) (p : Peer) (b : List Byte), frameOf s src = some (p, b) → awake s = true →
      frameBad b = true →
    exec (.frameDiscard src) s = .next (countDiscard p.mailbox (takeFrame src s)))

/-- The transfer of blocks and the end of its sessions (R443): BLOCK_BEGIN opens a session for the object, BLOCK_DATA at
the session's length appends its bytes, BLOCK_END of a session that is not whole or whose CRC differs discards it, and
a session idle for 60 s is discarded. -/
def Obligations.BlockTransfersAnswer : Prop :=
  (∀ (s : State) (src : OapSrc) (r : Req) (f : Info) (t : State), Accepted s src .blockBegin r f t →
      isRoutes r.obj = true → totalOk r.obj (beAt r.pay 1 4) = true → t.warden.sessions = [] →
    exec (.blockBegin src) s = .next (reply r { status := 0 } (t.onWarden (fun w => { w with
      sessions := [{ obj := r.obj, total := beAt r.pay 1 4, data := [], lastOff := 0, lastChunk := [],
                     lastTime := t.now }] })))) ∧
  (∀ (s : State) (src : OapSrc) (r : Req) (f : Info) (t : State) (x : Session), Accepted s src .blockData r f t →
      t.warden.sessions = [x] → x.obj = r.obj → beAt r.pay 1 4 = x.data.length →
    exec (.blockData src) s = .next (reply r { status := 0 } (t.onWarden (fun w => { w with
      sessions := [{ x with data := x.data ++ r.pay.drop 5, lastOff := beAt r.pay 1 4, lastChunk := r.pay.drop 5,
                            lastTime := t.now }] })))) ∧
  (∀ (s : State) (src : OapSrc) (r : Req) (f : Info) (t : State) (x : Session), Accepted s src .blockEnd r f t →
      sessionOf t r.obj = some x → x.data.length ≠ x.total ∨ crc32c x.data ≠ beAt r.pay 1 4 →
    ∃ a, exec (.blockEnd src) s = .next (reply r a (closeSession r.obj t)) ∧ a.status = 0x0E) ∧
  (∀ (s : State) (src : OapSrc) (r : Req) (f : Info) (t : State) (x : Session), Accepted s src .blockEnd r f t →
      sessionOf t r.obj = some x → x.data.length = x.total → crc32c x.data = beAt r.pay 1 4 → isRoutes r.obj = true →
    ∃ a u, routesEnd x.data (closeSession r.obj t) = (u, some a) ∧ exec (.blockEnd src) s = .next (reply r a u)) ∧
  (∀ (s : State) (obj : Nat) (x : Session), sessionOf s obj = some x → s.warden.up = true →
      x.lastTime + 60 * 10 ^ 9 ≤ s.now →
    exec (.blockSessionTimeout obj) s = .next (closeSession obj s))

/-- Writes of settings (R79, R291, R376, R441, R451, R457, R464, R466, R470, R471, R485): WRITE of the soft limit,
CAP_WRITE within 4,000 to 9,000 W, WINDOW_WRITE within 1 to 10, INJECTION_PERMIT_WRITE, INJECTION_POINT_WRITE with and
without the permit, DETECTOR_CONFIG_WRITE, ROUTE_ENTRY_WRITE, REGION_SIZE_WRITE and VAT_MODE_OVERRIDE_WRITE, each
stored and answered OK, or refused with its code and stored nowhere. -/
def Obligations.SettingsAnswer : Prop :=
  (∀ (s : State) (src : OapSrc) (r : Req) (f : Info) (t : State), Accepted s src .write r f t →
      groupOf r.obj = 0x11 →
    exec (.write src) s = .next (reply r { status := 0 }
      (t.onStored (fun x => { x with softLimit := beAt r.pay 0 r.pay.length })))) ∧
  (∀ (s : State) (src : OapSrc) (r : Req) (f : Info) (t : State), Accepted s src .cap r f t →
      4000 ≤ beAt r.pay 0 r.pay.length → beAt r.pay 0 r.pay.length ≤ 9000 →
    exec (.capWrite src) s = .next (reply r { status := 0 }
      (setCeiling (t.onStored (fun x => { x with cap := beAt r.pay 0 r.pay.length }))))) ∧
  (∀ (s : State) (src : OapSrc) (r : Req) (f : Info) (t : State), Accepted s src .cap r f t →
      beAt r.pay 0 r.pay.length < 4000 ∨ 9000 < beAt r.pay 0 r.pay.length →
    exec (.capWrite src) s = .next (reply r { status := 2, reason := 0x0101 } t)) ∧
  (∀ (s : State) (src : OapSrc) (r : Req) (f : Info) (t : State), Accepted s src .window r f t →
      1 ≤ beAt r.pay 0 r.pay.length → beAt r.pay 0 r.pay.length ≤ 10 →
    exec (.windowWrite src) s = .next (reply r { status := 0 }
      (t.onStored (fun x => { x with window := beAt r.pay 0 r.pay.length })))) ∧
  (∀ (s : State) (src : OapSrc) (r : Req) (f : Info) (t : State), Accepted s src .permit r f t → r.pay = [1#8] →
    exec (.injectionPermitWrite src) s = .next (reply r { status := 0 }
      (t.onEvents (fun e => { e with permit := true })))) ∧
  (∀ (s : State) (src : OapSrc) (r : Req) (f : Info) (t : State), Accepted s src .permit r f t → r.pay = [0#8] →
    exec (.injectionPermitWrite src) s = .next (reply r { status := 0 }
      (t.onEvents (fun e => { e with permit := false, points := [] })))) ∧
  (∀ (s : State) (src : OapSrc) (r : Req) (f : Info) (t : State), Accepted s src .point r f t →
      beAt r.pay 0 r.pay.length ≠ 0 → t.events.permit = true →
    exec (.injectionPointWrite src) s = .next (reply r { status := 0 } (t.onEvents (fun e => { e with
      points := put e.points (itemOf r.obj) { mode := beAt r.pay 0 r.pay.length % 4,
                                              n := beAt r.pay 0 r.pay.length / 256, ticks := 0, seq := 0 } })))) ∧
  (∀ (s : State) (src : OapSrc) (r : Req) (f : Info) (t : State), Accepted s src .point r f t →
      beAt r.pay 0 r.pay.length ≠ 0 → t.events.permit = false →
    exec (.injectionPointWrite src) s = .next (reply r { status := 2, reason := 0x0506 } t)) ∧
  (∀ (s : State) (src : OapSrc) (r : Req) (f : Info) (t : State), Accepted s src .detCfg r f t →
    ∃ l, exec (.detectorConfigWrite src) s = .next (reply r { status := 0 } (t.onEvents (fun e => { e with detCfg := l }))) ∧
      look l (indexOf r.obj) (if severity (indexOf r.obj) = 5 then 3 else 1) = beAt r.pay 0 r.pay.length) ∧
  (∀ (s : State) (src : OapSrc) (r : Req) (f : Info) (t : State), Accepted s src .route r f t → hingeInUse t = true →
    exec (.routeEntryWrite src) s = .next (reply r { status := 2, reason := 0x0303 } t)) ∧
  (∀ (s : State) (src : OapSrc) (r : Req) (f : Info) (t : State), Accepted s src .route r f t → hingeInUse t = false →
      routesOk t none (putRoute t.warden.stored.routes (indexOf r.obj) (routeBits (beAt r.pay 0 r.pay.length))) = true →
    exec (.routeEntryWrite src) s = .next (reply r { status := 0 } (t.onStored (fun x => { x with
      routes := putRoute x.routes (indexOf r.obj) (routeBits (beAt r.pay 0 r.pay.length)) })))) ∧
  (∀ (s : State) (src : OapSrc) (r : Req) (f : Info) (t : State), Accepted s src .region r f t →
      itemOf r.obj = 0x030 → regionsReach t (beAt r.pay 0 r.pay.length) t.warden.stored.devGiB = false →
    exec (.regionSizeWrite src) s = .next (reply r { status := 0 }
      (t.onStored (fun x => { x with caveGiB := beAt r.pay 0 r.pay.length })))) ∧
  (∀ (s : State) (src : OapSrc) (r : Req) (f : Info) (t : State), Accepted s src .region r f t →
      itemOf r.obj = 0x031 → regionsReach t t.warden.stored.caveGiB (beAt r.pay 0 r.pay.length) = true →
    exec (.regionSizeWrite src) s = .next (reply r { status := 2, reason := 0x0203 } t)) ∧
  (∀ (s : State) (src : OapSrc) (r : Req) (f : Info) (t : State) (w : Nat), Accepted s src .vatMode r f t → w < 8 →
      itemOf r.obj = 0x102 + 0x10 * w →
    ∃ u, exec (.vatModeOverrideWrite src) s = .next (reply r { status := 0 } u) ∧
      u.warden.stored.vatMode = t.warden.stored.vatMode.set w (beAt r.pay 0 r.pay.length))

/-- The owner lock (R452, R453): a WRITE of 1 on the clear lock sets it with the code given; on the set lock the same code
opens it, and another code is refused 0x0501, posts 0xA10 and stores nothing; while the lockout
lasts every WRITE is refused; and the lockout ends. -/
def Obligations.OwnerLockAnswers : Prop :=
  (∀ (s : State) (src : OapSrc) (r : Req) (f : Info) (t : State), Accepted s src .lock r f t →
      t.warden.lockout = none → t.warden.stored.lock = false → beAt r.pay 0 1 = 1 →
    exec (.ownerLockWrite src) s = .next (reply r { status := 0 }
      (t.onStored (fun x => { x with lock := true, ownerCode := beAt r.pay 1 4 })))) ∧
  (∀ (s : State) (src : OapSrc) (r : Req) (f : Info) (t : State), Accepted s src .lock r f t →
      t.warden.lockout = none → t.warden.stored.lock = true → beAt r.pay 0 1 = 0 →
      beAt r.pay 1 4 = t.warden.stored.ownerCode →
    exec (.ownerLockWrite src) s = .next (reply r { status := 0 } (t.onStored (fun x => { x with lock := false })))) ∧
  (∀ (s : State) (src : OapSrc) (r : Req) (f : Info) (t : State), Accepted s src .lock r f t →
      t.warden.lockout = none → t.warden.stored.lock = true → beAt r.pay 1 4 ≠ t.warden.stored.ownerCode →
    ∃ u, exec (.ownerLockWrite src) s = .next (reply r { status := 2, reason := 0x0501 } u) ∧
      u.warden.stored = t.warden.stored) ∧
  (∀ (s : State) (src : OapSrc) (r : Req) (f : Info) (t : State), Accepted s src .lock r f t →
      t.warden.lockout = none → t.warden.stored.lock = true → beAt r.pay 1 4 ≠ t.warden.stored.ownerCode →
      t.warden.wrongCodes = [] →
    exec (.ownerLockWrite src) s = .next (reply r { status := 2, reason := 0x0501 }
      (wpost 0xA10 wardenUnit 0 [] (t.onWarden (fun w => { w with wrongCodes := [t.now] }))))) ∧
  (∀ (s : State) (src : OapSrc) (r : Req) (f : Info) (t : State) (e : Nat), Accepted s src .lock r f t →
      t.warden.lockout = some e → t.now < e →
    exec (.ownerLockWrite src) s = .next (reply r { status := 2, reason := 0x0501 } t)) ∧
  (∀ (s : State) (e : Nat), s.warden.lockout = some e → e ≤ s.now →
    exec .ownerLockLockoutEnd s = .next (s.onWarden (fun w => { w with lockout := none })))

/-- Enables and disables (R149, R298, R325, R392, R419, R428, R429, R451, R462, R463, R465): each is stored and begins its
work, or is answered at once where there is none; the enable of a port whose conditions do not all hold is refused with
the code of the first that does not. -/
def Obligations.EnablesAnswer : Prop :=
  (∀ (s : State) (src : OapSrc) (r : Req) (f : Info) (t : State), Accepted s src .devOn r f t →
      t.warden.stored.devEnable = false → deviceRefusal t = none →
    exec (.deviceEnable src) s =
      .next (enterStage 2 t.now (startRun r false (t.onStored (fun x => { x with devEnable := true }))))) ∧
  (∀ (s : State) (src : OapSrc) (r : Req) (f : Info) (t : State), Accepted s src .devOff r f t →
      t.power.rails = false → t.life.state = .staging →
    ∃ u, exec (.deviceDisable src) s = .next (reply r { status := 0 } u) ∧ u.life.state = .off ∧ u.life.stage = none ∧
      u.warden.stored.devEnable = false) ∧
  (∀ (s : State) (src : OapSrc) (r : Req) (f : Info) (t : State) (x : WheelScan), Accepted s src .wheelOn r f t →
      nth t.warden.stored.wheelEnable (wheelOf r.obj) true = true →
    exec (.wheelEnable src x) s = .next (reply r { status := 0 } t)) ∧
  (∀ (s : State) (src : OapSrc) (r : Req) (f : Info) (t : State) (x : WheelScan), Accepted s src .wheelOn r f t →
      nth t.warden.stored.wheelEnable (wheelOf r.obj) true = false → t.serving = true →
      underReset t (wheelOf r.obj) = false → t.life.fencedWheels.contains (wheelOf r.obj) = false →
    exec (.wheelEnable src x) s = .next (finishRun 0 0 [] (startRun r false (wheelComesUp (wheelOf r.obj) x
      (t.onStored (fun y => { y with wheelEnable := y.wheelEnable.set (wheelOf r.obj) true })))))) ∧
  (∀ (s : State) (src : OapSrc) (r : Req) (f : Info) (t : State), Accepted s src .wheelOff r f t → t.power.rails = false →
    exec (.wheelDisable src) s = .next (reply r { status := 0 }
      (t.onStored (fun y => { y with wheelEnable := y.wheelEnable.set (wheelOf r.obj) false })))) ∧
  (∀ (s : State) (src : OapSrc) (r : Req) (f : Info) (t : State) (x : FarFound) (code : Nat), Accepted s src .farOn r f t →
      farRefusal t (beAt r.pay 0 r.pay.length % 4) x = some code →
    exec (.farPortEnable src x) s = .next (reply r { status := 2, reason := code } t)) ∧
  (∀ (s : State) (src : OapSrc) (r : Req) (f : Info) (t : State) (x : FarFound), Accepted s src .farOn r f t →
      farRefusal t (beAt r.pay 0 r.pay.length % 4) x = none → t.power.rails = true →
      beAt r.pay 0 r.pay.length % 4 ≠ 0 → (farUsable (beAt r.pay 0 r.pay.length % 4) x).isSome = true →
    exec (.farPortEnable src x) s = .next (farComesUp (farOf r.obj) (beAt r.pay 0 r.pay.length % 4) x (startRun r false
      (t.onStored (fun y => { y with
        farMode := y.farMode.set (farOf r.obj) (beAt r.pay 0 r.pay.length % 4),
        farEnable := y.farEnable.set (farOf r.obj) true }))))) ∧
  (∀ (s : State) (src : OapSrc) (r : Req) (f : Info) (t : State), Accepted s src .farOff r f t →
      (usableFar t).contains (farOf r.obj) = false →
    exec (.farPortDisable src) s = .next (reply r { status := 0 } (queueUpdate (viewChange [.far (farOf r.obj) .off])
      (t.onStored (fun y => { y with farEnable := y.farEnable.set (farOf r.obj) false }))))) ∧
  (∀ (s : State) (src : OapSrc) (r : Req) (f : Info) (t : State) (x : HingeTrain) (code : Nat),
      Accepted s src .portOn r f t → nth t.warden.stored.portEnable (hingeOf r.obj) false = false →
      hingeRefusal t (hingeOf r.obj) = some code →
    exec (.hingePortEnable src x) s = .next (reply r { status := 2, reason := code } t)) ∧
  (∀ (s : State) (src : OapSrc) (r : Req) (f : Info) (t : State) (x : HingeTrain),
      Accepted s src .portOn r f t → nth t.warden.stored.portEnable (hingeOf r.obj) false = false →
      hingeRefusal t (hingeOf r.obj) = none → linksTrain t = false →
    exec (.hingePortEnable src x) s = .next (reply r { status := 0 }
      (t.onStored (fun y => { y with portEnable := y.portEnable.set (hingeOf r.obj) true })))) ∧
  (∀ (s : State) (src : OapSrc) (r : Req) (f : Info) (t : State), Accepted s src .portOff r f t →
      (t.port (hingeOf r.obj)).state = .down →
    exec (.hingePortDisable src) s = .next (reply r { status := 0 }
      (t.onStored (fun y => { y with portEnable := y.portEnable.set (hingeOf r.obj) false })))) ∧
  (∀ (s : State) (src : OapSrc) (r : Req) (f : Info) (t : State), Accepted s src .rindOn r f t →
      t.warden.stored.rindEnable = false → rindRefusal t = none →
    ∃ u, exec (.rindEnable src) s = .next (reply r { status := 0 } u) ∧ u.warden.stored.rindEnable = true) ∧
  (∀ (s : State) (src : OapSrc) (r : Req) (f : Info) (t : State), Accepted s src .rindOff r f t →
      t.warden.stored.rindEnable = false →
    exec (.rindDisable src) s = .next (reply r { status := 0 } t)) ∧
  (∀ (s : State) (src : OapSrc) (r : Req) (f : Info) (t : State), Accepted s src .rindOff r f t →
      t.warden.stored.rindEnable = true →
    exec (.rindDisable src) s = .next (beginDisable .capture none [] (endAllWaits (startRun r false
      (t.onStored (fun y => { y with rindEnable := false }))))))

/-- MAINTENANCE (R151, R424): a WRITE of 1 stores the target and, from READY, waits for running steps; the entry changes
the state; a WRITE of 0 in MAINTENANCE flushes the cave cache first, and the flush that completes leaves the state. -/
def Obligations.MaintenanceAnswers : Prop :=
  (∀ (s : State) (src : OapSrc) (r : Req) (f : Info) (t : State), Accepted s src .maintOn r f t → t.life.state = .ready →
    exec (.maintenanceRequest src) s = .next (reply r { status := 0 }
      ((t.onLife (fun l => { l with maintenanceWaiting := true })).onStored (fun x => { x with target := 1 })))) ∧
  (∀ s : State, s.life.maintenanceWaiting = true → s.serving = true → stepRunning s = false →
    exec .maintenanceEntry s = .next (s.onLife (fun l => { l with
      maintenanceWaiting := false, state := .maintenance,
      stateSince := if l.state = .maintenance then l.stateSince else s.now }))) ∧
  (∀ (s : State) (src : OapSrc) (r : Req) (f : Info) (t : State), Accepted s src .maintOff r f t →
      t.life.state = .maintenance →
    ∃ u, exec (.maintenanceExit src) s = .next u ∧ u.flushing = some t.now ∧ u.life.state = .maintenance) ∧
  (∀ (s : State) (src : OapSrc) (r : Req) (f : Info) (t : State), Accepted s src .maintOff r f t →
      t.life.state ≠ .maintenance →
    exec (.maintenanceExit src) s = .next (reply r { status := 0 }
      ((t.onLife (fun l => { l with maintenanceWaiting := false })).onStored (fun x => { x with target := 0 })))) ∧
  (∀ (s : State) (n : Nat), s.flushing = some n → flushOf s = od 0x7F 8 0 →
    exec (.caveFlushComplete none) s = .next (finishRun 0 0 (flushDetail (dirtyCount s) 0)
      (writeBack (dirtyCount s) { s with flushing := none }))) ∧
  (∀ (s : State) (n : Nat), s.flushing = some n → flushOf s ≠ od 0x7F 8 0 →
    exec (.caveFlushComplete none) s = .next (finishRun 0 0 []
      (leaveMaintenance (writeBack (dirtyCount s) { s with flushing := none }))))

/-- The EXECUTE commands and their end (R341, R402, R409, R421, R425, R447, R449, R450, R473, R494, R496, R500): each
begins where its conditions hold, ACTIVATE_FIRMWARE, RESTORE_RIND_IMAGE and ABORT are refused where they do not; ABORT
rolls the operation back; an operation whose work is complete closes with its result, and with none running COMMAND_END
does nothing. -/
def Obligations.OperationsAnswer : Prop :=
  (∀ (s : State) (src : OapSrc) (r : Req) (f : Info) (t : State), Accepted s src .activate r f t →
      activateRefusal t = none →
    exec (.activateFirmware src) s = .next (reply r { status := 8 } (startRun r false t))) ∧
  (∀ (s : State) (src : OapSrc) (r : Req) (f : Info) (t : State) (code : Nat), Accepted s src .activate r f t →
      activateRefusal t = some code →
    exec (.activateFirmware src) s = .next (reply r { status := 2, reason := code } t)) ∧
  (∀ (s : State) (src : OapSrc) (r : Req) (f : Info) (t : State) (x : List (Nat × WheelScan)),
      Accepted s src .replan r f t → t.serving = true →
    ∃ u, exec (.replanMargins src x) s = .next (reply r { status := 8 } u)) ∧
  (∀ (s : State) (src : OapSrc) (r : Req) (f : Info) (t : State) (n : Nand) (code : Nat), Accepted s src .restore r f t →
      restoreRefusal t (beAt r.pay 0 4) = some code →
    exec (.restoreRindImage src n) s = .next (reply r { status := 2, reason := code } t)) ∧
  (∀ (s : State) (src : OapSrc) (r : Req) (f : Info) (t : State) (n : Nand) (x : Recipe) (y : RestoreRun),
      Accepted s src .restore r f t → restoreRefusal t (beAt r.pay 0 4) = none →
      t.recipe? (beAt r.pay 0 4) = some x →
      restoreStart t x (beAt r.pay 4 8) .wardenRestore (n == .uncorrectable) = .ok y →
    exec (.restoreRindImage src n) s = .next (reply r { status := 8 } (abandonRecipe (beAt r.pay 0 4)
      (nandEvent n ((startRun r false t).onRecipe (beAt r.pay 0 4) (fun x => { x with restoring := some y })))))) ∧
  (∀ (s : State) (src : OapSrc) (r : Req) (f : Info) (t : State) (x : List Nat), Accepted s src .reconcile r f t →
      t.life.state = .maintenance →
    exec (.reconcileDefectMap src x) s =
      .next (reply r { status := 8 } (onRun (fun o => { o with todo := x }) (startRun r false t)))) ∧
  (∀ (s : State) (src : OapSrc) (r : Req) (f : Info) (t : State), Accepted s src .qualify r f t → t.serving = true →
    ∃ u, exec (.qualifyLinks src) s = .next (reply r { status := 8 } u)) ∧
  (∀ (s : State) (src : OapSrc) (r : Req) (f : Info) (t : State), Accepted s src .confirm r f t → onTrial t = true →
    exec (.confirmFirmware src) s = .next (reply r { status := 8 } (finishRun 0 0
      (leBytes 1 (bit t.warden.slotB)) (freeOldImages (confirmSlot (startRun r true t)))))) ∧
  (∀ (s : State) (src : OapSrc) (r : Req) (f : Info) (t : State), Accepted s src .recovery r f t →
    exec (.enterRecovery src) s = .next (reply r { status := 8 } (beginDeviceReset
      ((startRun r true t).onLife (fun l => { l with toRecovery := true }))))) ∧
  (∀ (s : State) (src : OapSrc) (r : Req) (f : Info) (t : State), Accepted s src .flush r f t → dirtyCount t ≠ 0 →
    exec (.flushCaveCache src) s = .next (reply r { status := 8 } { startRun r false t with flushing := some t.now })) ∧
  (∀ (s : State) (src : OapSrc) (r : Req) (f : Info) (t : State), Accepted s src .devReset r f t → t.life.stage = none →
    exec (.deviceReset src) s = .next (reply r { status := 8 } (beginDeviceReset (startRun r true t)))) ∧
  (∀ (s : State) (src : OapSrc) (r : Req) (f : Info) (t : State), Accepted s src .wheelReset r f t → t.serving = true →
      nth t.warden.stored.wheelEnable (wheelOf r.obj) true = true → underReset t (wheelOf r.obj) = false →
    exec (.wheelReset src) s = .next (reply r { status := 8 } (beginWheelReset (wheelOf r.obj) (startRun r true t)))) ∧
  (∀ (s : State) (src : OapSrc) (r : Req) (f : Info) (t : State) (o : RunOp), Accepted s src .abort r f t →
      t.warden.run = some o → o.obj = r.obj → o.aborting = none → o.ending = none → o.committed = false → o.exec = true →
      o.obj ≠ od 0x7F 5 0 →
    ∃ u d, rollBack o (onRun (fun o => { o with aborting := some (r.peer, r.seq) }) t) = (u, d) ∧
      exec (.abort src) s = .next (finishRun 2 0 d u)) ∧
  (∀ (s : State) (src : OapSrc) (r : Req) (f : Info) (t : State), Accepted s src .abort r f t → t.warden.run = none →
    exec (.abort src) s = .next (reply r { status := 0x0C } t)) ∧
  (∀ (s : State) (o : RunOp) (e : Nat × Nat × List Byte), s.warden.run = some o → o.ending = some e →
      s.warden.up = true →
    exec .commandEnd s = .next (closeRun o e s)) ∧
  (∀ (s : State) (o : RunOp), s.warden.run = some o → o.ending = none → o.exec = true → s.warden.up = true →
      o.obj = od 0x7F 4 0 → o.committed = false →
    exec .commandEnd s = .next (onRun (fun o => { o with committed := true }) s)) ∧
  (∀ (s : State) (o : RunOp), s.warden.run = some o → o.ending = none → o.exec = true → s.warden.up = true →
      o.obj = od 0x7F 4 0 → o.committed = true →
    exec .commandEnd s = .next (commitReconcile o.todo s)) ∧
  (∀ s : State, s.warden.run = none → exec .commandEnd s = .next s) ∧
  (∀ (s : State) (o : RunOp) (k : LinkId) (x : DwellResult) (p : Nat), s.warden.run = some o → o.obj = od 0x7F 5 0 →
      o.ending = none → k = .hinge p → o.todo.contains (linkKey k) = true →
    exec (.qualificationDwellEnd k x) s =
      .next (linkSettled (linkKey k) (hingeDwell p x s).2.1 (hingeDwell p x s).2.2 (hingeDwell p x s).1))

/-! ### Steps, tasks and tumblers -/

/-- The life of a task and of a step (R26, R165, R166, R174, R175, R176, R181, R185, R192, R233, R239, R271): TASK_LOAD
while the pool has room, TASK_START of a task whose conditions are met, TASK_RETIRE of one whose work is done,
PAGE_RETURN to either pool, the timers of a running step, STEP_COMPLETE, and the action of an armed tumbler. -/
def Obligations.TasksAnswer : Prop :=
  (∀ (s : State) (h w : Nat) (r : Recipe) (t : Nat), s.recipe? h = some r → nextToLoad r w false = some t →
      r.stepping = true → poolUse r w false < ordinaryPool r w →
    exec (.taskLoad h w false) s = .next (settle h (loadTask h t s))) ∧
  (∀ (s : State) (h w : Nat) (r : Recipe) (t : Nat), s.recipe? h = some r → nextToLoad r w true = some t →
      r.stepping = true → poolUse r w true < specPool r w r.throttle →
    exec (.taskLoad h w true) s = .next (settle h (loadTask h t s))) ∧
  (∀ (s : State) (t : TaskRef) (r : Recipe) (k : Task) (x : TaskRun), s.recipe? t.recipe = some r →
      r.task? t.task = some k → r.run? t.task = some x → mayStart s r k x = true →
      (runsSpec k x ∧ r.shadowFree.length < k.npages) = False → lossHeld s r k = false →
    exec (.taskStart t) s = .next (settle t.recipe (startTask t.recipe t.task r k x s))) ∧
  (∀ (s : State) (t : TaskRef) (r : Recipe) (k : Task) (x : TaskRun), s.recipe? t.recipe = some r →
      r.task? t.task = some k → r.run? t.task = some x → x.started = true → workDone s t.recipe k x = true →
      x.specRun = false →
    exec (.taskRetire t) s =
      .next (settle t.recipe (closeTask t.recipe t.task 0 (addOutputs t.recipe t.task s)))) ∧
  (∀ (s : State) (h p : Nat) (r : Recipe), s.recipe? h = some r → p ∈ r.shadowReturning → pageBusy s p = false →
    exec (.pageReturn h p) s = .next (settle h (s.onRecipe h (fun r => { r with
      shadowReturning := r.shadowReturning.erase p, shadowFree := r.shadowFree ++ [p] })))) ∧
  (∀ (s : State) (h p : Nat) (r : Recipe), s.recipe? h = some r → p ∉ r.shadowReturning → p ∈ r.stash.returning →
      pageBusy s p = false →
    exec (.pageReturn h p) s = .next (settle h (s.onRecipe h (fun r => { r with stash := { r.stash with
      returning := r.stash.returning.erase p, freePages := r.stash.freePages ++ [p] } })))) ∧
  (∀ (s : State) (h : Nat) (r : Recipe) (u : StepRun), s.recipe? h = some r → r.running = some u →
      stepDone s r u = true →
    exec (.stepComplete h) s = .next (replanReady (completeStep h r u s))) ∧
  (∀ (s : State) (h : Nat) (r : Recipe) (u : StepRun), s.recipe? h = some r → r.running = some u → u.fault = none →
      u.pausedSince = none → u.start + u.pausedNs + (if r.wdogK = 0 then 2 else r.wdogK) * tBound r < s.now →
    ∃ f, f.tstatus = 0x13 ∧ f.ufault = 0 ∧
      exec (.stepWatchdogExpiry h) s = .next (stepFault h f (post 0x540 0 0 [] s).drawn.drawn)) ∧
  (∀ (s : State) (h n : Nat) (r : Recipe) (u : StepRun) (k : Task) (x : TaskRun), s.recipe? h = some r →
      r.running = some u → r.stepping = true → u.runs = [x] → r.task? x.idx = some k → x.phase = .loaded →
      x.spanSince = some n → r.patience ≠ 0 → n + r.patience * 10 ^ 6 < s.now →
    ∃ v, exec (.spanPatienceExpiry h) s = .next (taskFault h x.idx v 0x13 0 (post 0x543 v 0 [] s))) ∧
  (∀ (s : State) (h i : Nat) (r : Recipe) (e : StashEntry), s.recipe? h = some r → r.stash.entries[i]? = some e →
      e.waits true = true →
    exec (.recomputeOpenGrant h i) s = .next (recomputeOpen h i s).1 ∧
    exec (.recomputeOpenWaitTimeout h i) s = .next (openWaitPost h i s)) ∧
  (∀ (s : State) (t : TaskRef) (w n : Nat) (r : Recipe) (k : Task) (x : TaskRun), s.recipe? t.recipe = some r →
      r.task? t.task = some k → r.run? t.task = some x → x.versionWait = [(w, n)] → w ∉ x.versionPosted →
      n + versionThreshold r k w < s.now →
    ∃ d, exec (.versionWaitTimeout t w) s = .next (post 0x545 (updReadUnit s) 0 d
      (s.onTask t.recipe t.task (fun x => { x with versionPosted := x.versionPosted ++ [w] })))) ∧
  (∀ (s : State) (c : Chain) (cs : List Chain), s.chains = c :: cs → c.span = false →
    exec (.chainAction 0) s = .next (settle c.recipe (tAdd c.recipe c.handle c.inc
      { task := c.task, blame := c.blame, unit := c.unit, span := false, version := false, op := 3, level := c.level, exempt := false }
      { s with chains := cs })))

/-! ### Helper cores -/

/-- The core `c` runs as `k` and is about to execute the instruction word `w` of four bytes with its opcode and funct
fields (R196, R213). -/
def AtWord (s : State) (c : CoreId) (k : Core) (w op f3 f7 : Nat) : Prop :=
  s.core? c = some k ∧ executing s k = true ∧ fetch k = .word w 4 ∧ fOp w = op ∧ fF3 w = f3 ∧ fF7 w = f7

/-- The life of a launch record (R196, R203, R205, R210, R211, R212, R214, R226, R425): HOOP_PICK gives the next launch to
the idle cores of a hoop; RISCV_INSTRUCTION executes one instruction, or begins an instruction-cache miss, which
ICACHE_MISS_FILL ends; ECALL_EXIT with exit code 0 ends the record; BUDGET_EXCEEDED faults it with code 0x08; and the
stall detectors begin the reset of a core or hoop. -/
def Obligations.CoresAnswer : Prop :=
  (∀ (s : State) (w h : Nat), w < 8 → h < 80 → hoopOut s w h = false → idleSlots s w h ≠ [] →
    exec (.hoopPick w h) s = .next (pick w h s)) ∧
  (∀ (s : State) (c : CoreId) (k : Core) (w n : Nat) (k1 : Core) (s1 : State) (b : Nat), s.core? c = some k →
      executing s k = true → fetch k = .word w n → isKz w = false → w ≠ ecallWord →
      stdInstr (touchFetch k) s w n = .next k1 s1 b →
    exec (.riscvInstruction c) s = .next (retireInstr k1 b s1)) ∧
  (∀ (s : State) (c : CoreId) (k : Core) (line : Nat), s.core? c = some k → executing s k = true →
      fetch k = .miss line →
    exec (.riscvInstruction c) s = .next (beginMiss k line s)) ∧
  (∀ (s : State) (c : CoreId) (k : Core) (line : Nat) (r : Recipe) (l : Loc), s.core? c = some k →
      k.wait = .icache line → s.recipe? k.recipe = some r → translate s r line false = .ok l →
      poisoned s l 64 = false →
    exec (.icacheMissFill c) s = .next { s with cores := s.cores.map (fun k =>
      if k.id.wheel = c.wheel ∧ k.id.hoop = c.hoop ∧ k.recipe = r.handle ∧ k.wait = .icache line then
        { k with wait := .none, icache := touchLine line (locRead s l 64) k.icache }
      else k) }) ∧
  (∀ (s : State) (c : CoreId) (k : Core), s.core? c = some k → executing s k = true → fetch k = .word ecallWord 4 →
      k.rx 17 = 0 → k.region = false → k.rx 10 = 0 →
    exec (.ecallExit c) s =
      .next (recordEnd k.recipe k.task (retireInstr { touchFetch k with exited := true } 1 s))) ∧
  (∀ (s : State) (c : CoreId) (k : Core), s.core? c = some k → k.exited = false → k.budget ≠ 0 → k.budget < k.beats →
    exec (.budgetExceeded c) s = .next (coreFault k 8 0 0 s)) ∧
  (∀ (s : State) (c : CoreId) (k : Core), s.core? c = some k → k.exited = false → k.wait = .none →
      coveredBy s (.core c) = false →
    exec (.coreStallDetect c) s =
      .next (beginReset (.core c) (noteStall (coreUnit c) 0 (post 0x522 (coreUnit c) 0 [] s)))) ∧
  (∀ (s : State) (c : CoreId) (k : Core) (r : Recipe) (u : StepRun) (i : FaultInfo), s.core? c = some k →
      s.recipe? k.recipe = some r → r.running = some u → u.fault = some i →
    exec (.coreStopTimeout c) s = .next (beginReset (.core c) s)) ∧
  (∀ (s : State) (w h : Nat), w < 8 → h < 80 → s.warden.up = true → hoopWaits s w h = true →
      hoopOut s w h = false → coveredBy s (.hoop w h) = false →
    exec (.hoopPickStall w h) s = .next (beginReset (.hoop w h) (wpost 0x523 (hoopUnit w h) 0 [] s)))

/-- The kz instructions on data (R216, R217, R218, R219, R220, R221): with a parameter block that passes its checks each
writes its results to the scratch that the block names, its counts to the record it names, and a summary to rd. -/
def Obligations.KzDataAnswer : Prop :=
  (∀ (s : State) (c : CoreId) (k : Core) (w : Nat) (b : List Byte), AtWord s c k w 0x0B 0 0 →
      paramBlock s (touchFetch k) ((touchFetch k).rx (fRs1 w)) = .ok b →
      kzChecks (qChecks s (touchFetch k) (qOps true ((touchFetch k).rx (fRs2 w)) b)) = none →
    ∃ q eyes r u, q = qOps true ((touchFetch k).rx (fRs2 w)) b ∧ eyes = qEyes s (touchFetch k) q ∧
      r = quantLine q eyes ((List.range q.len).map
        (vecVal q.vfmt (operand s (touchFetch k) q.src (q.len * vecBytes q.vfmt)))) ∧
      u = store (touchFetch k) q.eyeRec r.recs (store (touchFetch k) q.scale r.scales
        (store (touchFetch k) q.dst r.blocks s)) ∧
      exec (.kzQuant c) s = .next (kzDone (touchFetch k) (fRd w) (packCounts r.counts) (quantBeats q eyes r.sampled)
        (countTask k.recipe k.task (coreUnit c) q.crec r.counts u))) ∧
  (∀ (s : State) (c : CoreId) (k : Core) (w : Nat) (b : List Byte), AtWord s c k w 0x0B 1 0 →
      paramBlock s (touchFetch k) ((touchFetch k).rx (fRs1 w)) = .ok b →
      kzChecks (qChecks s (touchFetch k) (qOps false ((touchFetch k).rx (fRs2 w)) b)) = none →
    ∃ q eyes es v n, q = qOps false ((touchFetch k).rx (fRs2 w)) b ∧ eyes = qEyes s (touchFetch k) q ∧
      es = (dequantVals q eyes (operand s (touchFetch k) q.src (q.nb * kzUnit q.fmt))
        (if isBlocked q.fmt then operand s (touchFetch k) q.scale q.nb else [])
        (if q.eyeMap = 0 then [] else operand s (touchFetch k) q.eyeRec (eyeBytes q eyes))).map
          (narrowPlain q.vfmt .nearest) ∧
      exec (.kzDequant c) s = .next (kzDone (touchFetch k) (fRd w) (packCounts v) n
        (countTask k.recipe k.task (coreUnit c) q.crec v
          (store (touchFetch k) q.dst ((es.map (fun e => leBytes (vecBytes q.vfmt) e.1)).flatten) s)))) ∧
  (∀ (s : State) (c : CoreId) (k : Core) (w : Nat) (b : List Byte), AtWord s c k w 0x0B 2 0 →
      paramBlock s (touchFetch k) ((touchFetch k).rx (fRs1 w)) = .ok b → leAt b 29 1 = 0 →
      kzChecks (accChecks s (touchFetch k) w b) = none →
    exec (.kzEyepickAccumulate c) s = .next (kzDone (touchFetch k) (fRd w) 0
      (8 + (if leAt b 28 1 = 0 then 32 else 64) * leAt b 24 4) (store (touchFetch k) (leAt b 8 8)
        (((accMaxima (leAt b 28 1) (leAt b 24 4)
          (operand s (touchFetch k) (leAt b 0 8) (leAt b 24 4 * 1024 * vecBytes (leAt b 28 1)))
          (operand s (touchFetch k) (leAt b 8 8) 4096)).map (leBytes 4)).flatten) s))) ∧
  (∀ (s : State) (c : CoreId) (k : Core) (w : Nat) (b : List Byte), AtWord s c k w 0x0B 2 0 →
      paramBlock s (touchFetch k) ((touchFetch k).rx (fRs1 w)) = .ok b → leAt b 29 1 = 1 →
      kzChecks (selChecks s (touchFetch k) w b) = none →
    ∃ n, exec (.kzEyepickSelect c) s = .next (kzDone (touchFetch k) (fRd w)
      (selPick b (operand s (touchFetch k) (leAt b 8 8) 4096)).1.length n (store (touchFetch k) (leAt b 16 8)
        (bitmapOf (selPick b (operand s (touchFetch k) (leAt b 8 8) 4096)).1) s))) ∧
  (∀ (s : State) (c : CoreId) (k : Core) (w : Nat) (b : List Byte), AtWord s c k w 0x0B 3 0 →
      paramBlock s (touchFetch k) ((touchFetch k).rx (fRs1 w)) = .ok b → kzChecks (topkChecks s (touchFetch k) w b) = none →
      leAt b 16 8 = 0 →
    ∃ rows n, rows = topkRows b (operand s (touchFetch k) (leAt b 0 8)
        (leAt b 24 4 * (leAt b 28 2 * vecBytes (leAt b 31 1)))) ∧
      exec (.kzTopk c) s = .next (kzDone (touchFetch k) (fRd w)
        (sumNat (rows.map (fun r => (r.filter isNan32).length))) n (store (touchFetch k) (leAt b 8 8)
          ((((rows.map (fun r => topRow (leAt b 30 1) r
            (fun e => !bitOf (ofLe (topkMask s (touchFetch k) b)) e))).flatten).map (fun p => leBytes 2 p.1)).flatten) s))) ∧
  (∀ (s : State) (c : CoreId) (k : Core) (w : Nat) (b : List Byte), AtWord s c k w 0x0B 4 0 →
      paramBlock s (touchFetch k) ((touchFetch k).rx (fRs1 w)) = .ok b → kzChecks (histChecks s (touchFetch k) w b) = none →
    ∃ x n, x = histCounts b (operand s (touchFetch k) (leAt b 0 8) (histBytes b)) ((List.range (leAt b 20 2)).map
        (fun i => leAt (operand s (touchFetch k) (leAt b 8 8) (4 * leAt b 20 2)) (4 * i) 4)) ∧
      exec (.kzHist c) s = .next (kzDone (touchFetch k) (fRd w) x.2 n
        (store (touchFetch k) (leAt b 8 8) ((x.1.map (leBytes 4)).flatten) s)))

/-- The kz instructions on carries, tumblers and regions (R165, R176, R182, R222, R224, R225, R226, R426): kz.carry queues
a carry, with rd the number outstanding, and CARRY_COMPLETE moves one, or ends its task ABSORBED where it reaches a
draining slice from outside; kz.tadd, kz.tarm and kz.post act on a tumbler and
return its value; kz.twait returns at once where the value is reached and otherwise waits for TWAIT_WAKE; kz.spec
opens and closes a region. -/
def Obligations.KzControlAnswer : Prop :=
  (∀ (s : State) (c : CoreId) (k : Core) (w a : Nat), AtWord s c k w 0x2B 0 0 → fRs1 w ≠ 0 →
      (touchFetch k).rx (fRs1 w) % 32 = 0 → ownPlace s (touchFetch k) ((touchFetch k).rx (fRs1 w)) 32 = some a →
      bitOf ((touchFetch k).rx (fRs2 w)) 0 = false →
      kzChecks (carryChecks s (touchFetch k) ((touchFetch k).rx (fRs2 w)) (memRead s.dev a 32)
        (carryOf (memRead s.dev a 32) none k.region)) = none → k.carries.length < 8 →
    exec (.kzCarry c) s = .next (kzDone { touchFetch k with
      carries := k.carries ++ [carryOf (memRead s.dev a 32) none k.region] } (fRd w) (k.carries.length + 1) 4 s)) ∧
  (∀ (s : State) (c : CoreId) (k : Core) (w : Nat), AtWord s c k w 0x2B 0 0 → fRs1 w = 0 →
      (touchFetch k).rx (fRs2 w) ≤ 1 → k.carries = [] →
    exec (.kzCarry c) s = .next (kzDone (touchFetch k) (fRd w) 0 4 s)) ∧
  (∀ (s : State) (c : CoreId) (k : Core) (n : Nat) (y : Carry), s.core? c = some k → k.carries[n]? = some y →
      s.power.gatesClosed = false → carryRoom s k y = true →
      carryMeetsDrain s k y = false →
    exec (.carryComplete c n .done) s = .next (carryMove k n y s)) ∧
  (∀ (s : State) (c : CoreId) (k : Core) (n : Nat) (y : Carry), s.core? c = some k → k.carries[n]? = some y →
      s.power.gatesClosed = false → carryRoom s k y = true → carryMeetsDrain s k y = true →
    exec (.carryComplete c n .done) s =
      .next (settle k.recipe (taskFault k.recipe k.task (coreUnit c) 0x12 0 s))) ∧
  (∀ (s : State) (c : CoreId) (k : Core) (w : Nat) (r : Recipe), AtWord s c k w 0x2B 1 0 →
      s.recipe? k.recipe = some r → k.carries = [] → (touchFetch k).rx (fRs1 w) < 65536 →
      (touchFetch k).rx (fRs2 w) ≠ 0 → addRule s k.recipe k.task ((touchFetch k).rx (fRs1 w)) = .allowed →
      writesOut s k.recipe k.task = false →
    exec (.kzTadd c) s = .next (kzAfter (touchFetch k) (fRd w) (r.value ((touchFetch k).rx (fRs1 w))) 2
      (tAdd k.recipe ((touchFetch k).rx (fRs1 w)) ((touchFetch k).rx (fRs2 w))
        (Issuer.ofTask k.task (coreUnit c) false) s))) ∧
  (∀ (s : State) (c : CoreId) (k : Core) (w : Nat) (r : Recipe), AtWord s c k w 0x2B 2 0 →
      s.recipe? k.recipe = some r → (touchFetch k).rx (fRs1 w) < 65536 →
      accessMisuse r ((touchFetch k).rx (fRs1 w)) { Issuer.ofTask k.task (coreUnit c) false with op := 2 } = none →
    exec (.kzTwait c) s = .next (if r.reached ((touchFetch k).rx (fRs1 w)) ((touchFetch k).rx (fRs2 w)) then
        kzDone (touchFetch k) (fRd w) (r.value ((touchFetch k).rx (fRs1 w))) 2 s
      else trackWatchdog k.recipe (putCore { touchFetch k with
        wait := .tumbler ((touchFetch k).rx (fRs1 w)) ((touchFetch k).rx (fRs2 w)) (fRd w) s.now } s))) ∧
  (∀ (s : State) (c : CoreId) (k : Core) (r : Recipe) (h v rd t : Nat), s.core? c = some k →
      s.recipe? k.recipe = some r → k.wait = .tumbler h v rd t → r.reached h v = true →
    ∃ l, exec (.twaitWake c) s = .next (trackWatchdog k.recipe
      (kzDone { k with wait := .none, hpm := l } rd (r.value h) 2 s).drawn)) ∧
  (∀ (s : State) (c : CoreId) (k : Core) (w x : Nat) (r : Recipe), AtWord s c k w 0x2B 3 0 →
      s.recipe? k.recipe = some r → k.carries = [] → x = (touchFetch k).rx (fRs1 w) → bitsOf x 31 18 = 0 →
      bitsOf x 17 16 ≠ 3 → addRule s k.recipe k.task (x % 65536) = .allowed → writesOut s k.recipe k.task = false →
    exec (.kzTarm c) s = .next (kzAfter (touchFetch k) (fRd w) (r.value (x % 65536)) 2
      (tArm k.recipe (x % 65536) ((touchFetch k).rx (fRs2 w)) (bitsOf x 17 16) (bitsOf x 47 32) (bitsOf x 63 48)
        (Issuer.ofTask k.task (coreUnit c) false) s))) ∧
  (∀ (s : State) (c : CoreId) (k : Core) (w : Nat) (r : Recipe) (t : Task) (o : Nat × Nat), AtWord s c k w 0x2B 4 0 →
      s.recipe? k.recipe = some r → r.task? k.task = some t → k.carries = [] →
      t.outs[(touchFetch k).rx (fRs1 w)]? = some o → (touchFetch k).rx (fRs2 w) < 2 ^ 32 →
      specRunning s k.recipe k.task = false → writesOut s k.recipe k.task = false →
    exec (.kzPost c) s = .next (kzAfter (touchFetch k) (fRd w) (r.value o.2) 2
      (tAdd k.recipe o.2 ((touchFetch k).rx (fRs2 w)) (Issuer.ofTask k.task (coreUnit c) t.vread) s))) ∧
  (∀ (s : State) (c : CoreId) (k : Core) (w : Nat), AtWord s c k w 0x2B 5 0 → k.region = false →
      (touchFetch k).rx (fRs1 w) = 0 → (touchFetch k).rx (fRs2 w) = 0 →
    exec (.kzSpecBegin c) s = .next (kzDone { touchFetch k with region := true } (fRd w)
      (if specRunning s k.recipe k.task then 1 else 0) 1 s)) ∧
  (∀ (s : State) (c : CoreId) (k : Core) (w : Nat), AtWord s c k w 0x2B 5 1 → k.region = true → k.carries = [] →
      (touchFetch k).rx (fRs1 w) = 0 → (touchFetch k).rx (fRs2 w) = 0 →
    ∃ v, exec (.kzSpecEnd c) s = .next (kzDone { touchFetch k with region := false } (fRd w) v 4 s))

/-! ### Vats -/

/-- The vat's descriptor `d` is of operation `op` and may begin (R76, R80, R88, R116). -/
def VatReady (s : State) (d : DescRef) (op : Nat) (v : VatDesc) : Prop :=
  vatDesc? s d = some v ∧ opOf v.ws = op ∧ canBegin s v = true

/-- The descriptors of a vat that meet no fault (R72, R91, R93, R102, R104, R116, R233): MAC adds its K products to the
bank's count and to every cell of its extent, with a free number of starvation episodes (log entry 82),
MAC_CLEAR first clears the bank, DRAIN writes what the drain chain gives of the bank, LOAD_ACC replaces the extent from
its stream, TRANSPOSE then drains it, FENCE begins in its order; and a descriptor whose work is done is signalled, with
SG_INC added to its tumbler. -/
def Obligations.VatDescriptorsAnswer : Prop :=
  (∀ (s : State) (d : DescRef) (v : VatDesc) (u : State) (m : MacRead), VatReady s d 1 v →
      (bankOfDesc (beginDesc v s) v).1 + kOf v.ws ≤ 2 ^ 24 → (bankOfDesc (beginDesc v s) v).2 = 0 →
      u = starve v (beginDesc v s) → v.spec = false → m = macRead u v.h v.t v.ws →
      m.malformed = none → m.bad = none → macRecordBad u v = none →
    exec (.mac d) s = .next (settle v.h (setPhase v.h v.t v.i .worked
      (onBank v (BankRec.grown (kOf v.ws)) (macCounts v m (macApply v false m u)))))) ∧
  (∀ (s : State) (d : DescRef) (v : VatDesc) (u : State), VatReady s d 1 v → u = beginDesc v s →
      (bankOfDesc u v).2 = 0 → 2 ^ 24 < (bankOfDesc u v).1 + kOf v.ws →
    exec (.mac d) s = .next (settle v.h (descFault v 0x20 3 (kOf v.ws) 0 u))) ∧
  (∀ (s : State) (d : DescRef) (v : VatDesc) (u : State) (m : MacRead), VatReady s d 2 v →
      u = starve v (beginDesc v s) →
      v.spec = false → m = macRead u v.h v.t v.ws → m.malformed = none → m.bad = none → macRecordBad u v = none →
    exec (.macClear d) s = .next (settle v.h (setPhase v.h v.t v.i .worked
      (onBank v (BankRec.replaced (kOf v.ws) 0 0) (macCounts v m (macApply v true m u)))))) ∧
  (∀ (s : State) (d : DescRef) (v : VatDesc), VatReady s d 3 v → drainFaults s v = false → (preOpen v.h v.t (drainPuts s v) s).2 = false →
    exec (.drain d) s =
      .next (settle v.h (runDrain v (beginDesc v (preOpen v.h v.t (drainPuts s v) s).1)))) ∧
  (∀ (s : State) (d : DescRef) (v : VatDesc) (u : State), VatReady s d 4 v → u = beginDesc v s →
      (loadRead u v).2 = none →
    exec (.loadAcc d) s = .next (settle v.h (setPhase v.h v.t v.i .worked
      (onBank v (BankRec.replaced 0 0 0) (loadApply v (loadRead u v).1 u))))) ∧
  (∀ (s : State) (d : DescRef) (v : VatDesc) (u : State), VatReady s d 5 v → v.spec = false →
      (preOpen v.h v.t (transposePlan v (loadRead s v).1).1 s).2 = false →
      u = beginDesc v (preOpen v.h v.t (transposePlan v (loadRead s v).1).1 s).1 → (loadRead u v).2 = none →
      recordBad (onBank v (BankRec.replaced 0 0 0) (loadApply v (loadRead u v).1 u)) v.h (wd v.ws 13) = none →
    exec (.transpose d) s = .next (settle v.h (drainOut v (transposePlan v (loadRead s v).1).1
      (transposePlan v (loadRead s v).1).2 true (onBank v (BankRec.replaced 0 0 0) (loadApply v (loadRead u v).1 u))))) ∧
  (∀ (s : State) (d : DescRef) (v : VatDesc), VatReady s d 6 v →
    exec (.fence d) s = .next (settle v.h (beginDesc v s))) ∧
  (∀ (s : State) (d : DescRef) (r : Recipe) (k : Task) (x : TaskRun) (e : DescRun), s.recipe? d.recipe = some r →
      r.task? d.task = some k → r.run? d.task = some x → x.started = true → x.descs[d.idx]? = some e → e.phase = .worked →
      writesOut s d.recipe d.task = false →
    exec (.descriptorSignal d) s = .next (settle d.recipe
      (if sigInc (descHead r k d.idx) = 0 then setPhase d.recipe d.task d.idx .signalled s
       else taskAdd d.recipe d.task (taskUnit s d.recipe d.task k) (k.cls == 2) (sigId (descHead r k d.idx)) (sigInc (descHead r k d.idx))
         (setPhase d.recipe d.task d.idx .signalled s))))

/-- The vat control (R80, R82, R88, R405): with no descriptor in progress the arrangement becomes the one that the oldest
ready descriptor names, and a pending change of shape or operand mode is applied; starvation and a stalled handshake
post 0x520 and 0x521. -/
def Obligations.VatControlAnswers : Prop :=
  (∀ (s : State) (w : Nat) (d : VatDesc), (vatDescs s w).any (fun a => a.busy) = false →
      (s.vat w).pendingShape = none → (s.vat w).pendingMode = false → d.due = true → needsArr (s.vat w) d = true →
      vatDescs s w = [d] →
    exec (.arrangementReconfigure w) s = .next (s.onVat w (fun v => { v with arr := arrOf d.ws }))) ∧
  (∀ (s : State) (w : Nat), (vatDescs s w).any (fun a => a.busy) = false →
      (s.vat w).pendingShape.isSome = true ∨ (s.vat w).pendingMode = true →
    exec (.vatChangeApply w) s = .next ((takeShape w s).onVat w (fun v => { v with
      broadcast := (s.vat w).held || (s.vat w).recipeBroadcast || nth s.warden.stored.vatMode w 0 == 1,
      pendingShape := none, pendingMode := false }))) ∧
  (∀ (s : State) (w : Nat), (vatDescs s w).any (fun d => d.busy || d.due) = true →
    exec (.feederStarvationTimeout w) s = .next (post 0x520 (vatUnit w) 0 []
      (s.onVat w (fun v => { v with starvation := satAdd 64 v.starvation 1 })))) ∧
  (∀ (s : State) (w : Nat), w < 8 → (vatDescs s w).any (fun d => d.busy) = true →
    exec (.vatHandshakeStall w none) s = .next (post 0x521 (vatUnit w) 0 [] s)) ∧
  (∀ (s : State) (w p : Nat) (c : Bool), w < 8 → p < 1040 → (vatDescs s w).any (fun d => d.busy) = true →
    exec (.vatHandshakeStall w (some (c, p))) s =
      .next (noteStall (vatUnit w) (linePart c p) (post 0x521 (vatUnit w) 0 [] s)))

/-! ### Update engines -/

/-- The update descriptor `d` is of mode `mode` and may begin: it waits and those before it in its pool have begun (R257,
R261). -/
def UpdReady (s : State) (d : DescRef) (mode : Nat) (u : UpdDesc) : Prop :=
  updDesc? s d = some u ∧ enginesIssue s = true ∧ uMode u.ws = mode ∧ u.run.phase = .waiting ∧
    u.before.all (fun b => b.2.phase != .waiting) = true

/-- The update engines (R259, R261, R265, R266, R267, R273, R278): a descriptor of each mode begins, a packet whose turn
has come is applied unless its rind bit is pending, in which case the descriptor waits, an emission unit whose masters
are there is written, each in the age order of its engine, and 0x546 posts when a wait for the rind has lasted 1 ms. -/
def Obligations.UpdateEnginesAnswer : Prop :=
  (∀ (s : State) (d : DescRef) (u : UpdDesc), UpdReady s d 0 u →
    exec (.updateNativeApply d) s = .next (settle u.h (updComplete u (runUpdBegin u s)))) ∧
  (∀ (s : State) (d : DescRef) (u : UpdDesc), UpdReady s d 1 u →
    exec (.updateMh4Apply d) s = .next (settle u.h (updComplete u (runUpdBegin u s)))) ∧
  (∀ (s : State) (d : DescRef) (u : UpdDesc), UpdReady s d 2 u →
    exec (.updateCopiesOnly d) s = .next (settle u.h (updComplete u (runUpdBegin u s)))) ∧
  (∀ (s : State) (d : DescRef) (u : UpdDesc), UpdReady s d 3 u →
    exec (.ratioPassNative d) s = .next (settle u.h (updComplete u (runUpdBegin u s)))) ∧
  (∀ (s : State) (d : DescRef) (u : UpdDesc), UpdReady s d 4 u →
    exec (.ratioPassMh4 d) s = .next (settle u.h (updComplete u (runUpdBegin u s)))) ∧
  (∀ (s : State) (d : DescRef) (n : Nat) (u : UpdDesc), updDesc? s d = some u → u.run.phase = .begun →
      hasPackets u.ws u.run = true → n < uPackets u.ws → n ∉ u.run.packets → packetOrder s u n = true →
      olderAtEngine s u (packetEngine s u.h (wd u.ws 5 + 4096 * n)) = false →
    (rindHeld u = false → exec (.updatePacket d n) s = .next (settle u.h (runPacket u n (endRindWait u s)))) ∧
    (rindHeld u = true → exec (.updatePacket d n) s = .next (trackWatchdog u.h (s.onDesc u.h u.t u.i (fun x => { x with
      rindWait := some (x.rindWait.getD s.now) }))))) ∧
  (∀ (s : State) (d : DescRef) (n i : Nat) (u : UpdDesc) (c : List Nat), updDesc? s d = some u →
      copyRec s u.h u.t u.ws n = .ok c → u.run.phase = .begun → uRatio u.ws = false → n < uNcopy u.ws →
      i < unitCount u.ws c → (n, i) ∉ u.run.units → supplied u (unitRect u.ws c i) = true →
      olderAtEngine s u (unitEngine s i) = false →
    exec (.emissionUnit d n i) s = .next (settle u.h (runUnit u n i c s))) ∧
  (∀ (s : State) (d : DescRef) (u : UpdDesc) (t : Nat), updDesc? s d = some u → u.run.rindWait = some t →
      t + 10 ^ 6 < s.now → u.run.rindPosted = false →
    exec (.rindWaitTimeout d) s = .next (post 0x546 (updReadUnit s) 0 []
      (s.onDesc u.h u.t u.i (fun x => { x with rindPosted := true }))))

/-! ### Hinge engines -/

/-- The hinge descriptor `d` runs, its wait is satisfied, and it has not begun (R302). -/
def HingeReady (s : State) (d : DescRef) (e : HDesc) : Prop :=
  hDesc? s d = some e ∧ e.alive s = true ∧ enginesIssue s = true ∧ e.run.phase = .waiting ∧ e.run.ready ≠ 0

/-- The descriptors of the hinge engines begin (R305, R307, R309, R313, R314, R315, R317, R318, R320): each operation code
has its own effect, on the state in which the descriptor has begun; a span's work is done when no flit of it waits. -/
def Obligations.HingeDescriptorsAnswer : Prop :=
  (∀ (s : State) (d : DescRef) (e : HDesc), HingeReady s d e → opOf e.ws = 1 →
    exec (.hingePut d) s = .next (settle e.h (e.read 4 (wd e.ws 4) (cLen e.ws) (fun bs s =>
      finishSends e (sendTransfer e
        { rank := peerRank e.ws, kind := .put, dest := wd e.ws 5 % 2 ^ 48, data := bs,
          rhandle := bitsOf (wd e.ws 6) 15 0, rinc := bitsOf (wd e.ws 6) 31 16, mode := 0, ls := 0, slot := 0 } s))
      (beginHinge e s)))) ∧
  (∀ (s : State) (d : DescRef) (e : HDesc), HingeReady s d e → opOf e.ws = 2 → eDmode e.ws = 0 →
    exec (.dispatchOrdinary d) s = .next (settle e.h (runDispatch e 0 (fun _ => true) (beginHinge e s)))) ∧
  (∀ (s : State) (d : DescRef) (e : HDesc), HingeReady s d e → opOf e.ws = 2 → eDmode e.ws = 1 →
    exec (.dispatchSpeculative d) s = .next (settle e.h (runDispatch e 1 (fun _ => true) (beginHinge e s)))) ∧
  (∀ (s : State) (d : DescRef) (e : HDesc), HingeReady s d e → opOf e.ws = 2 → eDmode e.ws = 2 →
    exec (.dispatchResend d) s = .next (settle e.h (e.read 10 (wd e.ws 10) e.job.n
      (fun vs s => runDispatch e 0 (fun k => leAt vs k 1 == 2) s) (beginHinge e s)))) ∧
  (∀ (s : State) (d : DescRef) (e : HDesc), HingeReady s d e → opOf e.ws = 3 →
    exec (.verify d) s = .next (settle e.h (runVerify e (beginHinge e s)))) ∧
  (∀ (s : State) (d : DescRef) (e : HDesc), HingeReady s d e → opOf e.ws = 4 →
    exec (.unpack d) s = .next (settle e.h (runUnpack e (beginHinge e s)))) ∧
  (∀ (s : State) (d : DescRef) (e : HDesc), HingeReady s d e → opOf e.ws = 5 →
      e.alive (combineReturns e (beginHinge e s)) = true →
    exec (.combine d) s = .next (settle e.h (combineSum e.begun (combineReturns e (beginHinge e s))))) ∧
  (∀ (s : State) (d : DescRef) (e : HDesc), HingeReady s d e →
    (opOf e.ws = 6 → exec (.allReduce d) s = .next (settle e.h (reduceStart e (beginHinge e s)))) ∧
    (opOf e.ws = 7 → exec (.reduceScatter d) s = .next (settle e.h (reduceStart e (beginHinge e s)))) ∧
    (opOf e.ws = 8 → exec (.allGather d) s = .next (settle e.h (gatherStart e (beginHinge e s))))) ∧
  (∀ (s : State) (d : DescRef) (e : HDesc) (p : Nat × State) (u : State), HingeReady s d e → opOf e.ws = 9 →
      p = takeTag (beginHinge e s) → spanLost p.2 e.job p.1 = none →
      u = spanAll e.h e.job p.1 (bitsOf (wd e.ws 3) 15 0) (bitsOf (wd e.ws 3) 47 16) e.unit
        (p.2.onDesc e.h e.t e.i (fun x => { x with awaiting := x.awaiting ++ [p.1] })) →
    exec (.span d) s = .next (settle e.h (finishSpan e u))) ∧
  (∀ (s : State) (d : DescRef) (e : HDesc) (p : Nat × State) (k : Nat), HingeReady s d e → opOf e.ws = 9 →
      p = takeTag (beginHinge e s) → spanLost p.2 e.job p.1 = some k →
    exec (.span d) s = .next (settle e.h (hingeFault e.h e.t e.i e.unit 0x406 0x41 0 k
      (nth e.job.members k 0xFFF) 0 p.2))) ∧
  (∀ (e : HDesc) (u : State), e.runs u = true → u.hinge.ports.all (fun q => q.waiting.isEmpty) = true →
    finishSpan e u = e.worked (u.onDesc e.h e.t e.i (fun x => { x with awaiting := [] })))

/-- A good flit of type `ty` arrives in order on a port that carries traffic, and breaks no rule of R285. -/
def FlitTaken (s : State) (p ty : Nat) (f : List Byte) : Prop :=
  p < 32 ∧ (s.port p).up = true ∧ flitGood f = true ∧ fType f = ty ∧ fLseq f = (s.port p).rxSeq ∧ protoBad f = false

/-- Flits that arrive (R285, R287, R288, R289, R290, R296, R299, R306, R309, R318, R319): each is taken in order and has
its effect, and credits go back; one whose CRC fails or that is out of order is dropped, and asks for a replay unless one
has been asked for (log entry 66); a NULL flit carries the link fields; LINK_INIT of a training port sets what the peer
says, and on a port in service changes nothing, or is a protocol error. -/
def Obligations.FlitsAnswer : Prop :=
  (∀ (s : State) (p : Nat) (f : List Byte), p < 32 → (s.port p).up = true → flitGood f = true → fType f = 0 →
      protoBad f = false → fReplay f = false →
    exec (.nullFlit p f) s = .next (linkFields p f s)) ∧
  (∀ (s : State) (p : Nat) (f : List Byte), p < 32 → (s.port p).up = true →
      (flitGood f = false ∨ outOfOrder (s.port p) f = true) → asksReplay (s.port p) f = true →
    exec (.flitCrcFailure p f) s =
      .next (sendNull p 0x10 (s.onPort p (fun q => { q with replayWanted := true })))) ∧
  (∀ (s : State) (p : Nat) (f : List Byte), p < 32 → (s.port p).up = true →
      (flitGood f = false ∨ outOfOrder (s.port p) f = true) → asksReplay (s.port p) f = false →
    exec (.flitCrcFailure p f) s = .next s) ∧
  (∀ (s : State) (p : Nat) (f : List Byte), p < 32 → flitGood f = true → fType f = 1 → (s.port p).state = .retraining →
      protoBad f = false → leAt (fPay f) 11 1 = 1 → (s.port p).peerId = 0xFFF ∨ (s.port p).peerId = leAt (fPay f) 0 2 →
    exec (.linkInit p f) s = .next (s.onPort p (fun q => { q with
      peerId := leAt (fPay f) 0 2, peerMask := leAt (fPay f) 2 1 % 16,
      advertised := (List.range 4).map (fun v => leAt (fPay f) (3 + 2 * v) 2) }))) ∧
  (∀ (s : State) (p : Nat) (f : List Byte), p < 32 → flitGood f = true → fType f = 1 → (s.port p).up = true →
      protoBad f = false → leAt (fPay f) 11 1 = 1 →
    exec (.linkInit p f) s = .next s) ∧
  (∀ (s : State) (p : Nat) (f : List Byte), p < 32 → flitGood f = true → fType f = 1 → (s.port p).up = true →
      (protoBad f = true ∨ leAt (fPay f) 11 1 ≠ 1) →
    exec (.linkInit p f) s = .next (startRetrain p (post 0x407 (portUnit p) 0 [] s))) ∧
  (∀ (s : State) (p : Nat) (f : List Byte) (r : Recipe), FlitTaken s p 0x02 f →
      jobRecipe (accept p f s) (leAt (fPay f) 6 4) = some r →
    exec (.spanAdd p f) s = .next (returnCredits p (settle r.handle (spanAddLocal r.handle (leAt (fPay f) 0 2)
      (leAt (fPay f) 2 4) (heUnit (p / 4)) (accept p f s))))) ∧
  (∀ (s : State) (p k : Nat) (f : List Byte) (r : Recipe) (j : Job), FlitTaken s p 0x03 f →
      jobRecipe (accept p f s) (leAt (fPay f) 19 4) = some r → r.job = some j →
      j.members.findIdx? (· == fSrc f) = some k →
    exec (.guard p f) s = .next (returnCredits p (sendTo 0x23 (fSrc f) (fTag f) 3 []
      (settle r.handle (applyGuard r.handle (leAt (fPay f) 1 8 + k * leAt (fPay f) 15 4) (leAt (fPay f) 0 1)
        (leAt (fPay f) 9 2) (leAt (fPay f) 13 2) j.n (heUnit (p / 4)) (accept p f s)))))) ∧
  (∀ (s : State) (p : Nat) (f : List Byte) (r : Recipe), FlitTaken s p 0x04 f →
      jobRecipe (accept p f s) (leAt (fPay f) 3 4) = some r →
    exec (.notice p f) s = .next (returnCredits p (settle r.handle
      (noticeFaults r (fSrc f) (leAt (fPay f) 1 2) (accept p f s))))) ∧
  (∀ (s u : State) (p k : Nat) (f bs : List Byte) (r : Recipe), FlitTaken s p 0x10 f →
      jobRecipe (accept p f s) (leAt (fPay f) 20 4) = some r →
      getRead r (leAt (fPay f) 0 8) (leAt (fPay f) 8 4) (accept p f s) = (u, .ok bs) →
      routePort u (fSrc f) (fTag f) = some k →
    exec (.get p f) s = .next (returnCredits p (sendFlits k
      (getFlits (myId u) (fSrc f) (fTag f) (bs.length / 240 + 1) true bs) u))) ∧
  (∀ (s : State) (p : Nat) (f : List Byte) (x : Xfer), FlitTaken s p 0x21 f → xferOf (accept p f s) f = some x →
      x.kind = .getRequest → fLast f = true →
    exec (.getData p f) s = .next (returnCredits p (dropXfer x
      (landData x.recipe 0 0 (x.addr + x.got) (fPay f) (accept p f s)).1))) ∧
  (∀ (s : State) (p : Nat) (f : List Byte), FlitTaken s p 0x20 f →
    exec (.putAck p f) s = .next (returnCredits p (answerXfer f none (accept p f s)))) ∧
  (∀ (s : State) (p : Nat) (f : List Byte), FlitTaken s p 0x22 f →
    exec (.nack p f) s = .next (returnCredits p
      (answerXfer f (some (leAt (fPay f) 0 1, leAt (fPay f) 1 8)) (accept p f s)))) ∧
  (∀ (s : State) (p : Nat) (f : List Byte), FlitTaken s p 0x23 f →
    exec (.guardAck p f) s = .next (returnCredits p (answerXfer f none (accept p f s)))) ∧
  (∀ (s : State) (p : Nat) (f : List Byte), FlitTaken s p 0x30 f → putHeaderBad f = false →
      rxOf (accept p f s) f = none → fFirst f = true →
    exec (.put p f) s = .next (returnCredits p (rxStart p f (fPay f) (accept p f s)))) ∧
  (∀ (s : State) (p : Nat) (f : List Byte) (x : RxXfer), FlitTaken s p 0x30 f → putHeaderBad f = false →
      rxOf (accept p f s) f = some x → fFirst f = false →
    exec (.put p f) s = .next (returnCredits p (rxData x (fPay f) (fPoison f) (fLast f) p (accept p f s))))

/-- Hinge ports (R297, R298, R324): a retrain condition stops the port and retrains it; a training that succeeds at the
width before ends it with that width and fresh link state, one that fails or exceeds 250 ms withdraws the port; the
window of the pre-FEC error rate keeps its counts. -/
def Obligations.HingePortsAnswer : Prop :=
  (∀ (s : State) (p : Nat) (c : RetrainCause), p < 32 → (s.port p).up = true → c ≠ .protocolError →
    exec (.portRetrain p c) s = .next (startRetrain p s)) ∧
  (∀ (s : State) (p : Nat), p < 32 → (s.port p).up = true →
    exec (.portRetrain p .protocolError) s = .next (startRetrain p (post 0x407 (portUnit p) 0 [] s))) ∧
  (∀ (s : State) (p : Nat) (x : HingeTrain) (w : PortState), p < 32 → (s.port p).state = .retraining →
      underQual s p = false → x.trained = true → retrainLate s p = false → x.peerId = (s.port p).peerId →
      widthOf x.localMask x.peerMask = some w → w = (s.port p).before →
    exec (.retrainComplete p x) s = .next (setPort p w ((sendLinkInit p x.localMask (s.onPort p freshLink)).onPort p (fun q =>
      { q with localMask := x.localMask, peerMask := x.peerMask })))) ∧
  (∀ (s : State) (p : Nat) (x : HingeTrain), p < 32 → (s.port p).state = .retraining → underQual s p = false →
      x.trained = false ∨ (s.port p).retrainStart + 250000000 < s.now →
    exec (.retrainComplete p x) s = .next (withdrawPort p .fenced 0x406 (portPost 0x404 p s))) ∧
  (∀ (s : State) (p : Nat), p < 32 → (s.port p).state = .retraining → underQual s p = false →
      (s.port p).retrainStart + 250000000 < s.now →
    exec (.retrainTimeout p) s = .next (withdrawPort p .fenced 0x406 (portPost 0x404 p s))) ∧
  (∀ (s : State) (p n : Nat) (b : Rat), p < 32 → (s.port p).up = true → b ≤ 24 / 100000 →
    exec (.preFecBerWindow p b n 0) s = .next (s.onPort p (fun q => { q with
      ber := b, corrected := satAdd 64 q.corrected n, uncorrectable := satAdd 64 q.uncorrectable 0 })))

/-! ### The memory tiers -/

/-- The cave tier (R135, R146, R153, R154, R156, R162): a demand read of a cave address by a started task goes to the
recipe's share of the cave cache; a segment that has been filled is readable, and a bad one is poisoned and posts
0x321; a tracker idle for 1 ms closes and keeps its lead; a device error that was corrected is counted, one that was not poisons its segment. -/
def Obligations.CaveAnswers : Prop :=
  (∀ (s : State) (t : TaskRef) (a p : Nat) (r : Recipe) (k : Task) (x : TaskRun), s.recipe? t.recipe = some r →
      r.task? t.task = some k → r.run? t.task = some x → x.started = true → translate s r a false = .ok (.cave p) →
      0 < r.cave.mib →
    exec (.caveDemandRead t a) s =
      .next (s.onRecipe t.recipe (fun y => { y with cave := demandRead r k.layer (p / 65536) s.now y.cave }))) ∧
  (∀ (s : State) (h g : Nat) (r : Recipe), s.recipe? h = some r →
      r.cave.segments.any (fun x => x.seg == g && x.filling) = true →
    ∃ u, exec (.caveFillComplete h g none) s = .next u ∧
      u.tiers.poisonCave = (if u.recipes.any (fun y => y.cave.segments.any (fun x => x.seg == g && x.poisoned)) then
        s.tiers.poisonCave else s.tiers.poisonCave.filter (· != g)) ∧
      u.recipes = (s.onRecipe h (fun y => { y with cave := ({ y.cave with
        segments := modFirst (fun x => x.seg == g) (fun x => { x with filling := false, poisoned := false })
          y.cave.segments } : CaveShare).retry })).recipes) ∧
  (∀ (s : State) (h g k : Nat) (r : Recipe), s.recipe? h = some r →
      r.cave.segments.any (fun x => x.seg == g && x.filling) = true →
    ∃ u v, exec (.caveFillComplete h g (some k)) s = .next (post 0x321 v 0 [] u) ∧
      u.tiers.poisonCave = insertNew s.tiers.poisonCave g) ∧
  (∀ (s : State) (h i : Nat) (r : Recipe) (t : Tracker), s.recipe? h = some r → r.cave.trackers[i]? = some t →
      t.used + 10 ^ 6 ≤ s.now → t.risen = false →
    exec (.trackerClose h i) s = .next (s.onRecipe h (fun y => { y with cave := { y.cave with
      trackers := y.cave.trackers.erase t,
      savedLeads := { page := t.firstPage, lead := t.lead, cap := leadMax y.cave y.cave.trackers.length,
                      layer := t.layer, step := t.step } ::
        y.cave.savedLeads.filter (fun x => x.page != t.firstPage) } }))) ∧
  (∀ (s : State) (p a i : Nat), (cavePorts s).findIdx? (· == p) = some i →
    exec (.caveDeviceErrorReport p true a) s = .next (post 0x321 (0xA0000 + p % 2 ^ 13) 0 []
      (poisonSegment (((a / 4096 * (cavePorts s).length + i) * 4096 + a % 4096) / 65536) s))) ∧
  (∀ (s : State) (p a i : Nat), (cavePorts s).findIdx? (· == p) = some i →
    exec (.caveDeviceErrorReport p false a) s =
      .next (postAbove false 1000 (3600 * 10 ^ 9) 1 0x320 (0xA0000 + p % 2 ^ 13) 0 [] s))

/-- No drain that has begun keeps a request from its bank (R426): it is outstanding already, or neither its issuer nor its
bank is under one. -/
def Reaches (s : State) (r : ReqId) (b : BankId) : Prop :=
  (∃ x ∈ s.tiers.requests, x.id = r) ∨ (issuerDrains s r = false ∧ bankDrains s b = false)

/-- The curd store and the near tier (R126, R127, R134, R135, R136, R138, R158, R159, R426): a request at a bank with no
older one and a free slot is served, and one that stalls stays outstanding; one from outside that reaches a draining
slice ends its task ABSORBED; an atomic applies its operation to the aligned
operand; the patrol scrub moves on; the watchdogs of a bank post 0x530 or 0x531, and a bank that has failed completes
its requests as poisoned; a channel over its symbol rate is scheduled for map-out. -/
def Obligations.MemoryAnswers : Prop :=
  (∀ (s : State) (r : ReqId) (a n : Nat) (b : BankId) (e : Ecc), bankOf s a = some b → oneGranule a n = true →
      s.tiers.requests.find? (fun q => q.bank == b) = none → slotFree s r b = true →
      Reaches s r b →
    exec (.memoryRead r a n (.done e)) s = .next (serveReq b e a n none s)) ∧
  (∀ (s : State) (r : ReqId) (a n : Nat) (b : BankId), bankOf s a = some b → oneGranule a n = true →
      s.tiers.requests.find? (fun q => q.bank == b) = none → slotFree s r b = true →
      Reaches s r b →
    exec (.memoryRead r a n .stalled) s = .next (enqueueReq r b a n none true s)) ∧
  (∀ (s : State) (r : ReqId) (a : Nat) (bs : List Byte) (b : BankId) (e : Ecc), bankOf s a = some b →
      oneGranule a bs.length = true → s.tiers.requests.find? (fun q => q.bank == b) = none → slotFree s r b = true →
      Reaches s r b →
    exec (.memoryWrite r a bs (.done e)) s = .next (settle r.recipe (serveReq b e a bs.length (some bs) s))) ∧
  (∀ (s : State) (r : ReqId) (a n : Nat) (b : BankId) (v : Serve), bankOf s a = some b → oneGranule a n = true →
      (∀ x ∈ s.tiers.requests, x.id ≠ r) → issuerDrains s r = false → bankDrains s b = true →
    exec (.memoryRead r a n v) s = .next (absorbIssuer r.recipe r.task s)) ∧
  (∀ (s : State) (r : ReqId) (a : Nat) (bs : List Byte) (b : BankId) (v : Serve), bankOf s a = some b →
      oneGranule a bs.length = true → (∀ x ∈ s.tiers.requests, x.id ≠ r) → issuerDrains s r = false →
      bankDrains s b = true →
    exec (.memoryWrite r a bs v) s = .next (absorbIssuer r.recipe r.task s)) ∧
  (∀ (s : State) (a : Nat) (v : Word32), atomicOk s a 4 = true →
    exec (.adds32 a v) s = .next (atomic 4 (fun o => min (o + v.toNat) (2 ^ 32 - 1)) a s) ∧
    exec (.maxf32 a v) s = .next (atomic 4 (fun o => maxF32 o v.toNat) a s)) ∧
  (∀ (s : State) (a : Nat) (v : Word), atomicOk s a 8 = true →
    exec (.add64 a v) s = .next (atomic 8 (fun o => (o + v.toNat) % 2 ^ 64) a s)) ∧
  (∀ (s : State) (a : Nat) (x y : Word) (w : CasWidth), atomicOk s a (casBytes w) = true →
    exec (.cas w a x y) s = .next (atomic (casBytes w)
      (fun o => if o = x.toNat % 2 ^ (8 * casBytes w) then y.toNat % 2 ^ (8 * casBytes w) else o) a s)) ∧
  (∀ (s : State) (b : BankId) (q : MemReq), s.tiers.requests = [q] → q.bank = b → q.held = false →
      slotRoom s q.id b = true → issuerDrains s q.id = false →
    exec (.bankCapWaitEnd b) s = .next (s.onTiers (fun t => { t with requests := [{ q with held := true }] }))) ∧
  (∀ (s : State) (a : Nat), s.tiers.placed = true → (nearPlace s a).isSome = true →
    ∃ u, exec (.patrolScrub a .clean) s = .next u ∧ u.tiers.scrub = a / 32 * 32 + 32) ∧
  (∀ (s : State) (w k : Nat), 0 < heldAt s (.curd w k) → stallGoesOn s (.curd w k) = false →
    exec (.bankNoProgress (.curd w k)) s = .next ((post 0x530 (unitId 4 w k) 0 [] s).onTiers (fun t =>
      { t with stalls := put t.stalls (.curd w k) none }))) ∧
  (∀ (s : State) (c g : Nat), 0 < heldAt s (.near c g) → stallGoesOn s (.near c g) = false →
    exec (.bankNoProgress (.near c g)) s = .next ((post 0x531 (unitId 6 0 c) 0 [] s).onTiers (fun t =>
      { t with stalls := put t.stalls (.near c g) none }))) ∧
  (∀ (s : State) (b : BankId), 0 < heldAt s b → stallGoesOn s b = true →
    exec (.bankNoProgress b) s = .next ((countDet (stallDet b).1 s).onTiers (fun t =>
      { t with stalls := put t.stalls b none }))) ∧
  (∀ (s : State) (w k : Nat), w < s.wheels.length → 0 < heldAt s (.curd w k) →
    ∃ u, exec (.bankFailed (.curd w k)) s = .next (forEach ((s.tiers.requests.filter (fun q =>
        q.bank == .curd w k)).map (fun q => q.id.recipe)).dedup settle u) ∧
      u.tiers.requests.any (fun q => q.bank == .curd w k) = false) ∧
  (∀ (s : State) (c : Nat), c ∈ s.tiers.channels →
    exec (.channelSymbolRateExceeded c) s = .next (scheduleMapOut c s))

/-- VIEW_UPDATE (R18): the oldest update that waits at the Gate is applied. -/
def Obligations.ViewUpdatesAnswer : Prop :=
  ∀ (s : State) (u : ViewUpdate) (us : List ViewUpdate), s.gate.pending = u :: us →
    exec .viewUpdate s = .next (applyUpdate u (s.onGate (fun g => { g with pending := us })))

/-! ### Power and heat -/

/-- The power loop (R23, R24, R375, R378, R380, R382, R387, R388): a refresh of the Pace Line keeps the activity, the
estimate and the credit; its loss posts 0x510 and is kept; a shunt sample keeps the measured power and
corrects the gain; an excursion is taken from the credit; a droop is counted and ends; and a deferred rail step is
made once nothing holds it. -/
def Obligations.PowerLoopAnswers : Prop :=
  (∀ (s : State) (l : List Nat), s.power.rails = true → s.warden.up = true →
    ∃ u, exec (.paceLineRefresh l) s = .next (creditEpisode (allocate l (totalEstimate s l) u)) ∧
      u.power.activity = l ∧ u.power.estimate = totalEstimate s l ∧ u.power.unscaled = unscaledEstimate s l ∧
      u.power.credit = (creditStep s (totalEstimate s l)).1 ∧ u.power.paceLost = false ∧
      u.power.lastRefresh = s.now) ∧
  (∀ s : State, s.power.rails = true → s.power.paceLost = false → s.power.lastRefresh + 20000000 ≤ s.now →
    ∃ u, exec .paceLineKeepaliveLoss s = .next (post 0x510 0 0 [] u) ∧ u.power.paceLost = true ∧
      u.power.duty.length = s.power.duty.length) ∧
  (∀ (s : State) (v w : Rat), s.power.aux = true → s.power.input = true → s.power.nSamples ≠ 999 →
      s.power.gain = 1 → nextGain 1 w s.power.unscaled ≠ 8 / 10 → nextGain 1 w s.power.unscaled ≠ 125 / 100 →
    exec (.shuntSample v w) s = .next ((voltsSeen v s).onPower (fun p => { p with
      measured := w, measHist := (s.now, w) :: p.measHist.filter (fun e => decide (s.now < e.1 + 10 ^ 8)),
      gain := nextGain 1 w s.power.unscaled, sumMeasured := p.sumMeasured + w,
      sumEstimate := p.sumEstimate + p.estimate, nSamples := p.nSamples + 1 })) ∧
    voltsSeen v s = (if inRange s.power.volts = true ∧ inRange v = false then
      wpost 0x011 0 0 [] (s.onPower (fun p => { p with volts := v })) else s.onPower (fun p => { p with volts := v }))) ∧
  (∀ (s : State) (j : Rat), s.power.rails = true → 0 ≤ j →
    exec (.powerExcursion j false) s = .next (s.onPower (fun p => { p with
      credit := p.credit - j, excursions := p.excursions + 1 })) ∧
    exec (.powerExcursion j true) s = .next (wpost 0x001 0 0 [] (s.onPower (fun p => { p with
      credit := p.credit - j, excursions := p.excursions + 1 })))) ∧
  (∀ (s : State) (d : Nat), s.power.rails = true → governed s d = true → d ∉ s.power.droop →
      s.power.droopCount = [] →
    exec (.droopBegin d) s = .next (s.onPower (fun p => { p with
      droop := p.droop ++ [d], droopCount := [(d, s.now / 10 ^ 9, 1, 0)] }))) ∧
  (∀ (s : State) (d : Nat), d ∈ s.power.droop →
    exec (.droopClear d) s = .next (s.onPower (fun p => { p with
      droop := p.droop.filter (· != d), droopClear := put p.droopClear d s.now }))) ∧
  (∀ (s : State) (d t : Nat) (v : Int), s.power.deferred = [(d, v, t)] → d ≠ 25 → droopHolds s d = false →
      s.power.paceLost = false → s.now ≤ t + 5000000 →
    exec (.deferredRateStep d) s =
      .next (applyStep d v (s.onPower (fun p => { p with deferred := [] }))))

/-- Heat and coolant (R371, R385, R386, R389, R390, R391, R392, R507, R512): a junction above the soft limit lowers its
rail and posts 0x102, and one at or below it of a domain that is not hot is kept; a regional pull
begins above its limit; the inlet is kept; 60 s of a cool inlet end the protective mark; the loss of flow and a junction trip halt; and the flow that
returns is noted. -/
def Obligations.CoolingAnswers : Prop :=
  (∀ (s : State) (d : Nat) (h m : Rat), d < 34 → s.power.aux = true → s.power.rails = true → governed s d = true →
      (s.warden.stored.softLimit : Rat) < h →
    exec (.junctionSample d h m) s = .next (limitStep (10 ^ 6) d (postArising true 0x102 (domUnit d) 0 []
      (s.onPower (fun p => { p with junction := put p.junction d (h, m), hot := insertNew p.hot d }))))) ∧
  (∀ (s : State) (d : Nat) (h m : Rat), d < 34 → s.power.aux = true → d ∉ s.power.hot →
      h ≤ (s.warden.stored.softLimit : Rat) →
    exec (.junctionSample d h m) s = .next (s.onPower (fun p => { p with junction := put p.junction d (h, m) }))) ∧
  (∀ (s : State) (x y a b : Nat), s.power.rails = true → a = min x y → b = max x y → isPair .temperature a b = true →
      (PullKind.temperature, a, b) ∉ s.power.pulled → 20 < pairDiff s .temperature a b →
    exec (.regionalPullStep .temperature x y) s = .next (pullStep .temperature a b
      (wpost 0x121 (domUnit a) 0 []
        (s.onPower (fun p => { p with pulled := p.pulled ++ [(PullKind.temperature, a, b)] }))))) ∧
  (∀ (s : State) (c o : Rat) (u : State), s.power.aux = true → s.warden.up = true →
      u = s.onPower (fun p => { p with inletSamples := (c :: p.inletSamples).take 10, outlet := o }) →
      inletMoved (inletT u) u = false →
    (inletT u < 20 → exec (.inletSample c o) s = .next (postArising true 0x112 0 0 [] (inletGuard (inletT u) u))) ∧
    (20 ≤ inletT u → exec (.inletSample c o) s = .next (absentEpisode 0x112 0 (inletGuard (inletT u) u)))) ∧
  (∀ (s : State) (t : Nat), s.power.inletHot = true → s.power.coolSince = some t → t + 60000000000 ≤ s.now →
    exec .inletRecoveryTimer s = .next (queueUpdate (viewChange [.inletHot false]) (endEpisode 0x111 0
      (s.onPower (fun p => { p with inletHot := false, coolSince := none }))))) ∧
  (∀ s : State, s.power.flowOk = true → s.power.aux = true →
    exec .flowLoss s = .next (realTrip .flowLost
      (wpost 0x100 0 0 [] (s.onPower (fun p => { p with flowOk := false }))))) ∧
  (∀ (s : State) (d : Nat), s.power.aux = true → d < 34 →
    exec (.junctionTrip d) s = .next (realTrip .junctionTrip (wpost 0x101 (domUnit d) 0 [] s))) ∧
  (∀ (s : State) (c : HaltCause), s.power.rails = true → realTrip c s = coolantHalt c false s) ∧
  (∀ (s : State) (c : HaltCause), s.power.rails = false → s.power.haltInjected = false → realTrip c s = s) ∧
  (∀ s : State, s.power.aux = true → s.power.flowOk = false →
    exec .trayFlowOkAssert s = .next (s.onPower (fun p => { p with flowOk := true, flowSince := s.now })))

/-- Input, seat and hold-up (R339, R369, R370, R372, R373, R392, R433, R457, R501, R509, R510, R511): power up, precharge,
the loss of the input, overvoltage and the return; the hold-up store; the seat; STBY12; and the loss of the auxiliary
supply. -/
def Obligations.InputAnswers : Prop :=
  (∀ (s : State) (v : Rat), s.power.input = false → s.power.aux = false → 0 < v →
    exec (.powerUp v) s = .next (s.onPower (fun p => { p with input := true, lost := false, volts := v }))) ∧
  (∀ s : State, s.power.input = true → s.power.hotSwap = false → s.power.aux = false →
    exec .prechargeComplete s = .next (enterStage 0 s.now ((s.onPower (fun p => { p with
      hotSwap := true, aux := true })).onLife (fun l => { l with slotLatched := false, romFailed := false })))) ∧
  (∀ s : State, s.power.input = true →
    ∃ v, exec .inputLoss s = .next (inputLost v { s with free := s.free + 1 }) ∧ v < 250) ∧
  (∀ (s : State) (v : Rat), s.power.input = true → 420 < v → exec (.inputOvervoltage v) s = .next (inputLost v s)) ∧
  (∀ (s : State) (v : Rat), s.power.lost = true → 260 ≤ v → v ≤ 410 → (s.power.volts < 250 → 265 < v) →
      (420 < s.power.volts → v < 410) → s.life.state = .haltedCoolant →
    exec (.inputReturn v) s = .next (s.onPower (fun p => { p with
      input := true, hotSwap := true, aux := true, lost := false, volts := v }))) ∧
  (∀ (s : State) (v : Rat), s.power.lost = true → 260 ≤ v → v ≤ 410 → (s.power.volts < 250 → 265 < v) →
      (420 < s.power.volts → v < 410) → s.life.state = .off → s.life.romFailed = false → s.life.stage = none →
    exec (.inputReturn v) s = .next (enterStage 1 s.now (s.onPower (fun p => { p with
      input := true, hotSwap := true, aux := true, lost := false, volts := v })))) ∧
  (∀ (s : State) (n : Nat), s.power.aux = true → s.power.input = true → s.warden.up = true →
    exec (.holdupMeasurement n) s = .next (measureHoldup n s)) ∧
  (∀ (s : State) (n : Nat), s.power.aux = true → 90 ≤ n → n ≤ 100 →
    exec (.holdUpChargeThreshold n) s = .next (absentEpisode 0x040 0xD0021 (absentEpisode 0xB30 rindUnit
      ((s.onPower (fun p => { p with charge := n })).onRind (fun x => { x with commitFirst := false }))))) ∧
  (∀ s : State, s.power.aux = true → s.power.seated = false → s.power.seatWait = false →
    exec .seatLatchedSet s = .next (s.onPower (fun p => { p with seated := true, seatSince := s.now, seatWait := false }))) ∧
  (∀ s : State, s.power.aux = true → s.power.seated = true → s.power.rails = false → anyRail s = false →
      restartWaits s = false →
    exec .seatLatchedClear s = .next (s.onPower (fun p => { p with seated := false }))) ∧
  (∀ (s : State) (b : Bool), s.power.aux = true →
    exec (.stby12SenseChange b) s = .next (s.onPower (fun p => { p with stby12 := b }))) ∧
  (∀ s : State, s.power.aux = true →
    ∃ u, exec .auxiliarySupplyLoss s = .next u ∧ u.life.state = .off ∧ u.power.aux = false ∧ u.warden.up = false ∧
      u.warden.stored = s.warden.stored)

/-! ### Margins, bring-up and resets -/

/-- Margins (R396, R400, R401, R403, R484): a sample below 4% raises the floor by 10 mV, makes the replan due and posts
0x200 for its episode, at 850 mV it posts 0x201 too, and from one of 4% or more the condition is absent; an idle wheel whose replan is due is replanned, or
not where a START_STEP of it has been submitted; and a replan overdue for 168 powered hours posts 0x211. -/
def Obligations.MarginsAnswer : Prop :=
  (∀ (s : State) (d : Nat) (m : Rat), s.power.rails = true → s.warden.up = true → governed s d = true → 4 ≤ m →
    exec (.monitorSample d m) s = .next (absentEpisode 0x200 (domUnit d) s)) ∧
  (∀ (s : State) (d : Nat) (m : Rat), s.power.rails = true → s.warden.up = true → governed s d = true → m < 4 →
      850 ≤ floorOf s d →
    ∃ u, exec (.monitorSample d m) s = .next (wpost 0x201 (domUnit d) 0 []
        (if episodeOn s 0x200 (domUnit d) = true then episodeHolds 0x200 (domUnit d) u
         else postEpisode true 0x200 (domUnit d) 0 (leBytes 2 (floorOf u d)) u)) ∧
      floorOf u d = floorOf s d ∧
      u.ageing.dueSince = s.ageing.dueSince.set (d % 8) (some ((replanDue s (d % 8)).getD (poweredHours s)))) ∧
  (∀ (s : State) (d : Nat) (m : Rat), s.power.rails = true → s.warden.up = true → governed s d = true → m < 4 →
      floorOf s d < 850 → d < s.ageing.plans.length →
    ∃ u, exec (.monitorSample d m) s = .next (postEpisode true 0x200 (domUnit d) 0 (leBytes 2 (floorOf u d)) u) ∧
      floorOf u d = min 850 (floorOf s d + 10) ∧ (∀ e, e ≠ d → floorOf u e = floorOf s e)) ∧
  (∀ (s : State) (w n : Nat) (x : WheelScan), w < 8 → s.power.rails = true → s.serving = true → s.warden.up = true →
      w ∉ s.power.wheelsOff → nth s.gate.view.wheels w .fenced = .usable → replanDue s w = some n →
      wheelBusy s w = false → (s.wheel w).idleSince + 1000000000 ≤ s.now →
      startSubmitted s w = false →
    exec (.idleWindowReplan w x) s = .next (replanWheel w x s)) ∧
  (∀ (s : State) (w n : Nat) (x : WheelScan), w < 8 → s.power.rails = true → s.serving = true → s.warden.up = true →
      w ∉ s.power.wheelsOff → nth s.gate.view.wheels w .fenced = .usable → replanDue s w = some n →
      wheelBusy s w = false → (s.wheel w).idleSince + 1000000000 ≤ s.now → startSubmitted s w = true →
    exec (.idleWindowReplan w x) s = .next (stopReplan w s)) ∧
  (∀ (s : State) (w n : Nat), w < 8 → s.warden.up = true → nth s.ageing.overduePosted w false = false →
      replanDue s w = some n → n + 168 ≤ poweredHours s →
    exec (.replanOverdue w) s = .next (wpost 0x211 (unitId 1 w 0) 0 []
      (s.onAgeing (fun a => { a with replan := a.replan.set w .overdue, overduePosted := a.overduePosted.set w true }))))

/-- Bring-up (R370, R371, R400, R407, R414, R415, R416, R417, R418, R420, R423, R494): each stage runs in its turn with
what it finds; the wait for the host ends; and a stage that exceeds its time fails as R423 says. -/
def Obligations.BringupStagesAnswer : Prop :=
  (∀ (s : State) (ok r : Bool) (m i : Nat), s.life.stage = some 0 → s.power.aux = true →
    exec (.auxPowerUp ok m r i) s = .next (stage0 ok m r i s)) ∧
  (∀ (s : State) (a b : SlotCheck), s.life.stage = some 1 → s.power.aux = true → s.life.stageStart ≤ s.now →
    exec (.stage1Firmware a b) s = .next (stage1 (if s.warden.slotB then b else a) s)) ∧
  (∀ (s : State) (r : Stage2Result), s.life.stage = some 2 → stage2Missing s = [] →
    exec (.stage2Rails r) s = .next (stage2 r false s)) ∧
  (∀ (s : State) (r : Stage2Result), s.life.stage = some 2 → stage2Missing s ≠ [] →
    exec (.stage2Rails r) s = .next (stage2Waits (stage2Missing s) s)) ∧
  (∀ s : State, s.life.stage = some 3 → s.power.rails = true → exec .stage3Spares s = .next (stage3 false s)) ∧
  (∀ (s : State) (r : Stage4Result), s.life.stage = some 4 → s.power.rails = true →
    exec (.stage4Hbm r) s = .next (stage4 r false s)) ∧
  (∀ (s : State) (r : Stage5Result), s.life.stage = some 5 → s.power.rails = true →
    exec (.stage5Tests r) s = .next (stage5 r false s)) ∧
  (∀ (s : State) (r : Stage6Result), s.life.stage = some 6 → s.power.rails = true →
      hostQualified s = true ∨ s.life.hostWaitExpired = true →
    exec (.stage6Links r) s = .next (stage6 r false s)) ∧
  (∀ (s : State) (l : List (Nat × WheelScan)), s.life.stage = some 7 → s.power.rails = true →
      (plannedWheels s).all (fun w => l.any (fun p => p.1 == w)) = true →
    exec (.stage7Plan l) s = .next (stage7 l false s)) ∧
  (∀ s : State, s.life.stage = some 8 → exec .stage8Decision s = .next (stage8 false s)) ∧
  (∀ s : State, s.life.stage = some 6 → hostQualified s = false → s.life.hostWaitExpired = false →
      s.life.stageStart + s.warden.stored.hostWait * 1000000000 ≤ s.now →
    exec .hostLinkWaitExpiry s = .next (s.onLife (fun l => { l with hostWaitExpired := true }))) ∧
  (∀ (s : State) (n : Nat), s.life.stage = some n → s.power.aux = true → n ≠ 2 →
      stageClock s + stageMax s n * 1000000 < s.now →
    exec .stageTimeout s = .next (lateStage n s))

/-- The host link (R346, R367, R368, R420, R515): a training brings it up; a function-level reset resets the host
interface and keeps the link, any other drops it; and errors are counted, with 0x424 for each that is not correctable.
-/
def Obligations.HostLinkAnswers : Prop :=
  (∀ (s : State) (w r : Nat) (q : Bool), s.host.linkUp = false → pcieOn s = true → s.life.state = .off →
    exec (.hostLinkTraining w r q) s = .next (degrade (linkTrained w r q s))) ∧
  (∀ (s : State) (w r : Nat), s.host.linkUp = false → pcieOn s = true →
      (linkTrained w r true s).life = s.life → s.life.state = .failed →
    exec (.hostLinkTraining w r true) s =
      .next ((linkTrained w r true s).onLife (fun l => { l with stage := some 8, stageStart := s.now }))) ∧
  (∀ s : State, s.host.linkUp = true → exec (.hostFunctionReset .flr) s = .next (hostReset s)) ∧
  (∀ (s : State) (c : HostResetCause), s.host.linkUp = true → c ≠ .flr → exec (.hostFunctionReset c) s = .next (dropLink s)) ∧
  (∀ s : State, s.host.linkUp = true →
    exec (.hostLinkError false) s = .next (post 0x424 hostUnit 0 []
      (s.onHost (fun h => { h with uncorrErr := satAdd 32 h.uncorrErr 1 })))) ∧
  (∀ s : State, s.host.linkUp = true →
    exec (.hostLinkError true) s = .next (postAbove false 1000 (3600 * 10 ^ 9) 1 0x423 hostUnit 0 []
      (s.onHost (fun h => { h with corrErr := satAdd 32 h.corrErr 1 }))))

/-- Drains (R425, R426, R427): a drain whose scope has no work in flight, or whose deadline has passed, absorbs; the
absorption that is complete finishes it and removes it; one that does not complete within 1 ms of its deadline is
posted 0x550 and escalates; and a wheel that passes its test after a reset is usable
again, or fenced where its rail has failed. -/
def Obligations.DrainsAnswer : Prop :=
  (∀ (s : State) (d : Drain), s.gate.drains = [d] → d.absorbing = false → d.begun = true →
      inFlight s d.scope = false →
    exec (.drainEnd 0) s = .next (s.onGate (fun g => { g with drains := [{ d with absorbing := true }] }))) ∧
  (∀ (s : State) (d : Drain), s.gate.drains = [d] → d.absorbing = false → d.begun = true →
      d.began + d.deadline * 1000 ≤ s.now →
    exec (.drainDeadline 0) s = .next (s.onGate (fun g => { g with drains := [{ d with absorbing := true }] }))) ∧
  (∀ (s : State) (k : Nat) (d : Drain), s.gate.drains[k]? = some d → d.absorbing = true →
    exec (.absorptionComplete k) s =
      .next (finishDrain d (s.onGate (fun g => { g with drains := g.drains.eraseIdx k })))) ∧
  (∀ (s : State) (k h : Nat) (d : Drain), s.gate.drains[k]? = some d → d.scope = .recipe h → d.begun = true →
      d.began + d.deadline * 1000 + 1000000 ≤ s.now →
    exec (.resetEscalation k) s = .next (beginScope (nextScope s d) (onDrain k (fun x => { x with began := s.now })
      (post 0x550 (scopeUnit (nextScope s d)) 0
        (leBytes 4 (scopeUnit d.scope) ++ leBytes 4 (scopeUnit (nextScope s d))) s)))) ∧
  (∀ (s : State) (k w : Nat) (d : Drain), s.gate.drains[k]? = some d → d.scope = .wheel w → d.begun = true →
      d.began + d.deadline * 1000 + 1000000 ≤ s.now →
    exec (.resetEscalation k) s = .next (beginScope (nextScope s d)
      ((post 0x550 (scopeUnit (nextScope s d)) 0
        (leBytes 4 (scopeUnit d.scope) ++ leBytes 4 (scopeUnit (nextScope s d))) s).onGate (fun g => { g with
          drains := g.drains.eraseIdx k })))) ∧
  (∀ (s u : State) (w : Nat) (r : Stage5Result), w < 8 → (s.wheel w).resetTest = true →
      u = (postSubstitutions s (respare s w (enterParts ((stage5Parts r).filter (fun p =>
        bitsOf p.1 15 13 == w)) s))).onWheel w (fun x => { x with resetTest := false }) →
    ∃ found : List Byte, exec (.wheelUsableAgain w r) s = .next (endRun (od 0x20 (0x101 + 0x10 * w) 0) found
      (queueUpdate (viewChange [.wheel w (if u.life.fencedWheels.contains w then .fenced else .usable)]) u)))

/-- The Warden restarts (R433, R434, R435): a lockstep mismatch and a watchdog expiry restart it and post 0xA00 or 0xA01
when the restart is complete; the loss of the PLCA beacon posts 0xA20 and the network goes on by CSMA/CD. -/
def Obligations.WardenRestartsAnswer : Prop :=
  (∀ s : State, s.power.aux = true → s.warden.up = true →
    exec .lockstepMismatch s = .next (restartWarden 0xA00 s) ∧
    exec .wardenWatchdogExpiry s = .next (restartWarden 0xA01 s) ∧
    exec .plcaBeaconLoss s = .next (absentEpisode 0xA20 wardenUnit (postEpisode true 0xA20 wardenUnit 0 []
      (s.onWarden (fun w => { w with csma := true }))))) ∧
  (∀ (s : State) (d : Nat), s.warden.restartDet = some d → s.power.aux = true → s.warden.up = false →
      s.life.stage = none →
    exec .wardenRestartComplete s =
      .next (wpost d wardenUnit 0 [] (s.onWarden (fun w => { w with up := true, restartDet := none }))))

/-- The rind (R332, R333): the next tensor of a capture is read and kept, an uncorrectable NAND error abandons the capture
with 0xB11, and a capture that is whole, of a step whose set is closed, becomes durable; each while OD 40.000 is set. -/
def Obligations.RindAnswers : Prop :=
  (∀ (s : State) (h i : Nat) (r : Recipe) (c : Capture) (e : CaptEntry) (bs : List Byte), s.recipe? h = some r →
      nextCapture s r = some (c, i) → r.capt[i]? = some e → readSection s r e = some bs →
      s.warden.stored.rindEnable = true →
    exec (.captureEntry h .ok) s = .next (settle h (captured c i e bs s))) ∧
  (∀ (s : State) (h i : Nat) (r : Recipe) (c : Capture) (e : CaptEntry), s.recipe? h = some r →
      nextCapture s r = some (c, i) → r.capt[i]? = some e → s.warden.stored.rindEnable = true →
    exec (.captureEntry h .uncorrectable) s = .next (abandonCapture c (post 0xB11 rindUnit 0 [] s))) ∧
  (∀ (s : State) (h : Nat) (r : Recipe) (c : Capture) (l : List Capture) (i : Image), s.recipe? h = some r →
      capturesOf s h = c :: l → s.image? c.image = some i → c.done.length = r.capt.length →
      imageClosed s h i.step = true → s.warden.stored.rindEnable = true →
    exec (.imageDurable h) s = .next (makeDurable c r i s))

/-- INJECTION_TICK (R485, R486): with the permit, a point in mode 1 fires once and is off, and one in mode 3 fires at
every tick; without the permit nothing fires. -/
def Obligations.InjectionTicksAnswer : Prop :=
  (∀ (s : State) (d : Nat) (p : InjPoint), s.events.points = [(d, p)] → s.warden.up = true → s.events.permit = true →
      p.mode = 1 → d ≠ 0x100 → d ≠ 0x101 →
    exec (.injectionTick d) s =
      .next (injectRecord d (p.seq + 1) (s.onEvents (fun e => { e with points := [] })))) ∧
  (∀ (s : State) (d : Nat) (p : InjPoint), s.events.points = [(d, p)] → s.warden.up = true → s.events.permit = true →
      p.mode = 3 → d ≠ 0x100 → d ≠ 0x101 →
    exec (.injectionTick d) s = .next (injectRecord d (p.seq + 1) (s.onEvents (fun e => { e with
      points := [(d, { p with ticks := p.ticks + 1, seq := p.seq + 1 })] })))) ∧
  (∀ (s : State) (d : Nat), s.events.permit = false → exec (.injectionTick d) s = .next s)

/-! ### Rules of the spec about one part of the state -/

/-- Every command answers a next state, whatever its operands, and changes neither the queue nor the device time base (log
entry 1); the invariant holds after it. -/
def Obligations.EveryCommandAnswersANextState : Prop :=
  ∀ (c : Instr) (s : State), Inv s →
    ∃ t : State, exec c s = .next t ∧ Inv t ∧ t.pending = s.pending ∧ t.now = s.now

/-- The SIZE, DRAIN and reserved fields of a QCFG value are good (R352, R353). -/
def qcfgGood (v : Word) : Prop :=
  bitsOf v.toNat 63 48 ≠ 0 ∧ bitsOf v.toNat 13 1 ∈ [16, 32, 64, 128, 256, 512, 1024, 2048, 4096] ∧
    bitsOf v.toNat 31 22 = 0 ∧ bitsOf v.toNat 15 14 = 0

/-- A queue holds a command that has not completed (taken or only submitted), or a completion entry that the host has not
consumed (R353). -/
def queueHolds (s : State) (q : Nat) : Prop :=
  (∃ c ∈ s.host.cmds, c.q = q) ∨ (s.queue q).sqHead ≠ (s.queue q).sqTail ∨ (s.queue q).held ≠ [] ∨ (s.queue q).cqHead ≠ (s.queue q).cqTail

/-- QCFG_WRITE follows R353: a write that sets EN applies the other fields and sets the indices to zero and the phase to 1
when they are good, and otherwise leaves EN clear and sets CFGERR; while EN is set no other field changes, and a write
that clears EN is ignored while the queue holds a command or an entry. No other queue changes. -/
def Obligations.QueueConfigurationIsChecked : Prop :=
  ∀ (s : State) (q : Nat) (v : Word), s.host.linkUp = true → s.host.hostPower = .d0 → q < 16 → s.host.queues.length = 16 →
    ∃ t : State, exec (.qcfgWrite q v) s = .next t ∧ (∀ p, p ≠ q → t.queue p = s.queue p) ∧
      ((s.queue q).en = false → v.getLsbD 0 = true → qcfgGood v →
        (t.queue q).en = true ∧ (t.queue q).cfgErr = false ∧ (t.queue q).drain = bitsOf v.toNat 63 48 ∧
        (t.queue q).itime = bitsOf v.toNat 47 40 ∧ (t.queue q).icount = bitsOf v.toNat 39 32 ∧
        (t.queue q).vector = bitsOf v.toNat 21 16 ∧ (t.queue q).size = bitsOf v.toNat 13 1 ∧
        (t.queue q).sqHead = 0 ∧ (t.queue q).sqTail = 0 ∧ (t.queue q).cqHead = 0 ∧ (t.queue q).cqTail = 0 ∧
        (t.queue q).phase = true) ∧
      ((s.queue q).en = false → v.getLsbD 0 = true → ¬ qcfgGood v →
        (t.queue q).en = false ∧ (t.queue q).cfgErr = true) ∧
      ((s.queue q).en = true → v.getLsbD 0 = true → t = s) ∧
      ((s.queue q).en = true → v.getLsbD 0 = false → queueHolds s q → t = s) ∧
      ((s.queue q).en = true → v.getLsbD 0 = false → ¬ queueHolds s q →
        t.queue q = { s.queue q with en := false })

/-- STBY12_SENSE_CHANGE (R509): the level is what bit 3 of OD 01.030 reads, and nothing else of the state changes. -/
def Obligations.StandbySenseIsOnlyReported : Prop :=
  ∀ (s : State) (b : Bool), s.power.aux = true →
    ∃ t : State, exec (.stby12SenseChange b) s = .next t ∧ t = { s with power := { s.power with stby12 := b } } ∧
      (trayBits t).testBit 3 = b

/-- The test vector of R70. -/
def Obligations.StochasticWordVector : Prop := srWord 0x1 0x2 0x3 0 = 0x991727BAE5224728#64

/-- The severity of every detector of the catalogue, and its configuration after reset: POST is 1, and ALERT is 1 at
severity 5 alone (R482). -/
def Obligations.SeveritiesAreFixed : Prop :=
  (∀ d ∈ [0x012, 0x100, 0x101], severity d = 5) ∧
  (∀ d ∈ [0x041, 0x111, 0x201, 0x232, 0x233, 0x234, 0x241, 0x301, 0x311, 0x313, 0x321, 0x403, 0x404, 0x405, 0x406,
      0x408, 0x409, 0x422, 0x424, 0x425, 0x510, 0x550, 0xA00, 0xA01, 0xA11, 0xB02, 0xB11, 0xB20], severity d = 4) ∧
  (∀ d ∈ [0x322, 0x407, 0x521, 0x522, 0x523, 0x530, 0x531, 0x540, 0x543, 0x544, 0x609, 0x710, 0x722, 0x920, 0xA10],
      severity d = 3) ∧
  (∀ d, 0x7E0 ≤ d → d ≤ 0x7E9 → severity d = 3) ∧ (∀ d, 0x800 ≤ d → d ≤ 0x820 → severity d = 3) ∧
  (∀ d ∈ [0x000, 0x001, 0x010, 0x011, 0x020, 0x030, 0x031, 0x040, 0x102, 0x110, 0x120, 0x121, 0x200, 0x210, 0x211,
      0x240, 0x242, 0x400, 0x401, 0x420, 0x520, 0x541, 0x542, 0x545, 0x546, 0x552, 0x60A, 0x720, 0x900, 0x930, 0x931,
      0xA20, 0xB01, 0xB30], severity d = 2) ∧
  (∀ d, 0x600 ≤ d → d ≤ 0x607 → severity d = 2) ∧
  (∀ d ∈ [0x002, 0x112, 0x220, 0x230, 0x231, 0x300, 0x310, 0x312, 0x320, 0x402, 0x421, 0x423, 0x551, 0x721, 0x901,
      0x921, 0xA21, 0xA30, 0xB00, 0xB10, 0xB21], severity d = 1) ∧
  (∀ d, postsOf State.reset.events d = true ∧ (alertsOf State.reset.events d = true ↔ severity d = 5))

/-- The narrow formats: an O3 code reads as the E2M1 code that R38 widens it to, with 0b100 as zero; the four O2 codes
read as R39 says, and 0b10 alone is invalid; and no rounding of a finite value or of an infinity writes 0b100 in O3 or
0b10 in O2. -/
def Obligations.NarrowCodesAreRead : Prop :=
  (∀ c < 8, (elemVal 9 c).eqv (elemVal 8 ([0, 1, 2, 4, 0, 9, 10, 12].getD c 0)) = true) ∧
  (elemVal 10 0 = .zero ∧ elemVal 10 1 = .one ∧ elemVal 10 3 = .fin true 1 0 ∧ elemVal 10 2 = .zero) ∧
  (∀ cs : List Nat, (∀ c ∈ cs, c < 4) → invalidCodes 10 cs = cs.count 2) ∧
  (∀ (r : Rounding) (sc : Scale) (x : Val), (∀ u, r = .stochastic u → u < 2 ^ 24) →
    (narrowElem 9 r sc x).1 ≠ 4 ∧ (narrowElem 9 r sc x).1 < 8 ∧
    (narrowElem 10 r sc x).1 ≠ 2 ∧ (narrowElem 10 r sc x).1 < 4)

/-- W48 (R50, R53, R55): every pattern that R50 allows is the rounding of its own value, with neither count; NaN stays
NaN, and the sum of opposite infinities is NaN; and no rounding counts both a flush and a saturation. -/
def Obligations.AccumulatorValuesAreExact : Prop :=
  (∀ w : BitVec 48, bitsOf w.toNat 46 37 = 1023 → bitsOf w.toNat 36 0 ≠ 0 → w48Round (w48Val w) = (0x7FF000000000#48, {})) ∧
  (∀ w : BitVec 48, bitsOf w.toNat 46 37 ≠ 0 ∨ bitsOf w.toNat 36 0 = 0 →
      bitsOf w.toNat 46 37 ≠ 1023 ∨ bitsOf w.toNat 36 0 = 0 → w48Round (w48Val w) = (w, {})) ∧
  (∀ (w : BitVec 48) (v : Val), w48Val w = .nan → (w48Add w v).1 = 0x7FF000000000#48) ∧
  (∀ (w : BitVec 48) (b : Bool), w48Val w = .inf b → (w48Add w (.inf (!b))).1 = 0x7FF000000000#48) ∧
  (∀ v : Val, (w48Round v).2.sat = 0 ∨ (w48Round v).2.flush = 0)

/-- A completion entry (R356, R357): while the ring of its queue has room and holds none back, its 64 bytes are written at
CQ_TAIL with SQ_HEAD and the phase, CQ_TAIL moves by one, the phase turns at the end of the ring, and no other byte of
BAR0 changes; while it is full the entry is held, CQFULL is set and no byte changes. -/
def Obligations.CompletionsGoToTheRing : Prop :=
  ∀ (s : State) (q : Nat) (e : List Byte), q < s.host.queues.length → e.length = 64 → s.host.bar0.wf = true →
    ((s.queue q).held = [] → cqIsFull (s.queue q) = false →
      memRead (cqPost q e s).host.bar0 (cqBase q + 64 * (s.queue q).cqTail) 64 =
        splice (splice e 6 (leBytes 2 (s.queue q).sqHead)) 13
          [BitVec.ofNat 8 (leAt e 13 1 / 2 * 2 + bit (s.queue q).phase)] ∧
      (∀ a, a < cqBase q + 64 * (s.queue q).cqTail ∨ cqBase q + 64 * (s.queue q).cqTail + 64 ≤ a →
        memGet (cqPost q e s).host.bar0 a = memGet s.host.bar0 a) ∧
      ((cqPost q e s).queue q).cqTail = ((s.queue q).cqTail + 1) % (s.queue q).size ∧
      (((cqPost q e s).queue q).phase = (s.queue q).phase ↔ ((s.queue q).cqTail + 1) % (s.queue q).size ≠ 0)) ∧
    (cqIsFull (s.queue q) = true →
      (cqPost q e s).host.bar0 = s.host.bar0 ∧ ((cqPost q e s).queue q).held = (s.queue q).held ++ [e] ∧
      ((cqPost q e s).queue q).cqFull = true ∧ ((cqPost q e s).queue q).cqTail = (s.queue q).cqTail)

/-- ADD (R165, R170): an add that is no misuse raises the VALUE of its tumbler by exactly its amount and leaves the VALUE
of every other tumbler alone; a misused one changes no VALUE. What is a misuse: a handle outside the reservation, an
add to a span tumbler by anything but a control message, and an add that would pass 2^64 − 1. -/
def Obligations.TumblerAddsAreExact : Prop :=
  (∀ (s : State) (h tumb n : Nat) (iss : Issuer) (r : Recipe), s.recipe? h = some r →
    ∃ u : Recipe, (tAdd h tumb n iss s).recipe? h = some u ∧
      (addMisuse r tumb n iss = none → u.value tumb = r.value tumb + n ∧ ∀ x, x ≠ tumb → u.value x = r.value x) ∧
      (addMisuse r tumb n iss ≠ none → ∀ x, u.value x = r.value x)) ∧
  (∀ (r : Recipe) (tumb n : Nat) (iss : Issuer),
    (handleOk r tumb = false → addMisuse r tumb n iss = some 0x820) ∧
    (handleOk r tumb = true → (r.tumbler tumb).priv = false → (r.tumbler tumb).kind = 2 → iss.span = false →
      addMisuse r tumb n iss = some 0x811) ∧
    (handleOk r tumb = true → (r.tumbler tumb).priv = false → (r.tumbler tumb).kind = 0 → iss.span = false →
      (addMisuse r tumb n iss = some 0x800 ↔ 2 ^ 64 ≤ r.value tumb + n)))

/-- The frame of the host's register writes (R349 to R357, R445, R478): a doorbell, a head, a queue configuration, the
window's base, a write in BAR0 or BAR4 and the timers of the rings change the host interface, the Event Tray's
registers and the Mailbox alone. -/
def Obligations.RegisterWritesLeaveTheRest : Prop :=
  ∀ (i : Instr) (s t : State),
    ((∃ q v, i = .submissionDoorbell q v) ∨ (∃ q v, i = .cqHeadWrite q v) ∨ (∃ q v, i = .qcfgWrite q v) ∨
      (∃ v, i = .bar2BaseWrite v) ∨ (∃ b a bs, i = .genericRegisterWrite b a bs) ∨ (∃ v, i = .mailboxDoorbell v) ∨
      (∃ v, i = .rspHeadWrite v) ∨ (∃ q, i = .completionRingStall q) ∨ (∃ r, i = .interruptDelayExpiry r)) →
    exec i s = .next t →
    t = { s with host := t.host, events := t.events, warden := t.warden } ∧ t.warden.stored = s.warden.stored

/-- The frame of what only reads (R440, R442, R444, R448): READ, PROBE, the READ that clears ALERT, SUBSCRIBE, the notices
it brings, its expiry, and a discarded frame change the Warden's own tables, the event record, the Mailbox's ring and
the supply of free values alone: no setting, no recipe, no memory and no unit changes. -/
def Obligations.ReadsLeaveTheDevice : Prop :=
  ∀ (i : Instr) (s t : State),
    ((∃ p, i = .read p) ∨ (∃ p b, i = .probe p b) ∨ (∃ p, i = .alertClearingRead p) ∨ (∃ p, i = .subscribe p) ∨
      (∃ k, i = .notificationPeriod k) ∨ (∃ k, i = .subscriptionExpiry k) ∨ (∃ p, i = .frameDiscard p)) →
    exec i s = .next t →
    t = { s with host := t.host, events := t.events, warden := t.warden, free := t.free } ∧
      t.warden.stored = s.warden.stored

/-- The event collector (R480): a record that arrives at a ring with room is written at ET_TAIL as its 32 bytes, ET_TAIL
moves by one and no other byte of the near tier changes; one that finds the ring full is counted in ET_LOST, sets FULL
and is not written. -/
def Obligations.EventsReachTheRing : Prop :=
  ∀ (s : State) (r : EventRec) (rs : List EventRec), s.events.transit = r :: rs → s.events.en = true →
    s.near.wf = true →
    ∃ t : State, exec (.eventCollectorWrite 0) s = .next t ∧ t.events.transit = rs ∧
      (etIsFull s.events = false →
        memRead t.near (s.events.base.toNat + 32 * s.events.tail) 32 = recordBytes r ∧
        (∀ a, a < s.events.base.toNat + 32 * s.events.tail ∨ s.events.base.toNat + 32 * s.events.tail + 32 ≤ a →
          memGet t.near a = memGet s.near a) ∧
        t.events.tail = (s.events.tail + 1) % etSize s.events ∧ t.events.lost = s.events.lost) ∧
      (etIsFull s.events = true →
        t.near = s.near ∧ t.events.tail = s.events.tail ∧ t.events.full = true ∧
        t.events.lost = satAdd 64 s.events.lost 1)

/-- VIEW_UPDATE (R18): each applied update raises the generation by one, and leaves the updates that wait behind it, in
their order. -/
def Obligations.ViewUpdatesNumberTheView : Prop :=
  ∀ (s : State) (u : ViewUpdate) (us : List ViewUpdate), s.gate.pending = u :: us → s.gate.gen + 1 < 2 ^ 64 →
    ∃ t : State, exec .viewUpdate s = .next t ∧ t.gate.gen = s.gate.gen + 1 ∧ t.gate.pending = us

/-- HOST_FUNCTION_RESET of a device that runs no recipe (R349, R367): every queue is disabled and emptied with no
completion written, BAR2_BASE and DROPPED_DB return to their reset values, ET_LOST keeps its count, RDY is set where the
device has reached a serving state since it left OFF (log entry 84), the function is in D0 (presumed, log entry 78), and
the near tier, the images of the rind and the stored settings are unaffected. -/
def Obligations.HostFunctionResetClears : Prop :=
  ∀ (s : State) (c : HostResetCause), s.host.linkUp = true → s.recipes = [] →
    ∃ t : State, exec (.hostFunctionReset c) s = .next t ∧ t.host.queues = List.replicate 16 Queue.reset ∧
      t.host.cmds = [] ∧ t.host.bar2Base = 0 ∧ t.host.droppedDb = 0 ∧ t.events.en = false ∧
      t.events.lost = s.events.lost ∧ t.near = s.near ∧ t.rind = s.rind ∧ t.warden.stored = s.warden.stored ∧
      t.host.hostPower = .d0 ∧ t.host.rdy = s.life.reached

/-- The atomics (R138): each reads its naturally aligned operand, returns it, writes the result there, and changes no
other byte of the near tier; the same of the sum that saturates at 2^32 − 1, the sum modulo 2^64 and the exchange. -/
def Obligations.AtomicsTouchTheirOperand : Prop :=
  ∀ (s : State) (a : Nat), s.near.wf = true →
    (∀ v : Word32, atomicOk s a 4 = true → ∃ t : State, exec (.adds32 a v) s = .next t ∧
      memLe t.near a 4 = min (memLe s.near a 4 + v.toNat) (2 ^ 32 - 1) ∧ t.tiers.lastAtomic = memLe s.near a 4 ∧
      (∀ x, x < a ∨ a + 4 ≤ x → memGet t.near x = memGet s.near x)) ∧
    (∀ v : Word, atomicOk s a 8 = true → ∃ t : State, exec (.add64 a v) s = .next t ∧
      memLe t.near a 8 = (memLe s.near a 8 + v.toNat) % 2 ^ 64 ∧ t.tiers.lastAtomic = memLe s.near a 8 ∧
      (∀ x, x < a ∨ a + 8 ≤ x → memGet t.near x = memGet s.near x)) ∧
    (∀ (w : CasWidth) (x y : Word), atomicOk s a (casBytes w) = true → ∃ t : State, exec (.cas w a x y) s = .next t ∧
      memLe t.near a (casBytes w) = (if memLe s.near a (casBytes w) = x.toNat % 2 ^ (8 * casBytes w)
        then y.toNat % 2 ^ (8 * casBytes w) else memLe s.near a (casBytes w)) ∧
      t.tiers.lastAtomic = memLe s.near a (casBytes w) ∧
      (∀ z, z < a ∨ a + casBytes w ≤ z → memGet t.near z = memGet s.near z))

/-- Loads and stores of a helper core (R199, R200): a scalar store that completes writes bytes of one core's scratch (the
user part in U-mode, the whole in M-mode) and no other byte of the device; in U-mode an access of the scratch of a core
that is no mate, and in either mode one outside all scratch, is fault 0x03; a misaligned one is fault 0x02; none of these
changes anything; and the own-scratch alias names the bytes of the core's own scratch. -/
def Obligations.StoresReachScratchOnly : Prop :=
  (∀ (c : Core) (a n v : Nat) (s t : State), s.dev.wf = true → storeScalar c a n v s = .ok t →
    t = { s with dev := t.dev, cores := t.cores } ∧
    ∃ p, (∃ l, scratchAt l ≤ p ∧ p + n ≤ scratchAt l + (if c.priv = .user then userScratch else 65536)) ∧ memRead t.dev p n = leBytes n v ∧
      ∀ x, x < p ∨ p + n ≤ x → memGet t.dev x = memGet s.dev x) ∧
  (∀ (c : Core) (a n v : Nat) (s : State), a % n ≠ 0 →
    storeScalar c a n v s = .error (2, a) ∧ loadScalar s c a n = .error (2, a)) ∧
  (∀ (c : Core) (a n v : Nat) (s : State), a % n = 0 →
      ¬ (ownBase ≤ a ∧ a + n ≤ ownBase + (if c.priv = .user then userScratch else 65536)) →
      ¬ (scratchBase ≤ a ∧ a < scratchEnd) →
    storeScalar c a n v s = .error (3, a) ∧ loadScalar s c a n = .error (3, a)) ∧
  (∀ (c : Core) (a n l : Nat) (s : State), ownBase ≤ a → a + n ≤ ownBase + userScratch → a % n = 0 →
      logicalOf s c.id = some l →
    loadScalar s c a n = .ok (memLe s.dev (scratchAt l + (a - ownBase)) n)) ∧
  (∀ (c : Core) (a n v : Nat) (s : State) (id : CoreId), c.priv = .user → scratchBase ≤ a → a < scratchEnd → a % n = 0 →
      coreOfLogical s ((a - scratchBase) / 65536) = some id → isMate s c id = false →
    storeScalar c a n v s = .error (3, a) ∧ loadScalar s c a n = .error (3, a))

/-- The registers that the host reads after reset (R349, R352, R478): RDY and RESET clear, the generation, BAR2_BASE and
DROPPED_DB zero, all sixteen queues disabled with every field zero, the Event Tray disabled with every register zero.
-/
def Obligations.HostRegistersAfterReset : Prop :=
  State.reset.host.rdy = false ∧ State.reset.host.resetting = false ∧ State.reset.gate.gen = 0 ∧
  State.reset.host.bar2Base = 0 ∧ State.reset.host.droppedDb = 0 ∧
  (∀ q < 16, (State.reset.queue q).en = false ∧ (State.reset.queue q).cfgErr = false ∧
    (State.reset.queue q).cqFull = false ∧ (State.reset.queue q).drain = 0 ∧ (State.reset.queue q).itime = 0 ∧
    (State.reset.queue q).icount = 0 ∧ (State.reset.queue q).vector = 0 ∧ (State.reset.queue q).size = 0 ∧
    (State.reset.queue q).sqHead = 0 ∧ (State.reset.queue q).sqTail = 0 ∧ (State.reset.queue q).cqHead = 0 ∧
    (State.reset.queue q).cqTail = 0) ∧
  State.reset.events.base = 0 ∧ State.reset.events.cfg = 0 ∧ State.reset.events.en = false ∧
  State.reset.events.cfgErr = false ∧ State.reset.events.full = false ∧ State.reset.events.tail = 0 ∧
  State.reset.events.head = 0 ∧ State.reset.events.lost = 0

/-- RISCV_INSTRUCTION of an integer instruction (R196; the instruction set is presumed, log entry 15): ADD and ADDI write
the sum modulo 2^64 to rd and the pc moves past the instruction; x0 reads as zero, and a write of it writes nothing.
-/
def Obligations.IntegerAddsWriteTheirDestination : Prop :=
  (∀ (s : State) (c : CoreId) (k : Core) (rd rs1 rs2 : Nat), rd < 32 → rs1 < 32 → rs2 < 32 → s.core? c = some k →
      executing s k = true → fetch k = .word (encR 0x33 0 0 rd rs1 rs2) 4 →
    exec (.riscvInstruction c) s = .next (retireInstr
      (((touchFetch k).wx rd (m64 (k.rx rs1 + k.rx rs2))).jump (k.pc.toNat + 4)) 1 s)) ∧
  (∀ (s : State) (c : CoreId) (k : Core) (rd rs1 imm : Nat), rd < 32 → rs1 < 32 → imm < 4096 → s.core? c = some k →
      executing s k = true → fetch k = .word (encI 0x13 0 rd rs1 imm) 4 →
    exec (.riscvInstruction c) s = .next (retireInstr
      (((touchFetch k).wx rd (m64 (k.rx rs1 + sx 12 imm))).jump (k.pc.toNat + 4)) 1 s)) ∧
  (∀ (k : Core) (v : Nat), k.wx 0 v = k ∧ k.rx 0 = 0) ∧
  (∀ (k : Core) (i j v : Nat), 0 < i → i < k.x.length → v < 2 ^ 64 →
    (k.wx i v).rx i = v ∧ (j ≠ i → (k.wx i v).rx j = k.rx j))
end

