-- ==== Sys2Proof/Laws/Dispatch.lean ====
section
/-! SUPPORT. What `exec` does with each command: one equation for each arm of Machine/Dispatch.lean, true by definition,
so that no proof unfolds the whole dispatch. -/

namespace Sys2Proof.Machine

@[simp] theorem exec_submissionDoorbell (q tail : Nat) (s : State) :
    exec (.submissionDoorbell q tail) s = execSubmissionDoorbell q tail s := rfl
@[simp] theorem exec_cqHeadWrite (q index : Nat) (s : State) :
    exec (.cqHeadWrite q index) s = execCqHeadWrite q index s := rfl
@[simp] theorem exec_qcfgWrite (q : Nat) (v : Word) (s : State) : exec (.qcfgWrite q v) s = execQcfgWrite q v s := rfl
@[simp] theorem exec_bar2BaseWrite (v : Word) (s : State) : exec (.bar2BaseWrite v) s = execBar2BaseWrite v s := rfl
@[simp] theorem exec_bar2Access (off : Nat) (op : Bar2Op) (s : State) :
    exec (.bar2Access off op) s = execBar2Access off op s := rfl
@[simp] theorem exec_genericRegisterWrite (bar : Bar) (off : Nat) (bytes : List Byte) (s : State) :
    exec (.genericRegisterWrite bar off bytes) s = execGenericRegisterWrite bar off bytes s := rfl
@[simp] theorem exec_invalidSubmissionEntry (s : State) :
    exec .invalidSubmissionEntry s = execInvalidSubmissionEntry s := rfl
@[simp] theorem exec_admitRecipe (s : State) : exec .admitRecipe s = execAdmitRecipe s := rfl
@[simp] theorem exec_startStep (s : State) : exec .startStep s = execStartStep s := rfl
@[simp] theorem exec_startStepHeldBegin (recipe : Nat) (s : State) :
    exec (.startStepHeldBegin recipe) s = execStartStepHeldBegin recipe s := rfl
@[simp] theorem exec_retireRecipe (s : State) : exec .retireRecipe s = execRetireRecipe s := rfl
@[simp] theorem exec_copy (busError : Option Nat) (s : State) : exec (.copy busError) s = execCopy busError s := rfl
@[simp] theorem exec_copyQueuedBegin (busError : Option Nat) (s : State) :
    exec (.copyQueuedBegin busError) s = execCopyQueuedBegin busError s := rfl
@[simp] theorem exec_snapshotNow (s : State) : exec .snapshotNow s = execSnapshotNow s := rfl
@[simp] theorem exec_restore (nand : Nand) (s : State) : exec (.restore nand) s = execRestore nand s := rfl
@[simp] theorem exec_restoreBodyWritten (recipe : Nat) (s : State) :
    exec (.restoreBodyWritten recipe) s = execRestoreBodyWritten recipe s := rfl
@[simp] theorem exec_queryCapacity (s : State) : exec .queryCapacity s = execQueryCapacity s := rfl
@[simp] theorem exec_fenceQueue (s : State) : exec .fenceQueue s = execFenceQueue s := rfl
@[simp] theorem exec_etCfgWrite (v : Word) (s : State) : exec (.etCfgWrite v) s = execEtCfgWrite v s := rfl
@[simp] theorem exec_etHeadWrite (v : Word) (s : State) : exec (.etHeadWrite v) s = execEtHeadWrite v s := rfl
@[simp] theorem exec_eventCollectorWrite (k : Nat) (s : State) :
    exec (.eventCollectorWrite k) s = execEventCollectorWrite k s := rfl
@[simp] theorem exec_interruptDelayExpiry (ring : RingId) (s : State) :
    exec (.interruptDelayExpiry ring) s = execInterruptDelayExpiry ring s := rfl
@[simp] theorem exec_hostFunctionReset (cause : HostResetCause) (s : State) :
    exec (.hostFunctionReset cause) s = execHostFunctionReset cause s := rfl
@[simp] theorem exec_hostLinkTraining (width rate : Nat) (qualified : Bool) (s : State) :
    exec (.hostLinkTraining width rate qualified) s = execHostLinkTraining width rate qualified s := rfl
@[simp] theorem exec_mailboxDoorbell (v : Word) (s : State) :
    exec (.mailboxDoorbell v) s = execMailboxDoorbell v s := rfl
@[simp] theorem exec_rspHeadWrite (v : Word) (s : State) : exec (.rspHeadWrite v) s = execRspHeadWrite v s := rfl
@[simp] theorem exec_read (src : OapSrc) (s : State) : exec (.read src) s = execRead src s := rfl
@[simp] theorem exec_alertClearingRead (src : OapSrc) (s : State) :
    exec (.alertClearingRead src) s = execAlertClearingRead src s := rfl
@[simp] theorem exec_write (src : OapSrc) (s : State) : exec (.write src) s = execWrite src s := rfl
@[simp] theorem exec_execute (src : OapSrc) (s : State) : exec (.execute src) s = execExecute src s := rfl
@[simp] theorem exec_probe (src : OapSrc) (allNodes : Bool) (s : State) :
    exec (.probe src allNodes) s = execProbe src allNodes s := rfl
@[simp] theorem exec_abort (src : OapSrc) (s : State) : exec (.abort src) s = execAbort src s := rfl
@[simp] theorem exec_subscribe (src : OapSrc) (s : State) : exec (.subscribe src) s = execSubscribe src s := rfl
@[simp] theorem exec_blockBegin (src : OapSrc) (s : State) : exec (.blockBegin src) s = execBlockBegin src s := rfl
@[simp] theorem exec_blockData (src : OapSrc) (s : State) : exec (.blockData src) s = execBlockData src s := rfl
@[simp] theorem exec_blockEnd (src : OapSrc) (s : State) : exec (.blockEnd src) s = execBlockEnd src s := rfl
@[simp] theorem exec_frameDiscard (src : OapSrc) (s : State) :
    exec (.frameDiscard src) s = execFrameDiscard src s := rfl
@[simp] theorem exec_notificationPeriod (k : Nat) (s : State) :
    exec (.notificationPeriod k) s = execNotificationPeriod k s := rfl
@[simp] theorem exec_subscriptionExpiry (k : Nat) (s : State) :
    exec (.subscriptionExpiry k) s = execSubscriptionExpiry k s := rfl
@[simp] theorem exec_blockSessionTimeout (obj : Nat) (s : State) :
    exec (.blockSessionTimeout obj) s = execBlockSessionTimeout obj s := rfl
@[simp] theorem exec_capWrite (src : OapSrc) (s : State) : exec (.capWrite src) s = execCapWrite src s := rfl
@[simp] theorem exec_windowWrite (src : OapSrc) (s : State) : exec (.windowWrite src) s = execWindowWrite src s := rfl
@[simp] theorem exec_deviceEnable (src : OapSrc) (s : State) :
    exec (.deviceEnable src) s = execDeviceEnable src s := rfl
@[simp] theorem exec_deviceDisable (src : OapSrc) (s : State) :
    exec (.deviceDisable src) s = execDeviceDisable src s := rfl
@[simp] theorem exec_wheelEnable (src : OapSrc) (scan : WheelScan) (s : State) :
    exec (.wheelEnable src scan) s = execWheelEnable src scan s := rfl
@[simp] theorem exec_wheelDisable (src : OapSrc) (s : State) :
    exec (.wheelDisable src) s = execWheelDisable src s := rfl
@[simp] theorem exec_farPortEnable (src : OapSrc) (found : FarFound) (s : State) :
    exec (.farPortEnable src found) s = execFarPortEnable src found s := rfl
@[simp] theorem exec_farPortDisable (src : OapSrc) (s : State) :
    exec (.farPortDisable src) s = execFarPortDisable src s := rfl
@[simp] theorem exec_hingePortEnable (src : OapSrc) (train : HingeTrain) (s : State) :
    exec (.hingePortEnable src train) s = execHingePortEnable src train s := rfl
@[simp] theorem exec_hingePortDisable (src : OapSrc) (s : State) :
    exec (.hingePortDisable src) s = execHingePortDisable src s := rfl
@[simp] theorem exec_rindEnable (src : OapSrc) (s : State) : exec (.rindEnable src) s = execRindEnable src s := rfl
@[simp] theorem exec_rindDisable (src : OapSrc) (s : State) : exec (.rindDisable src) s = execRindDisable src s := rfl
@[simp] theorem exec_maintenanceRequest (src : OapSrc) (s : State) :
    exec (.maintenanceRequest src) s = execMaintenanceRequest src s := rfl
@[simp] theorem exec_maintenanceEntry (s : State) : exec .maintenanceEntry s = execMaintenanceEntry s := rfl
@[simp] theorem exec_maintenanceExit (src : OapSrc) (s : State) :
    exec (.maintenanceExit src) s = execMaintenanceExit src s := rfl
@[simp] theorem exec_caveFlushComplete (portError : Option Nat) (s : State) :
    exec (.caveFlushComplete portError) s = execCaveFlushComplete portError s := rfl
@[simp] theorem exec_ownerLockWrite (src : OapSrc) (s : State) :
    exec (.ownerLockWrite src) s = execOwnerLockWrite src s := rfl
@[simp] theorem exec_ownerLockLockoutEnd (s : State) : exec .ownerLockLockoutEnd s = execOwnerLockLockoutEnd s := rfl
@[simp] theorem exec_injectionPermitWrite (src : OapSrc) (s : State) :
    exec (.injectionPermitWrite src) s = execInjectionPermitWrite src s := rfl
@[simp] theorem exec_injectionPointWrite (src : OapSrc) (s : State) :
    exec (.injectionPointWrite src) s = execInjectionPointWrite src s := rfl
@[simp] theorem exec_injectionTick (det : Nat) (s : State) :
    exec (.injectionTick det) s = execInjectionTick det s := rfl
@[simp] theorem exec_detectorConfigWrite (src : OapSrc) (s : State) :
    exec (.detectorConfigWrite src) s = execDetectorConfigWrite src s := rfl
@[simp] theorem exec_routeEntryWrite (src : OapSrc) (s : State) :
    exec (.routeEntryWrite src) s = execRouteEntryWrite src s := rfl
@[simp] theorem exec_regionSizeWrite (src : OapSrc) (s : State) :
    exec (.regionSizeWrite src) s = execRegionSizeWrite src s := rfl
@[simp] theorem exec_vatModeOverrideWrite (src : OapSrc) (s : State) :
    exec (.vatModeOverrideWrite src) s = execVatModeOverrideWrite src s := rfl
@[simp] theorem exec_commandEnd (s : State) : exec .commandEnd s = execCommandEnd s := rfl
@[simp] theorem exec_activateFirmware (src : OapSrc) (s : State) :
    exec (.activateFirmware src) s = execActivateFirmware src s := rfl
@[simp] theorem exec_replanMargins (src : OapSrc) (scans : List (Nat × WheelScan)) (s : State) :
    exec (.replanMargins src scans) s = execReplanMargins src scans s := rfl
@[simp] theorem exec_restoreRindImage (src : OapSrc) (nand : Nand) (s : State) :
    exec (.restoreRindImage src nand) s = execRestoreRindImage src nand s := rfl
@[simp] theorem exec_reconcileDefectMap (src : OapSrc) (passed : List Nat) (s : State) :
    exec (.reconcileDefectMap src passed) s = execReconcileDefectMap src passed s := rfl
@[simp] theorem exec_qualifyLinks (src : OapSrc) (s : State) :
    exec (.qualifyLinks src) s = execQualifyLinks src s := rfl
@[simp] theorem exec_confirmFirmware (src : OapSrc) (s : State) :
    exec (.confirmFirmware src) s = execConfirmFirmware src s := rfl
@[simp] theorem exec_enterRecovery (src : OapSrc) (s : State) :
    exec (.enterRecovery src) s = execEnterRecovery src s := rfl
@[simp] theorem exec_flushCaveCache (src : OapSrc) (s : State) :
    exec (.flushCaveCache src) s = execFlushCaveCache src s := rfl
@[simp] theorem exec_deviceReset (src : OapSrc) (s : State) : exec (.deviceReset src) s = execDeviceReset src s := rfl
@[simp] theorem exec_wheelReset (src : OapSrc) (s : State) : exec (.wheelReset src) s = execWheelReset src s := rfl
@[simp] theorem exec_taskLoad (recipe wheel : Nat) (spec : Bool) (s : State) :
    exec (.taskLoad recipe wheel spec) s = execTaskLoad recipe wheel spec s := rfl
@[simp] theorem exec_taskStart (t : TaskRef) (s : State) : exec (.taskStart t) s = execTaskStart t s := rfl
@[simp] theorem exec_taskRetire (t : TaskRef) (s : State) : exec (.taskRetire t) s = execTaskRetire t s := rfl
@[simp] theorem exec_pageReturn (recipe page : Nat) (s : State) :
    exec (.pageReturn recipe page) s = execPageReturn recipe page s := rfl
@[simp] theorem exec_stepComplete (recipe : Nat) (s : State) :
    exec (.stepComplete recipe) s = execStepComplete recipe s := rfl
@[simp] theorem exec_stepWatchdogExpiry (recipe : Nat) (s : State) :
    exec (.stepWatchdogExpiry recipe) s = execStepWatchdogExpiry recipe s := rfl
@[simp] theorem exec_spanPatienceExpiry (recipe : Nat) (s : State) :
    exec (.spanPatienceExpiry recipe) s = execSpanPatienceExpiry recipe s := rfl
@[simp] theorem exec_completionRingStall (q : Nat) (s : State) :
    exec (.completionRingStall q) s = execCompletionRingStall q s := rfl
@[simp] theorem exec_hoopPick (wheel hoop : Nat) (s : State) :
    exec (.hoopPick wheel hoop) s = execHoopPick wheel hoop s := rfl
@[simp] theorem exec_riscvInstruction (c : CoreId) (s : State) :
    exec (.riscvInstruction c) s = execRiscvInstruction c s := rfl
@[simp] theorem exec_icacheMissFill (c : CoreId) (s : State) :
    exec (.icacheMissFill c) s = execIcacheMissFill c s := rfl
@[simp] theorem exec_ecallExit (c : CoreId) (s : State) : exec (.ecallExit c) s = execEcallExit c s := rfl
@[simp] theorem exec_budgetExceeded (c : CoreId) (s : State) :
    exec (.budgetExceeded c) s = execBudgetExceeded c s := rfl
@[simp] theorem exec_kzQuant (c : CoreId) (s : State) : exec (.kzQuant c) s = execKzQuant c s := rfl
@[simp] theorem exec_kzDequant (c : CoreId) (s : State) : exec (.kzDequant c) s = execKzDequant c s := rfl
@[simp] theorem exec_kzEyepickAccumulate (c : CoreId) (s : State) :
    exec (.kzEyepickAccumulate c) s = execKzEyepickAccumulate c s := rfl
@[simp] theorem exec_kzEyepickSelect (c : CoreId) (s : State) :
    exec (.kzEyepickSelect c) s = execKzEyepickSelect c s := rfl
@[simp] theorem exec_kzTopk (c : CoreId) (s : State) : exec (.kzTopk c) s = execKzTopk c s := rfl
@[simp] theorem exec_kzHist (c : CoreId) (s : State) : exec (.kzHist c) s = execKzHist c s := rfl
@[simp] theorem exec_kzCarry (c : CoreId) (s : State) : exec (.kzCarry c) s = execKzCarry c s := rfl
@[simp] theorem exec_carryComplete (c : CoreId) (k : Nat) (e : CarryEnd) (s : State) :
    exec (.carryComplete c k e) s = execCarryComplete c k e s := rfl
@[simp] theorem exec_kzTadd (c : CoreId) (s : State) : exec (.kzTadd c) s = execKzTadd c s := rfl
@[simp] theorem exec_chainAction (k : Nat) (s : State) : exec (.chainAction k) s = execChainAction k s := rfl
@[simp] theorem exec_kzTwait (c : CoreId) (s : State) : exec (.kzTwait c) s = execKzTwait c s := rfl
@[simp] theorem exec_twaitWake (c : CoreId) (s : State) : exec (.twaitWake c) s = execTwaitWake c s := rfl
@[simp] theorem exec_kzTarm (c : CoreId) (s : State) : exec (.kzTarm c) s = execKzTarm c s := rfl
@[simp] theorem exec_kzPost (c : CoreId) (s : State) : exec (.kzPost c) s = execKzPost c s := rfl
@[simp] theorem exec_kzSpecBegin (c : CoreId) (s : State) : exec (.kzSpecBegin c) s = execKzSpecBegin c s := rfl
@[simp] theorem exec_kzSpecEnd (c : CoreId) (s : State) : exec (.kzSpecEnd c) s = execKzSpecEnd c s := rfl
@[simp] theorem exec_mac (d : DescRef) (s : State) : exec (.mac d) s = execMac d s := rfl
@[simp] theorem exec_macClear (d : DescRef) (s : State) : exec (.macClear d) s = execMacClear d s := rfl
@[simp] theorem exec_drain (d : DescRef) (s : State) : exec (.drain d) s = execDrain d s := rfl
@[simp] theorem exec_loadAcc (d : DescRef) (s : State) : exec (.loadAcc d) s = execLoadAcc d s := rfl
@[simp] theorem exec_transpose (d : DescRef) (s : State) : exec (.transpose d) s = execTranspose d s := rfl
@[simp] theorem exec_fence (d : DescRef) (s : State) : exec (.fence d) s = execFence d s := rfl
@[simp] theorem exec_descriptorSignal (d : DescRef) (s : State) :
    exec (.descriptorSignal d) s = execDescriptorSignal d s := rfl
@[simp] theorem exec_arrangementReconfigure (vat : Nat) (s : State) :
    exec (.arrangementReconfigure vat) s = execArrangementReconfigure vat s := rfl
@[simp] theorem exec_vatChangeApply (vat : Nat) (s : State) :
    exec (.vatChangeApply vat) s = execVatChangeApply vat s := rfl
@[simp] theorem exec_recomputeOpenGrant (recipe entry : Nat) (s : State) :
    exec (.recomputeOpenGrant recipe entry) s = execRecomputeOpenGrant recipe entry s := rfl
@[simp] theorem exec_recomputeOpenWaitTimeout (recipe entry : Nat) (s : State) :
    exec (.recomputeOpenWaitTimeout recipe entry) s = execRecomputeOpenWaitTimeout recipe entry s := rfl
@[simp] theorem exec_feederStarvationTimeout (vat : Nat) (s : State) :
    exec (.feederStarvationTimeout vat) s = execFeederStarvationTimeout vat s := rfl
@[simp] theorem exec_vatHandshakeStall (vat : Nat) (suspect : Option (Bool × Nat)) (s : State) :
    exec (.vatHandshakeStall vat suspect) s = execVatHandshakeStall vat suspect s := rfl
@[simp] theorem exec_updateNativeApply (d : DescRef) (s : State) :
    exec (.updateNativeApply d) s = execUpdateNativeApply d s := rfl
@[simp] theorem exec_updateMh4Apply (d : DescRef) (s : State) :
    exec (.updateMh4Apply d) s = execUpdateMh4Apply d s := rfl
@[simp] theorem exec_updateCopiesOnly (d : DescRef) (s : State) :
    exec (.updateCopiesOnly d) s = execUpdateCopiesOnly d s := rfl
@[simp] theorem exec_ratioPassNative (d : DescRef) (s : State) :
    exec (.ratioPassNative d) s = execRatioPassNative d s := rfl
@[simp] theorem exec_ratioPassMh4 (d : DescRef) (s : State) : exec (.ratioPassMh4 d) s = execRatioPassMh4 d s := rfl
@[simp] theorem exec_updatePacket (d : DescRef) (packet : Nat) (s : State) :
    exec (.updatePacket d packet) s = execUpdatePacket d packet s := rfl
@[simp] theorem exec_emissionUnit (d : DescRef) (record unit : Nat) (s : State) :
    exec (.emissionUnit d record unit) s = execEmissionUnit d record unit s := rfl
@[simp] theorem exec_versionWaitTimeout (t : TaskRef) (wait : Nat) (s : State) :
    exec (.versionWaitTimeout t wait) s = execVersionWaitTimeout t wait s := rfl
@[simp] theorem exec_rindWaitTimeout (d : DescRef) (s : State) :
    exec (.rindWaitTimeout d) s = execRindWaitTimeout d s := rfl
@[simp] theorem exec_hingePut (d : DescRef) (s : State) : exec (.hingePut d) s = execHingePut d s := rfl
@[simp] theorem exec_dispatchOrdinary (d : DescRef) (s : State) :
    exec (.dispatchOrdinary d) s = execDispatchOrdinary d s := rfl
@[simp] theorem exec_dispatchSpeculative (d : DescRef) (s : State) :
    exec (.dispatchSpeculative d) s = execDispatchSpeculative d s := rfl
@[simp] theorem exec_dispatchResend (d : DescRef) (s : State) :
    exec (.dispatchResend d) s = execDispatchResend d s := rfl
@[simp] theorem exec_verify (d : DescRef) (s : State) : exec (.verify d) s = execVerify d s := rfl
@[simp] theorem exec_unpack (d : DescRef) (s : State) : exec (.unpack d) s = execUnpack d s := rfl
@[simp] theorem exec_combine (d : DescRef) (s : State) : exec (.combine d) s = execCombine d s := rfl
@[simp] theorem exec_allReduce (d : DescRef) (s : State) : exec (.allReduce d) s = execAllReduce d s := rfl
@[simp] theorem exec_reduceScatter (d : DescRef) (s : State) :
    exec (.reduceScatter d) s = execReduceScatter d s := rfl
@[simp] theorem exec_allGather (d : DescRef) (s : State) : exec (.allGather d) s = execAllGather d s := rfl
@[simp] theorem exec_span (d : DescRef) (s : State) : exec (.span d) s = execSpan d s := rfl
@[simp] theorem exec_nullFlit (port : Nat) (flit : List Byte) (s : State) :
    exec (.nullFlit port flit) s = execNullFlit port flit s := rfl
@[simp] theorem exec_flitCrcFailure (port : Nat) (flit : List Byte) (s : State) :
    exec (.flitCrcFailure port flit) s = execFlitCrcFailure port flit s := rfl
@[simp] theorem exec_linkInit (port : Nat) (flit : List Byte) (s : State) :
    exec (.linkInit port flit) s = execLinkInit port flit s := rfl
@[simp] theorem exec_spanAdd (port : Nat) (flit : List Byte) (s : State) :
    exec (.spanAdd port flit) s = execSpanAdd port flit s := rfl
@[simp] theorem exec_guard (port : Nat) (flit : List Byte) (s : State) :
    exec (.guard port flit) s = execGuard port flit s := rfl
@[simp] theorem exec_notice (port : Nat) (flit : List Byte) (s : State) :
    exec (.notice port flit) s = execNotice port flit s := rfl
@[simp] theorem exec_get (port : Nat) (flit : List Byte) (s : State) :
    exec (.get port flit) s = execGet port flit s := rfl
@[simp] theorem exec_getData (port : Nat) (flit : List Byte) (s : State) :
    exec (.getData port flit) s = execGetData port flit s := rfl
@[simp] theorem exec_put (port : Nat) (flit : List Byte) (s : State) :
    exec (.put port flit) s = execPut port flit s := rfl
@[simp] theorem exec_putAck (port : Nat) (flit : List Byte) (s : State) :
    exec (.putAck port flit) s = execPutAck port flit s := rfl
@[simp] theorem exec_nack (port : Nat) (flit : List Byte) (s : State) :
    exec (.nack port flit) s = execNack port flit s := rfl
@[simp] theorem exec_guardAck (port : Nat) (flit : List Byte) (s : State) :
    exec (.guardAck port flit) s = execGuardAck port flit s := rfl
@[simp] theorem exec_portRetrain (port : Nat) (cause : RetrainCause) (s : State) :
    exec (.portRetrain port cause) s = execPortRetrain port cause s := rfl
@[simp] theorem exec_retrainComplete (port : Nat) (train : HingeTrain) (s : State) :
    exec (.retrainComplete port train) s = execRetrainComplete port train s := rfl
@[simp] theorem exec_qualificationDwellEnd (link : LinkId) (r : DwellResult) (s : State) :
    exec (.qualificationDwellEnd link r) s = execQualificationDwellEnd link r s := rfl
@[simp] theorem exec_preFecBerWindow (port : Nat) (ber : Rat) (corrected uncorrectable : Nat) (s : State) :
    exec (.preFecBerWindow port ber corrected uncorrectable) s = execPreFecBerWindow port ber corrected uncorrectable s := rfl
@[simp] theorem exec_caveDemandRead (t : TaskRef) (addr : Nat) (s : State) :
    exec (.caveDemandRead t addr) s = execCaveDemandRead t addr s := rfl
@[simp] theorem exec_caveFillComplete (recipe segment : Nat) (poisoned : Option Nat) (s : State) :
    exec (.caveFillComplete recipe segment poisoned) s = execCaveFillComplete recipe segment poisoned s := rfl
@[simp] theorem exec_trackerClose (recipe k : Nat) (s : State) :
    exec (.trackerClose recipe k) s = execTrackerClose recipe k s := rfl
@[simp] theorem exec_memoryRead (r : ReqId) (addr len : Nat) (sv : Serve) (s : State) :
    exec (.memoryRead r addr len sv) s = execMemoryRead r addr len sv s := rfl
@[simp] theorem exec_memoryWrite (r : ReqId) (addr : Nat) (bytes : List Byte) (sv : Serve) (s : State) :
    exec (.memoryWrite r addr bytes sv) s = execMemoryWrite r addr bytes sv s := rfl
@[simp] theorem exec_adds32 (addr : Nat) (operand : Word32) (s : State) :
    exec (.adds32 addr operand) s = execAdds32 addr operand s := rfl
@[simp] theorem exec_add64 (addr : Nat) (operand : Word) (s : State) :
    exec (.add64 addr operand) s = execAdd64 addr operand s := rfl
@[simp] theorem exec_maxf32 (addr : Nat) (operand : Word32) (s : State) :
    exec (.maxf32 addr operand) s = execMaxf32 addr operand s := rfl
@[simp] theorem exec_cas (width : CasWidth) (addr : Nat) (expected new : Word) (s : State) :
    exec (.cas width addr expected new) s = execCas width addr expected new s := rfl
@[simp] theorem exec_bankCapWaitEnd (b : BankId) (s : State) :
    exec (.bankCapWaitEnd b) s = execBankCapWaitEnd b s := rfl
@[simp] theorem exec_patrolScrub (addr : Nat) (e : Ecc) (s : State) :
    exec (.patrolScrub addr e) s = execPatrolScrub addr e s := rfl
@[simp] theorem exec_bankNoProgress (b : BankId) (s : State) :
    exec (.bankNoProgress b) s = execBankNoProgress b s := rfl
@[simp] theorem exec_bankFailed (b : BankId) (s : State) : exec (.bankFailed b) s = execBankFailed b s := rfl
@[simp] theorem exec_channelSymbolRateExceeded (channel : Nat) (s : State) :
    exec (.channelSymbolRateExceeded channel) s = execChannelSymbolRateExceeded channel s := rfl
@[simp] theorem exec_viewUpdate (s : State) : exec .viewUpdate s = execViewUpdate s := rfl
@[simp] theorem exec_paceLineRefresh (activity : List Nat) (s : State) :
    exec (.paceLineRefresh activity) s = execPaceLineRefresh activity s := rfl
@[simp] theorem exec_paceLineKeepaliveLoss (s : State) :
    exec .paceLineKeepaliveLoss s = execPaceLineKeepaliveLoss s := rfl
@[simp] theorem exec_shuntSample (volts watts : Rat) (s : State) :
    exec (.shuntSample volts watts) s = execShuntSample volts watts s := rfl
@[simp] theorem exec_powerExcursion (joules : Rat) (longerThan10ms : Bool) (s : State) :
    exec (.powerExcursion joules longerThan10ms) s = execPowerExcursion joules longerThan10ms s := rfl
@[simp] theorem exec_droopBegin (d : Nat) (s : State) : exec (.droopBegin d) s = execDroopBegin d s := rfl
@[simp] theorem exec_droopClear (d : Nat) (s : State) : exec (.droopClear d) s = execDroopClear d s := rfl
@[simp] theorem exec_deferredRateStep (d : Nat) (s : State) :
    exec (.deferredRateStep d) s = execDeferredRateStep d s := rfl
@[simp] theorem exec_junctionSample (d : Nat) (hottest mean : Rat) (s : State) :
    exec (.junctionSample d hottest mean) s = execJunctionSample d hottest mean s := rfl
@[simp] theorem exec_regionalPullStep (k : PullKind) (a b : Nat) (s : State) :
    exec (.regionalPullStep k a b) s = execRegionalPullStep k a b s := rfl
@[simp] theorem exec_inletSample (celsius outlet : Rat) (s : State) :
    exec (.inletSample celsius outlet) s = execInletSample celsius outlet s := rfl
@[simp] theorem exec_inletRecoveryTimer (s : State) : exec .inletRecoveryTimer s = execInletRecoveryTimer s := rfl
@[simp] theorem exec_flowLoss (s : State) : exec .flowLoss s = execFlowLoss s := rfl
@[simp] theorem exec_junctionTrip (d : Nat) (s : State) : exec (.junctionTrip d) s = execJunctionTrip d s := rfl
@[simp] theorem exec_trayFlowOkAssert (s : State) : exec .trayFlowOkAssert s = execTrayFlowOkAssert s := rfl
@[simp] theorem exec_inputLoss (s : State) : exec .inputLoss s = execInputLoss s := rfl
@[simp] theorem exec_inputOvervoltage (volts : Rat) (s : State) :
    exec (.inputOvervoltage volts) s = execInputOvervoltage volts s := rfl
@[simp] theorem exec_inputReturn (volts : Rat) (s : State) :
    exec (.inputReturn volts) s = execInputReturn volts s := rfl
@[simp] theorem exec_powerUp (volts : Rat) (s : State) : exec (.powerUp volts) s = execPowerUp volts s := rfl
@[simp] theorem exec_prechargeComplete (s : State) : exec .prechargeComplete s = execPrechargeComplete s := rfl
@[simp] theorem exec_holdupMeasurement (ms : Nat) (s : State) :
    exec (.holdupMeasurement ms) s = execHoldupMeasurement ms s := rfl
@[simp] theorem exec_monitorSample (d : Nat) (margin : Rat) (s : State) :
    exec (.monitorSample d margin) s = execMonitorSample d margin s := rfl
@[simp] theorem exec_idleWindowReplan (wheel : Nat) (scan : WheelScan) (s : State) :
    exec (.idleWindowReplan wheel scan) s = execIdleWindowReplan wheel scan s := rfl
@[simp] theorem exec_replanOverdue (wheel : Nat) (s : State) :
    exec (.replanOverdue wheel) s = execReplanOverdue wheel s := rfl
@[simp] theorem exec_auxPowerUp (romOk : Bool) (holdupMs : Nat) (recoveryReq : Bool) (slotId : Nat) (s : State) :
    exec (.auxPowerUp romOk holdupMs recoveryReq slotId) s = execAuxPowerUp romOk holdupMs recoveryReq slotId s := rfl
@[simp] theorem exec_stage1Firmware (slotA slotB : SlotCheck) (s : State) :
    exec (.stage1Firmware slotA slotB) s = execStage1Firmware slotA slotB s := rfl
@[simp] theorem exec_stage2Rails (r : Stage2Result) (s : State) : exec (.stage2Rails r) s = execStage2Rails r s := rfl
@[simp] theorem exec_stage3Spares (s : State) : exec .stage3Spares s = execStage3Spares s := rfl
@[simp] theorem exec_stage4Hbm (r : Stage4Result) (s : State) : exec (.stage4Hbm r) s = execStage4Hbm r s := rfl
@[simp] theorem exec_stage5Tests (r : Stage5Result) (s : State) : exec (.stage5Tests r) s = execStage5Tests r s := rfl
@[simp] theorem exec_stage6Links (r : Stage6Result) (s : State) : exec (.stage6Links r) s = execStage6Links r s := rfl
@[simp] theorem exec_stage7Plan (scans : List (Nat × WheelScan)) (s : State) :
    exec (.stage7Plan scans) s = execStage7Plan scans s := rfl
@[simp] theorem exec_stage8Decision (s : State) : exec .stage8Decision s = execStage8Decision s := rfl
@[simp] theorem exec_stageTimeout (s : State) : exec .stageTimeout s = execStageTimeout s := rfl
@[simp] theorem exec_hostLinkWaitExpiry (s : State) : exec .hostLinkWaitExpiry s = execHostLinkWaitExpiry s := rfl
@[simp] theorem exec_coreStallDetect (c : CoreId) (s : State) :
    exec (.coreStallDetect c) s = execCoreStallDetect c s := rfl
@[simp] theorem exec_coreStopTimeout (c : CoreId) (s : State) :
    exec (.coreStopTimeout c) s = execCoreStopTimeout c s := rfl
@[simp] theorem exec_hoopPickStall (wheel hoop : Nat) (s : State) :
    exec (.hoopPickStall wheel hoop) s = execHoopPickStall wheel hoop s := rfl
@[simp] theorem exec_drainEnd (k : Nat) (s : State) : exec (.drainEnd k) s = execDrainEnd k s := rfl
@[simp] theorem exec_drainDeadline (k : Nat) (s : State) : exec (.drainDeadline k) s = execDrainDeadline k s := rfl
@[simp] theorem exec_absorptionComplete (k : Nat) (s : State) :
    exec (.absorptionComplete k) s = execAbsorptionComplete k s := rfl
@[simp] theorem exec_resetEscalation (k : Nat) (s : State) :
    exec (.resetEscalation k) s = execResetEscalation k s := rfl
@[simp] theorem exec_wheelUsableAgain (wheel : Nat) (r : Stage5Result) (s : State) :
    exec (.wheelUsableAgain wheel r) s = execWheelUsableAgain wheel r s := rfl
@[simp] theorem exec_lockstepMismatch (s : State) : exec .lockstepMismatch s = execLockstepMismatch s := rfl
@[simp] theorem exec_wardenWatchdogExpiry (s : State) :
    exec .wardenWatchdogExpiry s = execWardenWatchdogExpiry s := rfl
@[simp] theorem exec_wardenRestartComplete (s : State) :
    exec .wardenRestartComplete s = execWardenRestartComplete s := rfl
@[simp] theorem exec_plcaBeaconLoss (s : State) : exec .plcaBeaconLoss s = execPlcaBeaconLoss s := rfl
@[simp] theorem exec_captureEntry (recipe : Nat) (n : Nand) (s : State) :
    exec (.captureEntry recipe n) s = execCaptureEntry recipe n s := rfl
@[simp] theorem exec_imageDurable (recipe : Nat) (s : State) :
    exec (.imageDurable recipe) s = execImageDurable recipe s := rfl
@[simp] theorem exec_seatLatchedSet (s : State) : exec .seatLatchedSet s = execSeatLatchedSet s := rfl
@[simp] theorem exec_seatLatchedClear (s : State) : exec .seatLatchedClear s = execSeatLatchedClear s := rfl
@[simp] theorem exec_stby12SenseChange (level : Bool) (s : State) :
    exec (.stby12SenseChange level) s = execStby12SenseChange level s := rfl
@[simp] theorem exec_auxiliarySupplyLoss (s : State) : exec .auxiliarySupplyLoss s = execAuxiliarySupplyLoss s := rfl
@[simp] theorem exec_holdUpChargeThreshold (percent : Nat) (s : State) :
    exec (.holdUpChargeThreshold percent) s = execHoldUpChargeThreshold percent s := rfl
@[simp] theorem exec_hostLinkError (correctable : Bool) (s : State) :
    exec (.hostLinkError correctable) s = execHostLinkError correctable s := rfl
@[simp] theorem exec_caveDeviceErrorReport (port : Nat) (uncorrected : Bool) (addr : Nat) (s : State) :
    exec (.caveDeviceErrorReport port uncorrected addr) s = execCaveDeviceErrorReport port uncorrected addr s := rfl
@[simp] theorem exec_retrainTimeout (port : Nat) (s : State) :
    exec (.retrainTimeout port) s = execRetrainTimeout port s := rfl

end Sys2Proof.Machine
end

