-- ==== Sys2Proof/Laws/Flits.lean ====
section
/-! SUPPORT. Laws of flits: little-endian bytes give their number back, and a sealed flit has a good CRC (R284). -/

namespace Sys2Proof.Machine

theorem ofLe_leBytes (n v : Nat) : ofLe (leBytes n v) = v % 256 ^ n := by
  induction n generalizing v with
  | zero => simp [leBytes, ofLe, Nat.mod_one]
  | succ n ih =>
    have h1 := Nat.mod_mul (x := v) (a := 256) (b := 256 ^ n)
    simp only [leBytes, ofLe, ih, BitVec.toNat_ofNat, Nat.pow_succ]
    rw [Nat.mul_comm (256 ^ n) 256]
    omega

/-- The CRC field is no part of what the CRC covers. -/
theorem seal_good {a b c d : Nat} {f : List Byte} (h : f.length = 256) : flitGood (sealFlit a b c d f) = true := by
  unfold sealFlit flitGood
  dsimp only
  generalize hg : splice f 8 (leBytes 4 (d % 64 + 64 * (c % 4) + 256 * (b % 4096) + 2 ^ 20 * (a % 4096))) = g
  have hgl : g.length = 256 := by rw [← hg]; simp [splice, leBytes, h]
  have hn : (leBytes 4 (flitCrc g)).length = 4 := by simp [leBytes]
  have h1 : slice (splice g 12 (leBytes 4 (flitCrc g))) 0 12 = slice g 0 12 := by
    simp [slice, splice, hgl]
  have h2 : slice (splice g 12 (leBytes 4 (flitCrc g))) 16 240 = slice g 16 240 := by
    have e : List.drop 16 (List.take 12 g) = [] := List.drop_eq_nil_of_le (by simp)
    simp [slice, splice, List.drop_append, hgl, hn, e]
  have h3 : leAt (splice g 12 (leBytes 4 (flitCrc g))) 12 4 = flitCrc g := by
    have : slice (splice g 12 (leBytes 4 (flitCrc g))) 12 4 = leBytes 4 (flitCrc g) := by
      simp [slice, splice, hgl, hn]
    unfold leAt
    rw [this, ofLe_leBytes]
    exact Nat.mod_eq_of_lt (by unfold flitCrc crc32c; exact BitVec.isLt _)
  have h4 : flitCrc (splice g 12 (leBytes 4 (flitCrc g))) = flitCrc g := by
    have e : ∀ x, flitCrc x = crc32c (slice x 0 12 ++ slice x 16 240) := fun _ => rfl
    rw [e, h1, h2, ← e]
  rw [h3, h4]
  simp [splice, hgl, hn]

end Sys2Proof.Machine
end

