-- ==== Sys2Proof/Laws/Memory.lean ====
section
/-! SUPPORT. The byte stores: the canonical form in terms of membership, every operation keeps it, a read after a write
to the same address gives the byte written, and a write leaves every other address alone. -/

namespace Sys2Proof.Machine

/-! ### The canonical form -/

/-- The canonical form of a store with a first entry. -/
theorem Memory.wf_cons (c : Host.Cell) (m : Memory) :
    Memory.wf (c :: m) = true ↔ c.2 ≠ 0 ∧ (∀ d ∈ m, c.1 < d.1) ∧ Memory.wf m = true := by
  induction m generalizing c with
  | nil => simp [Memory.wf]
  | cons d m ih =>
    simp only [Memory.wf, Bool.and_eq_true, bne_iff_ne, decide_eq_true_eq, List.mem_cons, forall_eq_or_imp]
    constructor
    · rintro ⟨⟨h1, h2⟩, h3⟩
      exact ⟨h1, ⟨h2, fun e he => Nat.lt_trans h2 (((ih d).1 h3).2.1 e he)⟩, h3⟩
    · rintro ⟨h1, ⟨h2, _⟩, h3⟩
      exact ⟨⟨h1, h2⟩, h3⟩

/-- The empty store is in canonical form. -/
@[simp] theorem Memory.wf_nil : Memory.wf [] = true := rfl

/-- What an entry of a store after a write is: an old entry, or the byte written. -/
theorem mem_memSet (m : Memory) (a : Nat) (v : Byte) (c : Host.Cell) (h : c ∈ memSet m a v) :
    c ∈ m ∨ (c = (a, v) ∧ v ≠ 0) := by
  induction m with
  | nil =>
    simp only [memSet] at h
    split at h <;> simp_all
  | cons d m ih =>
    obtain ⟨b, w⟩ := d
    simp only [memSet] at h
    split_ifs at h <;> (try subst a) <;> simp only [List.mem_cons] at h ⊢ <;> tauto

/-- A write of one byte keeps the canonical form. -/
theorem memSet_wf (m : Memory) (a : Nat) (v : Byte) (h : Memory.wf m = true) : Memory.wf (memSet m a v) = true := by
  induction m with
  | nil =>
    simp only [memSet]
    split_ifs with h0
    · rfl
    · exact (Memory.wf_cons _ _).2 ⟨h0, by simp, rfl⟩
  | cons c m ih =>
    obtain ⟨b, w⟩ := c
    obtain ⟨h1, h2, h3⟩ := (Memory.wf_cons _ _).1 h
    simp only [memSet]
    split_ifs with hab hv hae hv
    · exact h
    · refine (Memory.wf_cons _ _).2 ⟨hv, fun d hd => ?_, h⟩
      rcases List.mem_cons.1 hd with rfl | hd
      · exact hab
      · exact Nat.lt_trans hab (h2 d hd)
    · exact h3
    · exact (Memory.wf_cons _ _).2 ⟨hv, h2, h3⟩
    · refine (Memory.wf_cons _ _).2 ⟨h1, fun d hd => ?_, ih h3⟩
      rcases mem_memSet m a v d hd with hd | ⟨rfl, _⟩
      · exact h2 d hd
      · show b < a
        omega

/-- A write of bytes keeps the canonical form. -/
theorem memWrite_wf (bs : List Byte) : ∀ (m : Memory) (a : Nat), Memory.wf m = true → Memory.wf (memWrite m a bs) = true := by
  induction bs with
  | nil => intro m a h; exact h
  | cons b bs ih => intro m a h; exact ih _ _ (memSet_wf m a b h)

/-- Dropping entries keeps the canonical form. -/
theorem filter_wf (p : Host.Cell → Bool) (m : Memory) (h : Memory.wf m = true) : Memory.wf (m.filter p) = true := by
  induction m with
  | nil => rfl
  | cons c m ih =>
    obtain ⟨h1, h2, h3⟩ := (Memory.wf_cons _ _).1 h
    rw [List.filter_cons]
    split_ifs
    · exact (Memory.wf_cons _ _).2 ⟨h1, fun d hd => h2 d (List.mem_of_mem_filter hd), ih h3⟩
    · exact ih h3

/-- Setting a range to zero keeps the canonical form. -/
theorem memClear_wf (m : Memory) (lo n : Nat) (h : Memory.wf m = true) : Memory.wf (memClear m lo n) = true :=
  filter_wf _ m h

/-! ### Reading after writing -/

/-- An address below every entry reads zero. -/
theorem memGet_below (m : Memory) (a : Nat) (h : ∀ c ∈ m, a < c.1) : memGet m a = 0 := by
  induction m with
  | nil => rfl
  | cons c m ih =>
    obtain ⟨b, w⟩ := c
    have hb : a < b := h (b, w) (by simp)
    rw [memGet, if_neg (by omega)]
    exact ih (fun d hd => h d (List.mem_cons_of_mem _ hd))

/-- A read of the address written gives the byte written. -/
theorem memGet_memSet_same (m : Memory) (a : Nat) (v : Byte) (h : Memory.wf m = true) : memGet (memSet m a v) a = v := by
  induction m with
  | nil => simp only [memSet]; split_ifs with h0 <;> simp [memGet, h0]
  | cons c m ih =>
    obtain ⟨b, w⟩ := c
    obtain ⟨_, h2, h3⟩ := (Memory.wf_cons _ _).1 h
    simp only [memSet]
    split_ifs with hab hv hae hv
    · rw [hv]
      refine memGet_below _ _ (fun d hd => ?_)
      rcases List.mem_cons.1 hd with rfl | hd
      · exact hab
      · exact Nat.lt_trans hab (h2 d hd)
    · simp [memGet]
    · rw [hv, hae]; exact memGet_below _ _ h2
    · simp [memGet, hae]
    · rw [memGet, if_neg (fun e => hae e.symm)]
      exact ih h3

/-- A read of another address gives what it gave before. -/
theorem memGet_memSet_other (m : Memory) (a x : Nat) (v : Byte) (hx : x ≠ a) (h : Memory.wf m = true) :
    memGet (memSet m a v) x = memGet m x := by
  induction m with
  | nil => simp only [memSet]; split_ifs <;> simp [memGet, Ne.symm hx]
  | cons c m ih =>
    obtain ⟨b, w⟩ := c
    obtain ⟨_, h2, h3⟩ := (Memory.wf_cons _ _).1 h
    simp only [memSet]
    split_ifs with hab hv hae hv
    · rfl
    · simp [memGet, Ne.symm hx]
    · subst hae
      simp [memGet, Ne.symm hx]
    · subst hae
      simp [memGet, Ne.symm hx]
    · simp only [memGet]
      split_ifs
      · rfl
      · exact ih h3

/-- A write of bytes leaves an address outside them alone. -/
theorem memGet_memWrite_outside (bs : List Byte) : ∀ (m : Memory) (a x : Nat), Memory.wf m = true →
    (x < a ∨ a + bs.length ≤ x) → memGet (memWrite m a bs) x = memGet m x := by
  induction bs with
  | nil => intro m a x _ _; rfl
  | cons b bs ih =>
    intro m a x h hx
    simp only [List.length_cons] at hx
    rw [memWrite, ih _ _ _ (memSet_wf m a b h) (by omega), memGet_memSet_other m a x b (by omega) h]

/-- A read of the bytes just written gives them. -/
theorem memRead_memWrite_same (bs : List Byte) : ∀ (m : Memory) (a : Nat), Memory.wf m = true →
    memRead (memWrite m a bs) a bs.length = bs := by
  induction bs with
  | nil => intro m a _; rfl
  | cons b bs ih =>
    intro m a h
    have hw := memSet_wf m a b h
    rw [List.length_cons, memRead, memWrite, ih _ _ hw,
      memGet_memWrite_outside bs _ _ _ hw (Or.inl (Nat.lt_succ_self a)), memGet_memSet_same m a b h]

/-- A range set to zero reads zero. -/
theorem memGet_memClear_inside (m : Memory) (lo n x : Nat) (h : lo ≤ x ∧ x < lo + n) : memGet (memClear m lo n) x = 0 := by
  induction m with
  | nil => rfl
  | cons c m ih =>
    obtain ⟨b, w⟩ := c
    unfold memClear at ih ⊢
    rw [List.filter_cons]
    split_ifs with hb
    · simp only [Bool.not_eq_true', Bool.and_eq_false_imp, decide_eq_true_eq, decide_eq_false_iff_not] at hb
      rw [memGet, if_neg (by rintro rfl; exact hb h.1 h.2)]
      exact ih
    · exact ih

/-- An address outside the range set to zero reads as before. -/
theorem memGet_memClear_outside (m : Memory) (lo n x : Nat) (h : x < lo ∨ lo + n ≤ x) :
    memGet (memClear m lo n) x = memGet m x := by
  induction m with
  | nil => rfl
  | cons c m ih =>
    obtain ⟨b, w⟩ := c
    unfold memClear at ih ⊢
    rw [List.filter_cons]
    split_ifs with hb
    · simp only [memGet, ih]
    · simp only [Bool.not_eq_true, Bool.not_eq_false', Bool.and_eq_true, decide_eq_true_eq] at hb
      rw [memGet, if_neg (by rintro rfl; omega)]
      exact ih

/-- Bytes read have the length asked for. -/
@[simp] theorem length_memRead (m : Memory) (n : Nat) : ∀ a : Nat, (memRead m a n).length = n := by
  induction n with
  | zero => intro a; rfl
  | succ n ih => intro a; simp [memRead, ih]

/-! ### Reset -/

/-- The stores at reset are in canonical form. -/
theorem reset_storesCanonical : StoresCanonical State.reset := ⟨rfl, rfl, rfl, rfl, rfl, rfl⟩

end Sys2Proof.Machine
end

