-- ==== Sys2Proof/Laws/State.lean ====
section
/-! SUPPORT. The fields of the state after each change of one part of it, so that no proof unfolds a record update: one
lemma for each field and each update, true by definition. -/

namespace Sys2Proof.Machine

/-! ### State.onHost -/

@[simp] theorem State.onHost_pending (f : HostIf → HostIf) (s : State) : (s.onHost f).pending = s.pending := rfl
@[simp] theorem State.onHost_now (f : HostIf → HostIf) (s : State) : (s.onHost f).now = s.now := rfl
@[simp] theorem State.onHost_near (f : HostIf → HostIf) (s : State) : (s.onHost f).near = s.near := rfl
@[simp] theorem State.onHost_dev (f : HostIf → HostIf) (s : State) : (s.onHost f).dev = s.dev := rfl
@[simp] theorem State.onHost_cave (f : HostIf → HostIf) (s : State) : (s.onHost f).cave = s.cave := rfl
@[simp] theorem State.onHost_hostMem (f : HostIf → HostIf) (s : State) : (s.onHost f).hostMem = s.hostMem := rfl
@[simp] theorem State.onHost_host (f : HostIf → HostIf) (s : State) : (s.onHost f).host = f s.host := rfl
@[simp] theorem State.onHost_events (f : HostIf → HostIf) (s : State) : (s.onHost f).events = s.events := rfl
@[simp] theorem State.onHost_gate (f : HostIf → HostIf) (s : State) : (s.onHost f).gate = s.gate := rfl
@[simp] theorem State.onHost_recipes (f : HostIf → HostIf) (s : State) : (s.onHost f).recipes = s.recipes := rfl
@[simp] theorem State.onHost_chains (f : HostIf → HostIf) (s : State) : (s.onHost f).chains = s.chains := rfl
@[simp] theorem State.onHost_wheels (f : HostIf → HostIf) (s : State) : (s.onHost f).wheels = s.wheels := rfl
@[simp] theorem State.onHost_cores (f : HostIf → HostIf) (s : State) : (s.onHost f).cores = s.cores := rfl
@[simp] theorem State.onHost_tiers (f : HostIf → HostIf) (s : State) : (s.onHost f).tiers = s.tiers := rfl
@[simp] theorem State.onHost_farPorts (f : HostIf → HostIf) (s : State) : (s.onHost f).farPorts = s.farPorts := rfl
@[simp] theorem State.onHost_flushing (f : HostIf → HostIf) (s : State) : (s.onHost f).flushing = s.flushing := rfl
@[simp] theorem State.onHost_hinge (f : HostIf → HostIf) (s : State) : (s.onHost f).hinge = s.hinge := rfl
@[simp] theorem State.onHost_rind (f : HostIf → HostIf) (s : State) : (s.onHost f).rind = s.rind := rfl
@[simp] theorem State.onHost_power (f : HostIf → HostIf) (s : State) : (s.onHost f).power = s.power := rfl
@[simp] theorem State.onHost_ageing (f : HostIf → HostIf) (s : State) : (s.onHost f).ageing = s.ageing := rfl
@[simp] theorem State.onHost_life (f : HostIf → HostIf) (s : State) : (s.onHost f).life = s.life := rfl
@[simp] theorem State.onHost_warden (f : HostIf → HostIf) (s : State) : (s.onHost f).warden = s.warden := rfl
@[simp] theorem State.onHost_factory (f : HostIf → HostIf) (s : State) : (s.onHost f).factory = s.factory := rfl
@[simp] theorem State.onHost_seq (f : HostIf → HostIf) (s : State) : (s.onHost f).seq = s.seq := rfl
@[simp] theorem State.onHost_free (f : HostIf → HostIf) (s : State) : (s.onHost f).free = s.free := rfl

/-! ### State.onEvents -/

@[simp] theorem State.onEvents_pending (f : Events → Events) (s : State) : (s.onEvents f).pending = s.pending := rfl
@[simp] theorem State.onEvents_now (f : Events → Events) (s : State) : (s.onEvents f).now = s.now := rfl
@[simp] theorem State.onEvents_near (f : Events → Events) (s : State) : (s.onEvents f).near = s.near := rfl
@[simp] theorem State.onEvents_dev (f : Events → Events) (s : State) : (s.onEvents f).dev = s.dev := rfl
@[simp] theorem State.onEvents_cave (f : Events → Events) (s : State) : (s.onEvents f).cave = s.cave := rfl
@[simp] theorem State.onEvents_hostMem (f : Events → Events) (s : State) : (s.onEvents f).hostMem = s.hostMem := rfl
@[simp] theorem State.onEvents_host (f : Events → Events) (s : State) : (s.onEvents f).host = s.host := rfl
@[simp] theorem State.onEvents_events (f : Events → Events) (s : State) : (s.onEvents f).events = f s.events := rfl
@[simp] theorem State.onEvents_gate (f : Events → Events) (s : State) : (s.onEvents f).gate = s.gate := rfl
@[simp] theorem State.onEvents_recipes (f : Events → Events) (s : State) : (s.onEvents f).recipes = s.recipes := rfl
@[simp] theorem State.onEvents_chains (f : Events → Events) (s : State) : (s.onEvents f).chains = s.chains := rfl
@[simp] theorem State.onEvents_wheels (f : Events → Events) (s : State) : (s.onEvents f).wheels = s.wheels := rfl
@[simp] theorem State.onEvents_cores (f : Events → Events) (s : State) : (s.onEvents f).cores = s.cores := rfl
@[simp] theorem State.onEvents_tiers (f : Events → Events) (s : State) : (s.onEvents f).tiers = s.tiers := rfl
@[simp] theorem State.onEvents_farPorts (f : Events → Events) (s : State) :
    (s.onEvents f).farPorts = s.farPorts := rfl
@[simp] theorem State.onEvents_flushing (f : Events → Events) (s : State) :
    (s.onEvents f).flushing = s.flushing := rfl
@[simp] theorem State.onEvents_hinge (f : Events → Events) (s : State) : (s.onEvents f).hinge = s.hinge := rfl
@[simp] theorem State.onEvents_rind (f : Events → Events) (s : State) : (s.onEvents f).rind = s.rind := rfl
@[simp] theorem State.onEvents_power (f : Events → Events) (s : State) : (s.onEvents f).power = s.power := rfl
@[simp] theorem State.onEvents_ageing (f : Events → Events) (s : State) : (s.onEvents f).ageing = s.ageing := rfl
@[simp] theorem State.onEvents_life (f : Events → Events) (s : State) : (s.onEvents f).life = s.life := rfl
@[simp] theorem State.onEvents_warden (f : Events → Events) (s : State) : (s.onEvents f).warden = s.warden := rfl
@[simp] theorem State.onEvents_factory (f : Events → Events) (s : State) : (s.onEvents f).factory = s.factory := rfl
@[simp] theorem State.onEvents_seq (f : Events → Events) (s : State) : (s.onEvents f).seq = s.seq := rfl
@[simp] theorem State.onEvents_free (f : Events → Events) (s : State) : (s.onEvents f).free = s.free := rfl

/-! ### State.onGate -/

@[simp] theorem State.onGate_pending (f : Gate → Gate) (s : State) : (s.onGate f).pending = s.pending := rfl
@[simp] theorem State.onGate_now (f : Gate → Gate) (s : State) : (s.onGate f).now = s.now := rfl
@[simp] theorem State.onGate_near (f : Gate → Gate) (s : State) : (s.onGate f).near = s.near := rfl
@[simp] theorem State.onGate_dev (f : Gate → Gate) (s : State) : (s.onGate f).dev = s.dev := rfl
@[simp] theorem State.onGate_cave (f : Gate → Gate) (s : State) : (s.onGate f).cave = s.cave := rfl
@[simp] theorem State.onGate_hostMem (f : Gate → Gate) (s : State) : (s.onGate f).hostMem = s.hostMem := rfl
@[simp] theorem State.onGate_host (f : Gate → Gate) (s : State) : (s.onGate f).host = s.host := rfl
@[simp] theorem State.onGate_events (f : Gate → Gate) (s : State) : (s.onGate f).events = s.events := rfl
@[simp] theorem State.onGate_gate (f : Gate → Gate) (s : State) : (s.onGate f).gate = f s.gate := rfl
@[simp] theorem State.onGate_recipes (f : Gate → Gate) (s : State) : (s.onGate f).recipes = s.recipes := rfl
@[simp] theorem State.onGate_chains (f : Gate → Gate) (s : State) : (s.onGate f).chains = s.chains := rfl
@[simp] theorem State.onGate_wheels (f : Gate → Gate) (s : State) : (s.onGate f).wheels = s.wheels := rfl
@[simp] theorem State.onGate_cores (f : Gate → Gate) (s : State) : (s.onGate f).cores = s.cores := rfl
@[simp] theorem State.onGate_tiers (f : Gate → Gate) (s : State) : (s.onGate f).tiers = s.tiers := rfl
@[simp] theorem State.onGate_farPorts (f : Gate → Gate) (s : State) : (s.onGate f).farPorts = s.farPorts := rfl
@[simp] theorem State.onGate_flushing (f : Gate → Gate) (s : State) : (s.onGate f).flushing = s.flushing := rfl
@[simp] theorem State.onGate_hinge (f : Gate → Gate) (s : State) : (s.onGate f).hinge = s.hinge := rfl
@[simp] theorem State.onGate_rind (f : Gate → Gate) (s : State) : (s.onGate f).rind = s.rind := rfl
@[simp] theorem State.onGate_power (f : Gate → Gate) (s : State) : (s.onGate f).power = s.power := rfl
@[simp] theorem State.onGate_ageing (f : Gate → Gate) (s : State) : (s.onGate f).ageing = s.ageing := rfl
@[simp] theorem State.onGate_life (f : Gate → Gate) (s : State) : (s.onGate f).life = s.life := rfl
@[simp] theorem State.onGate_warden (f : Gate → Gate) (s : State) : (s.onGate f).warden = s.warden := rfl
@[simp] theorem State.onGate_factory (f : Gate → Gate) (s : State) : (s.onGate f).factory = s.factory := rfl
@[simp] theorem State.onGate_seq (f : Gate → Gate) (s : State) : (s.onGate f).seq = s.seq := rfl
@[simp] theorem State.onGate_free (f : Gate → Gate) (s : State) : (s.onGate f).free = s.free := rfl

/-! ### State.onView -/

@[simp] theorem State.onView_pending (f : View → View) (s : State) : (s.onView f).pending = s.pending := rfl
@[simp] theorem State.onView_now (f : View → View) (s : State) : (s.onView f).now = s.now := rfl
@[simp] theorem State.onView_near (f : View → View) (s : State) : (s.onView f).near = s.near := rfl
@[simp] theorem State.onView_dev (f : View → View) (s : State) : (s.onView f).dev = s.dev := rfl
@[simp] theorem State.onView_cave (f : View → View) (s : State) : (s.onView f).cave = s.cave := rfl
@[simp] theorem State.onView_hostMem (f : View → View) (s : State) : (s.onView f).hostMem = s.hostMem := rfl
@[simp] theorem State.onView_host (f : View → View) (s : State) : (s.onView f).host = s.host := rfl
@[simp] theorem State.onView_events (f : View → View) (s : State) : (s.onView f).events = s.events := rfl
@[simp] theorem State.onView_gate (f : View → View) (s : State) :
    (s.onView f).gate = { s.gate with view := f s.gate.view } := rfl
@[simp] theorem State.onView_recipes (f : View → View) (s : State) : (s.onView f).recipes = s.recipes := rfl
@[simp] theorem State.onView_chains (f : View → View) (s : State) : (s.onView f).chains = s.chains := rfl
@[simp] theorem State.onView_wheels (f : View → View) (s : State) : (s.onView f).wheels = s.wheels := rfl
@[simp] theorem State.onView_cores (f : View → View) (s : State) : (s.onView f).cores = s.cores := rfl
@[simp] theorem State.onView_tiers (f : View → View) (s : State) : (s.onView f).tiers = s.tiers := rfl
@[simp] theorem State.onView_farPorts (f : View → View) (s : State) : (s.onView f).farPorts = s.farPorts := rfl
@[simp] theorem State.onView_flushing (f : View → View) (s : State) : (s.onView f).flushing = s.flushing := rfl
@[simp] theorem State.onView_hinge (f : View → View) (s : State) : (s.onView f).hinge = s.hinge := rfl
@[simp] theorem State.onView_rind (f : View → View) (s : State) : (s.onView f).rind = s.rind := rfl
@[simp] theorem State.onView_power (f : View → View) (s : State) : (s.onView f).power = s.power := rfl
@[simp] theorem State.onView_ageing (f : View → View) (s : State) : (s.onView f).ageing = s.ageing := rfl
@[simp] theorem State.onView_life (f : View → View) (s : State) : (s.onView f).life = s.life := rfl
@[simp] theorem State.onView_warden (f : View → View) (s : State) : (s.onView f).warden = s.warden := rfl
@[simp] theorem State.onView_factory (f : View → View) (s : State) : (s.onView f).factory = s.factory := rfl
@[simp] theorem State.onView_seq (f : View → View) (s : State) : (s.onView f).seq = s.seq := rfl
@[simp] theorem State.onView_free (f : View → View) (s : State) : (s.onView f).free = s.free := rfl

/-! ### State.onTiers -/

@[simp] theorem State.onTiers_pending (f : Tiers → Tiers) (s : State) : (s.onTiers f).pending = s.pending := rfl
@[simp] theorem State.onTiers_now (f : Tiers → Tiers) (s : State) : (s.onTiers f).now = s.now := rfl
@[simp] theorem State.onTiers_near (f : Tiers → Tiers) (s : State) : (s.onTiers f).near = s.near := rfl
@[simp] theorem State.onTiers_dev (f : Tiers → Tiers) (s : State) : (s.onTiers f).dev = s.dev := rfl
@[simp] theorem State.onTiers_cave (f : Tiers → Tiers) (s : State) : (s.onTiers f).cave = s.cave := rfl
@[simp] theorem State.onTiers_hostMem (f : Tiers → Tiers) (s : State) : (s.onTiers f).hostMem = s.hostMem := rfl
@[simp] theorem State.onTiers_host (f : Tiers → Tiers) (s : State) : (s.onTiers f).host = s.host := rfl
@[simp] theorem State.onTiers_events (f : Tiers → Tiers) (s : State) : (s.onTiers f).events = s.events := rfl
@[simp] theorem State.onTiers_gate (f : Tiers → Tiers) (s : State) : (s.onTiers f).gate = s.gate := rfl
@[simp] theorem State.onTiers_recipes (f : Tiers → Tiers) (s : State) : (s.onTiers f).recipes = s.recipes := rfl
@[simp] theorem State.onTiers_chains (f : Tiers → Tiers) (s : State) : (s.onTiers f).chains = s.chains := rfl
@[simp] theorem State.onTiers_wheels (f : Tiers → Tiers) (s : State) : (s.onTiers f).wheels = s.wheels := rfl
@[simp] theorem State.onTiers_cores (f : Tiers → Tiers) (s : State) : (s.onTiers f).cores = s.cores := rfl
@[simp] theorem State.onTiers_tiers (f : Tiers → Tiers) (s : State) : (s.onTiers f).tiers = f s.tiers := rfl
@[simp] theorem State.onTiers_farPorts (f : Tiers → Tiers) (s : State) : (s.onTiers f).farPorts = s.farPorts := rfl
@[simp] theorem State.onTiers_flushing (f : Tiers → Tiers) (s : State) : (s.onTiers f).flushing = s.flushing := rfl
@[simp] theorem State.onTiers_hinge (f : Tiers → Tiers) (s : State) : (s.onTiers f).hinge = s.hinge := rfl
@[simp] theorem State.onTiers_rind (f : Tiers → Tiers) (s : State) : (s.onTiers f).rind = s.rind := rfl
@[simp] theorem State.onTiers_power (f : Tiers → Tiers) (s : State) : (s.onTiers f).power = s.power := rfl
@[simp] theorem State.onTiers_ageing (f : Tiers → Tiers) (s : State) : (s.onTiers f).ageing = s.ageing := rfl
@[simp] theorem State.onTiers_life (f : Tiers → Tiers) (s : State) : (s.onTiers f).life = s.life := rfl
@[simp] theorem State.onTiers_warden (f : Tiers → Tiers) (s : State) : (s.onTiers f).warden = s.warden := rfl
@[simp] theorem State.onTiers_factory (f : Tiers → Tiers) (s : State) : (s.onTiers f).factory = s.factory := rfl
@[simp] theorem State.onTiers_seq (f : Tiers → Tiers) (s : State) : (s.onTiers f).seq = s.seq := rfl
@[simp] theorem State.onTiers_free (f : Tiers → Tiers) (s : State) : (s.onTiers f).free = s.free := rfl

/-! ### State.onHinge -/

@[simp] theorem State.onHinge_pending (f : Hinge → Hinge) (s : State) : (s.onHinge f).pending = s.pending := rfl
@[simp] theorem State.onHinge_now (f : Hinge → Hinge) (s : State) : (s.onHinge f).now = s.now := rfl
@[simp] theorem State.onHinge_near (f : Hinge → Hinge) (s : State) : (s.onHinge f).near = s.near := rfl
@[simp] theorem State.onHinge_dev (f : Hinge → Hinge) (s : State) : (s.onHinge f).dev = s.dev := rfl
@[simp] theorem State.onHinge_cave (f : Hinge → Hinge) (s : State) : (s.onHinge f).cave = s.cave := rfl
@[simp] theorem State.onHinge_hostMem (f : Hinge → Hinge) (s : State) : (s.onHinge f).hostMem = s.hostMem := rfl
@[simp] theorem State.onHinge_host (f : Hinge → Hinge) (s : State) : (s.onHinge f).host = s.host := rfl
@[simp] theorem State.onHinge_events (f : Hinge → Hinge) (s : State) : (s.onHinge f).events = s.events := rfl
@[simp] theorem State.onHinge_gate (f : Hinge → Hinge) (s : State) : (s.onHinge f).gate = s.gate := rfl
@[simp] theorem State.onHinge_recipes (f : Hinge → Hinge) (s : State) : (s.onHinge f).recipes = s.recipes := rfl
@[simp] theorem State.onHinge_chains (f : Hinge → Hinge) (s : State) : (s.onHinge f).chains = s.chains := rfl
@[simp] theorem State.onHinge_wheels (f : Hinge → Hinge) (s : State) : (s.onHinge f).wheels = s.wheels := rfl
@[simp] theorem State.onHinge_cores (f : Hinge → Hinge) (s : State) : (s.onHinge f).cores = s.cores := rfl
@[simp] theorem State.onHinge_tiers (f : Hinge → Hinge) (s : State) : (s.onHinge f).tiers = s.tiers := rfl
@[simp] theorem State.onHinge_farPorts (f : Hinge → Hinge) (s : State) : (s.onHinge f).farPorts = s.farPorts := rfl
@[simp] theorem State.onHinge_flushing (f : Hinge → Hinge) (s : State) : (s.onHinge f).flushing = s.flushing := rfl
@[simp] theorem State.onHinge_hinge (f : Hinge → Hinge) (s : State) : (s.onHinge f).hinge = f s.hinge := rfl
@[simp] theorem State.onHinge_rind (f : Hinge → Hinge) (s : State) : (s.onHinge f).rind = s.rind := rfl
@[simp] theorem State.onHinge_power (f : Hinge → Hinge) (s : State) : (s.onHinge f).power = s.power := rfl
@[simp] theorem State.onHinge_ageing (f : Hinge → Hinge) (s : State) : (s.onHinge f).ageing = s.ageing := rfl
@[simp] theorem State.onHinge_life (f : Hinge → Hinge) (s : State) : (s.onHinge f).life = s.life := rfl
@[simp] theorem State.onHinge_warden (f : Hinge → Hinge) (s : State) : (s.onHinge f).warden = s.warden := rfl
@[simp] theorem State.onHinge_factory (f : Hinge → Hinge) (s : State) : (s.onHinge f).factory = s.factory := rfl
@[simp] theorem State.onHinge_seq (f : Hinge → Hinge) (s : State) : (s.onHinge f).seq = s.seq := rfl
@[simp] theorem State.onHinge_free (f : Hinge → Hinge) (s : State) : (s.onHinge f).free = s.free := rfl

/-! ### State.onRind -/

@[simp] theorem State.onRind_pending (f : Rind → Rind) (s : State) : (s.onRind f).pending = s.pending := rfl
@[simp] theorem State.onRind_now (f : Rind → Rind) (s : State) : (s.onRind f).now = s.now := rfl
@[simp] theorem State.onRind_near (f : Rind → Rind) (s : State) : (s.onRind f).near = s.near := rfl
@[simp] theorem State.onRind_dev (f : Rind → Rind) (s : State) : (s.onRind f).dev = s.dev := rfl
@[simp] theorem State.onRind_cave (f : Rind → Rind) (s : State) : (s.onRind f).cave = s.cave := rfl
@[simp] theorem State.onRind_hostMem (f : Rind → Rind) (s : State) : (s.onRind f).hostMem = s.hostMem := rfl
@[simp] theorem State.onRind_host (f : Rind → Rind) (s : State) : (s.onRind f).host = s.host := rfl
@[simp] theorem State.onRind_events (f : Rind → Rind) (s : State) : (s.onRind f).events = s.events := rfl
@[simp] theorem State.onRind_gate (f : Rind → Rind) (s : State) : (s.onRind f).gate = s.gate := rfl
@[simp] theorem State.onRind_recipes (f : Rind → Rind) (s : State) : (s.onRind f).recipes = s.recipes := rfl
@[simp] theorem State.onRind_chains (f : Rind → Rind) (s : State) : (s.onRind f).chains = s.chains := rfl
@[simp] theorem State.onRind_wheels (f : Rind → Rind) (s : State) : (s.onRind f).wheels = s.wheels := rfl
@[simp] theorem State.onRind_cores (f : Rind → Rind) (s : State) : (s.onRind f).cores = s.cores := rfl
@[simp] theorem State.onRind_tiers (f : Rind → Rind) (s : State) : (s.onRind f).tiers = s.tiers := rfl
@[simp] theorem State.onRind_farPorts (f : Rind → Rind) (s : State) : (s.onRind f).farPorts = s.farPorts := rfl
@[simp] theorem State.onRind_flushing (f : Rind → Rind) (s : State) : (s.onRind f).flushing = s.flushing := rfl
@[simp] theorem State.onRind_hinge (f : Rind → Rind) (s : State) : (s.onRind f).hinge = s.hinge := rfl
@[simp] theorem State.onRind_rind (f : Rind → Rind) (s : State) : (s.onRind f).rind = f s.rind := rfl
@[simp] theorem State.onRind_power (f : Rind → Rind) (s : State) : (s.onRind f).power = s.power := rfl
@[simp] theorem State.onRind_ageing (f : Rind → Rind) (s : State) : (s.onRind f).ageing = s.ageing := rfl
@[simp] theorem State.onRind_life (f : Rind → Rind) (s : State) : (s.onRind f).life = s.life := rfl
@[simp] theorem State.onRind_warden (f : Rind → Rind) (s : State) : (s.onRind f).warden = s.warden := rfl
@[simp] theorem State.onRind_factory (f : Rind → Rind) (s : State) : (s.onRind f).factory = s.factory := rfl
@[simp] theorem State.onRind_seq (f : Rind → Rind) (s : State) : (s.onRind f).seq = s.seq := rfl
@[simp] theorem State.onRind_free (f : Rind → Rind) (s : State) : (s.onRind f).free = s.free := rfl

/-! ### State.onPower -/

@[simp] theorem State.onPower_pending (f : Power → Power) (s : State) : (s.onPower f).pending = s.pending := rfl
@[simp] theorem State.onPower_now (f : Power → Power) (s : State) : (s.onPower f).now = s.now := rfl
@[simp] theorem State.onPower_near (f : Power → Power) (s : State) : (s.onPower f).near = s.near := rfl
@[simp] theorem State.onPower_dev (f : Power → Power) (s : State) : (s.onPower f).dev = s.dev := rfl
@[simp] theorem State.onPower_cave (f : Power → Power) (s : State) : (s.onPower f).cave = s.cave := rfl
@[simp] theorem State.onPower_hostMem (f : Power → Power) (s : State) : (s.onPower f).hostMem = s.hostMem := rfl
@[simp] theorem State.onPower_host (f : Power → Power) (s : State) : (s.onPower f).host = s.host := rfl
@[simp] theorem State.onPower_events (f : Power → Power) (s : State) : (s.onPower f).events = s.events := rfl
@[simp] theorem State.onPower_gate (f : Power → Power) (s : State) : (s.onPower f).gate = s.gate := rfl
@[simp] theorem State.onPower_recipes (f : Power → Power) (s : State) : (s.onPower f).recipes = s.recipes := rfl
@[simp] theorem State.onPower_chains (f : Power → Power) (s : State) : (s.onPower f).chains = s.chains := rfl
@[simp] theorem State.onPower_wheels (f : Power → Power) (s : State) : (s.onPower f).wheels = s.wheels := rfl
@[simp] theorem State.onPower_cores (f : Power → Power) (s : State) : (s.onPower f).cores = s.cores := rfl
@[simp] theorem State.onPower_tiers (f : Power → Power) (s : State) : (s.onPower f).tiers = s.tiers := rfl
@[simp] theorem State.onPower_farPorts (f : Power → Power) (s : State) : (s.onPower f).farPorts = s.farPorts := rfl
@[simp] theorem State.onPower_flushing (f : Power → Power) (s : State) : (s.onPower f).flushing = s.flushing := rfl
@[simp] theorem State.onPower_hinge (f : Power → Power) (s : State) : (s.onPower f).hinge = s.hinge := rfl
@[simp] theorem State.onPower_rind (f : Power → Power) (s : State) : (s.onPower f).rind = s.rind := rfl
@[simp] theorem State.onPower_power (f : Power → Power) (s : State) : (s.onPower f).power = f s.power := rfl
@[simp] theorem State.onPower_ageing (f : Power → Power) (s : State) : (s.onPower f).ageing = s.ageing := rfl
@[simp] theorem State.onPower_life (f : Power → Power) (s : State) : (s.onPower f).life = s.life := rfl
@[simp] theorem State.onPower_warden (f : Power → Power) (s : State) : (s.onPower f).warden = s.warden := rfl
@[simp] theorem State.onPower_factory (f : Power → Power) (s : State) : (s.onPower f).factory = s.factory := rfl
@[simp] theorem State.onPower_seq (f : Power → Power) (s : State) : (s.onPower f).seq = s.seq := rfl
@[simp] theorem State.onPower_free (f : Power → Power) (s : State) : (s.onPower f).free = s.free := rfl

/-! ### State.onAgeing -/

@[simp] theorem State.onAgeing_pending (f : Ageing → Ageing) (s : State) : (s.onAgeing f).pending = s.pending := rfl
@[simp] theorem State.onAgeing_now (f : Ageing → Ageing) (s : State) : (s.onAgeing f).now = s.now := rfl
@[simp] theorem State.onAgeing_near (f : Ageing → Ageing) (s : State) : (s.onAgeing f).near = s.near := rfl
@[simp] theorem State.onAgeing_dev (f : Ageing → Ageing) (s : State) : (s.onAgeing f).dev = s.dev := rfl
@[simp] theorem State.onAgeing_cave (f : Ageing → Ageing) (s : State) : (s.onAgeing f).cave = s.cave := rfl
@[simp] theorem State.onAgeing_hostMem (f : Ageing → Ageing) (s : State) : (s.onAgeing f).hostMem = s.hostMem := rfl
@[simp] theorem State.onAgeing_host (f : Ageing → Ageing) (s : State) : (s.onAgeing f).host = s.host := rfl
@[simp] theorem State.onAgeing_events (f : Ageing → Ageing) (s : State) : (s.onAgeing f).events = s.events := rfl
@[simp] theorem State.onAgeing_gate (f : Ageing → Ageing) (s : State) : (s.onAgeing f).gate = s.gate := rfl
@[simp] theorem State.onAgeing_recipes (f : Ageing → Ageing) (s : State) : (s.onAgeing f).recipes = s.recipes := rfl
@[simp] theorem State.onAgeing_chains (f : Ageing → Ageing) (s : State) : (s.onAgeing f).chains = s.chains := rfl
@[simp] theorem State.onAgeing_wheels (f : Ageing → Ageing) (s : State) : (s.onAgeing f).wheels = s.wheels := rfl
@[simp] theorem State.onAgeing_cores (f : Ageing → Ageing) (s : State) : (s.onAgeing f).cores = s.cores := rfl
@[simp] theorem State.onAgeing_tiers (f : Ageing → Ageing) (s : State) : (s.onAgeing f).tiers = s.tiers := rfl
@[simp] theorem State.onAgeing_farPorts (f : Ageing → Ageing) (s : State) :
    (s.onAgeing f).farPorts = s.farPorts := rfl
@[simp] theorem State.onAgeing_flushing (f : Ageing → Ageing) (s : State) :
    (s.onAgeing f).flushing = s.flushing := rfl
@[simp] theorem State.onAgeing_hinge (f : Ageing → Ageing) (s : State) : (s.onAgeing f).hinge = s.hinge := rfl
@[simp] theorem State.onAgeing_rind (f : Ageing → Ageing) (s : State) : (s.onAgeing f).rind = s.rind := rfl
@[simp] theorem State.onAgeing_power (f : Ageing → Ageing) (s : State) : (s.onAgeing f).power = s.power := rfl
@[simp] theorem State.onAgeing_ageing (f : Ageing → Ageing) (s : State) : (s.onAgeing f).ageing = f s.ageing := rfl
@[simp] theorem State.onAgeing_life (f : Ageing → Ageing) (s : State) : (s.onAgeing f).life = s.life := rfl
@[simp] theorem State.onAgeing_warden (f : Ageing → Ageing) (s : State) : (s.onAgeing f).warden = s.warden := rfl
@[simp] theorem State.onAgeing_factory (f : Ageing → Ageing) (s : State) : (s.onAgeing f).factory = s.factory := rfl
@[simp] theorem State.onAgeing_seq (f : Ageing → Ageing) (s : State) : (s.onAgeing f).seq = s.seq := rfl
@[simp] theorem State.onAgeing_free (f : Ageing → Ageing) (s : State) : (s.onAgeing f).free = s.free := rfl

/-! ### State.onLife -/

@[simp] theorem State.onLife_pending (f : Life → Life) (s : State) : (s.onLife f).pending = s.pending := rfl
@[simp] theorem State.onLife_now (f : Life → Life) (s : State) : (s.onLife f).now = s.now := rfl
@[simp] theorem State.onLife_near (f : Life → Life) (s : State) : (s.onLife f).near = s.near := rfl
@[simp] theorem State.onLife_dev (f : Life → Life) (s : State) : (s.onLife f).dev = s.dev := rfl
@[simp] theorem State.onLife_cave (f : Life → Life) (s : State) : (s.onLife f).cave = s.cave := rfl
@[simp] theorem State.onLife_hostMem (f : Life → Life) (s : State) : (s.onLife f).hostMem = s.hostMem := rfl
@[simp] theorem State.onLife_host (f : Life → Life) (s : State) : (s.onLife f).host = s.host := rfl
@[simp] theorem State.onLife_events (f : Life → Life) (s : State) : (s.onLife f).events = s.events := rfl
@[simp] theorem State.onLife_gate (f : Life → Life) (s : State) : (s.onLife f).gate = s.gate := rfl
@[simp] theorem State.onLife_recipes (f : Life → Life) (s : State) : (s.onLife f).recipes = s.recipes := rfl
@[simp] theorem State.onLife_chains (f : Life → Life) (s : State) : (s.onLife f).chains = s.chains := rfl
@[simp] theorem State.onLife_wheels (f : Life → Life) (s : State) : (s.onLife f).wheels = s.wheels := rfl
@[simp] theorem State.onLife_cores (f : Life → Life) (s : State) : (s.onLife f).cores = s.cores := rfl
@[simp] theorem State.onLife_tiers (f : Life → Life) (s : State) : (s.onLife f).tiers = s.tiers := rfl
@[simp] theorem State.onLife_farPorts (f : Life → Life) (s : State) : (s.onLife f).farPorts = s.farPorts := rfl
@[simp] theorem State.onLife_flushing (f : Life → Life) (s : State) : (s.onLife f).flushing = s.flushing := rfl
@[simp] theorem State.onLife_hinge (f : Life → Life) (s : State) : (s.onLife f).hinge = s.hinge := rfl
@[simp] theorem State.onLife_rind (f : Life → Life) (s : State) : (s.onLife f).rind = s.rind := rfl
@[simp] theorem State.onLife_power (f : Life → Life) (s : State) : (s.onLife f).power = s.power := rfl
@[simp] theorem State.onLife_ageing (f : Life → Life) (s : State) : (s.onLife f).ageing = s.ageing := rfl
@[simp] theorem State.onLife_life (f : Life → Life) (s : State) : (s.onLife f).life = f s.life := rfl
@[simp] theorem State.onLife_warden (f : Life → Life) (s : State) : (s.onLife f).warden = s.warden := rfl
@[simp] theorem State.onLife_factory (f : Life → Life) (s : State) : (s.onLife f).factory = s.factory := rfl
@[simp] theorem State.onLife_seq (f : Life → Life) (s : State) : (s.onLife f).seq = s.seq := rfl
@[simp] theorem State.onLife_free (f : Life → Life) (s : State) : (s.onLife f).free = s.free := rfl

/-! ### State.onWarden -/

@[simp] theorem State.onWarden_pending (f : Warden → Warden) (s : State) : (s.onWarden f).pending = s.pending := rfl
@[simp] theorem State.onWarden_now (f : Warden → Warden) (s : State) : (s.onWarden f).now = s.now := rfl
@[simp] theorem State.onWarden_near (f : Warden → Warden) (s : State) : (s.onWarden f).near = s.near := rfl
@[simp] theorem State.onWarden_dev (f : Warden → Warden) (s : State) : (s.onWarden f).dev = s.dev := rfl
@[simp] theorem State.onWarden_cave (f : Warden → Warden) (s : State) : (s.onWarden f).cave = s.cave := rfl
@[simp] theorem State.onWarden_hostMem (f : Warden → Warden) (s : State) : (s.onWarden f).hostMem = s.hostMem := rfl
@[simp] theorem State.onWarden_host (f : Warden → Warden) (s : State) : (s.onWarden f).host = s.host := rfl
@[simp] theorem State.onWarden_events (f : Warden → Warden) (s : State) : (s.onWarden f).events = s.events := rfl
@[simp] theorem State.onWarden_gate (f : Warden → Warden) (s : State) : (s.onWarden f).gate = s.gate := rfl
@[simp] theorem State.onWarden_recipes (f : Warden → Warden) (s : State) : (s.onWarden f).recipes = s.recipes := rfl
@[simp] theorem State.onWarden_chains (f : Warden → Warden) (s : State) : (s.onWarden f).chains = s.chains := rfl
@[simp] theorem State.onWarden_wheels (f : Warden → Warden) (s : State) : (s.onWarden f).wheels = s.wheels := rfl
@[simp] theorem State.onWarden_cores (f : Warden → Warden) (s : State) : (s.onWarden f).cores = s.cores := rfl
@[simp] theorem State.onWarden_tiers (f : Warden → Warden) (s : State) : (s.onWarden f).tiers = s.tiers := rfl
@[simp] theorem State.onWarden_farPorts (f : Warden → Warden) (s : State) :
    (s.onWarden f).farPorts = s.farPorts := rfl
@[simp] theorem State.onWarden_flushing (f : Warden → Warden) (s : State) :
    (s.onWarden f).flushing = s.flushing := rfl
@[simp] theorem State.onWarden_hinge (f : Warden → Warden) (s : State) : (s.onWarden f).hinge = s.hinge := rfl
@[simp] theorem State.onWarden_rind (f : Warden → Warden) (s : State) : (s.onWarden f).rind = s.rind := rfl
@[simp] theorem State.onWarden_power (f : Warden → Warden) (s : State) : (s.onWarden f).power = s.power := rfl
@[simp] theorem State.onWarden_ageing (f : Warden → Warden) (s : State) : (s.onWarden f).ageing = s.ageing := rfl
@[simp] theorem State.onWarden_life (f : Warden → Warden) (s : State) : (s.onWarden f).life = s.life := rfl
@[simp] theorem State.onWarden_warden (f : Warden → Warden) (s : State) : (s.onWarden f).warden = f s.warden := rfl
@[simp] theorem State.onWarden_factory (f : Warden → Warden) (s : State) : (s.onWarden f).factory = s.factory := rfl
@[simp] theorem State.onWarden_seq (f : Warden → Warden) (s : State) : (s.onWarden f).seq = s.seq := rfl
@[simp] theorem State.onWarden_free (f : Warden → Warden) (s : State) : (s.onWarden f).free = s.free := rfl

/-! ### State.onStored -/

@[simp] theorem State.onStored_pending (f : Stored → Stored) (s : State) : (s.onStored f).pending = s.pending := rfl
@[simp] theorem State.onStored_now (f : Stored → Stored) (s : State) : (s.onStored f).now = s.now := rfl
@[simp] theorem State.onStored_near (f : Stored → Stored) (s : State) : (s.onStored f).near = s.near := rfl
@[simp] theorem State.onStored_dev (f : Stored → Stored) (s : State) : (s.onStored f).dev = s.dev := rfl
@[simp] theorem State.onStored_cave (f : Stored → Stored) (s : State) : (s.onStored f).cave = s.cave := rfl
@[simp] theorem State.onStored_hostMem (f : Stored → Stored) (s : State) : (s.onStored f).hostMem = s.hostMem := rfl
@[simp] theorem State.onStored_host (f : Stored → Stored) (s : State) : (s.onStored f).host = s.host := rfl
@[simp] theorem State.onStored_events (f : Stored → Stored) (s : State) : (s.onStored f).events = s.events := rfl
@[simp] theorem State.onStored_gate (f : Stored → Stored) (s : State) : (s.onStored f).gate = s.gate := rfl
@[simp] theorem State.onStored_recipes (f : Stored → Stored) (s : State) : (s.onStored f).recipes = s.recipes := rfl
@[simp] theorem State.onStored_chains (f : Stored → Stored) (s : State) : (s.onStored f).chains = s.chains := rfl
@[simp] theorem State.onStored_wheels (f : Stored → Stored) (s : State) : (s.onStored f).wheels = s.wheels := rfl
@[simp] theorem State.onStored_cores (f : Stored → Stored) (s : State) : (s.onStored f).cores = s.cores := rfl
@[simp] theorem State.onStored_tiers (f : Stored → Stored) (s : State) : (s.onStored f).tiers = s.tiers := rfl
@[simp] theorem State.onStored_farPorts (f : Stored → Stored) (s : State) :
    (s.onStored f).farPorts = s.farPorts := rfl
@[simp] theorem State.onStored_flushing (f : Stored → Stored) (s : State) :
    (s.onStored f).flushing = s.flushing := rfl
@[simp] theorem State.onStored_hinge (f : Stored → Stored) (s : State) : (s.onStored f).hinge = s.hinge := rfl
@[simp] theorem State.onStored_rind (f : Stored → Stored) (s : State) : (s.onStored f).rind = s.rind := rfl
@[simp] theorem State.onStored_power (f : Stored → Stored) (s : State) : (s.onStored f).power = s.power := rfl
@[simp] theorem State.onStored_ageing (f : Stored → Stored) (s : State) : (s.onStored f).ageing = s.ageing := rfl
@[simp] theorem State.onStored_life (f : Stored → Stored) (s : State) : (s.onStored f).life = s.life := rfl
@[simp] theorem State.onStored_warden (f : Stored → Stored) (s : State) :
    (s.onStored f).warden = { s.warden with stored := f s.warden.stored } := rfl
@[simp] theorem State.onStored_factory (f : Stored → Stored) (s : State) : (s.onStored f).factory = s.factory := rfl
@[simp] theorem State.onStored_seq (f : Stored → Stored) (s : State) : (s.onStored f).seq = s.seq := rfl
@[simp] theorem State.onStored_free (f : Stored → Stored) (s : State) : (s.onStored f).free = s.free := rfl

/-! ### State.onWheel -/

@[simp] theorem State.onWheel_pending (w : Nat) (f : Wheel → Wheel) (s : State) :
    (s.onWheel w f).pending = s.pending := rfl
@[simp] theorem State.onWheel_now (w : Nat) (f : Wheel → Wheel) (s : State) : (s.onWheel w f).now = s.now := rfl
@[simp] theorem State.onWheel_near (w : Nat) (f : Wheel → Wheel) (s : State) : (s.onWheel w f).near = s.near := rfl
@[simp] theorem State.onWheel_dev (w : Nat) (f : Wheel → Wheel) (s : State) : (s.onWheel w f).dev = s.dev := rfl
@[simp] theorem State.onWheel_cave (w : Nat) (f : Wheel → Wheel) (s : State) : (s.onWheel w f).cave = s.cave := rfl
@[simp] theorem State.onWheel_hostMem (w : Nat) (f : Wheel → Wheel) (s : State) :
    (s.onWheel w f).hostMem = s.hostMem := rfl
@[simp] theorem State.onWheel_host (w : Nat) (f : Wheel → Wheel) (s : State) : (s.onWheel w f).host = s.host := rfl
@[simp] theorem State.onWheel_events (w : Nat) (f : Wheel → Wheel) (s : State) :
    (s.onWheel w f).events = s.events := rfl
@[simp] theorem State.onWheel_gate (w : Nat) (f : Wheel → Wheel) (s : State) : (s.onWheel w f).gate = s.gate := rfl
@[simp] theorem State.onWheel_recipes (w : Nat) (f : Wheel → Wheel) (s : State) :
    (s.onWheel w f).recipes = s.recipes := rfl
@[simp] theorem State.onWheel_chains (w : Nat) (f : Wheel → Wheel) (s : State) :
    (s.onWheel w f).chains = s.chains := rfl
@[simp] theorem State.onWheel_wheels (w : Nat) (f : Wheel → Wheel) (s : State) :
    (s.onWheel w f).wheels = modAt s.wheels w f := rfl
@[simp] theorem State.onWheel_cores (w : Nat) (f : Wheel → Wheel) (s : State) : (s.onWheel w f).cores = s.cores := rfl
@[simp] theorem State.onWheel_tiers (w : Nat) (f : Wheel → Wheel) (s : State) : (s.onWheel w f).tiers = s.tiers := rfl
@[simp] theorem State.onWheel_farPorts (w : Nat) (f : Wheel → Wheel) (s : State) :
    (s.onWheel w f).farPorts = s.farPorts := rfl
@[simp] theorem State.onWheel_flushing (w : Nat) (f : Wheel → Wheel) (s : State) :
    (s.onWheel w f).flushing = s.flushing := rfl
@[simp] theorem State.onWheel_hinge (w : Nat) (f : Wheel → Wheel) (s : State) : (s.onWheel w f).hinge = s.hinge := rfl
@[simp] theorem State.onWheel_rind (w : Nat) (f : Wheel → Wheel) (s : State) : (s.onWheel w f).rind = s.rind := rfl
@[simp] theorem State.onWheel_power (w : Nat) (f : Wheel → Wheel) (s : State) : (s.onWheel w f).power = s.power := rfl
@[simp] theorem State.onWheel_ageing (w : Nat) (f : Wheel → Wheel) (s : State) :
    (s.onWheel w f).ageing = s.ageing := rfl
@[simp] theorem State.onWheel_life (w : Nat) (f : Wheel → Wheel) (s : State) : (s.onWheel w f).life = s.life := rfl
@[simp] theorem State.onWheel_warden (w : Nat) (f : Wheel → Wheel) (s : State) :
    (s.onWheel w f).warden = s.warden := rfl
@[simp] theorem State.onWheel_factory (w : Nat) (f : Wheel → Wheel) (s : State) :
    (s.onWheel w f).factory = s.factory := rfl
@[simp] theorem State.onWheel_seq (w : Nat) (f : Wheel → Wheel) (s : State) : (s.onWheel w f).seq = s.seq := rfl
@[simp] theorem State.onWheel_free (w : Nat) (f : Wheel → Wheel) (s : State) : (s.onWheel w f).free = s.free := rfl

/-! ### State.onVat -/

@[simp] theorem State.onVat_pending (w : Nat) (f : Vat → Vat) (s : State) : (s.onVat w f).pending = s.pending := rfl
@[simp] theorem State.onVat_now (w : Nat) (f : Vat → Vat) (s : State) : (s.onVat w f).now = s.now := rfl
@[simp] theorem State.onVat_near (w : Nat) (f : Vat → Vat) (s : State) : (s.onVat w f).near = s.near := rfl
@[simp] theorem State.onVat_dev (w : Nat) (f : Vat → Vat) (s : State) : (s.onVat w f).dev = s.dev := rfl
@[simp] theorem State.onVat_cave (w : Nat) (f : Vat → Vat) (s : State) : (s.onVat w f).cave = s.cave := rfl
@[simp] theorem State.onVat_hostMem (w : Nat) (f : Vat → Vat) (s : State) : (s.onVat w f).hostMem = s.hostMem := rfl
@[simp] theorem State.onVat_host (w : Nat) (f : Vat → Vat) (s : State) : (s.onVat w f).host = s.host := rfl
@[simp] theorem State.onVat_events (w : Nat) (f : Vat → Vat) (s : State) : (s.onVat w f).events = s.events := rfl
@[simp] theorem State.onVat_gate (w : Nat) (f : Vat → Vat) (s : State) : (s.onVat w f).gate = s.gate := rfl
@[simp] theorem State.onVat_recipes (w : Nat) (f : Vat → Vat) (s : State) : (s.onVat w f).recipes = s.recipes := rfl
@[simp] theorem State.onVat_chains (w : Nat) (f : Vat → Vat) (s : State) : (s.onVat w f).chains = s.chains := rfl
@[simp] theorem State.onVat_wheels (w : Nat) (f : Vat → Vat) (s : State) :
    (s.onVat w f).wheels = modAt s.wheels w (fun x => { x with vat := f x.vat }) := rfl
@[simp] theorem State.onVat_cores (w : Nat) (f : Vat → Vat) (s : State) : (s.onVat w f).cores = s.cores := rfl
@[simp] theorem State.onVat_tiers (w : Nat) (f : Vat → Vat) (s : State) : (s.onVat w f).tiers = s.tiers := rfl
@[simp] theorem State.onVat_farPorts (w : Nat) (f : Vat → Vat) (s : State) :
    (s.onVat w f).farPorts = s.farPorts := rfl
@[simp] theorem State.onVat_flushing (w : Nat) (f : Vat → Vat) (s : State) :
    (s.onVat w f).flushing = s.flushing := rfl
@[simp] theorem State.onVat_hinge (w : Nat) (f : Vat → Vat) (s : State) : (s.onVat w f).hinge = s.hinge := rfl
@[simp] theorem State.onVat_rind (w : Nat) (f : Vat → Vat) (s : State) : (s.onVat w f).rind = s.rind := rfl
@[simp] theorem State.onVat_power (w : Nat) (f : Vat → Vat) (s : State) : (s.onVat w f).power = s.power := rfl
@[simp] theorem State.onVat_ageing (w : Nat) (f : Vat → Vat) (s : State) : (s.onVat w f).ageing = s.ageing := rfl
@[simp] theorem State.onVat_life (w : Nat) (f : Vat → Vat) (s : State) : (s.onVat w f).life = s.life := rfl
@[simp] theorem State.onVat_warden (w : Nat) (f : Vat → Vat) (s : State) : (s.onVat w f).warden = s.warden := rfl
@[simp] theorem State.onVat_factory (w : Nat) (f : Vat → Vat) (s : State) : (s.onVat w f).factory = s.factory := rfl
@[simp] theorem State.onVat_seq (w : Nat) (f : Vat → Vat) (s : State) : (s.onVat w f).seq = s.seq := rfl
@[simp] theorem State.onVat_free (w : Nat) (f : Vat → Vat) (s : State) : (s.onVat w f).free = s.free := rfl

/-! ### State.onPort -/

@[simp] theorem State.onPort_pending (p : Nat) (f : HingePort → HingePort) (s : State) :
    (s.onPort p f).pending = s.pending := rfl
@[simp] theorem State.onPort_now (p : Nat) (f : HingePort → HingePort) (s : State) : (s.onPort p f).now = s.now := rfl
@[simp] theorem State.onPort_near (p : Nat) (f : HingePort → HingePort) (s : State) :
    (s.onPort p f).near = s.near := rfl
@[simp] theorem State.onPort_dev (p : Nat) (f : HingePort → HingePort) (s : State) : (s.onPort p f).dev = s.dev := rfl
@[simp] theorem State.onPort_cave (p : Nat) (f : HingePort → HingePort) (s : State) :
    (s.onPort p f).cave = s.cave := rfl
@[simp] theorem State.onPort_hostMem (p : Nat) (f : HingePort → HingePort) (s : State) :
    (s.onPort p f).hostMem = s.hostMem := rfl
@[simp] theorem State.onPort_host (p : Nat) (f : HingePort → HingePort) (s : State) :
    (s.onPort p f).host = s.host := rfl
@[simp] theorem State.onPort_events (p : Nat) (f : HingePort → HingePort) (s : State) :
    (s.onPort p f).events = s.events := rfl
@[simp] theorem State.onPort_gate (p : Nat) (f : HingePort → HingePort) (s : State) :
    (s.onPort p f).gate = s.gate := rfl
@[simp] theorem State.onPort_recipes (p : Nat) (f : HingePort → HingePort) (s : State) :
    (s.onPort p f).recipes = s.recipes := rfl
@[simp] theorem State.onPort_chains (p : Nat) (f : HingePort → HingePort) (s : State) :
    (s.onPort p f).chains = s.chains := rfl
@[simp] theorem State.onPort_wheels (p : Nat) (f : HingePort → HingePort) (s : State) :
    (s.onPort p f).wheels = s.wheels := rfl
@[simp] theorem State.onPort_cores (p : Nat) (f : HingePort → HingePort) (s : State) :
    (s.onPort p f).cores = s.cores := rfl
@[simp] theorem State.onPort_tiers (p : Nat) (f : HingePort → HingePort) (s : State) :
    (s.onPort p f).tiers = s.tiers := rfl
@[simp] theorem State.onPort_farPorts (p : Nat) (f : HingePort → HingePort) (s : State) :
    (s.onPort p f).farPorts = s.farPorts := rfl
@[simp] theorem State.onPort_flushing (p : Nat) (f : HingePort → HingePort) (s : State) :
    (s.onPort p f).flushing = s.flushing := rfl
@[simp] theorem State.onPort_hinge (p : Nat) (f : HingePort → HingePort) (s : State) :
    (s.onPort p f).hinge = { s.hinge with ports := modAt s.hinge.ports p f } := rfl
@[simp] theorem State.onPort_rind (p : Nat) (f : HingePort → HingePort) (s : State) :
    (s.onPort p f).rind = s.rind := rfl
@[simp] theorem State.onPort_power (p : Nat) (f : HingePort → HingePort) (s : State) :
    (s.onPort p f).power = s.power := rfl
@[simp] theorem State.onPort_ageing (p : Nat) (f : HingePort → HingePort) (s : State) :
    (s.onPort p f).ageing = s.ageing := rfl
@[simp] theorem State.onPort_life (p : Nat) (f : HingePort → HingePort) (s : State) :
    (s.onPort p f).life = s.life := rfl
@[simp] theorem State.onPort_warden (p : Nat) (f : HingePort → HingePort) (s : State) :
    (s.onPort p f).warden = s.warden := rfl
@[simp] theorem State.onPort_factory (p : Nat) (f : HingePort → HingePort) (s : State) :
    (s.onPort p f).factory = s.factory := rfl
@[simp] theorem State.onPort_seq (p : Nat) (f : HingePort → HingePort) (s : State) : (s.onPort p f).seq = s.seq := rfl
@[simp] theorem State.onPort_free (p : Nat) (f : HingePort → HingePort) (s : State) :
    (s.onPort p f).free = s.free := rfl

/-! ### State.onFar -/

@[simp] theorem State.onFar_pending (p : Nat) (f : FarPort → FarPort) (s : State) :
    (s.onFar p f).pending = s.pending := rfl
@[simp] theorem State.onFar_now (p : Nat) (f : FarPort → FarPort) (s : State) : (s.onFar p f).now = s.now := rfl
@[simp] theorem State.onFar_near (p : Nat) (f : FarPort → FarPort) (s : State) : (s.onFar p f).near = s.near := rfl
@[simp] theorem State.onFar_dev (p : Nat) (f : FarPort → FarPort) (s : State) : (s.onFar p f).dev = s.dev := rfl
@[simp] theorem State.onFar_cave (p : Nat) (f : FarPort → FarPort) (s : State) : (s.onFar p f).cave = s.cave := rfl
@[simp] theorem State.onFar_hostMem (p : Nat) (f : FarPort → FarPort) (s : State) :
    (s.onFar p f).hostMem = s.hostMem := rfl
@[simp] theorem State.onFar_host (p : Nat) (f : FarPort → FarPort) (s : State) : (s.onFar p f).host = s.host := rfl
@[simp] theorem State.onFar_events (p : Nat) (f : FarPort → FarPort) (s : State) :
    (s.onFar p f).events = s.events := rfl
@[simp] theorem State.onFar_gate (p : Nat) (f : FarPort → FarPort) (s : State) : (s.onFar p f).gate = s.gate := rfl
@[simp] theorem State.onFar_recipes (p : Nat) (f : FarPort → FarPort) (s : State) :
    (s.onFar p f).recipes = s.recipes := rfl
@[simp] theorem State.onFar_chains (p : Nat) (f : FarPort → FarPort) (s : State) :
    (s.onFar p f).chains = s.chains := rfl
@[simp] theorem State.onFar_wheels (p : Nat) (f : FarPort → FarPort) (s : State) :
    (s.onFar p f).wheels = s.wheels := rfl
@[simp] theorem State.onFar_cores (p : Nat) (f : FarPort → FarPort) (s : State) : (s.onFar p f).cores = s.cores := rfl
@[simp] theorem State.onFar_tiers (p : Nat) (f : FarPort → FarPort) (s : State) : (s.onFar p f).tiers = s.tiers := rfl
@[simp] theorem State.onFar_farPorts (p : Nat) (f : FarPort → FarPort) (s : State) :
    (s.onFar p f).farPorts = modAt s.farPorts p f := rfl
@[simp] theorem State.onFar_flushing (p : Nat) (f : FarPort → FarPort) (s : State) :
    (s.onFar p f).flushing = s.flushing := rfl
@[simp] theorem State.onFar_hinge (p : Nat) (f : FarPort → FarPort) (s : State) : (s.onFar p f).hinge = s.hinge := rfl
@[simp] theorem State.onFar_rind (p : Nat) (f : FarPort → FarPort) (s : State) : (s.onFar p f).rind = s.rind := rfl
@[simp] theorem State.onFar_power (p : Nat) (f : FarPort → FarPort) (s : State) : (s.onFar p f).power = s.power := rfl
@[simp] theorem State.onFar_ageing (p : Nat) (f : FarPort → FarPort) (s : State) :
    (s.onFar p f).ageing = s.ageing := rfl
@[simp] theorem State.onFar_life (p : Nat) (f : FarPort → FarPort) (s : State) : (s.onFar p f).life = s.life := rfl
@[simp] theorem State.onFar_warden (p : Nat) (f : FarPort → FarPort) (s : State) :
    (s.onFar p f).warden = s.warden := rfl
@[simp] theorem State.onFar_factory (p : Nat) (f : FarPort → FarPort) (s : State) :
    (s.onFar p f).factory = s.factory := rfl
@[simp] theorem State.onFar_seq (p : Nat) (f : FarPort → FarPort) (s : State) : (s.onFar p f).seq = s.seq := rfl
@[simp] theorem State.onFar_free (p : Nat) (f : FarPort → FarPort) (s : State) : (s.onFar p f).free = s.free := rfl

/-! ### State.onRecipe -/

@[simp] theorem State.onRecipe_pending (h : Nat) (f : Recipe → Recipe) (s : State) :
    (s.onRecipe h f).pending = s.pending := rfl
@[simp] theorem State.onRecipe_now (h : Nat) (f : Recipe → Recipe) (s : State) : (s.onRecipe h f).now = s.now := rfl
@[simp] theorem State.onRecipe_near (h : Nat) (f : Recipe → Recipe) (s : State) :
    (s.onRecipe h f).near = s.near := rfl
@[simp] theorem State.onRecipe_dev (h : Nat) (f : Recipe → Recipe) (s : State) : (s.onRecipe h f).dev = s.dev := rfl
@[simp] theorem State.onRecipe_cave (h : Nat) (f : Recipe → Recipe) (s : State) :
    (s.onRecipe h f).cave = s.cave := rfl
@[simp] theorem State.onRecipe_hostMem (h : Nat) (f : Recipe → Recipe) (s : State) :
    (s.onRecipe h f).hostMem = s.hostMem := rfl
@[simp] theorem State.onRecipe_host (h : Nat) (f : Recipe → Recipe) (s : State) :
    (s.onRecipe h f).host = s.host := rfl
@[simp] theorem State.onRecipe_events (h : Nat) (f : Recipe → Recipe) (s : State) :
    (s.onRecipe h f).events = s.events := rfl
@[simp] theorem State.onRecipe_gate (h : Nat) (f : Recipe → Recipe) (s : State) :
    (s.onRecipe h f).gate = s.gate := rfl
@[simp] theorem State.onRecipe_recipes (h : Nat) (f : Recipe → Recipe) (s : State) :
    (s.onRecipe h f).recipes = modFirst (fun r => r.handle == h) f s.recipes := rfl
@[simp] theorem State.onRecipe_chains (h : Nat) (f : Recipe → Recipe) (s : State) :
    (s.onRecipe h f).chains = s.chains := rfl
@[simp] theorem State.onRecipe_wheels (h : Nat) (f : Recipe → Recipe) (s : State) :
    (s.onRecipe h f).wheels = s.wheels := rfl
@[simp] theorem State.onRecipe_cores (h : Nat) (f : Recipe → Recipe) (s : State) :
    (s.onRecipe h f).cores = s.cores := rfl
@[simp] theorem State.onRecipe_tiers (h : Nat) (f : Recipe → Recipe) (s : State) :
    (s.onRecipe h f).tiers = s.tiers := rfl
@[simp] theorem State.onRecipe_farPorts (h : Nat) (f : Recipe → Recipe) (s : State) :
    (s.onRecipe h f).farPorts = s.farPorts := rfl
@[simp] theorem State.onRecipe_flushing (h : Nat) (f : Recipe → Recipe) (s : State) :
    (s.onRecipe h f).flushing = s.flushing := rfl
@[simp] theorem State.onRecipe_hinge (h : Nat) (f : Recipe → Recipe) (s : State) :
    (s.onRecipe h f).hinge = s.hinge := rfl
@[simp] theorem State.onRecipe_rind (h : Nat) (f : Recipe → Recipe) (s : State) :
    (s.onRecipe h f).rind = s.rind := rfl
@[simp] theorem State.onRecipe_power (h : Nat) (f : Recipe → Recipe) (s : State) :
    (s.onRecipe h f).power = s.power := rfl
@[simp] theorem State.onRecipe_ageing (h : Nat) (f : Recipe → Recipe) (s : State) :
    (s.onRecipe h f).ageing = s.ageing := rfl
@[simp] theorem State.onRecipe_life (h : Nat) (f : Recipe → Recipe) (s : State) :
    (s.onRecipe h f).life = s.life := rfl
@[simp] theorem State.onRecipe_warden (h : Nat) (f : Recipe → Recipe) (s : State) :
    (s.onRecipe h f).warden = s.warden := rfl
@[simp] theorem State.onRecipe_factory (h : Nat) (f : Recipe → Recipe) (s : State) :
    (s.onRecipe h f).factory = s.factory := rfl
@[simp] theorem State.onRecipe_seq (h : Nat) (f : Recipe → Recipe) (s : State) : (s.onRecipe h f).seq = s.seq := rfl
@[simp] theorem State.onRecipe_free (h : Nat) (f : Recipe → Recipe) (s : State) :
    (s.onRecipe h f).free = s.free := rfl

/-! ### State.onStep -/

@[simp] theorem State.onStep_pending (h : Nat) (f : StepRun → StepRun) (s : State) :
    (s.onStep h f).pending = s.pending := rfl
@[simp] theorem State.onStep_now (h : Nat) (f : StepRun → StepRun) (s : State) : (s.onStep h f).now = s.now := rfl
@[simp] theorem State.onStep_near (h : Nat) (f : StepRun → StepRun) (s : State) : (s.onStep h f).near = s.near := rfl
@[simp] theorem State.onStep_dev (h : Nat) (f : StepRun → StepRun) (s : State) : (s.onStep h f).dev = s.dev := rfl
@[simp] theorem State.onStep_cave (h : Nat) (f : StepRun → StepRun) (s : State) : (s.onStep h f).cave = s.cave := rfl
@[simp] theorem State.onStep_hostMem (h : Nat) (f : StepRun → StepRun) (s : State) :
    (s.onStep h f).hostMem = s.hostMem := rfl
@[simp] theorem State.onStep_host (h : Nat) (f : StepRun → StepRun) (s : State) : (s.onStep h f).host = s.host := rfl
@[simp] theorem State.onStep_events (h : Nat) (f : StepRun → StepRun) (s : State) :
    (s.onStep h f).events = s.events := rfl
@[simp] theorem State.onStep_gate (h : Nat) (f : StepRun → StepRun) (s : State) : (s.onStep h f).gate = s.gate := rfl
@[simp] theorem State.onStep_recipes (h : Nat) (f : StepRun → StepRun) (s : State) :
    (s.onStep h f).recipes = modFirst (fun r => r.handle == h) (fun r => { r with running := r.running.map f }) s.recipes := rfl
@[simp] theorem State.onStep_chains (h : Nat) (f : StepRun → StepRun) (s : State) :
    (s.onStep h f).chains = s.chains := rfl
@[simp] theorem State.onStep_wheels (h : Nat) (f : StepRun → StepRun) (s : State) :
    (s.onStep h f).wheels = s.wheels := rfl
@[simp] theorem State.onStep_cores (h : Nat) (f : StepRun → StepRun) (s : State) :
    (s.onStep h f).cores = s.cores := rfl
@[simp] theorem State.onStep_tiers (h : Nat) (f : StepRun → StepRun) (s : State) :
    (s.onStep h f).tiers = s.tiers := rfl
@[simp] theorem State.onStep_farPorts (h : Nat) (f : StepRun → StepRun) (s : State) :
    (s.onStep h f).farPorts = s.farPorts := rfl
@[simp] theorem State.onStep_flushing (h : Nat) (f : StepRun → StepRun) (s : State) :
    (s.onStep h f).flushing = s.flushing := rfl
@[simp] theorem State.onStep_hinge (h : Nat) (f : StepRun → StepRun) (s : State) :
    (s.onStep h f).hinge = s.hinge := rfl
@[simp] theorem State.onStep_rind (h : Nat) (f : StepRun → StepRun) (s : State) : (s.onStep h f).rind = s.rind := rfl
@[simp] theorem State.onStep_power (h : Nat) (f : StepRun → StepRun) (s : State) :
    (s.onStep h f).power = s.power := rfl
@[simp] theorem State.onStep_ageing (h : Nat) (f : StepRun → StepRun) (s : State) :
    (s.onStep h f).ageing = s.ageing := rfl
@[simp] theorem State.onStep_life (h : Nat) (f : StepRun → StepRun) (s : State) : (s.onStep h f).life = s.life := rfl
@[simp] theorem State.onStep_warden (h : Nat) (f : StepRun → StepRun) (s : State) :
    (s.onStep h f).warden = s.warden := rfl
@[simp] theorem State.onStep_factory (h : Nat) (f : StepRun → StepRun) (s : State) :
    (s.onStep h f).factory = s.factory := rfl
@[simp] theorem State.onStep_seq (h : Nat) (f : StepRun → StepRun) (s : State) : (s.onStep h f).seq = s.seq := rfl
@[simp] theorem State.onStep_free (h : Nat) (f : StepRun → StepRun) (s : State) : (s.onStep h f).free = s.free := rfl

/-! ### State.onTask -/

@[simp] theorem State.onTask_pending (h t : Nat) (f : TaskRun → TaskRun) (s : State) :
    (s.onTask h t f).pending = s.pending := rfl
@[simp] theorem State.onTask_now (h t : Nat) (f : TaskRun → TaskRun) (s : State) : (s.onTask h t f).now = s.now := rfl
@[simp] theorem State.onTask_near (h t : Nat) (f : TaskRun → TaskRun) (s : State) :
    (s.onTask h t f).near = s.near := rfl
@[simp] theorem State.onTask_dev (h t : Nat) (f : TaskRun → TaskRun) (s : State) : (s.onTask h t f).dev = s.dev := rfl
@[simp] theorem State.onTask_cave (h t : Nat) (f : TaskRun → TaskRun) (s : State) :
    (s.onTask h t f).cave = s.cave := rfl
@[simp] theorem State.onTask_hostMem (h t : Nat) (f : TaskRun → TaskRun) (s : State) :
    (s.onTask h t f).hostMem = s.hostMem := rfl
@[simp] theorem State.onTask_host (h t : Nat) (f : TaskRun → TaskRun) (s : State) :
    (s.onTask h t f).host = s.host := rfl
@[simp] theorem State.onTask_events (h t : Nat) (f : TaskRun → TaskRun) (s : State) :
    (s.onTask h t f).events = s.events := rfl
@[simp] theorem State.onTask_gate (h t : Nat) (f : TaskRun → TaskRun) (s : State) :
    (s.onTask h t f).gate = s.gate := rfl
@[simp] theorem State.onTask_chains (h t : Nat) (f : TaskRun → TaskRun) (s : State) :
    (s.onTask h t f).chains = s.chains := rfl
@[simp] theorem State.onTask_wheels (h t : Nat) (f : TaskRun → TaskRun) (s : State) :
    (s.onTask h t f).wheels = s.wheels := rfl
@[simp] theorem State.onTask_cores (h t : Nat) (f : TaskRun → TaskRun) (s : State) :
    (s.onTask h t f).cores = s.cores := rfl
@[simp] theorem State.onTask_tiers (h t : Nat) (f : TaskRun → TaskRun) (s : State) :
    (s.onTask h t f).tiers = s.tiers := rfl
@[simp] theorem State.onTask_farPorts (h t : Nat) (f : TaskRun → TaskRun) (s : State) :
    (s.onTask h t f).farPorts = s.farPorts := rfl
@[simp] theorem State.onTask_flushing (h t : Nat) (f : TaskRun → TaskRun) (s : State) :
    (s.onTask h t f).flushing = s.flushing := rfl
@[simp] theorem State.onTask_hinge (h t : Nat) (f : TaskRun → TaskRun) (s : State) :
    (s.onTask h t f).hinge = s.hinge := rfl
@[simp] theorem State.onTask_rind (h t : Nat) (f : TaskRun → TaskRun) (s : State) :
    (s.onTask h t f).rind = s.rind := rfl
@[simp] theorem State.onTask_power (h t : Nat) (f : TaskRun → TaskRun) (s : State) :
    (s.onTask h t f).power = s.power := rfl
@[simp] theorem State.onTask_ageing (h t : Nat) (f : TaskRun → TaskRun) (s : State) :
    (s.onTask h t f).ageing = s.ageing := rfl
@[simp] theorem State.onTask_life (h t : Nat) (f : TaskRun → TaskRun) (s : State) :
    (s.onTask h t f).life = s.life := rfl
@[simp] theorem State.onTask_warden (h t : Nat) (f : TaskRun → TaskRun) (s : State) :
    (s.onTask h t f).warden = s.warden := rfl
@[simp] theorem State.onTask_factory (h t : Nat) (f : TaskRun → TaskRun) (s : State) :
    (s.onTask h t f).factory = s.factory := rfl
@[simp] theorem State.onTask_seq (h t : Nat) (f : TaskRun → TaskRun) (s : State) : (s.onTask h t f).seq = s.seq := rfl
@[simp] theorem State.onTask_free (h t : Nat) (f : TaskRun → TaskRun) (s : State) :
    (s.onTask h t f).free = s.free := rfl

/-! ### State.onDesc -/

@[simp] theorem State.onDesc_pending (h t i : Nat) (f : DescRun → DescRun) (s : State) :
    (s.onDesc h t i f).pending = s.pending := rfl
@[simp] theorem State.onDesc_now (h t i : Nat) (f : DescRun → DescRun) (s : State) :
    (s.onDesc h t i f).now = s.now := rfl
@[simp] theorem State.onDesc_near (h t i : Nat) (f : DescRun → DescRun) (s : State) :
    (s.onDesc h t i f).near = s.near := rfl
@[simp] theorem State.onDesc_dev (h t i : Nat) (f : DescRun → DescRun) (s : State) :
    (s.onDesc h t i f).dev = s.dev := rfl
@[simp] theorem State.onDesc_cave (h t i : Nat) (f : DescRun → DescRun) (s : State) :
    (s.onDesc h t i f).cave = s.cave := rfl
@[simp] theorem State.onDesc_hostMem (h t i : Nat) (f : DescRun → DescRun) (s : State) :
    (s.onDesc h t i f).hostMem = s.hostMem := rfl
@[simp] theorem State.onDesc_host (h t i : Nat) (f : DescRun → DescRun) (s : State) :
    (s.onDesc h t i f).host = s.host := rfl
@[simp] theorem State.onDesc_events (h t i : Nat) (f : DescRun → DescRun) (s : State) :
    (s.onDesc h t i f).events = s.events := rfl
@[simp] theorem State.onDesc_gate (h t i : Nat) (f : DescRun → DescRun) (s : State) :
    (s.onDesc h t i f).gate = s.gate := rfl
@[simp] theorem State.onDesc_chains (h t i : Nat) (f : DescRun → DescRun) (s : State) :
    (s.onDesc h t i f).chains = s.chains := rfl
@[simp] theorem State.onDesc_wheels (h t i : Nat) (f : DescRun → DescRun) (s : State) :
    (s.onDesc h t i f).wheels = s.wheels := rfl
@[simp] theorem State.onDesc_cores (h t i : Nat) (f : DescRun → DescRun) (s : State) :
    (s.onDesc h t i f).cores = s.cores := rfl
@[simp] theorem State.onDesc_tiers (h t i : Nat) (f : DescRun → DescRun) (s : State) :
    (s.onDesc h t i f).tiers = s.tiers := rfl
@[simp] theorem State.onDesc_farPorts (h t i : Nat) (f : DescRun → DescRun) (s : State) :
    (s.onDesc h t i f).farPorts = s.farPorts := rfl
@[simp] theorem State.onDesc_flushing (h t i : Nat) (f : DescRun → DescRun) (s : State) :
    (s.onDesc h t i f).flushing = s.flushing := rfl
@[simp] theorem State.onDesc_hinge (h t i : Nat) (f : DescRun → DescRun) (s : State) :
    (s.onDesc h t i f).hinge = s.hinge := rfl
@[simp] theorem State.onDesc_rind (h t i : Nat) (f : DescRun → DescRun) (s : State) :
    (s.onDesc h t i f).rind = s.rind := rfl
@[simp] theorem State.onDesc_power (h t i : Nat) (f : DescRun → DescRun) (s : State) :
    (s.onDesc h t i f).power = s.power := rfl
@[simp] theorem State.onDesc_ageing (h t i : Nat) (f : DescRun → DescRun) (s : State) :
    (s.onDesc h t i f).ageing = s.ageing := rfl
@[simp] theorem State.onDesc_life (h t i : Nat) (f : DescRun → DescRun) (s : State) :
    (s.onDesc h t i f).life = s.life := rfl
@[simp] theorem State.onDesc_warden (h t i : Nat) (f : DescRun → DescRun) (s : State) :
    (s.onDesc h t i f).warden = s.warden := rfl
@[simp] theorem State.onDesc_factory (h t i : Nat) (f : DescRun → DescRun) (s : State) :
    (s.onDesc h t i f).factory = s.factory := rfl
@[simp] theorem State.onDesc_seq (h t i : Nat) (f : DescRun → DescRun) (s : State) :
    (s.onDesc h t i f).seq = s.seq := rfl
@[simp] theorem State.onDesc_free (h t i : Nat) (f : DescRun → DescRun) (s : State) :
    (s.onDesc h t i f).free = s.free := rfl

/-! ### State.onCore -/

@[simp] theorem State.onCore_pending (c : CoreId) (f : Core → Core) (s : State) :
    (s.onCore c f).pending = s.pending := rfl
@[simp] theorem State.onCore_now (c : CoreId) (f : Core → Core) (s : State) : (s.onCore c f).now = s.now := rfl
@[simp] theorem State.onCore_near (c : CoreId) (f : Core → Core) (s : State) : (s.onCore c f).near = s.near := rfl
@[simp] theorem State.onCore_dev (c : CoreId) (f : Core → Core) (s : State) : (s.onCore c f).dev = s.dev := rfl
@[simp] theorem State.onCore_cave (c : CoreId) (f : Core → Core) (s : State) : (s.onCore c f).cave = s.cave := rfl
@[simp] theorem State.onCore_hostMem (c : CoreId) (f : Core → Core) (s : State) :
    (s.onCore c f).hostMem = s.hostMem := rfl
@[simp] theorem State.onCore_host (c : CoreId) (f : Core → Core) (s : State) : (s.onCore c f).host = s.host := rfl
@[simp] theorem State.onCore_events (c : CoreId) (f : Core → Core) (s : State) :
    (s.onCore c f).events = s.events := rfl
@[simp] theorem State.onCore_gate (c : CoreId) (f : Core → Core) (s : State) : (s.onCore c f).gate = s.gate := rfl
@[simp] theorem State.onCore_recipes (c : CoreId) (f : Core → Core) (s : State) :
    (s.onCore c f).recipes = s.recipes := rfl
@[simp] theorem State.onCore_chains (c : CoreId) (f : Core → Core) (s : State) :
    (s.onCore c f).chains = s.chains := rfl
@[simp] theorem State.onCore_wheels (c : CoreId) (f : Core → Core) (s : State) :
    (s.onCore c f).wheels = s.wheels := rfl
@[simp] theorem State.onCore_cores (c : CoreId) (f : Core → Core) (s : State) :
    (s.onCore c f).cores = modFirst (fun x => x.id == c) f s.cores := rfl
@[simp] theorem State.onCore_tiers (c : CoreId) (f : Core → Core) (s : State) : (s.onCore c f).tiers = s.tiers := rfl
@[simp] theorem State.onCore_farPorts (c : CoreId) (f : Core → Core) (s : State) :
    (s.onCore c f).farPorts = s.farPorts := rfl
@[simp] theorem State.onCore_flushing (c : CoreId) (f : Core → Core) (s : State) :
    (s.onCore c f).flushing = s.flushing := rfl
@[simp] theorem State.onCore_hinge (c : CoreId) (f : Core → Core) (s : State) : (s.onCore c f).hinge = s.hinge := rfl
@[simp] theorem State.onCore_rind (c : CoreId) (f : Core → Core) (s : State) : (s.onCore c f).rind = s.rind := rfl
@[simp] theorem State.onCore_power (c : CoreId) (f : Core → Core) (s : State) : (s.onCore c f).power = s.power := rfl
@[simp] theorem State.onCore_ageing (c : CoreId) (f : Core → Core) (s : State) :
    (s.onCore c f).ageing = s.ageing := rfl
@[simp] theorem State.onCore_life (c : CoreId) (f : Core → Core) (s : State) : (s.onCore c f).life = s.life := rfl
@[simp] theorem State.onCore_warden (c : CoreId) (f : Core → Core) (s : State) :
    (s.onCore c f).warden = s.warden := rfl
@[simp] theorem State.onCore_factory (c : CoreId) (f : Core → Core) (s : State) :
    (s.onCore c f).factory = s.factory := rfl
@[simp] theorem State.onCore_seq (c : CoreId) (f : Core → Core) (s : State) : (s.onCore c f).seq = s.seq := rfl
@[simp] theorem State.onCore_free (c : CoreId) (f : Core → Core) (s : State) : (s.onCore c f).free = s.free := rfl

/-! ### State.enter -/

@[simp] theorem State.enter_pending (d : DevState) (s : State) : (s.enter d).pending = s.pending := rfl
@[simp] theorem State.enter_now (d : DevState) (s : State) : (s.enter d).now = s.now := rfl
@[simp] theorem State.enter_near (d : DevState) (s : State) : (s.enter d).near = s.near := rfl
@[simp] theorem State.enter_dev (d : DevState) (s : State) : (s.enter d).dev = s.dev := rfl
@[simp] theorem State.enter_cave (d : DevState) (s : State) : (s.enter d).cave = s.cave := rfl
@[simp] theorem State.enter_hostMem (d : DevState) (s : State) : (s.enter d).hostMem = s.hostMem := rfl
@[simp] theorem State.enter_host (d : DevState) (s : State) : (s.enter d).host = s.host := rfl
@[simp] theorem State.enter_events (d : DevState) (s : State) : (s.enter d).events = s.events := rfl
@[simp] theorem State.enter_gate (d : DevState) (s : State) : (s.enter d).gate = s.gate := rfl
@[simp] theorem State.enter_recipes (d : DevState) (s : State) : (s.enter d).recipes = s.recipes := rfl
@[simp] theorem State.enter_chains (d : DevState) (s : State) : (s.enter d).chains = s.chains := rfl
@[simp] theorem State.enter_wheels (d : DevState) (s : State) : (s.enter d).wheels = s.wheels := rfl
@[simp] theorem State.enter_cores (d : DevState) (s : State) : (s.enter d).cores = s.cores := rfl
@[simp] theorem State.enter_tiers (d : DevState) (s : State) : (s.enter d).tiers = s.tiers := rfl
@[simp] theorem State.enter_farPorts (d : DevState) (s : State) : (s.enter d).farPorts = s.farPorts := rfl
@[simp] theorem State.enter_flushing (d : DevState) (s : State) : (s.enter d).flushing = s.flushing := rfl
@[simp] theorem State.enter_hinge (d : DevState) (s : State) : (s.enter d).hinge = s.hinge := rfl
@[simp] theorem State.enter_rind (d : DevState) (s : State) : (s.enter d).rind = s.rind := rfl
@[simp] theorem State.enter_power (d : DevState) (s : State) : (s.enter d).power = s.power := rfl
@[simp] theorem State.enter_ageing (d : DevState) (s : State) : (s.enter d).ageing = s.ageing := rfl
@[simp] theorem State.enter_life (d : DevState) (s : State) :
    (s.enter d).life = { s.life with
      state := d, stateSince := if s.life.state = d then s.life.stateSince else s.now } := rfl
@[simp] theorem State.enter_warden (d : DevState) (s : State) : (s.enter d).warden = s.warden := rfl
@[simp] theorem State.enter_factory (d : DevState) (s : State) : (s.enter d).factory = s.factory := rfl
@[simp] theorem State.enter_seq (d : DevState) (s : State) : (s.enter d).seq = s.seq := rfl
@[simp] theorem State.enter_free (d : DevState) (s : State) : (s.enter d).free = s.free := rfl

/-! ### State.drawn -/

@[simp] theorem State.drawn_pending (s : State) : (s.drawn).pending = s.pending := rfl
@[simp] theorem State.drawn_now (s : State) : (s.drawn).now = s.now := rfl
@[simp] theorem State.drawn_near (s : State) : (s.drawn).near = s.near := rfl
@[simp] theorem State.drawn_dev (s : State) : (s.drawn).dev = s.dev := rfl
@[simp] theorem State.drawn_cave (s : State) : (s.drawn).cave = s.cave := rfl
@[simp] theorem State.drawn_hostMem (s : State) : (s.drawn).hostMem = s.hostMem := rfl
@[simp] theorem State.drawn_host (s : State) : (s.drawn).host = s.host := rfl
@[simp] theorem State.drawn_events (s : State) : (s.drawn).events = s.events := rfl
@[simp] theorem State.drawn_gate (s : State) : (s.drawn).gate = s.gate := rfl
@[simp] theorem State.drawn_recipes (s : State) : (s.drawn).recipes = s.recipes := rfl
@[simp] theorem State.drawn_chains (s : State) : (s.drawn).chains = s.chains := rfl
@[simp] theorem State.drawn_wheels (s : State) : (s.drawn).wheels = s.wheels := rfl
@[simp] theorem State.drawn_cores (s : State) : (s.drawn).cores = s.cores := rfl
@[simp] theorem State.drawn_tiers (s : State) : (s.drawn).tiers = s.tiers := rfl
@[simp] theorem State.drawn_farPorts (s : State) : (s.drawn).farPorts = s.farPorts := rfl
@[simp] theorem State.drawn_flushing (s : State) : (s.drawn).flushing = s.flushing := rfl
@[simp] theorem State.drawn_hinge (s : State) : (s.drawn).hinge = s.hinge := rfl
@[simp] theorem State.drawn_rind (s : State) : (s.drawn).rind = s.rind := rfl
@[simp] theorem State.drawn_power (s : State) : (s.drawn).power = s.power := rfl
@[simp] theorem State.drawn_ageing (s : State) : (s.drawn).ageing = s.ageing := rfl
@[simp] theorem State.drawn_life (s : State) : (s.drawn).life = s.life := rfl
@[simp] theorem State.drawn_warden (s : State) : (s.drawn).warden = s.warden := rfl
@[simp] theorem State.drawn_factory (s : State) : (s.drawn).factory = s.factory := rfl
@[simp] theorem State.drawn_seq (s : State) : (s.drawn).seq = s.seq := rfl
@[simp] theorem State.drawn_free (s : State) : (s.drawn).free = s.free + 1 := rfl

/-! ### Idle -/

@[simp] theorem idle_pending (s : State) : (idle s).pending = s.pending := rfl
@[simp] theorem idle_now (s : State) : (idle s).now = (s.now + 1) % 2 ^ 64 := rfl
@[simp] theorem idle_near (s : State) : (idle s).near = s.near := rfl
@[simp] theorem idle_dev (s : State) : (idle s).dev = s.dev := rfl
@[simp] theorem idle_cave (s : State) : (idle s).cave = s.cave := rfl
@[simp] theorem idle_hostMem (s : State) : (idle s).hostMem = s.hostMem := rfl
@[simp] theorem idle_host (s : State) : (idle s).host = s.host := rfl
@[simp] theorem idle_events (s : State) : (idle s).events = s.events := rfl
@[simp] theorem idle_gate (s : State) : (idle s).gate = s.gate := rfl
@[simp] theorem idle_recipes (s : State) : (idle s).recipes = s.recipes := rfl
@[simp] theorem idle_chains (s : State) : (idle s).chains = s.chains := rfl
@[simp] theorem idle_wheels (s : State) : (idle s).wheels = s.wheels := rfl
@[simp] theorem idle_cores (s : State) : (idle s).cores = s.cores := rfl
@[simp] theorem idle_tiers (s : State) : (idle s).tiers = s.tiers := rfl
@[simp] theorem idle_farPorts (s : State) : (idle s).farPorts = s.farPorts := rfl
@[simp] theorem idle_flushing (s : State) : (idle s).flushing = s.flushing := rfl
@[simp] theorem idle_hinge (s : State) : (idle s).hinge = s.hinge := rfl
@[simp] theorem idle_rind (s : State) : (idle s).rind = s.rind := rfl
@[simp] theorem idle_power (s : State) : (idle s).power = s.power := rfl
@[simp] theorem idle_ageing (s : State) : (idle s).ageing = s.ageing := rfl
@[simp] theorem idle_life (s : State) : (idle s).life = s.life := rfl
@[simp] theorem idle_warden (s : State) : (idle s).warden = s.warden := rfl
@[simp] theorem idle_factory (s : State) : (idle s).factory = s.factory := rfl
@[simp] theorem idle_seq (s : State) : (idle s).seq = s.seq := rfl
@[simp] theorem idle_free (s : State) : (idle s).free = s.free := rfl

/-! ### Posting a detector changes the events alone -/

@[simp] theorem countDet_pending (det : Nat) (s : State) :
    (countDet det s).pending = s.pending := rfl
@[simp] theorem countDet_now (det : Nat) (s : State) :
    (countDet det s).now = s.now := rfl
@[simp] theorem countDet_near (det : Nat) (s : State) :
    (countDet det s).near = s.near := rfl
@[simp] theorem countDet_dev (det : Nat) (s : State) :
    (countDet det s).dev = s.dev := rfl
@[simp] theorem countDet_cave (det : Nat) (s : State) :
    (countDet det s).cave = s.cave := rfl
@[simp] theorem countDet_hostMem (det : Nat) (s : State) :
    (countDet det s).hostMem = s.hostMem := rfl
@[simp] theorem countDet_host (det : Nat) (s : State) :
    (countDet det s).host = s.host := rfl
@[simp] theorem countDet_gate (det : Nat) (s : State) :
    (countDet det s).gate = s.gate := rfl
@[simp] theorem countDet_recipes (det : Nat) (s : State) :
    (countDet det s).recipes = s.recipes := rfl
@[simp] theorem countDet_chains (det : Nat) (s : State) :
    (countDet det s).chains = s.chains := rfl
@[simp] theorem countDet_wheels (det : Nat) (s : State) :
    (countDet det s).wheels = s.wheels := rfl
@[simp] theorem countDet_cores (det : Nat) (s : State) :
    (countDet det s).cores = s.cores := rfl
@[simp] theorem countDet_tiers (det : Nat) (s : State) :
    (countDet det s).tiers = s.tiers := rfl
@[simp] theorem countDet_farPorts (det : Nat) (s : State) :
    (countDet det s).farPorts = s.farPorts := rfl
@[simp] theorem countDet_flushing (det : Nat) (s : State) :
    (countDet det s).flushing = s.flushing := rfl
@[simp] theorem countDet_hinge (det : Nat) (s : State) :
    (countDet det s).hinge = s.hinge := rfl
@[simp] theorem countDet_rind (det : Nat) (s : State) :
    (countDet det s).rind = s.rind := rfl
@[simp] theorem countDet_power (det : Nat) (s : State) :
    (countDet det s).power = s.power := rfl
@[simp] theorem countDet_ageing (det : Nat) (s : State) :
    (countDet det s).ageing = s.ageing := rfl
@[simp] theorem countDet_life (det : Nat) (s : State) :
    (countDet det s).life = s.life := rfl
@[simp] theorem countDet_warden (det : Nat) (s : State) :
    (countDet det s).warden = s.warden := rfl
@[simp] theorem countDet_factory (det : Nat) (s : State) :
    (countDet det s).factory = s.factory := rfl
@[simp] theorem countDet_seq (det : Nat) (s : State) :
    (countDet det s).seq = s.seq := rfl
@[simp] theorem countDet_free (det : Nat) (s : State) :
    (countDet det s).free = s.free := rfl

@[simp] theorem sendRec_pending (r : EventRec) (s : State) :
    (sendRec r s).pending = s.pending := by unfold sendRec; split <;> rfl
@[simp] theorem sendRec_now (r : EventRec) (s : State) :
    (sendRec r s).now = s.now := by unfold sendRec; split <;> rfl
@[simp] theorem sendRec_near (r : EventRec) (s : State) :
    (sendRec r s).near = s.near := by unfold sendRec; split <;> rfl
@[simp] theorem sendRec_dev (r : EventRec) (s : State) :
    (sendRec r s).dev = s.dev := by unfold sendRec; split <;> rfl
@[simp] theorem sendRec_cave (r : EventRec) (s : State) :
    (sendRec r s).cave = s.cave := by unfold sendRec; split <;> rfl
@[simp] theorem sendRec_hostMem (r : EventRec) (s : State) :
    (sendRec r s).hostMem = s.hostMem := by unfold sendRec; split <;> rfl
@[simp] theorem sendRec_host (r : EventRec) (s : State) :
    (sendRec r s).host = s.host := by unfold sendRec; split <;> rfl
@[simp] theorem sendRec_gate (r : EventRec) (s : State) :
    (sendRec r s).gate = s.gate := by unfold sendRec; split <;> rfl
@[simp] theorem sendRec_recipes (r : EventRec) (s : State) :
    (sendRec r s).recipes = s.recipes := by unfold sendRec; split <;> rfl
@[simp] theorem sendRec_chains (r : EventRec) (s : State) :
    (sendRec r s).chains = s.chains := by unfold sendRec; split <;> rfl
@[simp] theorem sendRec_wheels (r : EventRec) (s : State) :
    (sendRec r s).wheels = s.wheels := by unfold sendRec; split <;> rfl
@[simp] theorem sendRec_cores (r : EventRec) (s : State) :
    (sendRec r s).cores = s.cores := by unfold sendRec; split <;> rfl
@[simp] theorem sendRec_tiers (r : EventRec) (s : State) :
    (sendRec r s).tiers = s.tiers := by unfold sendRec; split <;> rfl
@[simp] theorem sendRec_farPorts (r : EventRec) (s : State) :
    (sendRec r s).farPorts = s.farPorts := by unfold sendRec; split <;> rfl
@[simp] theorem sendRec_flushing (r : EventRec) (s : State) :
    (sendRec r s).flushing = s.flushing := by unfold sendRec; split <;> rfl
@[simp] theorem sendRec_hinge (r : EventRec) (s : State) :
    (sendRec r s).hinge = s.hinge := by unfold sendRec; split <;> rfl
@[simp] theorem sendRec_rind (r : EventRec) (s : State) :
    (sendRec r s).rind = s.rind := by unfold sendRec; split <;> rfl
@[simp] theorem sendRec_power (r : EventRec) (s : State) :
    (sendRec r s).power = s.power := by unfold sendRec; split <;> rfl
@[simp] theorem sendRec_ageing (r : EventRec) (s : State) :
    (sendRec r s).ageing = s.ageing := by unfold sendRec; split <;> rfl
@[simp] theorem sendRec_life (r : EventRec) (s : State) :
    (sendRec r s).life = s.life := by unfold sendRec; split <;> rfl
@[simp] theorem sendRec_warden (r : EventRec) (s : State) :
    (sendRec r s).warden = s.warden := by unfold sendRec; split <;> rfl
@[simp] theorem sendRec_factory (r : EventRec) (s : State) :
    (sendRec r s).factory = s.factory := by unfold sendRec; split <;> rfl
@[simp] theorem sendRec_seq (r : EventRec) (s : State) :
    (sendRec r s).seq = s.seq := by unfold sendRec; split <;> rfl
@[simp] theorem sendRec_free (r : EventRec) (s : State) :
    (sendRec r s).free = s.free := by unfold sendRec; split <;> rfl

@[simp] theorem post_pending (det unit code : Nat) (detail : List Byte) (s : State) :
    (post det unit code detail s).pending = s.pending := by simp [post]
@[simp] theorem post_now (det unit code : Nat) (detail : List Byte) (s : State) :
    (post det unit code detail s).now = s.now := by simp [post]
@[simp] theorem post_near (det unit code : Nat) (detail : List Byte) (s : State) :
    (post det unit code detail s).near = s.near := by simp [post]
@[simp] theorem post_dev (det unit code : Nat) (detail : List Byte) (s : State) :
    (post det unit code detail s).dev = s.dev := by simp [post]
@[simp] theorem post_cave (det unit code : Nat) (detail : List Byte) (s : State) :
    (post det unit code detail s).cave = s.cave := by simp [post]
@[simp] theorem post_hostMem (det unit code : Nat) (detail : List Byte) (s : State) :
    (post det unit code detail s).hostMem = s.hostMem := by simp [post]
@[simp] theorem post_host (det unit code : Nat) (detail : List Byte) (s : State) :
    (post det unit code detail s).host = s.host := by simp [post]
@[simp] theorem post_gate (det unit code : Nat) (detail : List Byte) (s : State) :
    (post det unit code detail s).gate = s.gate := by simp [post]
@[simp] theorem post_recipes (det unit code : Nat) (detail : List Byte) (s : State) :
    (post det unit code detail s).recipes = s.recipes := by simp [post]
@[simp] theorem post_chains (det unit code : Nat) (detail : List Byte) (s : State) :
    (post det unit code detail s).chains = s.chains := by simp [post]
@[simp] theorem post_wheels (det unit code : Nat) (detail : List Byte) (s : State) :
    (post det unit code detail s).wheels = s.wheels := by simp [post]
@[simp] theorem post_cores (det unit code : Nat) (detail : List Byte) (s : State) :
    (post det unit code detail s).cores = s.cores := by simp [post]
@[simp] theorem post_tiers (det unit code : Nat) (detail : List Byte) (s : State) :
    (post det unit code detail s).tiers = s.tiers := by simp [post]
@[simp] theorem post_farPorts (det unit code : Nat) (detail : List Byte) (s : State) :
    (post det unit code detail s).farPorts = s.farPorts := by simp [post]
@[simp] theorem post_flushing (det unit code : Nat) (detail : List Byte) (s : State) :
    (post det unit code detail s).flushing = s.flushing := by simp [post]
@[simp] theorem post_hinge (det unit code : Nat) (detail : List Byte) (s : State) :
    (post det unit code detail s).hinge = s.hinge := by simp [post]
@[simp] theorem post_rind (det unit code : Nat) (detail : List Byte) (s : State) :
    (post det unit code detail s).rind = s.rind := by simp [post]
@[simp] theorem post_power (det unit code : Nat) (detail : List Byte) (s : State) :
    (post det unit code detail s).power = s.power := by simp [post]
@[simp] theorem post_ageing (det unit code : Nat) (detail : List Byte) (s : State) :
    (post det unit code detail s).ageing = s.ageing := by simp [post]
@[simp] theorem post_life (det unit code : Nat) (detail : List Byte) (s : State) :
    (post det unit code detail s).life = s.life := by simp [post]
@[simp] theorem post_warden (det unit code : Nat) (detail : List Byte) (s : State) :
    (post det unit code detail s).warden = s.warden := by simp [post]
@[simp] theorem post_factory (det unit code : Nat) (detail : List Byte) (s : State) :
    (post det unit code detail s).factory = s.factory := by simp [post]
@[simp] theorem post_seq (det unit code : Nat) (detail : List Byte) (s : State) :
    (post det unit code detail s).seq = s.seq := by simp [post]
@[simp] theorem post_free (det unit code : Nat) (detail : List Byte) (s : State) :
    (post det unit code detail s).free = s.free := by simp [post]

@[simp] theorem wpost_pending (det unit code : Nat) (detail : List Byte) (s : State) :
    (wpost det unit code detail s).pending = s.pending := by simp [wpost]
@[simp] theorem wpost_now (det unit code : Nat) (detail : List Byte) (s : State) :
    (wpost det unit code detail s).now = s.now := by simp [wpost]
@[simp] theorem wpost_near (det unit code : Nat) (detail : List Byte) (s : State) :
    (wpost det unit code detail s).near = s.near := by simp [wpost]
@[simp] theorem wpost_dev (det unit code : Nat) (detail : List Byte) (s : State) :
    (wpost det unit code detail s).dev = s.dev := by simp [wpost]
@[simp] theorem wpost_cave (det unit code : Nat) (detail : List Byte) (s : State) :
    (wpost det unit code detail s).cave = s.cave := by simp [wpost]
@[simp] theorem wpost_hostMem (det unit code : Nat) (detail : List Byte) (s : State) :
    (wpost det unit code detail s).hostMem = s.hostMem := by simp [wpost]
@[simp] theorem wpost_host (det unit code : Nat) (detail : List Byte) (s : State) :
    (wpost det unit code detail s).host = s.host := by simp [wpost]
@[simp] theorem wpost_gate (det unit code : Nat) (detail : List Byte) (s : State) :
    (wpost det unit code detail s).gate = s.gate := by simp [wpost]
@[simp] theorem wpost_recipes (det unit code : Nat) (detail : List Byte) (s : State) :
    (wpost det unit code detail s).recipes = s.recipes := by simp [wpost]
@[simp] theorem wpost_chains (det unit code : Nat) (detail : List Byte) (s : State) :
    (wpost det unit code detail s).chains = s.chains := by simp [wpost]
@[simp] theorem wpost_wheels (det unit code : Nat) (detail : List Byte) (s : State) :
    (wpost det unit code detail s).wheels = s.wheels := by simp [wpost]
@[simp] theorem wpost_cores (det unit code : Nat) (detail : List Byte) (s : State) :
    (wpost det unit code detail s).cores = s.cores := by simp [wpost]
@[simp] theorem wpost_tiers (det unit code : Nat) (detail : List Byte) (s : State) :
    (wpost det unit code detail s).tiers = s.tiers := by simp [wpost]
@[simp] theorem wpost_farPorts (det unit code : Nat) (detail : List Byte) (s : State) :
    (wpost det unit code detail s).farPorts = s.farPorts := by simp [wpost]
@[simp] theorem wpost_flushing (det unit code : Nat) (detail : List Byte) (s : State) :
    (wpost det unit code detail s).flushing = s.flushing := by simp [wpost]
@[simp] theorem wpost_hinge (det unit code : Nat) (detail : List Byte) (s : State) :
    (wpost det unit code detail s).hinge = s.hinge := by simp [wpost]
@[simp] theorem wpost_rind (det unit code : Nat) (detail : List Byte) (s : State) :
    (wpost det unit code detail s).rind = s.rind := by simp [wpost]
@[simp] theorem wpost_power (det unit code : Nat) (detail : List Byte) (s : State) :
    (wpost det unit code detail s).power = s.power := by simp [wpost]
@[simp] theorem wpost_ageing (det unit code : Nat) (detail : List Byte) (s : State) :
    (wpost det unit code detail s).ageing = s.ageing := by simp [wpost]
@[simp] theorem wpost_life (det unit code : Nat) (detail : List Byte) (s : State) :
    (wpost det unit code detail s).life = s.life := by simp [wpost]
@[simp] theorem wpost_warden (det unit code : Nat) (detail : List Byte) (s : State) :
    (wpost det unit code detail s).warden = s.warden := by simp [wpost]
@[simp] theorem wpost_factory (det unit code : Nat) (detail : List Byte) (s : State) :
    (wpost det unit code detail s).factory = s.factory := by simp [wpost]
@[simp] theorem wpost_seq (det unit code : Nat) (detail : List Byte) (s : State) :
    (wpost det unit code detail s).seq = s.seq := by simp [wpost]
@[simp] theorem wpost_free (det unit code : Nat) (detail : List Byte) (s : State) :
    (wpost det unit code detail s).free = s.free := by simp [wpost]

@[simp] theorem episodeHolds_pending (det unit : Nat) (s : State) :
    (episodeHolds det unit s).pending = s.pending := rfl
@[simp] theorem episodeHolds_now (det unit : Nat) (s : State) :
    (episodeHolds det unit s).now = s.now := rfl
@[simp] theorem episodeHolds_near (det unit : Nat) (s : State) :
    (episodeHolds det unit s).near = s.near := rfl
@[simp] theorem episodeHolds_dev (det unit : Nat) (s : State) :
    (episodeHolds det unit s).dev = s.dev := rfl
@[simp] theorem episodeHolds_cave (det unit : Nat) (s : State) :
    (episodeHolds det unit s).cave = s.cave := rfl
@[simp] theorem episodeHolds_hostMem (det unit : Nat) (s : State) :
    (episodeHolds det unit s).hostMem = s.hostMem := rfl
@[simp] theorem episodeHolds_host (det unit : Nat) (s : State) :
    (episodeHolds det unit s).host = s.host := rfl
@[simp] theorem episodeHolds_gate (det unit : Nat) (s : State) :
    (episodeHolds det unit s).gate = s.gate := rfl
@[simp] theorem episodeHolds_recipes (det unit : Nat) (s : State) :
    (episodeHolds det unit s).recipes = s.recipes := rfl
@[simp] theorem episodeHolds_chains (det unit : Nat) (s : State) :
    (episodeHolds det unit s).chains = s.chains := rfl
@[simp] theorem episodeHolds_wheels (det unit : Nat) (s : State) :
    (episodeHolds det unit s).wheels = s.wheels := rfl
@[simp] theorem episodeHolds_cores (det unit : Nat) (s : State) :
    (episodeHolds det unit s).cores = s.cores := rfl
@[simp] theorem episodeHolds_tiers (det unit : Nat) (s : State) :
    (episodeHolds det unit s).tiers = s.tiers := rfl
@[simp] theorem episodeHolds_farPorts (det unit : Nat) (s : State) :
    (episodeHolds det unit s).farPorts = s.farPorts := rfl
@[simp] theorem episodeHolds_flushing (det unit : Nat) (s : State) :
    (episodeHolds det unit s).flushing = s.flushing := rfl
@[simp] theorem episodeHolds_hinge (det unit : Nat) (s : State) :
    (episodeHolds det unit s).hinge = s.hinge := rfl
@[simp] theorem episodeHolds_rind (det unit : Nat) (s : State) :
    (episodeHolds det unit s).rind = s.rind := rfl
@[simp] theorem episodeHolds_power (det unit : Nat) (s : State) :
    (episodeHolds det unit s).power = s.power := rfl
@[simp] theorem episodeHolds_ageing (det unit : Nat) (s : State) :
    (episodeHolds det unit s).ageing = s.ageing := rfl
@[simp] theorem episodeHolds_life (det unit : Nat) (s : State) :
    (episodeHolds det unit s).life = s.life := rfl
@[simp] theorem episodeHolds_warden (det unit : Nat) (s : State) :
    (episodeHolds det unit s).warden = s.warden := rfl
@[simp] theorem episodeHolds_factory (det unit : Nat) (s : State) :
    (episodeHolds det unit s).factory = s.factory := rfl
@[simp] theorem episodeHolds_seq (det unit : Nat) (s : State) :
    (episodeHolds det unit s).seq = s.seq := rfl
@[simp] theorem episodeHolds_free (det unit : Nat) (s : State) :
    (episodeHolds det unit s).free = s.free := rfl

@[simp] theorem absentEpisode_pending (det unit : Nat) (s : State) :
    (absentEpisode det unit s).pending = s.pending := rfl
@[simp] theorem absentEpisode_now (det unit : Nat) (s : State) :
    (absentEpisode det unit s).now = s.now := rfl
@[simp] theorem absentEpisode_near (det unit : Nat) (s : State) :
    (absentEpisode det unit s).near = s.near := rfl
@[simp] theorem absentEpisode_dev (det unit : Nat) (s : State) :
    (absentEpisode det unit s).dev = s.dev := rfl
@[simp] theorem absentEpisode_cave (det unit : Nat) (s : State) :
    (absentEpisode det unit s).cave = s.cave := rfl
@[simp] theorem absentEpisode_hostMem (det unit : Nat) (s : State) :
    (absentEpisode det unit s).hostMem = s.hostMem := rfl
@[simp] theorem absentEpisode_host (det unit : Nat) (s : State) :
    (absentEpisode det unit s).host = s.host := rfl
@[simp] theorem absentEpisode_gate (det unit : Nat) (s : State) :
    (absentEpisode det unit s).gate = s.gate := rfl
@[simp] theorem absentEpisode_recipes (det unit : Nat) (s : State) :
    (absentEpisode det unit s).recipes = s.recipes := rfl
@[simp] theorem absentEpisode_chains (det unit : Nat) (s : State) :
    (absentEpisode det unit s).chains = s.chains := rfl
@[simp] theorem absentEpisode_wheels (det unit : Nat) (s : State) :
    (absentEpisode det unit s).wheels = s.wheels := rfl
@[simp] theorem absentEpisode_cores (det unit : Nat) (s : State) :
    (absentEpisode det unit s).cores = s.cores := rfl
@[simp] theorem absentEpisode_tiers (det unit : Nat) (s : State) :
    (absentEpisode det unit s).tiers = s.tiers := rfl
@[simp] theorem absentEpisode_farPorts (det unit : Nat) (s : State) :
    (absentEpisode det unit s).farPorts = s.farPorts := rfl
@[simp] theorem absentEpisode_flushing (det unit : Nat) (s : State) :
    (absentEpisode det unit s).flushing = s.flushing := rfl
@[simp] theorem absentEpisode_hinge (det unit : Nat) (s : State) :
    (absentEpisode det unit s).hinge = s.hinge := rfl
@[simp] theorem absentEpisode_rind (det unit : Nat) (s : State) :
    (absentEpisode det unit s).rind = s.rind := rfl
@[simp] theorem absentEpisode_power (det unit : Nat) (s : State) :
    (absentEpisode det unit s).power = s.power := rfl
@[simp] theorem absentEpisode_ageing (det unit : Nat) (s : State) :
    (absentEpisode det unit s).ageing = s.ageing := rfl
@[simp] theorem absentEpisode_life (det unit : Nat) (s : State) :
    (absentEpisode det unit s).life = s.life := rfl
@[simp] theorem absentEpisode_warden (det unit : Nat) (s : State) :
    (absentEpisode det unit s).warden = s.warden := rfl
@[simp] theorem absentEpisode_factory (det unit : Nat) (s : State) :
    (absentEpisode det unit s).factory = s.factory := rfl
@[simp] theorem absentEpisode_seq (det unit : Nat) (s : State) :
    (absentEpisode det unit s).seq = s.seq := rfl
@[simp] theorem absentEpisode_free (det unit : Nat) (s : State) :
    (absentEpisode det unit s).free = s.free := rfl

@[simp] theorem postEpisode_pending (w : Bool) (det unit code : Nat) (detail : List Byte) (s : State) :
    (postEpisode w det unit code detail s).pending = s.pending := by unfold postEpisode; split <;> simp
@[simp] theorem postEpisode_now (w : Bool) (det unit code : Nat) (detail : List Byte) (s : State) :
    (postEpisode w det unit code detail s).now = s.now := by unfold postEpisode; split <;> simp
@[simp] theorem postEpisode_near (w : Bool) (det unit code : Nat) (detail : List Byte) (s : State) :
    (postEpisode w det unit code detail s).near = s.near := by unfold postEpisode; split <;> simp
@[simp] theorem postEpisode_dev (w : Bool) (det unit code : Nat) (detail : List Byte) (s : State) :
    (postEpisode w det unit code detail s).dev = s.dev := by unfold postEpisode; split <;> simp
@[simp] theorem postEpisode_cave (w : Bool) (det unit code : Nat) (detail : List Byte) (s : State) :
    (postEpisode w det unit code detail s).cave = s.cave := by unfold postEpisode; split <;> simp
@[simp] theorem postEpisode_hostMem (w : Bool) (det unit code : Nat) (detail : List Byte) (s : State) :
    (postEpisode w det unit code detail s).hostMem = s.hostMem := by unfold postEpisode; split <;> simp
@[simp] theorem postEpisode_host (w : Bool) (det unit code : Nat) (detail : List Byte) (s : State) :
    (postEpisode w det unit code detail s).host = s.host := by unfold postEpisode; split <;> simp
@[simp] theorem postEpisode_gate (w : Bool) (det unit code : Nat) (detail : List Byte) (s : State) :
    (postEpisode w det unit code detail s).gate = s.gate := by unfold postEpisode; split <;> simp
@[simp] theorem postEpisode_recipes (w : Bool) (det unit code : Nat) (detail : List Byte) (s : State) :
    (postEpisode w det unit code detail s).recipes = s.recipes := by unfold postEpisode; split <;> simp
@[simp] theorem postEpisode_chains (w : Bool) (det unit code : Nat) (detail : List Byte) (s : State) :
    (postEpisode w det unit code detail s).chains = s.chains := by unfold postEpisode; split <;> simp
@[simp] theorem postEpisode_wheels (w : Bool) (det unit code : Nat) (detail : List Byte) (s : State) :
    (postEpisode w det unit code detail s).wheels = s.wheels := by unfold postEpisode; split <;> simp
@[simp] theorem postEpisode_cores (w : Bool) (det unit code : Nat) (detail : List Byte) (s : State) :
    (postEpisode w det unit code detail s).cores = s.cores := by unfold postEpisode; split <;> simp
@[simp] theorem postEpisode_tiers (w : Bool) (det unit code : Nat) (detail : List Byte) (s : State) :
    (postEpisode w det unit code detail s).tiers = s.tiers := by unfold postEpisode; split <;> simp
@[simp] theorem postEpisode_farPorts (w : Bool) (det unit code : Nat) (detail : List Byte) (s : State) :
    (postEpisode w det unit code detail s).farPorts = s.farPorts := by unfold postEpisode; split <;> simp
@[simp] theorem postEpisode_flushing (w : Bool) (det unit code : Nat) (detail : List Byte) (s : State) :
    (postEpisode w det unit code detail s).flushing = s.flushing := by unfold postEpisode; split <;> simp
@[simp] theorem postEpisode_hinge (w : Bool) (det unit code : Nat) (detail : List Byte) (s : State) :
    (postEpisode w det unit code detail s).hinge = s.hinge := by unfold postEpisode; split <;> simp
@[simp] theorem postEpisode_rind (w : Bool) (det unit code : Nat) (detail : List Byte) (s : State) :
    (postEpisode w det unit code detail s).rind = s.rind := by unfold postEpisode; split <;> simp
@[simp] theorem postEpisode_power (w : Bool) (det unit code : Nat) (detail : List Byte) (s : State) :
    (postEpisode w det unit code detail s).power = s.power := by unfold postEpisode; split <;> simp
@[simp] theorem postEpisode_ageing (w : Bool) (det unit code : Nat) (detail : List Byte) (s : State) :
    (postEpisode w det unit code detail s).ageing = s.ageing := by unfold postEpisode; split <;> simp
@[simp] theorem postEpisode_life (w : Bool) (det unit code : Nat) (detail : List Byte) (s : State) :
    (postEpisode w det unit code detail s).life = s.life := by unfold postEpisode; split <;> simp
@[simp] theorem postEpisode_warden (w : Bool) (det unit code : Nat) (detail : List Byte) (s : State) :
    (postEpisode w det unit code detail s).warden = s.warden := by unfold postEpisode; split <;> simp
@[simp] theorem postEpisode_factory (w : Bool) (det unit code : Nat) (detail : List Byte) (s : State) :
    (postEpisode w det unit code detail s).factory = s.factory := by unfold postEpisode; split <;> simp
@[simp] theorem postEpisode_seq (w : Bool) (det unit code : Nat) (detail : List Byte) (s : State) :
    (postEpisode w det unit code detail s).seq = s.seq := by unfold postEpisode; split <;> simp
@[simp] theorem postEpisode_free (w : Bool) (det unit code : Nat) (detail : List Byte) (s : State) :
    (postEpisode w det unit code detail s).free = s.free := by unfold postEpisode; split <;> simp

@[simp] theorem endEpisode_pending (det unit : Nat) (s : State) :
    (endEpisode det unit s).pending = s.pending := rfl
@[simp] theorem endEpisode_now (det unit : Nat) (s : State) :
    (endEpisode det unit s).now = s.now := rfl
@[simp] theorem endEpisode_near (det unit : Nat) (s : State) :
    (endEpisode det unit s).near = s.near := rfl
@[simp] theorem endEpisode_dev (det unit : Nat) (s : State) :
    (endEpisode det unit s).dev = s.dev := rfl
@[simp] theorem endEpisode_cave (det unit : Nat) (s : State) :
    (endEpisode det unit s).cave = s.cave := rfl
@[simp] theorem endEpisode_hostMem (det unit : Nat) (s : State) :
    (endEpisode det unit s).hostMem = s.hostMem := rfl
@[simp] theorem endEpisode_host (det unit : Nat) (s : State) :
    (endEpisode det unit s).host = s.host := rfl
@[simp] theorem endEpisode_gate (det unit : Nat) (s : State) :
    (endEpisode det unit s).gate = s.gate := rfl
@[simp] theorem endEpisode_recipes (det unit : Nat) (s : State) :
    (endEpisode det unit s).recipes = s.recipes := rfl
@[simp] theorem endEpisode_chains (det unit : Nat) (s : State) :
    (endEpisode det unit s).chains = s.chains := rfl
@[simp] theorem endEpisode_wheels (det unit : Nat) (s : State) :
    (endEpisode det unit s).wheels = s.wheels := rfl
@[simp] theorem endEpisode_cores (det unit : Nat) (s : State) :
    (endEpisode det unit s).cores = s.cores := rfl
@[simp] theorem endEpisode_tiers (det unit : Nat) (s : State) :
    (endEpisode det unit s).tiers = s.tiers := rfl
@[simp] theorem endEpisode_farPorts (det unit : Nat) (s : State) :
    (endEpisode det unit s).farPorts = s.farPorts := rfl
@[simp] theorem endEpisode_flushing (det unit : Nat) (s : State) :
    (endEpisode det unit s).flushing = s.flushing := rfl
@[simp] theorem endEpisode_hinge (det unit : Nat) (s : State) :
    (endEpisode det unit s).hinge = s.hinge := rfl
@[simp] theorem endEpisode_rind (det unit : Nat) (s : State) :
    (endEpisode det unit s).rind = s.rind := rfl
@[simp] theorem endEpisode_power (det unit : Nat) (s : State) :
    (endEpisode det unit s).power = s.power := rfl
@[simp] theorem endEpisode_ageing (det unit : Nat) (s : State) :
    (endEpisode det unit s).ageing = s.ageing := rfl
@[simp] theorem endEpisode_life (det unit : Nat) (s : State) :
    (endEpisode det unit s).life = s.life := rfl
@[simp] theorem endEpisode_warden (det unit : Nat) (s : State) :
    (endEpisode det unit s).warden = s.warden := rfl
@[simp] theorem endEpisode_factory (det unit : Nat) (s : State) :
    (endEpisode det unit s).factory = s.factory := rfl
@[simp] theorem endEpisode_seq (det unit : Nat) (s : State) :
    (endEpisode det unit s).seq = s.seq := rfl
@[simp] theorem endEpisode_free (det unit : Nat) (s : State) :
    (endEpisode det unit s).free = s.free := rfl

@[simp] theorem postAbove_pending (w : Bool) (limit period n det unit code : Nat) (detail : List Byte) (s : State) :
    (postAbove w limit period n det unit code detail s).pending = s.pending := by
  simp only [postAbove]; (repeat' split) <;> simp
@[simp] theorem postAbove_now (w : Bool) (limit period n det unit code : Nat) (detail : List Byte) (s : State) :
    (postAbove w limit period n det unit code detail s).now = s.now := by
  simp only [postAbove]; (repeat' split) <;> simp
@[simp] theorem postAbove_near (w : Bool) (limit period n det unit code : Nat) (detail : List Byte) (s : State) :
    (postAbove w limit period n det unit code detail s).near = s.near := by
  simp only [postAbove]; (repeat' split) <;> simp
@[simp] theorem postAbove_dev (w : Bool) (limit period n det unit code : Nat) (detail : List Byte) (s : State) :
    (postAbove w limit period n det unit code detail s).dev = s.dev := by
  simp only [postAbove]; (repeat' split) <;> simp
@[simp] theorem postAbove_cave (w : Bool) (limit period n det unit code : Nat) (detail : List Byte) (s : State) :
    (postAbove w limit period n det unit code detail s).cave = s.cave := by
  simp only [postAbove]; (repeat' split) <;> simp
@[simp] theorem postAbove_hostMem (w : Bool) (limit period n det unit code : Nat) (detail : List Byte) (s : State) :
    (postAbove w limit period n det unit code detail s).hostMem = s.hostMem := by
  simp only [postAbove]; (repeat' split) <;> simp
@[simp] theorem postAbove_host (w : Bool) (limit period n det unit code : Nat) (detail : List Byte) (s : State) :
    (postAbove w limit period n det unit code detail s).host = s.host := by
  simp only [postAbove]; (repeat' split) <;> simp
@[simp] theorem postAbove_gate (w : Bool) (limit period n det unit code : Nat) (detail : List Byte) (s : State) :
    (postAbove w limit period n det unit code detail s).gate = s.gate := by
  simp only [postAbove]; (repeat' split) <;> simp
@[simp] theorem postAbove_recipes (w : Bool) (limit period n det unit code : Nat) (detail : List Byte) (s : State) :
    (postAbove w limit period n det unit code detail s).recipes = s.recipes := by
  simp only [postAbove]; (repeat' split) <;> simp
@[simp] theorem postAbove_chains (w : Bool) (limit period n det unit code : Nat) (detail : List Byte) (s : State) :
    (postAbove w limit period n det unit code detail s).chains = s.chains := by
  simp only [postAbove]; (repeat' split) <;> simp
@[simp] theorem postAbove_wheels (w : Bool) (limit period n det unit code : Nat) (detail : List Byte) (s : State) :
    (postAbove w limit period n det unit code detail s).wheels = s.wheels := by
  simp only [postAbove]; (repeat' split) <;> simp
@[simp] theorem postAbove_cores (w : Bool) (limit period n det unit code : Nat) (detail : List Byte) (s : State) :
    (postAbove w limit period n det unit code detail s).cores = s.cores := by
  simp only [postAbove]; (repeat' split) <;> simp
@[simp] theorem postAbove_tiers (w : Bool) (limit period n det unit code : Nat) (detail : List Byte) (s : State) :
    (postAbove w limit period n det unit code detail s).tiers = s.tiers := by
  simp only [postAbove]; (repeat' split) <;> simp
@[simp] theorem postAbove_farPorts (w : Bool) (limit period n det unit code : Nat) (detail : List Byte) (s : State) :
    (postAbove w limit period n det unit code detail s).farPorts = s.farPorts := by
  simp only [postAbove]; (repeat' split) <;> simp
@[simp] theorem postAbove_flushing (w : Bool) (limit period n det unit code : Nat) (detail : List Byte) (s : State) :
    (postAbove w limit period n det unit code detail s).flushing = s.flushing := by
  simp only [postAbove]; (repeat' split) <;> simp
@[simp] theorem postAbove_hinge (w : Bool) (limit period n det unit code : Nat) (detail : List Byte) (s : State) :
    (postAbove w limit period n det unit code detail s).hinge = s.hinge := by
  simp only [postAbove]; (repeat' split) <;> simp
@[simp] theorem postAbove_rind (w : Bool) (limit period n det unit code : Nat) (detail : List Byte) (s : State) :
    (postAbove w limit period n det unit code detail s).rind = s.rind := by
  simp only [postAbove]; (repeat' split) <;> simp
@[simp] theorem postAbove_power (w : Bool) (limit period n det unit code : Nat) (detail : List Byte) (s : State) :
    (postAbove w limit period n det unit code detail s).power = s.power := by
  simp only [postAbove]; (repeat' split) <;> simp
@[simp] theorem postAbove_ageing (w : Bool) (limit period n det unit code : Nat) (detail : List Byte) (s : State) :
    (postAbove w limit period n det unit code detail s).ageing = s.ageing := by
  simp only [postAbove]; (repeat' split) <;> simp
@[simp] theorem postAbove_life (w : Bool) (limit period n det unit code : Nat) (detail : List Byte) (s : State) :
    (postAbove w limit period n det unit code detail s).life = s.life := by
  simp only [postAbove]; (repeat' split) <;> simp
@[simp] theorem postAbove_warden (w : Bool) (limit period n det unit code : Nat) (detail : List Byte) (s : State) :
    (postAbove w limit period n det unit code detail s).warden = s.warden := by
  simp only [postAbove]; (repeat' split) <;> simp
@[simp] theorem postAbove_factory (w : Bool) (limit period n det unit code : Nat) (detail : List Byte) (s : State) :
    (postAbove w limit period n det unit code detail s).factory = s.factory := by
  simp only [postAbove]; (repeat' split) <;> simp
@[simp] theorem postAbove_seq (w : Bool) (limit period n det unit code : Nat) (detail : List Byte) (s : State) :
    (postAbove w limit period n det unit code detail s).seq = s.seq := by
  simp only [postAbove]; (repeat' split) <;> simp
@[simp] theorem postAbove_free (w : Bool) (limit period n det unit code : Nat) (detail : List Byte) (s : State) :
    (postAbove w limit period n det unit code detail s).free = s.free := by
  simp only [postAbove]; (repeat' split) <;> simp

/-! ### A view update waits at the Gate -/

@[simp] theorem queueUpdate_pending (u : ViewUpdate) (s : State) : (queueUpdate u s).pending = s.pending := rfl
@[simp] theorem queueUpdate_now (u : ViewUpdate) (s : State) : (queueUpdate u s).now = s.now := rfl
@[simp] theorem queueUpdate_near (u : ViewUpdate) (s : State) : (queueUpdate u s).near = s.near := rfl
@[simp] theorem queueUpdate_dev (u : ViewUpdate) (s : State) : (queueUpdate u s).dev = s.dev := rfl
@[simp] theorem queueUpdate_cave (u : ViewUpdate) (s : State) : (queueUpdate u s).cave = s.cave := rfl
@[simp] theorem queueUpdate_hostMem (u : ViewUpdate) (s : State) : (queueUpdate u s).hostMem = s.hostMem := rfl
@[simp] theorem queueUpdate_host (u : ViewUpdate) (s : State) : (queueUpdate u s).host = s.host := rfl
@[simp] theorem queueUpdate_events (u : ViewUpdate) (s : State) : (queueUpdate u s).events = s.events := rfl
@[simp] theorem queueUpdate_gate (u : ViewUpdate) (s : State) : (queueUpdate u s).gate = { s.gate with pending := s.gate.pending ++ [u] } := rfl
@[simp] theorem queueUpdate_recipes (u : ViewUpdate) (s : State) : (queueUpdate u s).recipes = s.recipes := rfl
@[simp] theorem queueUpdate_chains (u : ViewUpdate) (s : State) : (queueUpdate u s).chains = s.chains := rfl
@[simp] theorem queueUpdate_wheels (u : ViewUpdate) (s : State) : (queueUpdate u s).wheels = s.wheels := rfl
@[simp] theorem queueUpdate_cores (u : ViewUpdate) (s : State) : (queueUpdate u s).cores = s.cores := rfl
@[simp] theorem queueUpdate_tiers (u : ViewUpdate) (s : State) : (queueUpdate u s).tiers = s.tiers := rfl
@[simp] theorem queueUpdate_farPorts (u : ViewUpdate) (s : State) : (queueUpdate u s).farPorts = s.farPorts := rfl
@[simp] theorem queueUpdate_flushing (u : ViewUpdate) (s : State) : (queueUpdate u s).flushing = s.flushing := rfl
@[simp] theorem queueUpdate_hinge (u : ViewUpdate) (s : State) : (queueUpdate u s).hinge = s.hinge := rfl
@[simp] theorem queueUpdate_rind (u : ViewUpdate) (s : State) : (queueUpdate u s).rind = s.rind := rfl
@[simp] theorem queueUpdate_power (u : ViewUpdate) (s : State) : (queueUpdate u s).power = s.power := rfl
@[simp] theorem queueUpdate_ageing (u : ViewUpdate) (s : State) : (queueUpdate u s).ageing = s.ageing := rfl
@[simp] theorem queueUpdate_life (u : ViewUpdate) (s : State) : (queueUpdate u s).life = s.life := rfl
@[simp] theorem queueUpdate_warden (u : ViewUpdate) (s : State) : (queueUpdate u s).warden = s.warden := rfl
@[simp] theorem queueUpdate_factory (u : ViewUpdate) (s : State) : (queueUpdate u s).factory = s.factory := rfl
@[simp] theorem queueUpdate_seq (u : ViewUpdate) (s : State) : (queueUpdate u s).seq = s.seq := rfl
@[simp] theorem queueUpdate_free (u : ViewUpdate) (s : State) : (queueUpdate u s).free = s.free := rfl

/-! ### Outcomes -/

/-- A command whose condition holds answers its effect. -/
theorem occurs_true (f : State → State) (s : State) : occurs true f s = .next (f s) := rfl

/-- A command whose condition does not hold changes nothing. -/
theorem occurs_false (f : State → State) (s : State) : occurs false f s = .next s := rfl

/-- Whatever its condition, such a command answers a next state: its effect or the state itself. -/
theorem occurs_next (c : Bool) (f : State → State) (s t : State) (h : occurs c f s = .next t) :
    (c = true ∧ t = f s) ∨ (c = false ∧ t = s) := by
  cases c
  · right; simpa [occurs, eq_comm] using h
  · left; simpa [occurs, eq_comm] using h

end Sys2Proof.Machine
end

