-- ==== Sys2Proof/Laws/KeepBase.lean ====
section
/-! SUPPORT. What every operation keeps: the invariant of Safety.lean, the factory data, the queue and the device time
base. One lemma for each update of the state, in the form that later lemmas cite; the laws of the other files in this
folder that end in `_kept` say the same of each operation of the machine. -/

namespace Sys2Proof.Machine

/-- What no command changes: the factory data, the commands that wait, and the device time base. -/
structure Fixed where
  factory : Factory
  pending : List Instr
  now : Nat

/-- The fixed part of a state. -/
def State.fixed (s : State) : Fixed := { factory := s.factory, pending := s.pending, now := s.now }

/-- The invariant holds, and the fixed part is `F`. -/
structure Kept (F : Fixed) (s : State) : Prop where
  inv : Inv s
  fixed : s.fixed = F

variable {F : Fixed} {s : State}

/-- The thirteen conditions and the fixed part, in the order of Safety.lean. -/
theorem Kept.mk' (h1 : s.near.wf = true) (h2 : s.dev.wf = true) (h3 : s.cave.wf = true) (h4 : s.hostMem.wf = true)
    (h5 : s.host.bar0.wf = true) (h6 : s.warden.bar4.wf = true) (h7 : s.wheels.length = 8) (h8 : s.farPorts.length = 4)
    (h9 : s.hinge.ports.length = 32) (h10 : s.host.queues.length = 16) (h11 : s.events.log.length ≤ 65536)
    (h12 : s.events.backlog.length ≤ 256) (h13 : s.warden.cache.length ≤ 32) (h14 : s.fixed = F) : Kept F s :=
  ⟨⟨⟨h1, h2, h3, h4, h5, h6⟩, ⟨h7, h8, h9, h10⟩, ⟨h11, h12, h13⟩⟩, h14⟩

/-- A state that agrees with a kept one in every part that the invariant reads. -/
theorem Kept.congr {t : State} (h : Kept F s) (h1 : t.near = s.near) (h2 : t.dev = s.dev) (h3 : t.cave = s.cave)
    (h4 : t.hostMem = s.hostMem) (h5 : t.host = s.host) (h6 : t.warden = s.warden) (h7 : t.wheels = s.wheels)
    (h8 : t.farPorts = s.farPorts) (h9 : t.hinge = s.hinge) (h10 : t.events = s.events)
    (h11 : t.fixed = s.fixed) : Kept F t :=
  Kept.mk' (h1 ▸ h.inv.stores.near) (h2 ▸ h.inv.stores.dev) (h3 ▸ h.inv.stores.cave) (h4 ▸ h.inv.stores.hostMem)
    (h5 ▸ h.inv.stores.bar0) (h6 ▸ h.inv.stores.bar4) (h7 ▸ h.inv.units.wheels) (h8 ▸ h.inv.units.farPorts)
    (h9 ▸ h.inv.units.hingePorts) (h5 ▸ h.inv.units.queues) (h10 ▸ h.inv.lists.log) (h10 ▸ h.inv.lists.backlog)
    (h6 ▸ h.inv.lists.cache) (h11.trans h.fixed)

/-! ### Lists -/

@[simp] theorem length_modAt {α : Type} (l : List α) (i : Nat) (f : α → α) : (modAt l i f).length = l.length := by
  unfold modAt; split <;> simp

/-- A change for each element keeps what each change keeps. -/
theorem forEach_kept {α : Type} (l : List α) (f : α → State → State) (hf : ∀ a t, Kept F t → Kept F (f a t))
    (h : Kept F s) : Kept F (forEach l f s) := by
  unfold forEach
  induction l generalizing s with
  | nil => exact h
  | cons a l ih => exact ih (hf a s h)

/-- A fold over states keeps what each step keeps. -/
theorem foldl_kept {α : Type} (l : List α) (f : State → α → State) (hf : ∀ t a, Kept F t → Kept F (f t a))
    (h : Kept F s) : Kept F (l.foldl f s) := by
  induction l generalizing s with
  | nil => exact h
  | cons a l ih => exact ih (hf s a h)

/-- A fold whose accumulator holds a state first. -/
theorem foldl_fst_kept {α β : Type} (l : List α) (f : State × β → α → State × β)
    (hf : ∀ p a, Kept F p.1 → Kept F (f p a).1) (p : State × β) (h : Kept F p.1) : Kept F (l.foldl f p).1 := by
  induction l generalizing p with
  | nil => exact h
  | cons a l ih => exact ih _ (hf p a h)

/-- A choice of two kept states. -/
theorem cond_kept {c : Prop} [Decidable c] {a b : State} (ha : Kept F a) (hb : Kept F b) :
    Kept F (if c then a else b) := by
  split
  · exact ha
  · exact hb

/-- The state of a result that is known by its parts. -/
theorem Kept.of_fst {β : Type} {p : State × β} {t : State} {b : β} (e : p = (t, b)) (h : Kept F p.1) : Kept F t := by
  subst e; exact h

theorem Kept.of_snd {β : Type} {p : β × State} {t : State} {b : β} (e : p = (b, t)) (h : Kept F p.2) : Kept F t := by
  subst e; exact h

/-! ### Updates of one part -/

theorem onHost_kept (f : HostIf → HostIf) (hb : ∀ x : HostIf, x.bar0.wf = true → (f x).bar0.wf = true)
    (hq : ∀ x : HostIf, x.queues.length = 16 → (f x).queues.length = 16) (h : Kept F s) : Kept F (s.onHost f) :=
  Kept.mk' h.inv.stores.near h.inv.stores.dev h.inv.stores.cave h.inv.stores.hostMem (hb _ h.inv.stores.bar0)
    h.inv.stores.bar4 h.inv.units.wheels h.inv.units.farPorts h.inv.units.hingePorts (hq _ h.inv.units.queues)
    h.inv.lists.log h.inv.lists.backlog h.inv.lists.cache h.fixed

theorem onEvents_kept (f : Events → Events) (hl : ∀ x : Events, x.log.length ≤ 65536 → (f x).log.length ≤ 65536)
    (hb : ∀ x : Events, x.backlog.length ≤ 256 → (f x).backlog.length ≤ 256) (h : Kept F s) : Kept F (s.onEvents f) :=
  Kept.mk' h.inv.stores.near h.inv.stores.dev h.inv.stores.cave h.inv.stores.hostMem h.inv.stores.bar0
    h.inv.stores.bar4 h.inv.units.wheels h.inv.units.farPorts h.inv.units.hingePorts h.inv.units.queues
    (hl _ h.inv.lists.log) (hb _ h.inv.lists.backlog) h.inv.lists.cache h.fixed

theorem onWarden_kept (f : Warden → Warden) (hb : ∀ x : Warden, x.bar4.wf = true → (f x).bar4.wf = true)
    (hc : ∀ x : Warden, x.cache.length ≤ 32 → (f x).cache.length ≤ 32) (h : Kept F s) : Kept F (s.onWarden f) :=
  Kept.mk' h.inv.stores.near h.inv.stores.dev h.inv.stores.cave h.inv.stores.hostMem h.inv.stores.bar0
    (hb _ h.inv.stores.bar4) h.inv.units.wheels h.inv.units.farPorts h.inv.units.hingePorts h.inv.units.queues
    h.inv.lists.log h.inv.lists.backlog (hc _ h.inv.lists.cache) h.fixed

theorem onHinge_kept (f : Hinge → Hinge) (hp : ∀ x : Hinge, x.ports.length = 32 → (f x).ports.length = 32)
    (h : Kept F s) : Kept F (s.onHinge f) :=
  Kept.mk' h.inv.stores.near h.inv.stores.dev h.inv.stores.cave h.inv.stores.hostMem h.inv.stores.bar0
    h.inv.stores.bar4 h.inv.units.wheels h.inv.units.farPorts (hp _ h.inv.units.hingePorts) h.inv.units.queues
    h.inv.lists.log h.inv.lists.backlog h.inv.lists.cache h.fixed

theorem onWheel_kept (w : Nat) (f : Wheel → Wheel) (h : Kept F s) : Kept F (s.onWheel w f) :=
  Kept.mk' h.inv.stores.near h.inv.stores.dev h.inv.stores.cave h.inv.stores.hostMem h.inv.stores.bar0
    h.inv.stores.bar4 (by simpa using h.inv.units.wheels) h.inv.units.farPorts h.inv.units.hingePorts
    h.inv.units.queues h.inv.lists.log h.inv.lists.backlog h.inv.lists.cache h.fixed

theorem onFar_kept (p : Nat) (f : FarPort → FarPort) (h : Kept F s) : Kept F (s.onFar p f) :=
  Kept.mk' h.inv.stores.near h.inv.stores.dev h.inv.stores.cave h.inv.stores.hostMem h.inv.stores.bar0
    h.inv.stores.bar4 h.inv.units.wheels (by simpa using h.inv.units.farPorts) h.inv.units.hingePorts
    h.inv.units.queues h.inv.lists.log h.inv.lists.backlog h.inv.lists.cache h.fixed

theorem onGate_kept (f : Gate → Gate) (h : Kept F s) : Kept F (s.onGate f) :=
  h.congr rfl rfl rfl rfl rfl rfl rfl rfl rfl rfl rfl
theorem onView_kept (f : View → View) (h : Kept F s) : Kept F (s.onView f) :=
  h.congr rfl rfl rfl rfl rfl rfl rfl rfl rfl rfl rfl
theorem onTiers_kept (f : Tiers → Tiers) (h : Kept F s) : Kept F (s.onTiers f) :=
  h.congr rfl rfl rfl rfl rfl rfl rfl rfl rfl rfl rfl
theorem onRind_kept (f : Rind → Rind) (h : Kept F s) : Kept F (s.onRind f) :=
  h.congr rfl rfl rfl rfl rfl rfl rfl rfl rfl rfl rfl
theorem onPower_kept (f : Power → Power) (h : Kept F s) : Kept F (s.onPower f) :=
  h.congr rfl rfl rfl rfl rfl rfl rfl rfl rfl rfl rfl
theorem onAgeing_kept (f : Ageing → Ageing) (h : Kept F s) : Kept F (s.onAgeing f) :=
  h.congr rfl rfl rfl rfl rfl rfl rfl rfl rfl rfl rfl
theorem onLife_kept (f : Life → Life) (h : Kept F s) : Kept F (s.onLife f) :=
  h.congr rfl rfl rfl rfl rfl rfl rfl rfl rfl rfl rfl
theorem onStored_kept (f : Stored → Stored) (h : Kept F s) : Kept F (s.onStored f) :=
  onWarden_kept (fun w => { w with stored := f w.stored }) (fun _ h => h) (fun _ h => h) h
theorem onVat_kept (w : Nat) (f : Vat → Vat) (h : Kept F s) : Kept F (s.onVat w f) := onWheel_kept _ _ h
theorem onPort_kept (p : Nat) (f : HingePort → HingePort) (h : Kept F s) : Kept F (s.onPort p f) :=
  onHinge_kept _ (fun x hx => by simpa using hx) h
theorem onRecipe_kept (k : Nat) (f : Recipe → Recipe) (h : Kept F s) : Kept F (s.onRecipe k f) :=
  h.congr rfl rfl rfl rfl rfl rfl rfl rfl rfl rfl rfl
theorem onStep_kept (k : Nat) (f : StepRun → StepRun) (h : Kept F s) : Kept F (s.onStep k f) :=
  h.congr rfl rfl rfl rfl rfl rfl rfl rfl rfl rfl rfl
theorem onTask_kept (k t : Nat) (f : TaskRun → TaskRun) (h : Kept F s) : Kept F (s.onTask k t f) :=
  h.congr rfl rfl rfl rfl rfl rfl rfl rfl rfl rfl rfl
theorem onDesc_kept (k t i : Nat) (f : DescRun → DescRun) (h : Kept F s) : Kept F (s.onDesc k t i f) :=
  h.congr rfl rfl rfl rfl rfl rfl rfl rfl rfl rfl rfl
theorem onCore_kept (c : CoreId) (f : Core → Core) (h : Kept F s) : Kept F (s.onCore c f) :=
  h.congr rfl rfl rfl rfl rfl rfl rfl rfl rfl rfl rfl
theorem enter_kept (d : DevState) (h : Kept F s) : Kept F (s.enter d) :=
  h.congr rfl rfl rfl rfl rfl rfl rfl rfl rfl rfl rfl
theorem drawn_kept (h : Kept F s) : Kept F s.drawn :=
  h.congr rfl rfl rfl rfl rfl rfl rfl rfl rfl rfl rfl
theorem queueUpdate_kept (u : ViewUpdate) (h : Kept F s) : Kept F (queueUpdate u s) := onGate_kept _ h

/-! ### Updates of the stores -/

theorem near_kept (m : Memory) (hm : m.wf = true) (h : Kept F s) : Kept F { s with near := m } :=
  Kept.mk' hm h.inv.stores.dev h.inv.stores.cave h.inv.stores.hostMem h.inv.stores.bar0
    h.inv.stores.bar4 h.inv.units.wheels h.inv.units.farPorts h.inv.units.hingePorts h.inv.units.queues
    h.inv.lists.log h.inv.lists.backlog h.inv.lists.cache h.fixed

theorem dev_kept (m : Memory) (hm : m.wf = true) (h : Kept F s) : Kept F { s with dev := m } :=
  Kept.mk' h.inv.stores.near hm h.inv.stores.cave h.inv.stores.hostMem h.inv.stores.bar0
    h.inv.stores.bar4 h.inv.units.wheels h.inv.units.farPorts h.inv.units.hingePorts h.inv.units.queues
    h.inv.lists.log h.inv.lists.backlog h.inv.lists.cache h.fixed

theorem cave_kept (m : Memory) (hm : m.wf = true) (h : Kept F s) : Kept F { s with cave := m } :=
  Kept.mk' h.inv.stores.near h.inv.stores.dev hm h.inv.stores.hostMem h.inv.stores.bar0
    h.inv.stores.bar4 h.inv.units.wheels h.inv.units.farPorts h.inv.units.hingePorts h.inv.units.queues
    h.inv.lists.log h.inv.lists.backlog h.inv.lists.cache h.fixed

theorem hostMem_kept (m : Memory) (hm : m.wf = true) (h : Kept F s) : Kept F { s with hostMem := m } :=
  Kept.mk' h.inv.stores.near h.inv.stores.dev h.inv.stores.cave hm h.inv.stores.bar0
    h.inv.stores.bar4 h.inv.units.wheels h.inv.units.farPorts h.inv.units.hingePorts h.inv.units.queues
    h.inv.lists.log h.inv.lists.backlog h.inv.lists.cache h.fixed

theorem dev_write_kept (a : Nat) (bs : List Byte) (h : Kept F s) : Kept F { s with dev := memWrite s.dev a bs } :=
  dev_kept _ (memWrite_wf _ _ _ h.inv.stores.dev) h
theorem dev_clear_kept (a n : Nat) (h : Kept F s) : Kept F { s with dev := memClear s.dev a n } :=
  dev_kept _ (memClear_wf _ _ _ h.inv.stores.dev) h
theorem near_write_kept (a : Nat) (bs : List Byte) (h : Kept F s) : Kept F { s with near := memWrite s.near a bs } :=
  near_kept _ (memWrite_wf _ _ _ h.inv.stores.near) h
theorem cave_write_kept (a : Nat) (bs : List Byte) (h : Kept F s) : Kept F { s with cave := memWrite s.cave a bs } :=
  cave_kept _ (memWrite_wf _ _ _ h.inv.stores.cave) h
theorem hostMem_write_kept (a : Nat) (bs : List Byte) (h : Kept F s) :
    Kept F { s with hostMem := memWrite s.hostMem a bs } :=
  hostMem_kept _ (memWrite_wf _ _ _ h.inv.stores.hostMem) h

/-- Updates of the parts that the invariant does not read. -/
theorem recipes_kept (x : List Recipe) (h : Kept F s) : Kept F { s with recipes := x } :=
  h.congr rfl rfl rfl rfl rfl rfl rfl rfl rfl rfl rfl
theorem cores_kept (x : List Core) (h : Kept F s) : Kept F { s with cores := x } :=
  h.congr rfl rfl rfl rfl rfl rfl rfl rfl rfl rfl rfl
theorem chains_kept (x : List Chain) (h : Kept F s) : Kept F { s with chains := x } :=
  h.congr rfl rfl rfl rfl rfl rfl rfl rfl rfl rfl rfl
theorem flushing_kept (x : Option Nat) (h : Kept F s) : Kept F { s with flushing := x } :=
  h.congr rfl rfl rfl rfl rfl rfl rfl rfl rfl rfl rfl
theorem seq_kept (x : Nat) (h : Kept F s) : Kept F { s with seq := x } :=
  h.congr rfl rfl rfl rfl rfl rfl rfl rfl rfl rfl rfl
theorem wheels_kept (x : List Wheel) (hx : x.length = 8) (h : Kept F s) : Kept F { s with wheels := x } :=
  Kept.mk' h.inv.stores.near h.inv.stores.dev h.inv.stores.cave h.inv.stores.hostMem h.inv.stores.bar0
    h.inv.stores.bar4 hx h.inv.units.farPorts h.inv.units.hingePorts h.inv.units.queues
    h.inv.lists.log h.inv.lists.backlog h.inv.lists.cache h.fixed

theorem wheels_map_kept (f : Wheel → Wheel) (h : Kept F s) : Kept F { s with wheels := s.wheels.map f } :=
  wheels_kept _ ((List.length_map _).trans h.inv.units.wheels) h
theorem free_kept (x : Nat) (h : Kept F s) : Kept F { s with free := x } :=
  h.congr rfl rfl rfl rfl rfl rfl rfl rfl rfl rfl rfl
theorem near_clear_kept (h : Kept F s) : Kept F { s with near := [] } := near_kept _ rfl h

/-! ### Outcomes -/

/-- An outcome is a next state that is kept. -/
def KeptO (F : Fixed) (o : Host.Outcome State Fault Refusal) : Prop := ∃ t, o = .next t ∧ Kept F t

/-- A plain next state. -/
theorem next_keptO {x : State} (h : Kept F x) : KeptO F (.next x) := ⟨x, rfl, h⟩

/-- A command that comes about only under its condition keeps what its effect keeps. -/
theorem occurs_keptO (c : Bool) (f : State → State) (hf : ∀ x, Kept F x → Kept F (f x)) (h : Kept F s) :
    KeptO F (occurs c f s) := by
  refine ⟨_, rfl, ?_⟩
  split
  · exact hf _ h
  · exact h

end Sys2Proof.Machine
end

