-- ==== Sys2Proof/Laws/KeepStores.lean ====
section
/-! SUPPORT. What the operations of the stores, tumblers, stash, Event Tray and host interface keep: the invariant of
Safety.lean and the fixed part of the state (KeepBase.lean). A law ends in `_kept` and cites those of the operations
that its own calls. -/

namespace Sys2Proof.Machine

variable {F : Fixed} {s : State}

/-! ### Ops -/

theorem countDet_kept (det : Nat) (h : Kept F s) :
    Kept F (countDet det s) := by
  unfold countDet
  repeat' first
    | with_reducible assumption
    | with_reducible refine onEvents_kept _ ?_ ?_ ?_
    | exact fun _ hx => hx

theorem sendRec_kept (r : EventRec) (h : Kept F s) :
    Kept F (sendRec r s) := by
  unfold sendRec
  repeat' first
    | with_reducible assumption
    | with_reducible refine onEvents_kept _ ?_ ?_ ?_
    | exact fun _ hx => hx
    | with_reducible refine cond_kept ?_ ?_

theorem post_kept (det : Nat) (unit : Nat) (code : Nat) (detail : List Byte) (h : Kept F s) :
    Kept F (post det unit code detail s) := by
  unfold post
  repeat' first
    | with_reducible assumption
    | with_reducible refine sendRec_kept _ ?_
    | with_reducible refine countDet_kept _ ?_

theorem wpost_kept (det : Nat) (unit : Nat) (code : Nat) (detail : List Byte) (h : Kept F s) :
    Kept F (wpost det unit code detail s) := by
  unfold wpost
  repeat' first
    | with_reducible assumption
    | with_reducible refine sendRec_kept _ ?_
    | with_reducible refine countDet_kept _ ?_

theorem episodeHolds_kept (det : Nat) (unit : Nat) (h : Kept F s) :
    Kept F (episodeHolds det unit s) := by
  unfold episodeHolds
  repeat' first
    | with_reducible assumption
    | with_reducible refine onEvents_kept _ ?_ ?_ ?_
    | exact fun _ hx => hx

theorem postEpisode_kept (warden : Bool) (det : Nat) (unit : Nat) (code : Nat) (detail : List Byte) (h : Kept F s) :
    Kept F (postEpisode warden det unit code detail s) := by
  unfold postEpisode
  repeat' first
    | with_reducible assumption
    | with_reducible refine episodeHolds_kept _ _ ?_
    | with_reducible refine countDet_kept _ ?_
    | with_reducible refine sendRec_kept _ ?_
    | with_reducible refine cond_kept ?_ ?_

theorem postArising_kept (warden : Bool) (det : Nat) (unit : Nat) (code : Nat) (detail : List Byte) (h : Kept F s) :
    Kept F (postArising warden det unit code detail s) := by
  unfold postArising
  split
  · exact h
  · exact postEpisode_kept _ _ _ _ _ h

theorem endEpisode_kept (det : Nat) (unit : Nat) (h : Kept F s) :
    Kept F (endEpisode det unit s) := by
  unfold endEpisode
  repeat' first
    | with_reducible assumption
    | with_reducible refine onEvents_kept _ ?_ ?_ ?_
    | exact fun _ hx => hx

theorem absentEpisode_kept (det : Nat) (unit : Nat) (h : Kept F s) :
    Kept F (absentEpisode det unit s) := by
  unfold absentEpisode
  repeat' first
    | with_reducible assumption
    | with_reducible refine onEvents_kept _ ?_ ?_ ?_
    | exact fun _ hx => hx

theorem postAbove_kept (warden : Bool) (limit : Nat) (period : Nat) (n : Nat) (det : Nat) (unit : Nat) (code : Nat)
    (detail : List Byte) (h : Kept F s) :
    Kept F (postAbove warden limit period n det unit code detail s) := by
  unfold postAbove
  repeat' first
    | with_reducible assumption
    | with_reducible refine onEvents_kept _ ?_ ?_ ?_
    | with_reducible refine sendRec_kept _ ?_
    | exact fun _ hx => hx
    | with_reducible refine cond_kept ?_ ?_

/-! ### Defects -/

theorem addToCopies_kept (d : Defect) (h : Kept F s) :
    Kept F (addToCopies d s) := by
  unfold addToCopies
  repeat' first
    | with_reducible assumption
    | with_reducible refine onWarden_kept _ ?_ ?_ ?_
    | exact fun _ hx => hx

theorem addEntry_kept (d : Defect) (h : Kept F s) :
    Kept F (addEntry d s) := by
  unfold addEntry
  repeat' first
    | with_reducible assumption
    | with_reducible refine addToCopies_kept _ ?_
    | with_reducible refine onAgeing_kept _ ?_
    | with_reducible refine countDet_kept _ ?_
    | with_reducible refine wpost_kept _ _ _ _ ?_
    | with_reducible refine cond_kept ?_ ?_

theorem testFailed_kept (unit : Nat) (part : Nat) (h : Kept F s) :
    Kept F (testFailed unit part s) := by
  unfold testFailed
  repeat' first
    | with_reducible assumption
    | with_reducible refine onAgeing_kept _ ?_
    | with_reducible refine addEntry_kept _ ?_
    | with_reducible refine wpost_kept _ _ _ _ ?_
    | with_reducible refine cond_kept ?_ ?_

theorem markSuspect_kept (unit : Nat) (part : Nat) (h : Kept F s) :
    Kept F (markSuspect unit part s) := by
  unfold markSuspect
  repeat' first
    | with_reducible assumption
    | with_reducible refine addEntry_kept _ ?_
    | with_reducible refine wpost_kept _ _ _ _ ?_
    | with_reducible refine cond_kept ?_ ?_

theorem noteStall_kept (unit : Nat) (part : Nat) (h : Kept F s) :
    Kept F (noteStall unit part s) := by
  unfold noteStall
  repeat' first
    | with_reducible assumption
    | with_reducible refine onAgeing_kept _ ?_
    | with_reducible refine markSuspect_kept _ _ ?_
    | with_reducible refine cond_kept ?_ ?_

/-! ### Tumblers -/

theorem stopCores_kept (h0 t : Nat) (h : Kept F s) : Kept F (stopCores h0 t s) := by
  refine wheels_kept _ ?_ (cores_kept _ h)
  simpa using h.inv.units.wheels

theorem endTask_kept (k : Nat) (t : Nat) (status : Nat) (h : Kept F s) :
    Kept F (endTask k t status s) := by
  unfold endTask
  repeat' first
    | with_reducible assumption
    | with_reducible refine onTask_kept _ _ _ ?_

theorem closeTask_kept (k : Nat) (t : Nat) (status : Nat) (h : Kept F s) :
    Kept F (closeTask k t status s) := by
  unfold closeTask
  repeat' first
    | with_reducible assumption
    | with_reducible refine endTask_kept _ _ _ ?_
    | with_reducible refine cond_kept ?_ ?_

theorem addDrain_kept (scope : Scope) (kind : DrainKind) (begun : Bool) (after : List ViewUpdate) (h : Kept F s) :
    Kept F (addDrain scope kind begun after s) := by
  unfold addDrain
  repeat' first
    | with_reducible assumption
    | with_reducible refine onGate_kept _ ?_

theorem beginDrain_kept (scope : Scope) (kind : DrainKind) (after : List ViewUpdate) (h : Kept F s) :
    Kept F (beginDrain scope kind after s) := by
  unfold beginDrain
  repeat' first
    | with_reducible assumption
    | with_reducible refine addDrain_kept _ _ _ _ ?_

theorem startDrain_kept (scope : Scope) (h : Kept F s) :
    Kept F (startDrain scope s) := by
  unfold startDrain
  repeat' first
    | with_reducible assumption
    | with_reducible refine onGate_kept _ ?_

theorem stepFault_kept (k : Nat) (f : FaultInfo) (h : Kept F s) :
    Kept F (stepFault k f s) := by
  unfold stepFault
  repeat' first
    | with_reducible assumption
    | with_reducible refine beginDrain_kept _ _ _ ?_
    | with_reducible refine onStep_kept _ _ ?_
    | split

theorem stepFaultOutside_kept (k : Nat) (status : Nat) (h : Kept F s) :
    Kept F (stepFaultOutside k status s) := by
  unfold stepFaultOutside
  repeat' first
    | with_reducible assumption
    | with_reducible refine stepFault_kept _ _ ?_
    | with_reducible refine drawn_kept ?_

theorem taskFault_kept (k : Nat) (t : Nat) (unit : Nat) (status : Nat) (ufault : Nat) (h : Kept F s) :
    Kept F (taskFault k t unit status ufault s) := by
  unfold taskFault
  repeat' first
    | with_reducible assumption
    | with_reducible refine stepFault_kept _ _ ?_
    | with_reducible refine stopCores_kept _ _ ?_
    | with_reducible refine endTask_kept _ _ _ ?_

theorem misuse_kept (k : Nat) (det : Nat) (tumb : Nat) (iss : Issuer) (h : Kept F s) :
    Kept F (misuse k det tumb iss s) := by
  unfold misuse
  repeat' first
    | with_reducible assumption
    | with_reducible refine post_kept _ _ _ _ ?_
    | with_reducible refine taskFault_kept _ _ _ _ _ ?_
    | with_reducible refine stepFault_kept _ _ ?_
    | split

theorem throttle_kept (k : Nat) (commit : Bool) (h : Kept F s) :
    Kept F (throttle k commit s) := by
  unfold throttle
  repeat' first
    | with_reducible assumption
    | with_reducible refine onRecipe_kept _ _ ?_
    | with_reducible refine post_kept _ _ _ _ ?_
    | with_reducible refine cond_kept ?_ ?_
    | split

theorem giveVerdict_kept (k : Nat) (t : Nat) (spec : Bool) (commit : Bool) (h : Kept F s) :
    Kept F (giveVerdict k t spec commit s) := by
  unfold giveVerdict
  repeat' first
    | with_reducible assumption
    | with_reducible refine onTask_kept _ _ _ ?_
    | with_reducible refine throttle_kept _ _ ?_
    | with_reducible refine cond_kept ?_ ?_

theorem resolveGuard_kept (k : Nat) (tumb : Nat) (g : Nat) (commit : Bool) (h : Kept F s) :
    Kept F (resolveGuard k tumb g commit s) := by
  unfold resolveGuard
  repeat' first
    | with_reducible assumption
    | with_reducible refine onRecipe_kept _ _ ?_
    | with_reducible refine giveVerdict_kept _ _ _ _ ?_
    | with_reducible refine forEach_kept _ _ ?_ ?_
    | split
    | intro _

theorem resolveGuards_kept (k : Nat) (tumb : Nat) (old : Nat) (new : Nat) (h : Kept F s) :
    Kept F (resolveGuards k tumb old new s) := by
  unfold resolveGuards
  repeat' first
    | with_reducible assumption
    | with_reducible refine resolveGuard_kept _ _ _ _ ?_
    | with_reducible refine forEach_kept _ _ ?_ ?_
    | split
    | intro _

theorem deferFault_kept (k : Nat) (t : Nat) (d : Deferred) (h : Kept F s) :
    Kept F (deferFault k t d s) := by
  unfold deferFault
  repeat' first
    | with_reducible assumption
    | with_reducible refine next_keptO ?_
    | with_reducible refine onTask_kept _ _ _ ?_

theorem breach_kept (k : Nat) (t : Nat) (unit : Nat) (h : Kept F s) :
    Kept F (breach k t unit s) := by
  unfold breach
  repeat' first
    | with_reducible assumption
    | with_reducible refine next_keptO ?_
    | with_reducible refine deferFault_kept _ _ _ ?_
    | with_reducible refine post_kept _ _ _ _ ?_

theorem breachFault_kept (k : Nat) (t : Nat) (unit : Nat) (h : Kept F s) :
    Kept F (breachFault k t unit s) := by
  unfold breachFault
  repeat' first
    | with_reducible assumption
    | with_reducible refine taskFault_kept _ _ _ _ _ ?_
    | with_reducible refine post_kept _ _ _ _ ?_

theorem underR182_kept (k : Nat) (t : Nat) (unit : Nat) (tumb : Nat) (f : (State → State))
    (hf : ∀ x, Kept F x → Kept F (f x)) (h : Kept F s) :
    Kept F (underR182 k t unit tumb f s) := by
  unfold underR182
  repeat' first
    | with_reducible assumption
    | with_reducible refine hf _ ?_
    | with_reducible refine breach_kept _ _ _ ?_
    | with_reducible refine breachFault_kept _ _ _ ?_
    | split

theorem fire_kept (k : Nat) (t : Tumbler) (iss : Issuer) (h : Kept F s) :
    Kept F (fire k t iss s) := by
  unfold fire
  repeat' first
    | with_reducible assumption
    | with_reducible refine underR182_kept _ _ _ _ _ ?_ ?_
    | with_reducible refine misuse_kept _ _ _ _ ?_
    | split
    | intro _
    | with_reducible refine chains_kept _ ?_

theorem addGood_kept (k : Nat) (tumb : Nat) (n : Nat) (iss : Issuer) (h : Kept F s) :
    Kept F (addGood k tumb n iss s) := by
  unfold addGood
  repeat' first
    | with_reducible assumption
    | with_reducible refine onRecipe_kept _ _ ?_
    | with_reducible refine resolveGuards_kept _ _ _ _ ?_
    | with_reducible refine fire_kept _ _ _ ?_
    | with_reducible refine cond_kept ?_ ?_
    | split

theorem tAdd_kept (k : Nat) (tumb : Nat) (n : Nat) (iss : Issuer) (h : Kept F s) :
    Kept F (tAdd k tumb n iss s) := by
  unfold tAdd
  repeat' first
    | with_reducible assumption
    | with_reducible refine misuse_kept _ _ _ _ ?_
    | with_reducible refine addGood_kept _ _ _ _ ?_
    | split

theorem tArm_kept (k : Nat) (tumb : Nat) (target : Nat) (action : Nat) (chain : Nat) (cinc : Nat) (iss : Issuer)
    (h : Kept F s) :
    Kept F (tArm k tumb target action chain cinc iss s) := by
  unfold tArm
  repeat' first
    | with_reducible assumption
    | with_reducible refine misuse_kept _ _ _ _ ?_
    | with_reducible refine onRecipe_kept _ _ ?_
    | with_reducible refine fire_kept _ _ _ ?_
    | with_reducible refine cond_kept ?_ ?_
    | split

theorem tRestore_kept (k : Nat) (rec : Tumbler) (iss : Issuer) (h : Kept F s) :
    Kept F (tRestore k rec iss s) := by
  unfold tRestore
  repeat' first
    | with_reducible assumption
    | with_reducible refine onRecipe_kept _ _ ?_
    | with_reducible refine fire_kept _ _ _ ?_
    | with_reducible refine cond_kept ?_ ?_

/-! ### Tier -/

theorem clearPoison_kept (l : Loc) (n : Nat) (h : Kept F s) :
    Kept F (clearPoison l n s) := by
  unfold clearPoison
  repeat' first
    | with_reducible assumption
    | with_reducible refine onTiers_kept _ ?_
    | split

theorem locWrite_kept (l : Loc) (bs : List Byte) (h : Kept F s) :
    Kept F (locWrite l bs s) := by
  unfold locWrite
  repeat' first
    | with_reducible assumption
    | with_reducible refine clearPoison_kept _ _ ?_
    | split
    | with_reducible refine dev_write_kept _ _ ?_
    | with_reducible refine near_write_kept _ _ ?_
    | with_reducible refine cave_write_kept _ _ ?_

theorem scheduleMapOut_kept (ch : Nat) (h : Kept F s) :
    Kept F (scheduleMapOut ch s) := by
  unfold scheduleMapOut
  repeat' first
    | with_reducible assumption
    | with_reducible refine onStored_kept _ ?_
    | with_reducible refine wpost_kept _ _ _ _ ?_
    | with_reducible refine queueUpdate_kept _ ?_
    | with_reducible refine cond_kept ?_ ?_

theorem poisonGranule_kept (a : Nat) (h : Kept F s) :
    Kept F (poisonGranule a s) := by
  unfold poisonGranule
  repeat' first
    | with_reducible assumption
    | with_reducible refine onTiers_kept _ ?_
    | with_reducible refine scheduleMapOut_kept _ ?_
    | dsimp only
    | split

theorem postTranslation_kept (unit : Nat) (sub : Nat) (detail : List Byte) (h : Kept F s) :
    Kept F (postTranslation unit sub detail s) := by
  unfold postTranslation
  repeat' first
    | with_reducible assumption
    | with_reducible refine post_kept _ _ _ _ ?_

theorem eccEffect_kept (e : Ecc) (a : Nat) (n : Nat) (h : Kept F s) :
    Kept F (eccEffect e a n s) := by
  unfold eccEffect
  repeat' first
    | with_reducible assumption
    | with_reducible refine postAbove_kept _ _ _ _ _ _ _ _ ?_
    | with_reducible refine post_kept _ _ _ _ ?_
    | with_reducible refine onTiers_kept _ ?_
    | with_reducible refine poisonGranule_kept _ ?_
    | split

theorem returnRead_kept (a : Nat) (n : Nat) (h : Kept F s) :
    Kept F (returnRead a n s) := by
  unfold returnRead
  repeat' first
    | with_reducible assumption
    | with_reducible refine onTiers_kept _ ?_
    | with_reducible refine cond_kept ?_ ?_

theorem enqueueReq_kept (r : ReqId) (b : BankId) (a : Nat) (n : Nat) (data : Option (List Byte)) (held : Bool)
    (h : Kept F s) :
    Kept F (enqueueReq r b a n data held s) := by
  unfold enqueueReq
  repeat' first
    | with_reducible assumption
    | with_reducible refine onTiers_kept _ ?_

theorem dropReq_kept (q : MemReq) (h : Kept F s) :
    Kept F (dropReq q s) := by
  unfold dropReq
  repeat' first
    | with_reducible assumption
    | with_reducible refine onTiers_kept _ ?_

theorem progress_kept (b : BankId) (h : Kept F s) :
    Kept F (progress b s) := by
  unfold progress
  repeat' first
    | with_reducible assumption
    | with_reducible refine onTiers_kept _ ?_

theorem serveReq_kept (b : BankId) (e : Ecc) (a : Nat) (n : Nat) (data : Option (List Byte)) (h : Kept F s) :
    Kept F (serveReq b e a n data s) := by
  unfold serveReq
  repeat' first
    | with_reducible assumption
    | with_reducible refine returnRead_kept _ _ ?_
    | with_reducible refine eccEffect_kept _ _ _ ?_
    | with_reducible refine progress_kept _ ?_
    | with_reducible refine locWrite_kept _ _ ?_
    | split

theorem requestStep_kept (r : ReqId) (b : BankId) (a : Nat) (n : Nat) (data : Option (List Byte)) (sv : Serve)
    (h : Kept F s) :
    Kept F (requestStep r b a n data sv s) := by
  unfold requestStep
  repeat' first
    | with_reducible assumption
    | with_reducible refine serveReq_kept _ _ _ _ _ ?_
    | with_reducible refine dropReq_kept _ ?_
    | with_reducible refine enqueueReq_kept _ _ _ _ _ _ ?_
    | split

theorem execBankNoProgress_kept (b : BankId) (h : Kept F s) :
    KeptO F (execBankNoProgress b s) := by
  unfold execBankNoProgress
  repeat' first
    | with_reducible assumption
    | with_reducible refine occurs_keptO _ _ ?_ ?_
    | with_reducible refine onTiers_kept _ ?_
    | with_reducible refine countDet_kept _ ?_
    | with_reducible refine post_kept _ _ _ _ ?_
    | split
    | intro _

theorem completePoisoned_kept (q : MemReq) (h : Kept F s) :
    Kept F (completePoisoned q s) := by
  unfold completePoisoned
  repeat' first
    | with_reducible assumption
    | with_reducible refine onTiers_kept _ ?_
    | with_reducible refine poisonGranule_kept _ ?_
    | split

theorem execChannelSymbolRateExceeded_kept (channel : Nat) (h : Kept F s) :
    KeptO F (execChannelSymbolRateExceeded channel s) := by
  unfold execChannelSymbolRateExceeded
  repeat' first
    | with_reducible assumption
    | with_reducible refine occurs_keptO _ _ ?_ ?_
    | with_reducible refine scheduleMapOut_kept _ ?_
    | intro _

theorem execPatrolScrub_kept (addr : Nat) (e : Ecc) (h : Kept F s) :
    KeptO F (execPatrolScrub addr e s) := by
  unfold execPatrolScrub
  repeat' first
    | with_reducible assumption
    | with_reducible refine occurs_keptO _ _ ?_ ?_
    | with_reducible refine onTiers_kept _ ?_
    | with_reducible refine eccEffect_kept _ _ _ ?_
    | intro _

theorem atomic_kept (n : Nat) (f : (Nat → Nat)) (addr : Nat) (h : Kept F s) :
    Kept F (atomic n f addr s) := by
  unfold atomic
  repeat' first
    | with_reducible assumption
    | with_reducible refine onTiers_kept _ ?_
    | with_reducible refine locWrite_kept _ _ ?_

theorem atomicStep_kept (n : Nat) (f : (Nat → Nat)) (addr : Nat) (h : Kept F s) :
    KeptO F (atomicStep n f addr s) := by
  unfold atomicStep
  repeat' first
    | with_reducible assumption
    | with_reducible refine next_keptO ?_
    | with_reducible refine atomic_kept _ _ _ ?_
    | with_reducible refine onTiers_kept _ ?_
    | with_reducible refine cond_kept ?_ ?_

theorem execAdds32_kept (addr : Nat) (operand : Word32) (h : Kept F s) :
    KeptO F (execAdds32 addr operand s) := by
  unfold execAdds32
  repeat' first
    | with_reducible assumption
    | with_reducible refine atomicStep_kept _ _ _ ?_

theorem execAdd64_kept (addr : Nat) (operand : Word) (h : Kept F s) :
    KeptO F (execAdd64 addr operand s) := by
  unfold execAdd64
  repeat' first
    | with_reducible assumption
    | with_reducible refine atomicStep_kept _ _ _ ?_

theorem execMaxf32_kept (addr : Nat) (operand : Word32) (h : Kept F s) :
    KeptO F (execMaxf32 addr operand s) := by
  unfold execMaxf32
  repeat' first
    | with_reducible assumption
    | with_reducible refine atomicStep_kept _ _ _ ?_

theorem execCas_kept (width : CasWidth) (addr : Nat) (expected : Word) (new : Word) (h : Kept F s) :
    KeptO F (execCas width addr expected new s) := by
  unfold execCas
  repeat' first
    | with_reducible assumption
    | with_reducible refine atomicStep_kept _ _ _ ?_

theorem poisonSegment_kept (m : Nat) (h : Kept F s) : Kept F (poisonSegment m s) :=
  h.congr rfl rfl rfl rfl rfl rfl rfl rfl rfl rfl rfl

theorem execCaveDeviceErrorReport_kept (port : Nat) (uncorrected : Bool) (addr : Nat) (h : Kept F s) :
    KeptO F (execCaveDeviceErrorReport port uncorrected addr s) := by
  unfold execCaveDeviceErrorReport
  repeat' first
    | with_reducible assumption
    | with_reducible refine next_keptO ?_
    | with_reducible refine post_kept _ _ _ _ ?_
    | with_reducible refine poisonSegment_kept _ ?_
    | with_reducible refine postAbove_kept _ _ _ _ _ _ _ _ ?_
    | split

/-! ### Stash -/

theorem onStash_kept (k : Nat) (f : (Stash → Stash)) (h : Kept F s) :
    Kept F (onStash k f s) := by
  unfold onStash
  repeat' first
    | with_reducible assumption
    | with_reducible refine onRecipe_kept _ _ ?_
    | with_reducible refine locWrite_kept _ _ ?_
    | dsimp only
    | split

theorem demote_kept (k : Nat) (h : Kept F s) :
    Kept F (demote k s) := by
  unfold demote
  repeat' first
    | with_reducible assumption
    | with_reducible refine onStash_kept _ _ ?_
    | with_reducible refine tAdd_kept _ _ _ _ ?_
    | with_reducible refine post_kept _ _ _ _ ?_
    | with_reducible refine forEach_kept _ _ ?_ ?_
    | split
    | intro _

theorem openWaitPost_kept (k : Nat) (i : Nat) (h : Kept F s) :
    Kept F (openWaitPost k i s) := by
  unfold openWaitPost
  repeat' first
    | with_reducible assumption
    | with_reducible refine post_kept _ _ _ _ ?_
    | with_reducible refine onStash_kept _ _ ?_
    | split

theorem waitOpen_kept (k : Nat) (i : Nat) (rc : Bool) (h : Kept F s) :
    Kept F (waitOpen k i rc s) := by
  unfold waitOpen
  repeat' first
    | with_reducible assumption
    | with_reducible refine openWaitPost_kept _ _ ?_
    | with_reducible refine onStash_kept _ _ ?_
    | split
    | with_reducible refine seq_kept _ ?_

theorem recomputeOpen_kept (k : Nat) (i : Nat) (h : Kept F s) :
    Kept F (recomputeOpen k i s).1 := by
  unfold recomputeOpen
  repeat' first
    | with_reducible assumption
    | with_reducible refine onStash_kept _ _ ?_
    | with_reducible refine openWaitPost_kept _ _ ?_
    | with_reducible refine waitOpen_kept _ _ _ ?_
    | dsimp only
    | split

theorem forwardOpen_kept (k : Nat) (i : Nat) (h : Kept F s) :
    Kept F (forwardOpen k i s).1 := by
  unfold forwardOpen
  repeat' first
    | with_reducible assumption
    | with_reducible refine waitOpen_kept _ _ _ ?_
    | with_reducible refine onStash_kept _ _ ?_
    | with_reducible refine tAdd_kept _ _ _ _ ?_
    | with_reducible refine demote_kept _ ?_
    | dsimp only
    | split

theorem stashWrite_kept (k : Nat) (i : Nat) (task : Nat) (n : Nat) (h : Kept F s) :
    Kept F (stashWrite k i task n s).1 := by
  unfold stashWrite
  repeat' first
    | with_reducible assumption
    | with_reducible refine onStash_kept _ _ ?_
    | with_reducible refine recomputeOpen_kept _ _ ?_
    | with_reducible refine forwardOpen_kept _ _ ?_
    | dsimp only
    | split
    | refine Kept.of_fst (by assumption) ?_

theorem releaseEntry_kept (k : Nat) (i : Nat) (h : Kept F s) :
    Kept F (releaseEntry k i s) := by
  unfold releaseEntry
  repeat' first
    | with_reducible assumption
    | with_reducible refine onStash_kept _ _ ?_

theorem releaseDue_kept (k : Nat) (h : Kept F s) :
    Kept F (releaseDue k s) := by
  unfold releaseDue
  repeat' first
    | with_reducible assumption
    | with_reducible refine releaseEntry_kept _ _ ?_
    | with_reducible refine forEach_kept _ _ ?_ ?_
    | split
    | intro _

theorem dropOpens_kept (k : Nat) (h : Kept F s) :
    Kept F (dropOpens k s) := by
  unfold dropOpens
  repeat' first
    | with_reducible assumption
    | with_reducible refine onRecipe_kept _ _ ?_

theorem releaseAll_kept (k : Nat) (h : Kept F s) :
    Kept F (releaseAll k s) := by
  unfold releaseAll
  repeat' first
    | with_reducible assumption
    | with_reducible refine dropOpens_kept _ ?_
    | with_reducible refine releaseEntry_kept _ _ ?_
    | with_reducible refine forEach_kept _ _ ?_ ?_
    | split
    | intro _

theorem stashStart_kept (k : Nat) (h : Kept F s) :
    Kept F (stashStart k s) := by
  unfold stashStart
  repeat' first
    | with_reducible assumption
    | with_reducible refine onStash_kept _ _ ?_
    | with_reducible refine post_kept _ _ _ _ ?_
    | with_reducible refine tAdd_kept _ _ _ _ ?_
    | with_reducible refine forEach_kept _ _ ?_ ?_
    | with_reducible refine cond_kept ?_ ?_
    | split
    | intro _

theorem onShare_kept (k : Nat) (f : (CaveShare → CaveShare)) (h : Kept F s) :
    Kept F (onShare k f s) := by
  unfold onShare
  repeat' first
    | with_reducible assumption
    | with_reducible refine next_keptO ?_
    | with_reducible refine onRecipe_kept _ _ ?_

theorem copyPage_kept (r : Recipe) (va : Nat) (pa : Nat) (h : Kept F s) :
    Kept F (copyPage s r va pa) := by
  unfold copyPage
  repeat' first
    | with_reducible assumption
    | with_reducible refine locWrite_kept _ _ ?_
    | with_reducible refine onTiers_kept _ ?_
    | split

theorem copyGranule_kept (k : Nat) (t : Nat) (a : Nat) (p : Shadow) (h : Kept F s) :
    Kept F (copyGranule k t a p s) := by
  unfold copyGranule
  repeat' first
    | with_reducible assumption
    | with_reducible refine copyPage_kept _ _ _ ?_
    | with_reducible refine onTask_kept _ _ _ ?_
    | with_reducible refine cond_kept ?_ ?_
    | split

theorem caveWrite_kept (k : Nat) (p : Nat) (bs : List Byte) (h : Kept F s) :
    Kept F (caveWrite k p bs s).1 := by
  unfold caveWrite
  repeat' first
    | with_reducible assumption
    | with_reducible refine onShare_kept _ _ ?_
    | with_reducible refine locWrite_kept _ _ ?_
    | dsimp only
    | split

theorem caveCopyWrite_kept (k : Nat) (p : Nat) (bs : List Byte) (h : Kept F s) :
    Kept F (caveCopyWrite k p bs s) := by
  unfold caveCopyWrite
  repeat' first
    | with_reducible assumption
    | with_reducible refine onShare_kept _ _ ?_
    | with_reducible refine locWrite_kept _ _ ?_

theorem caveGet_kept (k : Nat) (p : Nat) (h : Kept F s) :
    Kept F (caveGet k p s) := by
  unfold caveGet
  repeat' first
    | with_reducible assumption
    | with_reducible refine onShare_kept _ _ ?_

theorem taskWritePiece_kept (k : Nat) (t : Nat) (unit : Nat) (a : Nat) (bs : List Byte) (h : Kept F s) :
    Kept F (taskWritePiece k t unit a bs s).1 := by
  unfold taskWritePiece
  repeat' first
    | with_reducible assumption
    | with_reducible refine locWrite_kept _ _ ?_
    | with_reducible refine copyGranule_kept _ _ _ _ ?_
    | with_reducible refine breach_kept _ _ _ ?_
    | with_reducible refine stashWrite_kept _ _ _ _ ?_
    | with_reducible refine caveWrite_kept _ _ _ ?_
    | split
    | refine Kept.of_fst (by assumption) ?_

theorem taskWrite_kept (k : Nat) (t : Nat) (unit : Nat) (a : Nat) (bs : List Byte) (h : Kept F s) :
    Kept F (taskWrite k t unit a bs s).1 := by
  unfold taskWrite
  repeat' first
    | with_reducible assumption
    | with_reducible refine taskWritePiece_kept _ _ _ _ _ ?_
    | with_reducible refine foldl_fst_kept _ _ ?_ _ ?_
    | split
    | intro _
    | refine Kept.of_fst (by assumption) ?_

/-! ### Tray -/

theorem raiseMsix_kept (v : Nat) (h : Kept F s) :
    Kept F (raiseMsix v s) := by
  unfold raiseMsix
  repeat' first
    | with_reducible assumption
    | with_reducible refine onHost_kept _ ?_ ?_ ?_
    | split
    | intro _

theorem flushMsix_kept (h : Kept F s) :
    Kept F (flushMsix s) := by
  unfold flushMsix
  repeat' first
    | with_reducible assumption
    | with_reducible refine onHost_kept _ ?_ ?_ ?_
    | with_reducible refine forEach_kept _ _ ?_ ?_
    | split
    | intro _

theorem etSignal_kept (h : Kept F s) :
    Kept F (etSignal s) := by
  unfold etSignal
  repeat' first
    | with_reducible assumption
    | with_reducible refine raiseMsix_kept _ ?_
    | with_reducible refine onEvents_kept _ ?_ ?_ ?_
    | exact fun _ hx => hx
    | with_reducible refine cond_kept ?_ ?_

theorem countLost_kept (time : Nat) (h : Kept F s) :
    Kept F (countLost time s) := by
  unfold countLost
  repeat' first
    | with_reducible assumption
    | with_reducible refine onEvents_kept _ ?_ ?_ ?_
    | exact fun _ hx => hx

theorem ringWrite_kept (r : EventRec) (h : Kept F s) :
    Kept F (ringWrite r s) := by
  unfold ringWrite
  repeat' first
    | with_reducible assumption
    | with_reducible refine onEvents_kept _ ?_ ?_ ?_
    | with_reducible refine countLost_kept _ ?_
    | with_reducible refine etSignal_kept ?_
    | with_reducible refine locWrite_kept _ _ ?_
    | exact fun _ hx => hx
    | with_reducible refine cond_kept ?_ ?_

theorem wardenCopy_kept (r : EventRec) (h : Kept F s) : Kept F (wardenCopy r s) := by
  unfold wardenCopy
  split
  · refine onEvents_kept _ (fun e he => ?_) (fun _ hx => hx) h
    simp only [List.length_drop, List.length_append, List.length_cons, List.length_nil]
    omega
  · exact h

theorem toBacklog_kept (r : EventRec) (h : Kept F s) : Kept F (toBacklog r s) := by
  have hb := h.inv.lists.backlog
  unfold toBacklog
  dsimp only
  split
  · refine onEvents_kept _ (fun _ hx => hx) (fun e he => ?_) (countLost_kept _ h)
    simp only [List.length_append, List.length_drop, List.length_cons, List.length_nil]
    omega
  · rename_i hn
    refine Kept.mk' h.inv.stores.near h.inv.stores.dev h.inv.stores.cave h.inv.stores.hostMem h.inv.stores.bar0
      h.inv.stores.bar4 h.inv.units.wheels h.inv.units.farPorts h.inv.units.hingePorts h.inv.units.queues
      h.inv.lists.log ?_ h.inv.lists.cache h.fixed
    simp only [decide_eq_true_eq] at hn
    simp only [State.onEvents_events, List.length_append, List.length_cons, List.length_nil]
    omega

theorem collect_kept (r : EventRec) (h : Kept F s) :
    Kept F (collect r s) := by
  unfold collect
  repeat' first
    | with_reducible assumption
    | with_reducible refine wardenCopy_kept _ ?_
    | with_reducible refine ringWrite_kept _ ?_
    | with_reducible refine toBacklog_kept _ ?_
    | with_reducible refine cond_kept ?_ ?_

theorem execEventCollectorWrite_kept (k : Nat) (h : Kept F s) :
    KeptO F (execEventCollectorWrite k s) := by
  unfold execEventCollectorWrite
  repeat' first
    | with_reducible assumption
    | with_reducible refine next_keptO ?_
    | with_reducible refine occurs_keptO _ _ ?_ ?_
    | with_reducible refine collect_kept _ ?_
    | with_reducible refine onEvents_kept _ ?_ ?_ ?_
    | split
    | intro _

theorem deliverBacklog_kept (h : Kept F s) : Kept F (deliverBacklog s) :=
  forEach_kept _ _ (fun a _ hx => ringWrite_kept a hx)
    (onEvents_kept _ (fun _ hx => hx) (fun _ _ => Nat.zero_le _) h)

theorem execEtCfgWrite_kept (v : Word) (h : Kept F s) :
    KeptO F (execEtCfgWrite v s) := by
  unfold execEtCfgWrite
  repeat' first
    | with_reducible assumption
    | with_reducible refine occurs_keptO _ _ ?_ ?_
    | with_reducible refine onEvents_kept _ ?_ ?_ ?_
    | with_reducible refine deliverBacklog_kept ?_
    | dsimp only
    | split
    | intro _

theorem overflowRecord_kept (h : Kept F s) :
    Kept F (overflowRecord s) := by
  unfold overflowRecord
  repeat' first
    | with_reducible assumption
    | with_reducible refine onEvents_kept _ ?_ ?_ ?_
    | with_reducible refine countDet_kept _ ?_
    | with_reducible refine wardenCopy_kept _ ?_
    | with_reducible refine ringWrite_kept _ ?_
    | exact fun _ hx => hx
    | with_reducible refine cond_kept ?_ ?_

theorem execEtHeadWrite_kept (v : Word) (h : Kept F s) :
    KeptO F (execEtHeadWrite v s) := by
  unfold execEtHeadWrite
  repeat' first
    | with_reducible assumption
    | with_reducible refine occurs_keptO _ _ ?_ ?_
    | with_reducible refine onEvents_kept _ ?_ ?_ ?_
    | with_reducible refine overflowRecord_kept ?_
    | dsimp only
    | split
    | intro _

theorem injectRecord_kept (det : Nat) (seq : Nat) (h : Kept F s) :
    Kept F (injectRecord det seq s) := by
  unfold injectRecord
  repeat' first
    | with_reducible assumption
    | with_reducible refine onEvents_kept _ ?_ ?_ ?_
    | exact fun _ hx => hx

theorem injectionTick_kept (det : Nat) (p : InjPoint) (h : Kept F s) :
    Kept F (injectionTick det p s) := by
  unfold injectionTick
  repeat' first
    | with_reducible assumption
    | with_reducible refine onEvents_kept _ ?_ ?_ ?_
    | with_reducible refine injectRecord_kept _ _ ?_
    | exact fun _ hx => hx
    | with_reducible refine cond_kept ?_ ?_

/-! ### Host -/

theorem onQueue_kept (q : Nat) (f : (Queue → Queue)) (h : Kept F s) :
    Kept F (State.onQueue q f s) := by
  unfold State.onQueue
  repeat' first
    | with_reducible assumption
    | with_reducible refine onHost_kept _ ?_ ?_ ?_
    | exact fun _ hx => hx
    | exact fun _ hx => (length_modAt _ _ _).trans hx

theorem cqWrite_kept (q : Nat) (e : List Byte) (h : Kept F s) :
    Kept F (cqWrite q e s) := by
  unfold cqWrite
  repeat' first
    | with_reducible assumption
    | with_reducible refine onHost_kept _ ?_ ?_ ?_
    | with_reducible refine onQueue_kept _ _ ?_
    | with_reducible refine raiseMsix_kept _ ?_
    | exact fun _ hx => hx
    | exact fun _ hx => memWrite_wf _ _ _ hx
    | with_reducible refine cond_kept ?_ ?_

theorem cqPost_kept (q : Nat) (e : List Byte) (h : Kept F s) :
    Kept F (cqPost q e s) := by
  unfold cqPost
  repeat' first
    | with_reducible assumption
    | with_reducible refine onQueue_kept _ _ ?_
    | with_reducible refine cqWrite_kept _ _ ?_
    | with_reducible refine cond_kept ?_ ?_

theorem finishOne_kept (c : HostCmd) (f : Cpl) (h : Kept F s) :
    Kept F (finishOne c f s) := by
  unfold finishOne
  repeat' first
    | with_reducible assumption
    | with_reducible refine cqPost_kept _ _ ?_
    | with_reducible refine onHost_kept _ ?_ ?_ ?_
    | exact fun _ hx => hx

theorem fencesCheck_kept (a0 : Nat) (h : Kept F s) :
    Kept F (fencesCheck a0 s) := by
  induction a0 generalizing s  with
  | zero => exact h
  | succ n ih =>
    unfold fencesCheck
    repeat' first
      | with_reducible assumption
      | with_reducible refine ih  ?_
      | with_reducible refine finishOne_kept _ _ ?_
      | split

theorem finish_kept (c : HostCmd) (f : Cpl) (h : Kept F s) :
    Kept F (finish c f s) := by
  unfold finish
  repeat' first
    | with_reducible assumption
    | with_reducible refine finishOne_kept _ _ ?_
    | with_reducible refine fencesCheck_kept _ ?_

theorem refuse_kept (c : HostCmd) (reason : Nat) (h : Kept F s) :
    Kept F (refuse c reason s) := by
  unfold refuse
  repeat' first
    | with_reducible assumption
    | with_reducible refine finish_kept _ _ ?_

theorem takeEntry_kept (q : Nat) (begun : Bool) (h : Kept F s) :
    Kept F (takeEntry q begun s).2 := by
  unfold takeEntry
  repeat' first
    | with_reducible assumption
    | with_reducible refine onQueue_kept _ _ ?_
    | with_reducible refine onHost_kept _ ?_ ?_ ?_
    | exact fun _ hx => hx

theorem onEntry_kept (opc : Nat) (f : (HostCmd → State → State)) (hf : ∀ y0 x, Kept F x → Kept F (f y0 x))
    (h : Kept F s) :
    KeptO F (onEntry opc f s) := by
  unfold onEntry
  repeat' first
    | with_reducible assumption
    | with_reducible refine hf _ _ ?_
    | with_reducible refine next_keptO ?_
    | with_reducible refine takeEntry_kept _ _ ?_
    | split

theorem execInvalidSubmissionEntry_kept (h : Kept F s) :
    KeptO F (execInvalidSubmissionEntry s) := by
  unfold execInvalidSubmissionEntry
  repeat' first
    | with_reducible assumption
    | with_reducible refine onEntry_kept _ _ ?_ ?_
    | with_reducible refine finish_kept _ _ ?_
    | intro _

theorem execSubmissionDoorbell_kept (q : Nat) (tail : Nat) (h : Kept F s) :
    KeptO F (execSubmissionDoorbell q tail s) := by
  unfold execSubmissionDoorbell
  repeat' first
    | with_reducible assumption
    | with_reducible refine occurs_keptO _ _ ?_ ?_
    | with_reducible refine onHost_kept _ ?_ ?_ ?_
    | with_reducible refine onQueue_kept _ _ ?_
    | split
    | intro _

theorem drainHeld_kept (a0 : Nat) (a1 : Nat) (h : Kept F s) :
    Kept F (drainHeld a0 a1 s) := by
  induction a0 generalizing s a1 with
  | zero => exact h
  | succ n ih =>
    unfold drainHeld
    repeat' first
      | with_reducible assumption
      | with_reducible refine ih _ ?_
      | with_reducible refine onQueue_kept _ _ ?_
      | with_reducible refine cqWrite_kept _ _ ?_
      | split

theorem execCqHeadWrite_kept (q : Nat) (index : Nat) (h : Kept F s) :
    KeptO F (execCqHeadWrite q index s) := by
  unfold execCqHeadWrite
  repeat' first
    | with_reducible assumption
    | with_reducible refine occurs_keptO _ _ ?_ ?_
    | with_reducible refine drainHeld_kept _ _ ?_
    | with_reducible refine onQueue_kept _ _ ?_
    | intro _

theorem execQcfgWrite_kept (q : Nat) (v : Word) (h : Kept F s) :
    KeptO F (execQcfgWrite q v s) := by
  unfold execQcfgWrite
  repeat' first
    | with_reducible assumption
    | with_reducible refine occurs_keptO _ _ ?_ ?_
    | with_reducible refine onQueue_kept _ _ ?_
    | with_reducible refine clearRing_kept _ ?_
    | split
    | intro _

theorem execCompletionRingStall_kept (q : Nat) (h : Kept F s) :
    KeptO F (execCompletionRingStall q s) := by
  unfold execCompletionRingStall
  repeat' first
    | with_reducible assumption
    | with_reducible refine occurs_keptO _ _ ?_ ?_
    | with_reducible refine post_kept _ _ _ _ ?_
    | with_reducible refine onQueue_kept _ _ ?_
    | intro _

theorem execInterruptDelayExpiry_kept (ring : RingId) (h : Kept F s) :
    KeptO F (execInterruptDelayExpiry ring s) := by
  unfold execInterruptDelayExpiry
  repeat' first
    | with_reducible assumption
    | with_reducible refine occurs_keptO _ _ ?_ ?_
    | with_reducible refine raiseMsix_kept _ ?_
    | with_reducible refine onQueue_kept _ _ ?_
    | with_reducible refine onEvents_kept _ ?_ ?_ ?_
    | split
    | intro _

theorem execBar2BaseWrite_kept (v : Word) (h : Kept F s) :
    KeptO F (execBar2BaseWrite v s) := by
  unfold execBar2BaseWrite
  repeat' first
    | with_reducible assumption
    | with_reducible refine occurs_keptO _ _ ?_ ?_
    | with_reducible refine onHost_kept _ ?_ ?_ ?_
    | intro _

theorem beyondHost_kept (h : Kept F s) :
    Kept F (beyondHost s) := by
  unfold beyondHost
  repeat' first
    | with_reducible assumption
    | with_reducible refine countDet_kept _ ?_
    | with_reducible refine post_kept _ _ _ _ ?_
    | with_reducible refine onHost_kept _ ?_ ?_ ?_
    | exact fun _ hx => hx
    | with_reducible refine cond_kept ?_ ?_

theorem execBar2Access_kept (off : Nat) (op : Bar2Op) (h : Kept F s) :
    KeptO F (execBar2Access off op s) := by
  unfold execBar2Access
  repeat' first
    | with_reducible assumption
    | with_reducible refine occurs_keptO _ _ ?_ ?_
    | with_reducible refine onHost_kept _ ?_ ?_ ?_
    | with_reducible refine beyondHost_kept ?_
    | with_reducible refine locWrite_kept _ _ ?_
    | with_reducible refine foldl_kept _ _ ?_ ?_
    | dsimp only
    | split
    | intro _

theorem copyWrite_kept {r : Option Recipe} {space a : Nat} {bs : List Byte} {t : State}
    (e : copyWrite r space a bs s = .ok t) (h : Kept F s) : Kept F t := by
  unfold copyWrite at e
  split at e
  · cases e; exact hostMem_write_kept _ _ h
  · split at e
    · cases e
    · cases e; split
      · exact caveCopyWrite_kept _ _ _ h
      · exact locWrite_kept _ _ h
    · cases e; exact locWrite_kept _ _ h

theorem copyMove_kept (r : Option Recipe) (ss : Nat) (src : Nat) (ds : Nat) (dst : Nat) (n : Nat)
    (busError : Option Nat) (h : Kept F s) :
    Kept F (copyMove r ss src ds dst n busError s).1 := by
  unfold copyMove
  repeat' first
    | with_reducible assumption
    | with_reducible refine copyWrite_kept (by assumption) ?_
    | with_reducible refine foldl_fst_kept _ _ ?_ _ ?_
    | split
    | intro _

theorem runCopy_kept (c : HostCmd) (busError : Option Nat) (h : Kept F s) :
    Kept F (runCopy c busError s) := by
  unfold runCopy
  repeat' first
    | with_reducible assumption
    | with_reducible refine copyMove_kept _ _ _ _ _ _ _ ?_
    | with_reducible refine onHost_kept _ ?_ ?_ ?_
    | with_reducible refine finish_kept _ _ ?_
    | exact fun _ hx => hx
    | dsimp only
    | split

theorem holdCmd_kept (c : HostCmd) (h : Kept F s) :
    Kept F (holdCmd c s) := by
  unfold holdCmd
  repeat' first
    | with_reducible assumption
    | with_reducible refine onHost_kept _ ?_ ?_ ?_
    | exact fun _ hx => hx

theorem beginCmd_kept (c : HostCmd) (h : Kept F s) :
    Kept F (beginCmd c s) := by
  unfold beginCmd
  repeat' first
    | with_reducible assumption
    | with_reducible refine onHost_kept _ ?_ ?_ ?_
    | exact fun _ hx => hx

theorem execCopy_kept (busError : Option Nat) (h : Kept F s) :
    KeptO F (execCopy busError s) := by
  unfold execCopy
  repeat' first
    | with_reducible assumption
    | with_reducible refine onEntry_kept _ _ ?_ ?_
    | with_reducible refine refuse_kept _ _ ?_
    | with_reducible refine runCopy_kept _ _ ?_
    | with_reducible refine holdCmd_kept _ ?_
    | split
    | intro _

theorem execCopyQueuedBegin_kept (busError : Option Nat) (h : Kept F s) :
    KeptO F (execCopyQueuedBegin busError s) := by
  unfold execCopyQueuedBegin
  repeat' first
    | with_reducible assumption
    | with_reducible refine next_keptO ?_
    | with_reducible refine occurs_keptO _ _ ?_ ?_
    | with_reducible refine runCopy_kept _ _ ?_
    | with_reducible refine beginCmd_kept _ ?_
    | split
    | intro _

theorem flushCmd_kept (c : HostCmd) (h : Kept F s) :
    Kept F (flushCmd c s) := by
  unfold flushCmd
  repeat' first
    | with_reducible assumption
    | with_reducible refine finishOne_kept _ _ ?_

theorem flushEntries_kept (n q : Nat) (h : Kept F s) : Kept F (flushEntries n q s) := by
  induction n generalizing s with
  | zero => exact h
  | succ n ih =>
    unfold flushEntries
    split
    · have ht := takeEntry_kept q true h
      exact ih (flushCmd_kept _ (onHost_kept (fun x => { x with turn := s.host.turn }) (fun _ hx => hx) (fun _ hx => hx) ht))
    · exact h

theorem execFenceQueue_kept (h : Kept F s) :
    KeptO F (execFenceQueue s) := by
  unfold execFenceQueue
  repeat' first
    | with_reducible assumption
    | with_reducible refine onEntry_kept _ _ ?_ ?_
    | with_reducible refine flushCmd_kept _ ?_
    | with_reducible refine flushEntries_kept _ _ ?_
    | with_reducible refine fencesCheck_kept _ ?_
    | with_reducible refine forEach_kept _ _ ?_ ?_
    | split
    | intro _

/-! ### Formats -/

theorem countField_kept (pa : Nat) (ord : Nat) (unit : Nat) (n : Nat) (f : CtrField) (h : Kept F s) :
    Kept F (countField pa ord unit n f s) := by
  unfold countField
  repeat' first
    | with_reducible assumption
    | with_reducible refine locWrite_kept _ _ ?_
    | with_reducible refine post_kept _ _ _ _ ?_
    | with_reducible refine cond_kept ?_ ?_

theorem countRecord_kept (pa : Nat) (ord : Nat) (unit : Nat) (c : Counts) (h : Kept F s) :
    Kept F (countRecord pa ord unit c s) := by
  unfold countRecord
  repeat' first
    | with_reducible assumption
    | with_reducible refine countField_kept _ _ _ _ _ ?_
    | with_reducible refine locWrite_kept _ _ ?_
    | with_reducible refine cond_kept ?_ ?_

theorem countInto_kept (k : Nat) (rec : Nat) (unit : Nat) (c : Counts) (h : Kept F s) :
    Kept F (countInto k rec unit c s) := by
  unfold countInto
  repeat' first
    | with_reducible assumption
    | with_reducible refine countRecord_kept _ _ _ _ ?_
    | split

theorem clearRecord_kept (pa : Nat) (h : Kept F s) :
    Kept F (clearRecord pa s) := by
  unfold clearRecord
  repeat' first
    | with_reducible assumption
    | with_reducible refine locWrite_kept _ _ ?_
    | with_reducible refine cond_kept ?_ ?_

end Sys2Proof.Machine
end

