-- ==== Sys2Proof/Laws/KeepVats.lean ====
section
/-! SUPPORT. What the operations of the vats, the steps and tasks, the rind's store and the update engines keep: the invariant of
Safety.lean and the fixed part of the state (KeepBase.lean). A law ends in `_kept` and cites those of the operations
that its own calls. -/

namespace Sys2Proof.Machine

variable {F : Fixed} {s : State}

/-! ### Vat -/

theorem setPhase_kept (k : Nat) (t : Nat) (i : Nat) (p : DescPhase) (h : Kept F s) :
    Kept F (setPhase k t i p s) := by
  unfold setPhase
  repeat' first
    | with_reducible assumption
    | with_reducible refine onDesc_kept _ _ _ _ ?_

theorem vatFault_kept (k : Nat) (t : Nat) (i : Nat) (unit : Nat) (ws : List Nat) (off : Nat) (code : Nat)
    (word : Nat) (value : Nat) (sub : Nat) (h : Kept F s) :
    Kept F (vatFault k t i unit ws off code word value sub s) := by
  unfold vatFault
  repeat' first
    | with_reducible assumption
    | with_reducible refine postTranslation_kept _ _ _ ?_
    | with_reducible refine post_kept _ _ _ _ ?_
    | with_reducible refine taskFault_kept _ _ _ _ _ ?_
    | with_reducible refine setPhase_kept _ _ _ _ ?_
    | with_reducible refine cond_kept ?_ ?_

theorem memoryError_kept (k : Nat) (t : Nat) (i : Nat) (unit : Nat) (h : Kept F s) :
    Kept F (memoryError k t i unit s) := by
  unfold memoryError
  repeat' first
    | with_reducible assumption
    | with_reducible refine taskFault_kept _ _ _ _ _ ?_
    | with_reducible refine setPhase_kept _ _ _ _ ?_

theorem doPuts_kept (k : Nat) (t : Nat) (unit : Nat) (ps : List Put) (h : Kept F s) :
    Kept F (doPuts k t unit ps s).1 := by
  induction ps generalizing s k t unit with
  | nil => exact h
  | cons b l ih =>
    unfold doPuts
    repeat' first
      | with_reducible assumption
      | with_reducible refine ih _ _ _ ?_
      | with_reducible refine taskWrite_kept _ _ _ _ _ ?_
      | split
      | refine Kept.of_fst (by assumption) ?_

theorem doPutsSpec_kept (k : Nat) (t : Nat) (unit : Nat) (detail : (Nat → Put → List Byte)) (ps : List Put)
    (h : Kept F s) :
    Kept F (doPutsSpec k t unit detail ps s).1 := by
  unfold doPutsSpec
  repeat' first
    | with_reducible assumption
    | with_reducible refine taskWrite_kept _ _ _ _ _ ?_
    | with_reducible refine deferFault_kept _ _ _ ?_
    | with_reducible refine foldl_fst_kept _ _ ?_ _ ?_
    | split
    | intro _
    | refine Kept.of_fst (by assumption) ?_

theorem scramble_kept (k : Nat) (t : Nat) (unit : Nat) (ps : List Put) (h : Kept F s) :
    Kept F (scramble k t unit ps s) := by
  unfold scramble
  repeat' first
    | with_reducible assumption
    | with_reducible refine drawn_kept ?_
    | with_reducible refine taskWrite_kept _ _ _ _ _ ?_
    | with_reducible refine foldl_kept _ _ ?_ ?_
    | intro _

theorem preOpen_kept (k : Nat) (t : Nat) (ps : List Put) (h : Kept F s) :
    Kept F (preOpen k t ps s).1 := by
  unfold preOpen
  repeat' first
    | with_reducible assumption
    | with_reducible refine stashWrite_kept _ _ _ _ ?_
    | with_reducible refine foldl_fst_kept _ _ ?_ _ ?_
    | split
    | intro _
    | refine Kept.of_fst (by assumption) ?_

/-! ### Steps -/

theorem refuseWaits_kept (k : Nat) (t : Nat) (hs : List Nat) (h : Kept F s) :
    Kept F (refuseWaits k t hs s) := by
  unfold refuseWaits
  repeat' first
    | with_reducible assumption
    | with_reducible refine misuse_kept _ _ _ _ ?_
    | dsimp only
    | split

theorem enterTask_kept (k : Nat) (t : Nat) (h : Kept F s) :
    Kept F (enterTask k t s) := by
  unfold enterTask
  repeat' first
    | with_reducible assumption
    | with_reducible refine onStep_kept _ _ ?_
    | with_reducible refine onTask_kept _ _ _ ?_
    | with_reducible refine giveVerdict_kept _ _ _ _ ?_
    | with_reducible refine resolveGuard_kept _ _ _ _ ?_
    | dsimp only
    | split

theorem loadTask_kept (k : Nat) (t : Nat) (h : Kept F s) :
    Kept F (loadTask k t s) := by
  unfold loadTask
  have h1 := enterTask_kept (F := F) k t h
  dsimp only
  split
  · exact refuseWaits_kept _ _ _ h1
  · exact h1

theorem markReady_kept (k : Nat) (t : Nat) (a2 : Task) (x0 : TaskRun) (h : Kept F s) :
    Kept F (markReady k t a2 x0 s) := by
  unfold markReady
  repeat' first
    | with_reducible assumption
    | with_reducible refine onRecipe_kept _ _ ?_
    | with_reducible refine onTask_kept _ _ _ ?_
    | with_reducible refine seq_kept _ ?_

theorem trackVersion_kept (k : Nat) (t : Nat) (r : Recipe) (a3 : Task) (x0 : TaskRun) (ms : List Nat) (h : Kept F s) :
    Kept F (trackVersion k t r a3 x0 ms s) := by
  unfold trackVersion
  repeat' first
    | with_reducible assumption
    | with_reducible refine onTask_kept _ _ _ ?_
    | with_reducible refine onRecipe_kept _ _ ?_
    | split

theorem leavePool_kept (k : Nat) (t : Nat) (h : Kept F s) :
    Kept F (leavePool k t s) := by
  unfold leavePool
  repeat' first
    | with_reducible assumption
    | with_reducible refine onStep_kept _ _ ?_

theorem settleLoaded_kept (k : Nat) (t : Nat) (h : Kept F s) :
    Kept F (settleLoaded k t s) := by
  unfold settleLoaded
  repeat' first
    | with_reducible assumption
    | with_reducible refine endTask_kept _ _ _ ?_
    | with_reducible refine leavePool_kept _ _ ?_
    | with_reducible refine trackVersion_kept _ _ _ _ _ _ ?_
    | with_reducible refine markReady_kept _ _ _ _ ?_
    | with_reducible refine onTask_kept _ _ _ ?_
    | with_reducible refine cond_kept ?_ ?_
    | split

theorem lateWaitAdd_kept (k : Nat) (layer : Nat) (h : Kept F s) :
    Kept F (lateWaitAdd k layer s) := by
  unfold lateWaitAdd
  repeat' first
    | with_reducible assumption
    | with_reducible refine drawn_kept ?_
    | with_reducible refine locWrite_kept _ _ ?_
    | with_reducible refine cond_kept ?_ ?_
    | split

theorem settleDescs_kept (k : Nat) (h : Kept F s) :
    Kept F (settleDescs k s) := by
  unfold settleDescs
  repeat' first
    | with_reducible assumption
    | with_reducible refine onDesc_kept _ _ _ _ ?_
    | with_reducible refine forEach_kept _ _ ?_ ?_
    | split
    | intro _
    | with_reducible refine seq_kept _ ?_

theorem trackPanes_kept (w : Nat) (h : Kept F s) :
    Kept F (trackPanes w s) := by
  unfold trackPanes
  repeat' first
    | with_reducible assumption
    | with_reducible refine lateWaitAdd_kept _ _ ?_
    | with_reducible refine onVat_kept _ _ ?_
    | with_reducible refine forEach_kept _ _ ?_ ?_
    | with_reducible refine cond_kept ?_ ?_
    | intro _

theorem completeShadow_kept (k : Nat) (p : Shadow) (h : Kept F s) :
    Kept F (completeShadow k p s) := by
  unfold completeShadow
  repeat' first
    | with_reducible assumption
    | with_reducible refine copyPage_kept _ _ _ ?_
    | with_reducible refine forEach_kept _ _ ?_ ?_
    | split
    | intro _

theorem exchangePage_kept (k : Nat) (p : Shadow) (h : Kept F s) :
    Kept F (exchangePage k p s) := by
  unfold exchangePage
  repeat' first
    | with_reducible assumption
    | with_reducible refine onRecipe_kept _ _ ?_
    | split

theorem endAdds_kept (k : Nat) (t : Nat) (version : Bool) (os : List (Nat × Nat × Nat)) (h : Kept F s) :
    Kept F (endAdds k t version os s) := by
  unfold endAdds
  repeat' first
    | with_reducible assumption
    | with_reducible refine tAdd_kept _ _ _ _ ?_
    | with_reducible refine forEach_kept _ _ ?_ ?_
    | split
    | intro _

theorem addOutputs_kept (k : Nat) (t : Nat) (h : Kept F s) :
    Kept F (addOutputs k t s) := by
  unfold addOutputs
  repeat' first
    | with_reducible assumption
    | with_reducible refine endAdds_kept _ _ _ _ ?_
    | split

theorem postDeferred_kept (d : Deferred) (h : Kept F s) :
    Kept F (postDeferred d s) := by
  unfold postDeferred
  repeat' first
    | with_reducible assumption
    | with_reducible refine postTranslation_kept _ _ _ ?_
    | with_reducible refine post_kept _ _ _ _ ?_
    | with_reducible refine cond_kept ?_ ?_

theorem commitTask_kept (k : Nat) (t : Nat) (h : Kept F s) :
    Kept F (commitTask k t s) := by
  unfold commitTask
  repeat' first
    | with_reducible assumption
    | with_reducible refine taskFault_kept _ _ _ _ _ ?_
    | with_reducible refine postDeferred_kept _ ?_
    | with_reducible refine completeShadow_kept _ _ ?_
    | with_reducible refine exchangePage_kept _ _ ?_
    | with_reducible refine onTask_kept _ _ _ ?_
    | with_reducible refine endAdds_kept _ _ _ _ ?_
    | with_reducible refine stopCores_kept _ _ ?_
    | with_reducible refine closeTask_kept _ _ _ ?_
    | with_reducible refine addOutputs_kept _ _ ?_
    | with_reducible refine forEach_kept _ _ ?_ ?_
    | split
    | intro _

theorem poisonIfOpen_kept (k : Task) (ws : List Nat) (d : DescRun) (h : Kept F s) :
    Kept F (poisonIfOpen k ws d s) := by
  unfold poisonIfOpen
  repeat' first
    | with_reducible assumption
    | with_reducible refine onVat_kept _ _ ?_
    | with_reducible refine cond_kept ?_ ?_

theorem endDescs_kept (k : Nat) (t : Nat) (h : Kept F s) :
    Kept F (endDescs k t s) := by
  unfold endDescs
  repeat' first
    | with_reducible assumption
    | with_reducible refine onTask_kept _ _ _ ?_

theorem stopVatTask_kept (k : Nat) (t : Nat) (h : Kept F s) :
    Kept F (stopVatTask k t s) := by
  unfold stopVatTask
  repeat' first
    | with_reducible assumption
    | with_reducible refine endDescs_kept _ _ ?_
    | with_reducible refine poisonIfOpen_kept _ _ _ ?_
    | with_reducible refine forEach_kept _ _ ?_ ?_
    | split
    | intro _

theorem returnShadows_kept (k : Nat) (t : Nat) (h : Kept F s) :
    Kept F (returnShadows k t s) := by
  unfold returnShadows
  repeat' first
    | with_reducible assumption
    | with_reducible refine onTask_kept _ _ _ ?_
    | with_reducible refine onRecipe_kept _ _ ?_
    | split

theorem absorbTask_kept (k : Nat) (unit : Nat) (t : Nat) (h : Kept F s) :
    Kept F (absorbTask k unit t s) := by
  unfold absorbTask
  repeat' first
    | with_reducible assumption
    | with_reducible refine next_keptO ?_
    | with_reducible refine returnShadows_kept _ _ ?_
    | with_reducible refine taskFault_kept _ _ _ _ _ ?_
    | with_reducible refine stopVatTask_kept _ _ ?_

theorem discardTask_kept (k : Nat) (t : Nat) (h : Kept F s) :
    Kept F (discardTask k t s) := by
  unfold discardTask
  repeat' first
    | with_reducible assumption
    | with_reducible refine stopCores_kept _ _ ?_
    | with_reducible refine stopVatTask_kept _ _ ?_
    | with_reducible refine post_kept _ _ _ _ ?_
    | with_reducible refine endTask_kept _ _ _ ?_
    | with_reducible refine onTask_kept _ _ _ ?_
    | with_reducible refine returnShadows_kept _ _ ?_
    | split

theorem settleSpec_kept (k : Nat) (t : Nat) (h : Kept F s) :
    Kept F (settleSpec k t s) := by
  unfold settleSpec
  repeat' first
    | with_reducible assumption
    | with_reducible refine commitTask_kept _ _ ?_
    | with_reducible refine discardTask_kept _ _ ?_
    | split

theorem settleOnce_kept (k : Nat) (h : Kept F s) :
    Kept F (settleOnce k s) := by
  unfold settleOnce
  repeat' first
    | with_reducible assumption
    | with_reducible refine settleSpec_kept _ _ ?_
    | with_reducible refine releaseDue_kept _ ?_
    | with_reducible refine settleDescs_kept _ ?_
    | with_reducible refine settleLoaded_kept _ _ ?_
    | with_reducible refine forEach_kept _ _ ?_ ?_
    | intro _

theorem settleN_kept (a0 : Nat) (a1 : Nat) (h : Kept F s) :
    Kept F (settleN a0 a1 s) := by
  induction a0 generalizing s a1 with
  | zero => exact h
  | succ n ih =>
    unfold settleN
    repeat' first
      | with_reducible assumption
      | with_reducible refine ih _ ?_
      | with_reducible refine settleOnce_kept _ ?_
      | with_reducible refine cond_kept ?_ ?_

theorem trackWatchdog_kept (k : Nat) (h : Kept F s) :
    Kept F (trackWatchdog k s) := by
  unfold trackWatchdog
  repeat' first
    | with_reducible assumption
    | with_reducible refine onStep_kept _ _ ?_
    | split

theorem settle_kept (k : Nat) (h : Kept F s) :
    Kept F (settle k s) := by
  unfold settle
  repeat' first
    | with_reducible assumption
    | with_reducible refine settleN_kept _ _ ?_
    | with_reducible refine trackWatchdog_kept _ ?_
    | with_reducible refine trackPanes_kept _ ?_
    | with_reducible refine forEach_kept _ _ ?_ ?_
    | dsimp only
    | split
    | intro _

theorem execTaskLoad_kept (recipe : Nat) (wheel : Nat) (spec : Bool) (h : Kept F s) :
    KeptO F (execTaskLoad recipe wheel spec s) := by
  unfold execTaskLoad
  repeat' first
    | with_reducible assumption
    | with_reducible refine next_keptO ?_
    | with_reducible refine occurs_keptO _ _ ?_ ?_
    | with_reducible refine settle_kept _ ?_
    | with_reducible refine loadTask_kept _ _ ?_
    | split
    | intro _

theorem execTaskRetire_kept (t : TaskRef) (h : Kept F s) :
    KeptO F (execTaskRetire t s) := by
  unfold execTaskRetire
  repeat' first
    | with_reducible assumption
    | with_reducible refine next_keptO ?_
    | with_reducible refine occurs_keptO _ _ ?_ ?_
    | with_reducible refine settle_kept _ ?_
    | with_reducible refine closeTask_kept _ _ _ ?_
    | with_reducible refine addOutputs_kept _ _ ?_
    | split
    | intro _

theorem execPageReturn_kept (recipe : Nat) (page : Nat) (h : Kept F s) :
    KeptO F (execPageReturn recipe page s) := by
  unfold execPageReturn
  repeat' first
    | with_reducible assumption
    | with_reducible refine next_keptO ?_
    | with_reducible refine settle_kept _ ?_
    | with_reducible refine onRecipe_kept _ _ ?_
    | split

theorem execRecomputeOpenGrant_kept (recipe : Nat) (entry : Nat) (h : Kept F s) :
    KeptO F (execRecomputeOpenGrant recipe entry s) := by
  unfold execRecomputeOpenGrant
  repeat' first
    | with_reducible assumption
    | with_reducible refine next_keptO ?_
    | with_reducible refine occurs_keptO _ _ ?_ ?_
    | with_reducible refine recomputeOpen_kept _ _ ?_
    | split
    | intro _

theorem execRecomputeOpenWaitTimeout_kept (recipe : Nat) (entry : Nat) (h : Kept F s) :
    KeptO F (execRecomputeOpenWaitTimeout recipe entry s) := by
  unfold execRecomputeOpenWaitTimeout
  repeat' first
    | with_reducible assumption
    | with_reducible refine next_keptO ?_
    | with_reducible refine occurs_keptO _ _ ?_ ?_
    | with_reducible refine openWaitPost_kept _ _ ?_
    | split
    | intro _

theorem execStepWatchdogExpiry_kept (recipe : Nat) (h : Kept F s) :
    KeptO F (execStepWatchdogExpiry recipe s) := by
  unfold execStepWatchdogExpiry
  repeat' first
    | with_reducible assumption
    | with_reducible refine next_keptO ?_
    | with_reducible refine occurs_keptO _ _ ?_ ?_
    | with_reducible refine stepFaultOutside_kept _ _ ?_
    | with_reducible refine post_kept _ _ _ _ ?_
    | split
    | intro _

theorem execSpanPatienceExpiry_kept (recipe : Nat) (h : Kept F s) :
    KeptO F (execSpanPatienceExpiry recipe s) := by
  unfold execSpanPatienceExpiry
  repeat' first
    | with_reducible assumption
    | with_reducible refine next_keptO ?_
    | with_reducible refine occurs_keptO _ _ ?_ ?_
    | with_reducible refine taskFault_kept _ _ _ _ _ ?_
    | with_reducible refine post_kept _ _ _ _ ?_
    | dsimp only
    | split
    | intro _

/-! ### VatControl -/

theorem beginDesc_kept (d : VatDesc) (h : Kept F s) :
    Kept F (beginDesc d s) := by
  unfold beginDesc
  repeat' first
    | with_reducible assumption
    | with_reducible refine onDesc_kept _ _ _ _ ?_
    | with_reducible refine seq_kept _ ?_

theorem onBank_kept (d : VatDesc) (f : (BankRec → BankRec)) (h : Kept F s) :
    Kept F (onBank d f s) := by
  unfold onBank
  repeat' first
    | with_reducible assumption
    | with_reducible refine onVat_kept _ _ ?_

theorem descFault_kept (d : VatDesc) (code : Nat) (word : Nat) (value : Nat) (sub : Nat) (h : Kept F s) :
    Kept F (descFault d code word value sub s) := by
  unfold descFault
  repeat' first
    | with_reducible assumption
    | with_reducible refine vatFault_kept _ _ _ _ _ _ _ _ _ _ ?_

theorem scrambleCells_kept (d : VatDesc) (h : Kept F s) :
    Kept F (scrambleCells d s) := by
  unfold scrambleCells
  repeat' first
    | with_reducible assumption
    | with_reducible refine drawn_kept ?_
    | with_reducible refine onVat_kept _ _ ?_

theorem stopAccumulation_kept (d : VatDesc) (h : Kept F s) :
    Kept F (stopAccumulation d s) := by
  unfold stopAccumulation
  repeat' first
    | with_reducible assumption
    | with_reducible refine onBank_kept _ _ ?_
    | with_reducible refine scrambleCells_kept _ ?_

theorem readProblem_kept (d : VatDesc) (word : Nat) (a : Access) (addr : Nat) (h : Kept F s) :
    Kept F (readProblem d word a addr s) := by
  unfold readProblem
  repeat' first
    | with_reducible assumption
    | with_reducible refine descFault_kept _ _ _ _ _ ?_
    | with_reducible refine breachFault_kept _ _ _ ?_
    | with_reducible refine setPhase_kept _ _ _ _ ?_
    | with_reducible refine absorbTask_kept _ _ _ ?_
    | with_reducible refine memoryError_kept _ _ _ _ ?_
    | split

theorem deferAt_kept (d : VatDesc) (f : Deferred) (h : Kept F s) :
    Kept F (deferAt d f s) := by
  unfold deferAt
  repeat' first
    | with_reducible assumption
    | with_reducible refine onBank_kept _ _ ?_
    | with_reducible refine deferFault_kept _ _ _ ?_

theorem starve_kept (d : VatDesc) (h : Kept F s) :
    Kept F (starve d s) := by
  unfold starve
  repeat' first
    | with_reducible assumption
    | with_reducible refine drawn_kept ?_
    | with_reducible refine onVat_kept _ _ ?_

theorem taskAdd_kept (k : Nat) (t : Nat) (unit : Nat) (version : Bool) (tumb : Nat) (n : Nat) (h : Kept F s) :
    Kept F (taskAdd k t unit version tumb n s) := by
  unfold taskAdd
  repeat' first
    | with_reducible assumption
    | with_reducible refine underR182_kept _ _ _ _ _ ?_ ?_
    | with_reducible refine tAdd_kept _ _ _ _ ?_
    | split
    | intro _

theorem countTask_kept (k : Nat) (t : Nat) (unit : Nat) (rec : Nat) (c : Counts) (h : Kept F s) :
    Kept F (countTask k t unit rec c s) := by
  unfold countTask
  repeat' first
    | with_reducible assumption
    | with_reducible refine countRecord_kept _ _ _ _ ?_
    | with_reducible refine copyGranule_kept _ _ _ _ ?_
    | with_reducible refine breach_kept _ _ _ ?_
    | with_reducible refine countInto_kept _ _ _ _ ?_
    | split

theorem macCounts_kept (d : VatDesc) (m : MacRead) (h : Kept F s) :
    Kept F (macCounts d m s) := by
  unfold macCounts
  repeat' first
    | with_reducible assumption
    | with_reducible refine countTask_kept _ _ _ _ _ ?_

theorem macApply_kept (d : VatDesc) (clear : Bool) (m : MacRead) (h : Kept F s) :
    Kept F (macApply d clear m s) := by
  unfold macApply
  repeat' first
    | with_reducible assumption
    | with_reducible refine onVat_kept _ _ ?_

theorem runMac_kept (d : VatDesc) (clear : Bool) (h : Kept F s) :
    Kept F (runMac d clear s) := by
  unfold runMac
  repeat' first
    | with_reducible assumption
    | with_reducible refine descFault_kept _ _ _ _ _ ?_
    | with_reducible refine starve_kept _ ?_
    | with_reducible refine stopAccumulation_kept _ ?_
    | with_reducible refine macCounts_kept _ _ ?_
    | with_reducible refine macApply_kept _ _ _ ?_
    | with_reducible refine setPhase_kept _ _ _ _ ?_
    | with_reducible refine onBank_kept _ _ ?_
    | with_reducible refine deferAt_kept _ _ ?_
    | with_reducible refine readProblem_kept _ _ _ _ ?_
    | dsimp only
    | split

theorem vatCommand_kept (d : DescRef) (op : Nat) (f : (VatDesc → State → State))
    (hf : ∀ y0 x, Kept F x → Kept F (f y0 x)) (h : Kept F s) :
    KeptO F (vatCommand d op f s) := by
  unfold vatCommand
  repeat' first
    | with_reducible assumption
    | with_reducible refine hf _ _ ?_
    | with_reducible refine next_keptO ?_
    | with_reducible refine occurs_keptO _ _ ?_ ?_
    | with_reducible refine settle_kept _ ?_
    | split
    | intro _

theorem execMac_kept (d : DescRef) (h : Kept F s) :
    KeptO F (execMac d s) := by
  unfold execMac
  repeat' first
    | with_reducible assumption
    | with_reducible refine vatCommand_kept _ _ _ ?_ ?_
    | with_reducible refine runMac_kept _ _ ?_
    | with_reducible refine beginDesc_kept _ ?_
    | intro _

theorem execMacClear_kept (d : DescRef) (h : Kept F s) :
    KeptO F (execMacClear d s) := by
  unfold execMacClear
  repeat' first
    | with_reducible assumption
    | with_reducible refine vatCommand_kept _ _ _ ?_ ?_
    | with_reducible refine runMac_kept _ _ ?_
    | with_reducible refine beginDesc_kept _ ?_
    | intro _

theorem countPart_kept (d : VatDesc) (c : Counts) (h : Kept F s) :
    Kept F (countPart d c s) := by
  unfold countPart
  repeat' first
    | with_reducible assumption
    | with_reducible refine countTask_kept _ _ _ _ _ ?_
    | with_reducible refine drawn_kept ?_

theorem drainOut_kept (d : VatDesc) (ps : List Put) (c : Counts) (load : Bool) (h : Kept F s) :
    Kept F (drainOut d ps c load s) := by
  unfold drainOut
  repeat' first
    | with_reducible assumption
    | with_reducible refine doPutsSpec_kept _ _ _ _ _ ?_
    | with_reducible refine onBank_kept _ _ ?_
    | with_reducible refine setPhase_kept _ _ _ _ ?_
    | with_reducible refine countTask_kept _ _ _ _ _ ?_
    | with_reducible refine doPuts_kept _ _ _ _ ?_
    | with_reducible refine descFault_kept _ _ _ _ _ ?_
    | with_reducible refine readProblem_kept _ _ _ _ ?_
    | with_reducible refine countPart_kept _ _ ?_
    | with_reducible refine scramble_kept _ _ _ _ ?_
    | with_reducible refine cond_kept ?_ ?_
    | split
    | refine Kept.of_fst (by assumption) ?_

theorem runDrain_kept (d : VatDesc) (h : Kept F s) :
    Kept F (runDrain d s) := by
  unfold runDrain
  repeat' first
    | with_reducible assumption
    | with_reducible refine descFault_kept _ _ _ _ _ ?_
    | with_reducible refine deferFault_kept _ _ _ ?_
    | with_reducible refine drainOut_kept _ _ _ _ ?_
    | with_reducible refine deferAt_kept _ _ ?_
    | with_reducible refine readProblem_kept _ _ _ _ ?_
    | with_reducible refine countPart_kept _ _ ?_
    | with_reducible refine scramble_kept _ _ _ _ ?_
    | with_reducible refine cond_kept ?_ ?_
    | split

theorem execDrain_kept (d : DescRef) (h : Kept F s) :
    KeptO F (execDrain d s) := by
  unfold execDrain
  repeat' first
    | with_reducible assumption
    | with_reducible refine vatCommand_kept _ _ _ ?_ ?_
    | with_reducible refine preOpen_kept _ _ _ ?_
    | with_reducible refine runDrain_kept _ ?_
    | with_reducible refine beginDesc_kept _ ?_
    | dsimp only
    | split
    | intro _

theorem loadApply_kept (d : VatDesc) (vs : List (List Val)) (h : Kept F s) :
    Kept F (loadApply d vs s) := by
  unfold loadApply
  repeat' first
    | with_reducible assumption
    | with_reducible refine onVat_kept _ _ ?_

theorem runLoad_kept (d : VatDesc) (k : (State → State)) (hk : ∀ x, Kept F x → Kept F (k x)) (h : Kept F s) :
    Kept F (runLoad d k s) := by
  unfold runLoad
  repeat' first
    | with_reducible assumption
    | with_reducible refine hk _ ?_
    | with_reducible refine onBank_kept _ _ ?_
    | with_reducible refine loadApply_kept _ _ ?_
    | with_reducible refine deferAt_kept _ _ ?_
    | with_reducible refine readProblem_kept _ _ _ _ ?_
    | with_reducible refine stopAccumulation_kept _ ?_
    | dsimp only
    | split

theorem execLoadAcc_kept (d : DescRef) (h : Kept F s) :
    KeptO F (execLoadAcc d s) := by
  unfold execLoadAcc
  repeat' first
    | with_reducible assumption
    | with_reducible refine vatCommand_kept _ _ _ ?_ ?_
    | with_reducible refine runLoad_kept _ _ ?_ ?_
    | with_reducible refine setPhase_kept _ _ _ _ ?_
    | with_reducible refine beginDesc_kept _ ?_
    | intro _

theorem execTranspose_kept (d : DescRef) (h : Kept F s) :
    KeptO F (execTranspose d s) := by
  unfold execTranspose
  repeat' first
    | with_reducible assumption
    | with_reducible refine vatCommand_kept _ _ _ ?_ ?_
    | with_reducible refine preOpen_kept _ _ _ ?_
    | with_reducible refine runLoad_kept _ _ ?_ ?_
    | with_reducible refine descFault_kept _ _ _ _ _ ?_
    | with_reducible refine stopAccumulation_kept _ ?_
    | with_reducible refine drainOut_kept _ _ _ _ ?_
    | with_reducible refine beginDesc_kept _ ?_
    | dsimp only
    | split
    | intro _

theorem execFence_kept (d : DescRef) (h : Kept F s) :
    KeptO F (execFence d s) := by
  unfold execFence
  repeat' first
    | with_reducible assumption
    | with_reducible refine vatCommand_kept _ _ _ ?_ ?_
    | with_reducible refine beginDesc_kept _ ?_
    | intro _

theorem execDescriptorSignal_kept (d : DescRef) (h : Kept F s) :
    KeptO F (execDescriptorSignal d s) := by
  unfold execDescriptorSignal
  repeat' first
    | with_reducible assumption
    | with_reducible refine next_keptO ?_
    | with_reducible refine occurs_keptO _ _ ?_ ?_
    | with_reducible refine setPhase_kept _ _ _ _ ?_
    | with_reducible refine taskAdd_kept _ _ _ _ _ _ ?_
    | with_reducible refine settle_kept _ ?_
    | split
    | intro _

theorem execArrangementReconfigure_kept (vat : Nat) (h : Kept F s) :
    KeptO F (execArrangementReconfigure vat s) := by
  unfold execArrangementReconfigure
  repeat' first
    | with_reducible assumption
    | with_reducible refine next_keptO ?_
    | with_reducible refine occurs_keptO _ _ ?_ ?_
    | with_reducible refine onVat_kept _ _ ?_
    | dsimp only
    | split
    | intro _

theorem takeShape_kept (w : Nat) (h : Kept F s) :
    Kept F (takeShape w s) := by
  unfold takeShape
  repeat' first
    | with_reducible assumption
    | with_reducible refine onView_kept _ ?_
    | split

theorem execVatChangeApply_kept (vat : Nat) (h : Kept F s) :
    KeptO F (execVatChangeApply vat s) := by
  unfold execVatChangeApply
  repeat' first
    | with_reducible assumption
    | with_reducible refine occurs_keptO _ _ ?_ ?_
    | with_reducible refine onVat_kept _ _ ?_
    | with_reducible refine takeShape_kept _ ?_
    | intro _

theorem execFeederStarvationTimeout_kept (vat : Nat) (h : Kept F s) :
    KeptO F (execFeederStarvationTimeout vat s) := by
  unfold execFeederStarvationTimeout
  repeat' first
    | with_reducible assumption
    | with_reducible refine occurs_keptO _ _ ?_ ?_
    | with_reducible refine post_kept _ _ _ _ ?_
    | with_reducible refine onVat_kept _ _ ?_
    | intro _

/-! ### RindStore -/

theorem onImage_kept (no : Nat) (f : (Image → Image)) (h : Kept F s) :
    Kept F (State.onImage no f s) := by
  unfold State.onImage
  repeat' first
    | with_reducible assumption
    | with_reducible refine onRind_kept _ ?_

theorem ensureImage_kept (k : Nat) (h : Kept F s) :
    Kept F (ensureImage k s) := by
  unfold ensureImage
  repeat' first
    | with_reducible assumption
    | with_reducible refine onRind_kept _ ?_
    | split

theorem setPending_kept (k : Nat) (rix : Nat) (h : Kept F s) :
    Kept F (setPending k rix s) := by
  unfold setPending
  repeat' first
    | with_reducible assumption
    | with_reducible refine onStep_kept _ _ ?_
    | with_reducible refine onRecipe_kept _ _ ?_
    | with_reducible refine ensureImage_kept _ ?_
    | with_reducible refine cond_kept ?_ ?_

theorem abandonCapture_kept (c : Capture) (h : Kept F s) :
    Kept F (abandonCapture c s) := by
  unfold abandonCapture
  repeat' first
    | with_reducible assumption
    | with_reducible refine onStep_kept _ _ ?_
    | with_reducible refine onRecipe_kept _ _ ?_
    | with_reducible refine post_kept _ _ _ _ ?_
    | with_reducible refine onRind_kept _ ?_

theorem abandonRecipe_kept (k : Nat) (h : Kept F s) :
    Kept F (abandonRecipe k s) := by
  unfold abandonRecipe
  repeat' first
    | with_reducible assumption
    | with_reducible refine abandonCapture_kept _ ?_
    | with_reducible refine forEach_kept _ _ ?_ ?_
    | intro _

theorem abandonAll_kept (h : Kept F s) :
    Kept F (abandonAll s) := by
  unfold abandonAll
  repeat' first
    | with_reducible assumption
    | with_reducible refine abandonCapture_kept _ ?_
    | with_reducible refine forEach_kept _ _ ?_ ?_
    | intro _

theorem appendJournal_kept (r : Recipe) (j : JournalRec) (h : Kept F s) :
    Kept F (appendJournal r j s) := by
  unfold appendJournal
  repeat' first
    | with_reducible assumption
    | with_reducible refine onRind_kept _ ?_

theorem pruneImages_kept (r : Recipe) (h : Kept F s) :
    Kept F (pruneImages r s) := by
  unfold pruneImages
  repeat' first
    | with_reducible assumption
    | with_reducible refine onRind_kept _ ?_
    | dsimp only
    | split

theorem markRestorable_kept (h : Kept F s) :
    Kept F (markRestorable s) := by
  unfold markRestorable
  repeat' first
    | with_reducible assumption
    | with_reducible refine onRind_kept _ ?_

/-! ### Update -/

theorem updFault_kept (k : Nat) (t : Nat) (i : Nat) (unit : Nat) (code : Nat) (word : Nat) (value : Nat)
    (sub : Nat) (h : Kept F s) :
    Kept F (updFault k t i unit code word value sub s) := by
  unfold updFault
  repeat' first
    | with_reducible assumption
    | with_reducible refine postTranslation_kept _ _ _ ?_
    | with_reducible refine post_kept _ _ _ _ ?_
    | with_reducible refine taskFault_kept _ _ _ _ _ ?_
    | with_reducible refine setPhase_kept _ _ _ _ ?_
    | with_reducible refine cond_kept ?_ ?_

theorem markUpdated_kept (k : Nat) (h : Kept F s) :
    Kept F (markUpdated k s) := by
  unfold markUpdated
  repeat' first
    | with_reducible assumption
    | with_reducible refine onStep_kept _ _ ?_

theorem updAccess_kept (k : Nat) (t : Nat) (i : Nat) (unit : Nat) (word : Nat) (addr : Nat) (a : Access)
    (h : Kept F s) :
    Kept F (updAccess k t i unit word addr a s) := by
  unfold updAccess
  repeat' first
    | with_reducible assumption
    | with_reducible refine updFault_kept _ _ _ _ _ _ _ _ ?_
    | with_reducible refine markUpdated_kept _ ?_
    | with_reducible refine memoryError_kept _ _ _ _ ?_
    | with_reducible refine breachFault_kept _ _ _ ?_
    | with_reducible refine setPhase_kept _ _ _ _ ?_
    | with_reducible refine absorbTask_kept _ _ _ ?_
    | split

theorem beginUpd_kept (d : UpdDesc) (held : Bool) (h : Kept F s) :
    Kept F (beginUpd d held s) := by
  unfold beginUpd
  repeat' first
    | with_reducible assumption
    | with_reducible refine onDesc_kept _ _ _ _ ?_
    | with_reducible refine seq_kept _ ?_

theorem nameLedger_kept (k : Nat) (a : Nat) (h : Kept F s) :
    Kept F (nameLedger k a s) := by
  unfold nameLedger
  repeat' first
    | with_reducible assumption
    | with_reducible refine onStep_kept _ _ ?_
    | with_reducible refine cond_kept ?_ ?_

theorem runUpdBegin_kept (d : UpdDesc) (h : Kept F s) :
    Kept F (runUpdBegin d s) := by
  unfold runUpdBegin
  repeat' first
    | with_reducible assumption
    | with_reducible refine updAccess_kept _ _ _ _ _ _ _ ?_
    | with_reducible refine updFault_kept _ _ _ _ _ _ _ _ ?_
    | with_reducible refine beginUpd_kept _ _ ?_
    | with_reducible refine cond_kept ?_ ?_
    | split

theorem updWrites_kept (k : Nat) (t : Nat) (unit : Nat) (ps : List (Nat × Nat × List Byte)) (h : Kept F s) :
    Kept F (updWrites k t unit ps s).1 := by
  unfold updWrites
  repeat' first
    | with_reducible assumption
    | with_reducible refine taskWrite_kept _ _ _ _ _ ?_
    | with_reducible refine foldl_fst_kept _ _ ?_ _ ?_
    | split
    | intro _
    | refine Kept.of_fst (by assumption) ?_

theorem finalise_kept (d : UpdDesc) (unit : Nat) (a : Nat) (e : List Byte) (h : Kept F s) :
    Kept F (finalise d unit a e s) := by
  unfold finalise
  repeat' first
    | with_reducible assumption
    | with_reducible refine updAccess_kept _ _ _ _ _ _ _ ?_
    | with_reducible refine updWrites_kept _ _ _ _ ?_
    | with_reducible refine post_kept _ _ _ _ ?_
    | with_reducible refine taskAdd_kept _ _ _ _ _ _ ?_
    | dsimp only
    | split

theorem ledgerPacket_kept (d : UpdDesc) (unit : Nat) (p : Nat) (os : List OptOut) (h : Kept F s) :
    Kept F (ledgerPacket d unit p os s) := by
  unfold ledgerPacket
  repeat' first
    | with_reducible assumption
    | with_reducible refine updAccess_kept _ _ _ _ _ _ _ ?_
    | with_reducible refine updWrites_kept _ _ _ _ ?_
    | with_reducible refine onStep_kept _ _ ?_
    | with_reducible refine nameLedger_kept _ _ ?_
    | with_reducible refine finalise_kept _ _ _ _ ?_
    | with_reducible refine markUpdated_kept _ ?_
    | dsimp only
    | split
    | refine Kept.of_fst (by assumption) ?_

theorem keepCounts_kept (d : UpdDesc) (engine : Nat) (record : Nat) (c : Counts) (h : Kept F s) :
    Kept F (keepCounts d engine record c s) := by
  unfold keepCounts
  repeat' first
    | with_reducible assumption
    | with_reducible refine onDesc_kept _ _ _ _ ?_

theorem addCounted_kept (d : UpdDesc) (l : List ((Nat × Nat) × List Nat)) (h : Kept F s) :
    Kept F (addCounted d l s) := by
  unfold addCounted
  repeat' first
    | with_reducible assumption
    | with_reducible refine countTask_kept _ _ _ _ _ ?_
    | with_reducible refine forEach_kept _ _ ?_ ?_
    | intro _

theorem updComplete_kept (d : UpdDesc) (h : Kept F s) :
    Kept F (updComplete d s) := by
  unfold updComplete
  repeat' first
    | with_reducible assumption
    | with_reducible refine setPending_kept _ _ ?_
    | with_reducible refine setPhase_kept _ _ _ _ ?_
    | with_reducible refine addCounted_kept _ _ ?_
    | with_reducible refine cond_kept ?_ ?_
    | split

theorem updBegin_kept (d : DescRef) (mode : Nat) (h : Kept F s) :
    KeptO F (updBegin d mode s) := by
  unfold updBegin
  repeat' first
    | with_reducible assumption
    | with_reducible refine next_keptO ?_
    | with_reducible refine occurs_keptO _ _ ?_ ?_
    | with_reducible refine settle_kept _ ?_
    | with_reducible refine updComplete_kept _ ?_
    | with_reducible refine runUpdBegin_kept _ ?_
    | split
    | intro _

theorem execUpdateNativeApply_kept (d : DescRef) (h : Kept F s) :
    KeptO F (execUpdateNativeApply d s) := by
  unfold execUpdateNativeApply
  repeat' first
    | with_reducible assumption
    | with_reducible refine updBegin_kept _ _ ?_

theorem execUpdateMh4Apply_kept (d : DescRef) (h : Kept F s) :
    KeptO F (execUpdateMh4Apply d s) := by
  unfold execUpdateMh4Apply
  repeat' first
    | with_reducible assumption
    | with_reducible refine updBegin_kept _ _ ?_

theorem execUpdateCopiesOnly_kept (d : DescRef) (h : Kept F s) :
    KeptO F (execUpdateCopiesOnly d s) := by
  unfold execUpdateCopiesOnly
  repeat' first
    | with_reducible assumption
    | with_reducible refine updBegin_kept _ _ ?_

theorem execRatioPassNative_kept (d : DescRef) (h : Kept F s) :
    KeptO F (execRatioPassNative d s) := by
  unfold execRatioPassNative
  repeat' first
    | with_reducible assumption
    | with_reducible refine updBegin_kept _ _ ?_

theorem execRatioPassMh4_kept (d : DescRef) (h : Kept F s) :
    KeptO F (execRatioPassMh4 d s) := by
  unfold execRatioPassMh4
  repeat' first
    | with_reducible assumption
    | with_reducible refine updBegin_kept _ _ ?_

theorem runPacket_kept (d : UpdDesc) (p : Nat) (h : Kept F s) :
    Kept F (runPacket d p s) := by
  unfold runPacket
  repeat' first
    | with_reducible assumption
    | with_reducible refine updAccess_kept _ _ _ _ _ _ _ ?_
    | with_reducible refine onDesc_kept _ _ _ _ ?_
    | with_reducible refine updComplete_kept _ ?_
    | with_reducible refine ledgerPacket_kept _ _ _ _ ?_
    | with_reducible refine updWrites_kept _ _ _ _ ?_
    | with_reducible refine markUpdated_kept _ ?_
    | with_reducible refine keepCounts_kept _ _ _ _ ?_
    | dsimp only
    | split
    | refine Kept.of_fst (by assumption) ?_

theorem endRindWait_kept (d : UpdDesc) (h : Kept F s) :
    Kept F (endRindWait d s) := by
  unfold endRindWait
  repeat' first
    | with_reducible assumption
    | with_reducible refine onRecipe_kept _ _ ?_
    | with_reducible refine onDesc_kept _ _ _ _ ?_
    | split

theorem execUpdatePacket_kept (d : DescRef) (packet : Nat) (h : Kept F s) :
    KeptO F (execUpdatePacket d packet s) := by
  unfold execUpdatePacket
  repeat' first
    | with_reducible assumption
    | with_reducible refine next_keptO ?_
    | with_reducible refine occurs_keptO _ _ ?_ ?_
    | with_reducible refine trackWatchdog_kept _ ?_
    | with_reducible refine onDesc_kept _ _ _ _ ?_
    | with_reducible refine settle_kept _ ?_
    | with_reducible refine runPacket_kept _ _ ?_
    | with_reducible refine endRindWait_kept _ ?_
    | split
    | intro _

theorem runUnit_kept (d : UpdDesc) (record : Nat) (u : Nat) (c : List Nat) (h : Kept F s) :
    Kept F (runUnit d record u c s) := by
  unfold runUnit
  repeat' first
    | with_reducible assumption
    | with_reducible refine updAccess_kept _ _ _ _ _ _ _ ?_
    | with_reducible refine updFault_kept _ _ _ _ _ _ _ _ ?_
    | with_reducible refine updWrites_kept _ _ _ _ ?_
    | with_reducible refine markUpdated_kept _ ?_
    | with_reducible refine keepCounts_kept _ _ _ _ ?_
    | with_reducible refine updComplete_kept _ ?_
    | with_reducible refine onDesc_kept _ _ _ _ ?_
    | dsimp only
    | split
    | refine Kept.of_fst (by assumption) ?_

theorem execEmissionUnit_kept (d : DescRef) (record : Nat) (unit : Nat) (h : Kept F s) :
    KeptO F (execEmissionUnit d record unit s) := by
  unfold execEmissionUnit
  repeat' first
    | with_reducible assumption
    | with_reducible refine next_keptO ?_
    | with_reducible refine occurs_keptO _ _ ?_ ?_
    | with_reducible refine settle_kept _ ?_
    | with_reducible refine runUnit_kept _ _ _ _ ?_
    | split
    | intro _

theorem execVersionWaitTimeout_kept (t : TaskRef) (wait : Nat) (h : Kept F s) :
    KeptO F (execVersionWaitTimeout t wait s) := by
  unfold execVersionWaitTimeout
  repeat' first
    | with_reducible assumption
    | with_reducible refine next_keptO ?_
    | with_reducible refine occurs_keptO _ _ ?_ ?_
    | with_reducible refine post_kept _ _ _ _ ?_
    | with_reducible refine onTask_kept _ _ _ ?_
    | split
    | intro _

theorem execRindWaitTimeout_kept (d : DescRef) (h : Kept F s) :
    KeptO F (execRindWaitTimeout d s) := by
  unfold execRindWaitTimeout
  repeat' first
    | with_reducible assumption
    | with_reducible refine next_keptO ?_
    | with_reducible refine occurs_keptO _ _ ?_ ?_
    | with_reducible refine post_kept _ _ _ _ ?_
    | with_reducible refine onDesc_kept _ _ _ _ ?_
    | split
    | intro _

end Sys2Proof.Machine
end

