-- ==== Sys2Proof/Laws/KeepHinge.lean ====
section
/-! SUPPORT. What the operations of the hinge, the cave tier, the start of steps and the Gate keep: the invariant of
Safety.lean and the fixed part of the state (KeepBase.lean). A law ends in `_kept` and cites those of the operations
that its own calls. -/

namespace Sys2Proof.Machine

variable {F : Fixed} {s : State}

/-! ### Link -/

theorem transmit_kept (p : Nat) (f : List Byte) (h : Kept F s) :
    Kept F (transmit p f s) := by
  unfold transmit
  repeat' first
    | with_reducible assumption
    | with_reducible refine onPort_kept _ _ ?_

theorem sendNull_kept (p : Nat) (flags : Nat) (h : Kept F s) :
    Kept F (sendNull p flags s) := by
  unfold sendNull
  repeat' first
    | with_reducible assumption
    | with_reducible refine onPort_kept _ _ ?_
    | with_reducible refine cond_kept ?_ ?_

theorem pump_kept (a0 : Nat) (a1 : Nat) (h : Kept F s) :
    Kept F (pump a0 a1 s) := by
  induction a0 generalizing s a1 with
  | zero => exact h
  | succ n ih =>
    unfold pump
    repeat' first
      | with_reducible assumption
      | with_reducible refine ih _ ?_
      | with_reducible refine onPort_kept _ _ ?_
      | with_reducible refine transmit_kept _ _ ?_
      | dsimp only
      | split

theorem sendFlits_kept (p : Nat) (fs : List (List Byte)) (h : Kept F s) :
    Kept F (sendFlits p fs s) := by
  unfold sendFlits
  repeat' first
    | with_reducible assumption
    | with_reducible refine onPort_kept _ _ ?_
    | with_reducible refine pump_kept _ _ ?_

theorem sendTo_kept (ty : Nat) (dst : Nat) (tag : Nat) (flags : Nat) (pay : List Byte) (h : Kept F s) :
    Kept F (sendTo ty dst tag flags pay s) := by
  unfold sendTo
  repeat' first
    | with_reducible assumption
    | with_reducible refine sendFlits_kept _ _ ?_
    | split

theorem hingeFault_kept (k : Nat) (t : Nat) (i : Nat) (unit : Nat) (det : Nat) (code : Nat) (word : Nat)
    (peer : Nat) (value : Nat) (sub : Nat) (h : Kept F s) :
    Kept F (hingeFault k t i unit det code word peer value sub s) := by
  unfold hingeFault
  repeat' first
    | with_reducible assumption
    | with_reducible refine postTranslation_kept _ _ _ ?_
    | with_reducible refine post_kept _ _ _ _ ?_
    | with_reducible refine taskFault_kept _ _ _ _ _ ?_
    | with_reducible refine setPhase_kept _ _ _ _ ?_
    | with_reducible refine cond_kept ?_ ?_

/-! ### Hinge -/

theorem HDesc_fault_kept (d : HDesc) (code : Nat) (word : Nat) (peer : Nat) (value : Nat) (sub : Nat) (h : Kept F s) :
    Kept F (HDesc.fault d code word peer value sub s) := by
  unfold HDesc.fault
  repeat' first
    | with_reducible assumption
    | with_reducible refine hingeFault_kept _ _ _ _ _ _ _ _ _ _ ?_

theorem HDesc_access_kept (d : HDesc) (word : Nat) (addr : Nat) (a : Access) (h : Kept F s) :
    Kept F (HDesc.access d word addr a s) := by
  unfold HDesc.access
  repeat' first
    | with_reducible assumption
    | with_reducible refine HDesc_fault_kept _ _ _ _ _ _ ?_
    | with_reducible refine memoryError_kept _ _ _ _ ?_
    | with_reducible refine breachFault_kept _ _ _ ?_
    | with_reducible refine setPhase_kept _ _ _ _ ?_
    | with_reducible refine absorbTask_kept _ _ _ ?_
    | split

theorem HDesc_setStage_kept (d : HDesc) (n : Nat) (h : Kept F s) :
    Kept F (HDesc.setStage d n s) := by
  unfold HDesc.setStage
  repeat' first
    | with_reducible assumption
    | with_reducible refine onDesc_kept _ _ _ _ ?_

theorem HDesc_worked_kept (d : HDesc) (h : Kept F s) :
    Kept F (HDesc.worked d s) := by
  unfold HDesc.worked
  repeat' first
    | with_reducible assumption
    | with_reducible refine setPhase_kept _ _ _ _ ?_

theorem HDesc_read_kept (d : HDesc) (word : Nat) (a : Nat) (n : Nat) (k : (List Byte → State → State))
    (hk : ∀ y0 x, Kept F x → Kept F (k y0 x)) (h : Kept F s) :
    Kept F (HDesc.read d word a n k s) := by
  unfold HDesc.read
  repeat' first
    | with_reducible assumption
    | with_reducible refine hk _ _ ?_
    | with_reducible refine HDesc_access_kept _ _ _ _ ?_
    | split

theorem HDesc_write_kept (d : HDesc) (word : Nat) (a : Nat) (bs : List Byte) (k : (State → State))
    (hk : ∀ x, Kept F x → Kept F (k x)) (h : Kept F s) :
    Kept F (HDesc.write d word a bs k s) := by
  unfold HDesc.write
  repeat' first
    | with_reducible assumption
    | with_reducible refine hk _ ?_
    | with_reducible refine taskWrite_kept _ _ _ _ _ ?_
    | with_reducible refine setPhase_kept _ _ _ _ ?_
    | with_reducible refine HDesc_access_kept _ _ _ _ ?_
    | split
    | refine Kept.of_fst (by assumption) ?_

theorem engineAdd_kept (k : Nat) (tumb : Nat) (n : Nat) (unit : Nat) (h : Kept F s) :
    Kept F (engineAdd k tumb n unit s) := by
  unfold engineAdd
  repeat' first
    | with_reducible assumption
    | with_reducible refine tAdd_kept _ _ _ _ ?_

theorem takeLanding_kept {k slot src ls bytes : Nat} {t : State} (e : takeLanding k slot src ls bytes s = some t)
    (h : Kept F s) : Kept F t := by
  unfold takeLanding at e
  split at e
  · cases e
  · dsimp only at e
    split at e
    · cases e
    · cases e; exact onRecipe_kept _ _ h

theorem landPlace_kept (k : Nat) (slot : Nat) (a : Nat) (h : Kept F s) :
    Kept F (landPlace k slot a s).1 := by
  unfold landPlace
  repeat' first
    | with_reducible assumption
    | with_reducible refine copyPage_kept _ _ _ ?_
    | with_reducible refine onRecipe_kept _ _ ?_
    | split

theorem landPiece_kept (k : Nat) (slot : Nat) (a : Nat) (bs : List Byte) (h : Kept F s) :
    Kept F (landPiece k slot a bs s).1 := by
  unfold landPiece
  repeat' first
    | with_reducible assumption
    | with_reducible refine landPlace_kept _ _ _ ?_
    | with_reducible refine locWrite_kept _ _ ?_
    | split
    | refine Kept.of_fst (by assumption) ?_

theorem landData_kept (k : Nat) (mode : Nat) (slot : Nat) (a : Nat) (bs : List Byte) (h : Kept F s) :
    Kept F (landData k mode slot a bs s).1 := by
  unfold landData
  repeat' first
    | with_reducible assumption
    | with_reducible refine landPiece_kept _ _ _ _ ?_
    | with_reducible refine caveCopyWrite_kept _ _ _ ?_
    | with_reducible refine locWrite_kept _ _ ?_
    | with_reducible refine foldl_fst_kept _ _ ?_ _ ?_
    | split
    | intro _

theorem landDone_kept (k : Nat) (mode : Nat) (slot : Nat) (rhandle : Nat) (rinc : Nat) (ls : Nat) (dest : Nat)
    (unit : Nat) (h : Kept F s) :
    Kept F (landDone k mode slot rhandle rinc ls dest unit s) := by
  unfold landDone
  repeat' first
    | with_reducible assumption
    | with_reducible refine onHinge_kept _ ?_ ?_
    | with_reducible refine onRecipe_kept _ _ ?_
    | with_reducible refine engineAdd_kept _ _ _ _ ?_
    | exact fun _ hx => hx
    | with_reducible refine cond_kept ?_ ?_

theorem landingRefused_kept (k : Nat) (unit : Nat) (h : Kept F s) :
    Kept F (landingRefused k unit s) := by
  unfold landingRefused
  repeat' first
    | with_reducible assumption
    | with_reducible refine onStep_kept _ _ ?_
    | with_reducible refine countDet_kept _ ?_
    | with_reducible refine sendRec_kept _ ?_
    | dsimp only
    | split

theorem localPut_kept (d : HDesc) (x : Transfer) (h : Kept F s) : Kept F (localPut d x s).1 := by
  unfold localPut
  split
  · exact h
  · split
    · exact landingRefused_kept _ _ h
    · rename_i s1 e
      have h1 : Kept F s1 := by
        split at e
        · exact takeLanding_kept e h
        · cases e; exact h
      have h2 := landData_kept (F := F) (s := s1)
      split
      · rename_i e2; exact Kept.of_fst e2 (h2 _ _ _ _ _ h1)
      · rename_i e2; exact landDone_kept _ _ _ _ _ _ _ _ (Kept.of_fst e2 (h2 _ _ _ _ _ h1))

theorem takeTag_kept (h : Kept F s) :
    Kept F (takeTag s).2 := by
  unfold takeTag
  repeat' first
    | with_reducible assumption
    | with_reducible refine onHinge_kept _ ?_ ?_
    | exact fun _ hx => hx

theorem answered_kept (k : Nat) (t : Nat) (i : Nat) (rank : Nat) (mode : Nat) (nack : Option (Nat × Nat))
    (h : Kept F s) :
    Kept F (answered k t i rank mode nack s) := by
  unfold answered
  repeat' first
    | with_reducible assumption
    | with_reducible refine onDesc_kept _ _ _ _ ?_
    | with_reducible refine hingeFault_kept _ _ _ _ _ _ _ _ _ _ ?_
    | split

theorem sendTransfer_kept (d : HDesc) (x0 : Transfer) (h : Kept F s) :
    Kept F (sendTransfer d x0 s) := by
  unfold sendTransfer
  repeat' first
    | with_reducible assumption
    | with_reducible refine localPut_kept _ _ ?_
    | with_reducible refine answered_kept _ _ _ _ _ _ ?_
    | with_reducible refine takeTag_kept ?_
    | with_reducible refine hingeFault_kept _ _ _ _ _ _ _ _ _ _ ?_
    | with_reducible refine onDesc_kept _ _ _ _ ?_
    | with_reducible refine onHinge_kept _ ?_ ?_
    | with_reducible refine sendFlits_kept _ _ ?_
    | exact fun _ hx => hx
    | dsimp only
    | split

theorem finishSends_kept (d : HDesc) (h : Kept F s) :
    Kept F (finishSends d s) := by
  unfold finishSends
  repeat' first
    | with_reducible assumption
    | with_reducible refine HDesc_worked_kept _ ?_
    | with_reducible refine cond_kept ?_ ?_

theorem beginHinge_kept (d : HDesc) (h : Kept F s) :
    Kept F (beginHinge d s) := by
  unfold beginHinge
  repeat' first
    | with_reducible assumption
    | with_reducible refine setPhase_kept _ _ _ _ ?_

theorem hingeCommand_kept (d : DescRef) (test : (HDesc → Bool)) (start : (HDesc → State → State))
    (next : (HDesc → State → State)) (hstart : ∀ y0 x, Kept F x → Kept F (start y0 x))
    (hnext : ∀ y0 x, Kept F x → Kept F (next y0 x)) (h : Kept F s) :
    KeptO F (hingeCommand d test start next s) := by
  unfold hingeCommand
  repeat' first
    | with_reducible assumption
    | with_reducible refine hnext _ _ ?_
    | with_reducible refine hstart _ _ ?_
    | with_reducible refine next_keptO ?_
    | with_reducible refine settle_kept _ ?_
    | with_reducible refine beginHinge_kept _ ?_
    | split

theorem noNext_kept (a0 : HDesc) (h : Kept F s) :
    Kept F (noNext a0 s) := by
  unfold noNext
  repeat' first
    | with_reducible assumption

theorem execHingePut_kept (d : DescRef) (h : Kept F s) :
    KeptO F (execHingePut d s) := by
  unfold execHingePut
  repeat' first
    | with_reducible assumption
    | with_reducible refine hingeCommand_kept _ _ _ _ ?_ ?_ ?_
    | with_reducible refine HDesc_read_kept _ _ _ _ _ ?_ ?_
    | with_reducible refine finishSends_kept _ ?_
    | with_reducible refine sendTransfer_kept _ _ ?_
    | with_reducible refine noNext_kept _ ?_
    | intro _

theorem dropPost_kept (d : HDesc) (p : ExpertPlan) (ord : Nat) (h : Kept F s) :
    Kept F (dropPost d p ord s) := by
  unfold dropPost
  repeat' first
    | with_reducible assumption
    | with_reducible refine post_kept _ _ _ _ ?_
    | with_reducible refine cond_kept ?_ ?_

theorem runDispatch_kept (d : HDesc) (mode : Nat) (sel : (Nat → Bool)) (h : Kept F s) :
    Kept F (runDispatch d mode sel s) := by
  unfold runDispatch
  repeat' first
    | with_reducible assumption
    | with_reducible refine HDesc_read_kept _ _ _ _ _ ?_ ?_
    | with_reducible refine HDesc_write_kept _ _ _ _ _ ?_ ?_
    | with_reducible refine dropPost_kept _ _ _ ?_
    | with_reducible refine finishSends_kept _ ?_
    | with_reducible refine sendTransfer_kept _ _ ?_
    | with_reducible refine forEach_kept _ _ ?_ ?_
    | intro _

theorem execDispatchOrdinary_kept (d : DescRef) (h : Kept F s) :
    KeptO F (execDispatchOrdinary d s) := by
  unfold execDispatchOrdinary
  repeat' first
    | with_reducible assumption
    | with_reducible refine hingeCommand_kept _ _ _ _ ?_ ?_ ?_
    | with_reducible refine runDispatch_kept _ _ _ ?_
    | with_reducible refine noNext_kept _ ?_
    | intro _

theorem execDispatchSpeculative_kept (d : DescRef) (h : Kept F s) :
    KeptO F (execDispatchSpeculative d s) := by
  unfold execDispatchSpeculative
  repeat' first
    | with_reducible assumption
    | with_reducible refine hingeCommand_kept _ _ _ _ ?_ ?_ ?_
    | with_reducible refine runDispatch_kept _ _ _ ?_
    | with_reducible refine noNext_kept _ ?_
    | intro _

theorem execDispatchResend_kept (d : DescRef) (h : Kept F s) :
    KeptO F (execDispatchResend d s) := by
  unfold execDispatchResend
  repeat' first
    | with_reducible assumption
    | with_reducible refine hingeCommand_kept _ _ _ _ ?_ ?_ ?_
    | with_reducible refine HDesc_read_kept _ _ _ _ _ ?_ ?_
    | with_reducible refine runDispatch_kept _ _ _ ?_
    | with_reducible refine noNext_kept _ ?_
    | intro _

theorem applyGuard_kept (k : Nat) (slot : Nat) (verdict : Nat) (x0 : Nat) (lt : Nat) (n : Nat) (unit : Nat)
    (h : Kept F s) :
    Kept F (applyGuard k slot verdict x0 lt n unit s) := by
  unfold applyGuard
  repeat' first
    | with_reducible assumption
    | with_reducible refine onRecipe_kept _ _ ?_
    | with_reducible refine exchangePage_kept _ _ ?_
    | with_reducible refine completeShadow_kept _ _ ?_
    | with_reducible refine engineAdd_kept _ _ _ _ ?_
    | with_reducible refine forEach_kept _ _ ?_ ?_
    | with_reducible refine cond_kept ?_ ?_
    | intro _

theorem sendGuard_kept (d : HDesc) (k : Nat) (verdict : Nat) (h : Kept F s) :
    Kept F (sendGuard d k verdict s) := by
  unfold sendGuard
  repeat' first
    | with_reducible assumption
    | with_reducible refine applyGuard_kept _ _ _ _ _ _ _ ?_
    | with_reducible refine takeTag_kept ?_
    | with_reducible refine hingeFault_kept _ _ _ _ _ _ _ _ _ _ ?_
    | with_reducible refine onDesc_kept _ _ _ _ ?_
    | with_reducible refine onHinge_kept _ ?_ ?_
    | with_reducible refine sendFlits_kept _ _ ?_
    | exact fun _ hx => hx
    | dsimp only
    | split

theorem finishVerify_kept (d : HDesc) (h : Kept F s) :
    Kept F (finishVerify d s) := by
  unfold finishVerify
  repeat' first
    | with_reducible assumption
    | with_reducible refine HDesc_access_kept _ _ _ _ ?_
    | with_reducible refine HDesc_worked_kept _ ?_
    | with_reducible refine taskAdd_kept _ _ _ _ _ _ ?_
    | split

theorem runVerify_kept (d : HDesc) (h : Kept F s) :
    Kept F (runVerify d s) := by
  unfold runVerify
  repeat' first
    | with_reducible assumption
    | with_reducible refine HDesc_read_kept _ _ _ _ _ ?_ ?_
    | with_reducible refine HDesc_write_kept _ _ _ _ _ ?_ ?_
    | with_reducible refine finishVerify_kept _ ?_
    | with_reducible refine sendGuard_kept _ _ _ ?_
    | with_reducible refine forEach_kept _ _ ?_ ?_
    | intro _

theorem execVerify_kept (d : DescRef) (h : Kept F s) :
    KeptO F (execVerify d s) := by
  unfold execVerify
  repeat' first
    | with_reducible assumption
    | with_reducible refine hingeCommand_kept _ _ _ _ ?_ ?_ ?_
    | with_reducible refine runVerify_kept _ ?_
    | with_reducible refine finishVerify_kept _ ?_
    | intro _

theorem runUnpack_kept (d : HDesc) (h : Kept F s) :
    Kept F (runUnpack d s) := by
  unfold runUnpack
  repeat' first
    | with_reducible assumption
    | with_reducible refine HDesc_access_kept _ _ _ _ ?_
    | with_reducible refine HDesc_write_kept _ _ _ _ _ ?_ ?_
    | with_reducible refine HDesc_worked_kept _ ?_
    | dsimp only
    | split
    | intro _

theorem execUnpack_kept (d : DescRef) (h : Kept F s) :
    KeptO F (execUnpack d s) := by
  unfold execUnpack
  repeat' first
    | with_reducible assumption
    | with_reducible refine hingeCommand_kept _ _ _ _ ?_ ?_ ?_
    | with_reducible refine runUnpack_kept _ ?_
    | with_reducible refine noNext_kept _ ?_
    | intro _

theorem useArrival_kept (k : Nat) (handle : Nat) (dest : Nat) (h : Kept F s) :
    Kept F (useArrival k handle dest s) := by
  unfold useArrival
  repeat' first
    | with_reducible assumption
    | with_reducible refine onHinge_kept _ ?_ ?_
    | exact fun _ hx => hx

theorem combineReturns_kept (d : HDesc) (h : Kept F s) :
    Kept F (combineReturns d s) := by
  unfold combineReturns
  repeat' first
    | with_reducible assumption
    | with_reducible refine HDesc_read_kept _ _ _ _ _ ?_ ?_
    | with_reducible refine HDesc_setStage_kept _ _ ?_
    | with_reducible refine sendTransfer_kept _ _ ?_
    | with_reducible refine forEach_kept _ _ ?_ ?_
    | dsimp only
    | split
    | intro _

theorem combineSum_kept (d : HDesc) (h : Kept F s) :
    Kept F (combineSum d s) := by
  unfold combineSum
  repeat' first
    | with_reducible assumption
    | with_reducible refine HDesc_read_kept _ _ _ _ _ ?_ ?_
    | with_reducible refine useArrival_kept _ _ _ ?_
    | with_reducible refine HDesc_access_kept _ _ _ _ ?_
    | with_reducible refine HDesc_write_kept _ _ _ _ _ ?_ ?_
    | with_reducible refine HDesc_worked_kept _ ?_
    | with_reducible refine forEach_kept _ _ ?_ ?_
    | dsimp only
    | split
    | intro _

theorem execCombine_kept (d : DescRef) (h : Kept F s) :
    KeptO F (execCombine d s) := by
  unfold execCombine
  repeat' first
    | with_reducible assumption
    | with_reducible refine hingeCommand_kept _ _ _ _ ?_ ?_ ?_
    | with_reducible refine combineReturns_kept _ ?_
    | with_reducible refine combineSum_kept _ ?_
    | dsimp only
    | split
    | intro _

theorem HDesc_ownChunk_kept (d : HDesc) (c : Nat) (k : (List Val → State → State))
    (hk : ∀ y0 x, Kept F x → Kept F (k y0 x)) (h : Kept F s) :
    Kept F (HDesc.ownChunk d c k s) := by
  unfold HDesc.ownChunk
  repeat' first
    | with_reducible assumption
    | with_reducible refine hk _ _ ?_
    | with_reducible refine HDesc_read_kept _ _ _ _ _ ?_ ?_
    | intro _

theorem stageSend_kept (d : HDesc) (rank : Nat) (off : Nat) (vs : List Val) (h : Kept F s) :
    Kept F (stageSend d rank off vs s) := by
  unfold stageSend
  repeat' first
    | with_reducible assumption
    | with_reducible refine sendTransfer_kept _ _ ?_
    | with_reducible refine cond_kept ?_ ?_

theorem writeOwn_kept (d : HDesc) (vs : List Val) (k : (State → State)) (hk : ∀ x, Kept F x → Kept F (k x))
    (h : Kept F s) :
    Kept F (writeOwn d vs k s) := by
  unfold writeOwn
  repeat' first
    | with_reducible assumption
    | with_reducible refine HDesc_write_kept _ _ _ _ _ ?_ ?_

theorem gatherSend_kept (d : HDesc) (from_ : Nat) (h : Kept F s) :
    Kept F (gatherSend d from_ s) := by
  unfold gatherSend
  repeat' first
    | with_reducible assumption
    | with_reducible refine HDesc_read_kept _ _ _ _ _ ?_ ?_
    | with_reducible refine sendTransfer_kept _ _ ?_
    | with_reducible refine forEach_kept _ _ ?_ ?_
    | with_reducible refine cond_kept ?_ ?_
    | intro _

theorem gatherEnd_kept (d : HDesc) (h : Kept F s) :
    Kept F (gatherEnd d s) := by
  unfold gatherEnd
  repeat' first
    | with_reducible assumption
    | with_reducible refine HDesc_worked_kept _ ?_
    | with_reducible refine useArrival_kept _ _ _ ?_
    | with_reducible refine forEach_kept _ _ ?_ ?_
    | with_reducible refine cond_kept ?_ ?_
    | intro _

theorem reduced_kept (d : HDesc) (h : Kept F s) :
    Kept F (reduced d s) := by
  unfold reduced
  repeat' first
    | with_reducible assumption
    | with_reducible refine HDesc_worked_kept _ ?_
    | with_reducible refine HDesc_setStage_kept _ _ ?_
    | with_reducible refine gatherSend_kept _ _ ?_
    | with_reducible refine gatherEnd_kept _ ?_
    | with_reducible refine cond_kept ?_ ?_

theorem directSum_kept (d : HDesc) (h : Kept F s) :
    Kept F (directSum d s) := by
  unfold directSum
  repeat' first
    | with_reducible assumption
    | with_reducible refine reduced_kept _ ?_
    | with_reducible refine useArrival_kept _ _ _ ?_
    | with_reducible refine HDesc_ownChunk_kept _ _ _ ?_ ?_
    | with_reducible refine HDesc_read_kept _ _ _ _ _ ?_ ?_
    | with_reducible refine writeOwn_kept _ _ _ ?_ ?_
    | with_reducible refine forEach_kept _ _ ?_ ?_
    | with_reducible refine cond_kept ?_ ?_
    | intro _

theorem ringSteps_kept (a0 : Nat) (a1 : Nat) (a2 : HDesc) (h : Kept F s) :
    Kept F (ringSteps a0 a1 a2 s) := by
  induction a0 generalizing s a1 a2 with
  | zero => exact h
  | succ n ih =>
    unfold ringSteps
    repeat' first
      | with_reducible assumption
      | with_reducible refine ih _ _ ?_
      | with_reducible refine HDesc_setStage_kept _ _ ?_
      | with_reducible refine HDesc_read_kept _ _ _ _ _ ?_ ?_
      | with_reducible refine useArrival_kept _ _ _ ?_
      | with_reducible refine HDesc_ownChunk_kept _ _ _ ?_ ?_
      | with_reducible refine stageSend_kept _ _ _ _ ?_
      | with_reducible refine writeOwn_kept _ _ _ ?_ ?_
      | with_reducible refine reduced_kept _ ?_
      | with_reducible refine cond_kept ?_ ?_
      | intro _

theorem reduceStart_kept (d : HDesc) (h : Kept F s) :
    Kept F (reduceStart d s) := by
  unfold reduceStart
  repeat' first
    | with_reducible assumption
    | with_reducible refine HDesc_ownChunk_kept _ _ _ ?_ ?_
    | with_reducible refine writeOwn_kept _ _ _ ?_ ?_
    | with_reducible refine reduced_kept _ ?_
    | with_reducible refine HDesc_setStage_kept _ _ ?_
    | with_reducible refine stageSend_kept _ _ _ _ ?_
    | with_reducible refine directSum_kept _ ?_
    | with_reducible refine ringSteps_kept _ _ _ ?_
    | with_reducible refine forEach_kept _ _ ?_ ?_
    | with_reducible refine cond_kept ?_ ?_
    | intro _

theorem reduceNext_kept (d : HDesc) (h : Kept F s) :
    Kept F (reduceNext d s) := by
  unfold reduceNext
  repeat' first
    | with_reducible assumption
    | with_reducible refine gatherEnd_kept _ ?_
    | with_reducible refine directSum_kept _ ?_
    | with_reducible refine ringSteps_kept _ _ _ ?_
    | with_reducible refine cond_kept ?_ ?_

theorem execAllReduce_kept (d : DescRef) (h : Kept F s) :
    KeptO F (execAllReduce d s) := by
  unfold execAllReduce
  repeat' first
    | with_reducible assumption
    | with_reducible refine hingeCommand_kept _ _ _ _ ?_ ?_ ?_
    | with_reducible refine reduceStart_kept _ ?_
    | with_reducible refine reduceNext_kept _ ?_
    | intro _

theorem execReduceScatter_kept (d : DescRef) (h : Kept F s) :
    KeptO F (execReduceScatter d s) := by
  unfold execReduceScatter
  repeat' first
    | with_reducible assumption
    | with_reducible refine hingeCommand_kept _ _ _ _ ?_ ?_ ?_
    | with_reducible refine reduceStart_kept _ ?_
    | with_reducible refine reduceNext_kept _ ?_
    | intro _

theorem gatherStart_kept (d : HDesc) (h : Kept F s) :
    Kept F (gatherStart d s) := by
  unfold gatherStart
  repeat' first
    | with_reducible assumption
    | with_reducible refine HDesc_read_kept _ _ _ _ _ ?_ ?_
    | with_reducible refine HDesc_write_kept _ _ _ _ _ ?_ ?_
    | with_reducible refine HDesc_setStage_kept _ _ ?_
    | with_reducible refine gatherSend_kept _ _ ?_
    | with_reducible refine gatherEnd_kept _ ?_
    | dsimp only
    | split
    | intro _

theorem execAllGather_kept (d : DescRef) (h : Kept F s) :
    KeptO F (execAllGather d s) := by
  unfold execAllGather
  repeat' first
    | with_reducible assumption
    | with_reducible refine hingeCommand_kept _ _ _ _ ?_ ?_ ?_
    | with_reducible refine gatherStart_kept _ ?_
    | with_reducible refine gatherEnd_kept _ ?_
    | intro _

theorem spanAddLocal_kept (k : Nat) (tumb : Nat) (inc : Nat) (unit : Nat) (h : Kept F s) :
    Kept F (spanAddLocal k tumb inc unit s) := by
  unfold spanAddLocal
  repeat' first
    | with_reducible assumption
    | with_reducible refine tAdd_kept _ _ _ _ ?_

theorem spanAll_kept (k : Nat) (j : Job) (tag : Nat) (tumb : Nat) (inc : Nat) (unit : Nat) (h : Kept F s) :
    Kept F (spanAll k j tag tumb inc unit s) := by
  unfold spanAll
  repeat' first
    | with_reducible assumption
    | with_reducible refine spanAddLocal_kept _ _ _ _ ?_
    | with_reducible refine sendTo_kept _ _ _ _ _ ?_
    | with_reducible refine forEach_kept _ _ ?_ ?_
    | split
    | intro _

theorem finishSpan_kept (d : HDesc) (h : Kept F s) :
    Kept F (finishSpan d s) := by
  unfold finishSpan
  repeat' first
    | with_reducible assumption
    | with_reducible refine HDesc_worked_kept _ ?_
    | with_reducible refine onDesc_kept _ _ _ _ ?_
    | with_reducible refine cond_kept ?_ ?_

theorem execSpan_kept (d : DescRef) (h : Kept F s) :
    KeptO F (execSpan d s) := by
  unfold execSpan
  repeat' first
    | with_reducible assumption
    | with_reducible refine hingeCommand_kept _ _ _ _ ?_ ?_ ?_
    | with_reducible refine takeTag_kept ?_
    | with_reducible refine onDesc_kept _ _ _ _ ?_
    | with_reducible refine hingeFault_kept _ _ _ _ _ _ _ _ _ _ ?_
    | with_reducible refine finishSpan_kept _ ?_
    | with_reducible refine spanAll_kept _ _ _ _ _ _ ?_
    | dsimp only
    | split
    | intro _

theorem applyChain_kept (c : Chain) (h : Kept F s) :
    Kept F (applyChain c s) := by
  unfold applyChain
  repeat' first
    | with_reducible assumption
    | with_reducible refine takeTag_kept ?_
    | with_reducible refine spanAll_kept _ _ _ _ _ _ ?_
    | with_reducible refine tAdd_kept _ _ _ _ ?_
    | split

theorem execChainAction_kept (k : Nat) (h : Kept F s) :
    KeptO F (execChainAction k s) := by
  unfold execChainAction
  repeat' first
    | with_reducible assumption
    | with_reducible refine next_keptO ?_
    | with_reducible refine settle_kept _ ?_
    | with_reducible refine applyChain_kept _ ?_
    | split
    | with_reducible refine chains_kept _ ?_

/-! ### Ports -/

theorem faultWaiters_kept (k : Nat) (det : Nat) (peer : Nat) (failed : (Nat → Bool)) (h : Kept F s) :
    Kept F (faultWaiters k det peer failed s) := by
  unfold faultWaiters
  repeat' first
    | with_reducible assumption
    | with_reducible refine next_keptO ?_
    | with_reducible refine hingeFault_kept _ _ _ _ _ _ _ _ _ _ ?_
    | with_reducible refine forEach_kept _ _ ?_ ?_
    | with_reducible refine foldl_kept _ _ ?_ ?_
    | with_reducible refine foldl_fst_kept _ _ ?_ _ ?_
    | with_reducible refine cond_kept ?_ ?_
    | dsimp only
    | split
    | intro _

theorem portNotice_kept (p : Nat) (peer : Nat) (tag : Nat) (m : Nat) (h : Kept F s) :
    Kept F (portNotice p peer tag m s) := by
  unfold portNotice
  repeat' first
    | with_reducible assumption
    | with_reducible refine sendTo_kept _ _ _ _ _ ?_
    | with_reducible refine cond_kept ?_ ?_

theorem noticeJob_kept (p : Nat) (peer : Nat) (k : Nat) (h : Kept F s) :
    Kept F (noticeJob p peer k s) := by
  unfold noticeJob
  repeat' first
    | with_reducible assumption
    | with_reducible refine portNotice_kept _ _ _ _ ?_
    | with_reducible refine forEach_kept _ _ ?_ ?_
    | split
    | intro _

theorem portStop_kept (p : Nat) (det : Nat) (h : Kept F s) :
    Kept F (portStop p det s) := by
  unfold portStop
  repeat' first
    | with_reducible assumption
    | with_reducible refine onHinge_kept _ ?_ ?_
    | with_reducible refine onPort_kept _ _ ?_
    | with_reducible refine hingeFault_kept _ _ _ _ _ _ _ _ _ _ ?_
    | with_reducible refine portNotice_kept _ _ _ _ ?_
    | with_reducible refine noticeJob_kept _ _ _ ?_
    | with_reducible refine settle_kept _ ?_
    | with_reducible refine faultWaiters_kept _ _ _ _ ?_
    | with_reducible refine forEach_kept _ _ ?_ ?_
    | with_reducible refine cond_kept ?_ ?_
    | intro _

theorem portPost_kept (det : Nat) (p : Nat) (h : Kept F s) :
    Kept F (portPost det p s) := by
  unfold portPost
  repeat' first
    | with_reducible assumption
    | with_reducible refine post_kept _ _ _ _ ?_

theorem portWpost_kept (det : Nat) (p : Nat) (h : Kept F s) :
    Kept F (portWpost det p s) := by
  unfold portWpost
  repeat' first
    | with_reducible assumption
    | with_reducible refine wpost_kept _ _ _ _ ?_

theorem setPort_kept (p : Nat) (st : PortState) (h : Kept F s) :
    Kept F (setPort p st s) := by
  unfold setPort
  repeat' first
    | with_reducible assumption
    | with_reducible refine next_keptO ?_
    | with_reducible refine onPort_kept _ _ ?_

theorem withdrawPort_kept (p : Nat) (target : PortState) (det : Nat) (h : Kept F s) :
    Kept F (withdrawPort p target det s) := by
  unfold withdrawPort
  repeat' first
    | with_reducible assumption
    | with_reducible refine next_keptO ?_
    | with_reducible refine queueUpdate_kept _ ?_
    | with_reducible refine setPort_kept _ _ ?_

theorem startRetrain_kept (p : Nat) (h : Kept F s) :
    Kept F (startRetrain p s) := by
  unfold startRetrain
  repeat' first
    | with_reducible assumption
    | with_reducible refine next_keptO ?_
    | with_reducible refine post_kept _ _ _ _ ?_
    | with_reducible refine withdrawPort_kept _ _ _ ?_
    | with_reducible refine portStop_kept _ _ ?_
    | with_reducible refine setPort_kept _ _ ?_
    | with_reducible refine onPort_kept _ _ ?_
    | with_reducible refine foldl_kept _ _ ?_ ?_
    | with_reducible refine foldl_fst_kept _ _ ?_ _ ?_
    | with_reducible refine cond_kept ?_ ?_

theorem protocolError_kept (p : Nat) (h : Kept F s) :
    Kept F (protocolError p s) := by
  unfold protocolError
  repeat' first
    | with_reducible assumption
    | with_reducible refine next_keptO ?_
    | with_reducible refine post_kept _ _ _ _ ?_
    | with_reducible refine startRetrain_kept _ ?_
    | with_reducible refine foldl_kept _ _ ?_ ?_
    | with_reducible refine foldl_fst_kept _ _ ?_ _ ?_
    | with_reducible refine cond_kept ?_ ?_

theorem sendLinkInit_kept (p : Nat) (mask : Nat) (h : Kept F s) :
    Kept F (sendLinkInit p mask s) := by
  unfold sendLinkInit
  repeat' first
    | with_reducible assumption
    | with_reducible refine onPort_kept _ _ ?_

theorem execPortRetrain_kept (port : Nat) (cause : RetrainCause) (h : Kept F s) :
    KeptO F (execPortRetrain port cause s) := by
  unfold execPortRetrain
  repeat' first
    | with_reducible assumption
    | with_reducible refine next_keptO ?_
    | with_reducible refine occurs_keptO _ _ ?_ ?_
    | with_reducible refine protocolError_kept _ ?_
    | with_reducible refine startRetrain_kept _ ?_
    | with_reducible refine foldl_kept _ _ ?_ ?_
    | with_reducible refine foldl_fst_kept _ _ ?_ _ ?_
    | with_reducible refine cond_kept ?_ ?_
    | dsimp only
    | split
    | intro _

theorem retrainFailed_kept (p : Nat) (h : Kept F s) :
    Kept F (retrainFailed p s) := by
  unfold retrainFailed
  repeat' first
    | with_reducible assumption
    | with_reducible refine next_keptO ?_
    | with_reducible refine withdrawPort_kept _ _ _ ?_
    | with_reducible refine portPost_kept _ _ ?_

theorem execRetrainComplete_kept (port : Nat) (train : HingeTrain) (h : Kept F s) :
    KeptO F (execRetrainComplete port train s) := by
  unfold execRetrainComplete
  repeat' first
    | with_reducible assumption
    | with_reducible refine next_keptO ?_
    | with_reducible refine occurs_keptO _ _ ?_ ?_
    | with_reducible refine retrainFailed_kept _ ?_
    | with_reducible refine withdrawPort_kept _ _ _ ?_
    | with_reducible refine post_kept _ _ _ _ ?_
    | with_reducible refine onPort_kept _ _ ?_
    | with_reducible refine sendLinkInit_kept _ _ ?_
    | with_reducible refine setPort_kept _ _ ?_
    | with_reducible refine foldl_kept _ _ ?_ ?_
    | with_reducible refine foldl_fst_kept _ _ ?_ _ ?_
    | with_reducible refine cond_kept ?_ ?_
    | dsimp only
    | split
    | intro _

theorem execRetrainTimeout_kept (port : Nat) (h : Kept F s) :
    KeptO F (execRetrainTimeout port s) := by
  unfold execRetrainTimeout
  repeat' first
    | with_reducible assumption
    | with_reducible refine next_keptO ?_
    | with_reducible refine occurs_keptO _ _ ?_ ?_
    | with_reducible refine retrainFailed_kept _ ?_
    | with_reducible refine foldl_kept _ _ ?_ ?_
    | with_reducible refine foldl_fst_kept _ _ ?_ _ ?_
    | with_reducible refine cond_kept ?_ ?_
    | dsimp only
    | split
    | intro _

theorem execPreFecBerWindow_kept (port : Nat) (ber : ℚ) (corrected : Nat) (uncorrectable : Nat) (h : Kept F s) :
    KeptO F (execPreFecBerWindow port ber corrected uncorrectable s) := by
  unfold execPreFecBerWindow
  repeat' first
    | with_reducible assumption
    | with_reducible refine next_keptO ?_
    | with_reducible refine occurs_keptO _ _ ?_ ?_
    | with_reducible refine onPort_kept _ _ ?_
    | with_reducible refine postAbove_kept _ _ _ _ _ _ _ _ ?_
    | with_reducible refine post_kept _ _ _ _ ?_
    | with_reducible refine onEvents_kept _ ?_ ?_ ?_
    | with_reducible refine startRetrain_kept _ ?_
    | exact fun _ hx => hx
    | exact fun _ hx => memWrite_wf _ _ _ hx
    | exact fun _ hx => memClear_wf _ _ _ hx
    | exact fun _ hx => (length_modAt _ _ _).trans hx
    | with_reducible refine foldl_kept _ _ ?_ ?_
    | with_reducible refine foldl_fst_kept _ _ ?_ _ ?_
    | with_reducible refine cond_kept ?_ ?_
    | dsimp only
    | split
    | intro _

/-! ### HingeRx -/

theorem linkFields_kept (p : Nat) (f : List Byte) (h : Kept F s) :
    Kept F (linkFields p f s) := by
  unfold linkFields
  repeat' first
    | with_reducible assumption
    | with_reducible refine onPort_kept _ _ ?_
    | with_reducible refine pump_kept _ _ ?_

theorem returnCredits_kept (p : Nat) (h : Kept F s) :
    Kept F (returnCredits p s) := by
  unfold returnCredits
  repeat' first
    | with_reducible assumption
    | with_reducible refine sendNull_kept _ _ ?_
    | with_reducible refine cond_kept ?_ ?_

theorem accept_kept (p : Nat) (f : List Byte) (h : Kept F s) :
    Kept F (accept p f s) := by
  unfold accept
  repeat' first
    | with_reducible assumption
    | with_reducible refine linkFields_kept _ _ ?_
    | with_reducible refine onPort_kept _ _ ?_

theorem message_kept (port : Nat) (ty : Nat) (f : List Byte) (effect : (State → State))
    (heffect : ∀ x, Kept F x → Kept F (effect x)) (h : Kept F s) :
    KeptO F (message port ty f effect s) := by
  unfold message
  repeat' first
    | with_reducible assumption
    | with_reducible refine heffect _ ?_
    | with_reducible refine occurs_keptO _ _ ?_ ?_
    | with_reducible refine protocolError_kept _ ?_
    | with_reducible refine returnCredits_kept _ ?_
    | with_reducible refine accept_kept _ _ ?_
    | split
    | intro _

theorem replayFrom_kept (p : Nat) (h : Kept F s) :
    Kept F (replayFrom p s) := by
  unfold replayFrom
  repeat' first
    | with_reducible assumption
    | with_reducible refine postAbove_kept _ _ _ _ _ _ _ _ ?_
    | with_reducible refine onPort_kept _ _ ?_
    | with_reducible refine startRetrain_kept _ ?_
    | with_reducible refine cond_kept ?_ ?_
    | split

theorem execNullFlit_kept (port : Nat) (flit : List Byte) (h : Kept F s) :
    KeptO F (execNullFlit port flit s) := by
  unfold execNullFlit
  repeat' first
    | with_reducible assumption
    | with_reducible refine occurs_keptO _ _ ?_ ?_
    | with_reducible refine protocolError_kept _ ?_
    | with_reducible refine linkFields_kept _ _ ?_
    | with_reducible refine replayFrom_kept _ ?_
    | split
    | intro _

theorem execFlitCrcFailure_kept (port : Nat) (flit : List Byte) (h : Kept F s) :
    KeptO F (execFlitCrcFailure port flit s) := by
  unfold execFlitCrcFailure
  repeat' first
    | with_reducible assumption
    | with_reducible refine occurs_keptO _ _ ?_ ?_
    | with_reducible refine sendNull_kept _ _ ?_
    | with_reducible refine onPort_kept _ _ ?_
    | split
    | intro _

theorem linkInitTakes_kept (port : Nat) (pay : List Byte) (h : Kept F s) :
    Kept F (linkInitTakes port pay s) := by
  unfold linkInitTakes
  repeat' first
    | with_reducible assumption
    | with_reducible refine withdrawPort_kept _ _ _ ?_
    | with_reducible refine post_kept _ _ _ _ ?_
    | with_reducible refine onPort_kept _ _ ?_
    | with_reducible refine cond_kept ?_ ?_

theorem execLinkInit_kept (port : Nat) (flit : List Byte) (h : Kept F s) :
    KeptO F (execLinkInit port flit s) := by
  unfold execLinkInit
  repeat' first
    | with_reducible assumption
    | with_reducible refine occurs_keptO _ _ ?_ ?_
    | with_reducible refine protocolError_kept _ ?_
    | with_reducible refine linkInitTakes_kept _ _ ?_
    | split
    | intro _

theorem execSpanAdd_kept (port : Nat) (flit : List Byte) (h : Kept F s) :
    KeptO F (execSpanAdd port flit s) := by
  unfold execSpanAdd
  repeat' first
    | with_reducible assumption
    | with_reducible refine message_kept _ _ _ _ ?_ ?_
    | with_reducible refine settle_kept _ ?_
    | with_reducible refine spanAddLocal_kept _ _ _ _ ?_
    | split
    | intro _

theorem execGuard_kept (port : Nat) (flit : List Byte) (h : Kept F s) :
    KeptO F (execGuard port flit s) := by
  unfold execGuard
  repeat' first
    | with_reducible assumption
    | with_reducible refine message_kept _ _ _ _ ?_ ?_
    | with_reducible refine settle_kept _ ?_
    | with_reducible refine applyGuard_kept _ _ _ _ _ _ _ ?_
    | with_reducible refine sendTo_kept _ _ _ _ _ ?_
    | split
    | intro _

theorem noticeFaults_kept (r : Recipe) (src : Nat) (peer : Nat) (h : Kept F s) :
    Kept F (noticeFaults r src peer s) := by
  unfold noticeFaults
  repeat' first
    | with_reducible assumption
    | with_reducible refine faultWaiters_kept _ _ _ _ ?_

theorem execNotice_kept (port : Nat) (flit : List Byte) (h : Kept F s) :
    KeptO F (execNotice port flit s) := by
  unfold execNotice
  repeat' first
    | with_reducible assumption
    | with_reducible refine message_kept _ _ _ _ ?_ ?_
    | with_reducible refine settle_kept _ ?_
    | with_reducible refine noticeFaults_kept _ _ _ ?_
    | split
    | intro _

theorem sendNack_kept (dst : Nat) (tag : Nat) (status : Nat) (detail : Nat) (h : Kept F s) :
    Kept F (sendNack dst tag status detail s) := by
  unfold sendNack
  repeat' first
    | with_reducible assumption
    | with_reducible refine sendTo_kept _ _ _ _ _ ?_

theorem getRead_kept (r : Recipe) (a : Nat) (n : Nat) (h : Kept F s) :
    Kept F (getRead r a n s).1 := by
  unfold getRead
  repeat' first
    | with_reducible assumption
    | with_reducible refine caveGet_kept _ _ ?_
    | with_reducible refine foldl_fst_kept _ _ ?_ _ ?_
    | split
    | intro _

theorem execGet_kept (port : Nat) (flit : List Byte) (h : Kept F s) :
    KeptO F (execGet port flit s) := by
  unfold execGet
  repeat' first
    | with_reducible assumption
    | with_reducible refine message_kept _ _ _ _ ?_ ?_
    | with_reducible refine sendNack_kept _ _ _ _ ?_
    | with_reducible refine getRead_kept _ _ _ ?_
    | with_reducible refine sendFlits_kept _ _ ?_
    | split
    | intro _
    | refine Kept.of_fst (by assumption) ?_

theorem dropXfer_kept (x0 : Xfer) (h : Kept F s) :
    Kept F (dropXfer x0 s) := by
  unfold dropXfer
  repeat' first
    | with_reducible assumption
    | with_reducible refine onDesc_kept _ _ _ _ ?_
    | with_reducible refine onHinge_kept _ ?_ ?_
    | exact fun _ hx => hx

theorem execGetData_kept (port : Nat) (flit : List Byte) (h : Kept F s) :
    KeptO F (execGetData port flit s) := by
  unfold execGetData
  repeat' first
    | with_reducible assumption
    | with_reducible refine message_kept _ _ _ _ ?_ ?_
    | with_reducible refine landData_kept _ _ _ _ _ ?_
    | with_reducible refine dropXfer_kept _ ?_
    | with_reducible refine onHinge_kept _ ?_ ?_
    | split
    | intro _

theorem afterAnswer_kept (x0 : Xfer) (h : Kept F s) :
    Kept F (afterAnswer x0 s) := by
  unfold afterAnswer
  repeat' first
    | with_reducible assumption
    | with_reducible refine finishSends_kept _ ?_
    | with_reducible refine finishVerify_kept _ ?_
    | split

theorem answerXfer_kept (f : List Byte) (nack : Option (Nat × Nat)) (h : Kept F s) :
    Kept F (answerXfer f nack s) := by
  unfold answerXfer
  repeat' first
    | with_reducible assumption
    | with_reducible refine dropXfer_kept _ ?_
    | with_reducible refine settle_kept _ ?_
    | with_reducible refine afterAnswer_kept _ ?_
    | with_reducible refine answered_kept _ _ _ _ _ _ ?_
    | with_reducible refine cond_kept ?_ ?_
    | split

theorem execPutAck_kept (port : Nat) (flit : List Byte) (h : Kept F s) :
    KeptO F (execPutAck port flit s) := by
  unfold execPutAck
  repeat' first
    | with_reducible assumption
    | with_reducible refine message_kept _ _ _ _ ?_ ?_
    | with_reducible refine answerXfer_kept _ _ ?_
    | intro _

theorem execNack_kept (port : Nat) (flit : List Byte) (h : Kept F s) :
    KeptO F (execNack port flit s) := by
  unfold execNack
  repeat' first
    | with_reducible assumption
    | with_reducible refine message_kept _ _ _ _ ?_ ?_
    | with_reducible refine answerXfer_kept _ _ ?_
    | intro _

theorem execGuardAck_kept (port : Nat) (flit : List Byte) (h : Kept F s) :
    KeptO F (execGuardAck port flit s) := by
  unfold execGuardAck
  repeat' first
    | with_reducible assumption
    | with_reducible refine message_kept _ _ _ _ ?_ ?_
    | with_reducible refine answerXfer_kept _ _ ?_
    | intro _

theorem setRx_kept (x0 : RxXfer) (h : Kept F s) :
    Kept F (setRx x0 s) := by
  unfold setRx
  repeat' first
    | with_reducible assumption
    | with_reducible refine onHinge_kept _ ?_ ?_
    | exact fun _ hx => hx

theorem dropRx_kept (x0 : RxXfer) (h : Kept F s) :
    Kept F (dropRx x0 s) := by
  unfold dropRx
  repeat' first
    | with_reducible assumption
    | with_reducible refine onHinge_kept _ ?_ ?_
    | exact fun _ hx => hx

theorem sinkRx_kept (x0 : RxXfer) (status : Nat) (detail : Nat) (h : Kept F s) :
    Kept F (sinkRx x0 status detail s) := by
  unfold sinkRx
  repeat' first
    | with_reducible assumption
    | with_reducible refine setRx_kept _ ?_
    | with_reducible refine sendNack_kept _ _ _ _ ?_

theorem poisonRange_kept (k : Nat) (mode : Nat) (slot : Nat) (a : Nat) (n : Nat) (h : Kept F s) :
    Kept F (poisonRange k mode slot a n s) := by
  unfold poisonRange
  repeat' first
    | with_reducible assumption
    | with_reducible refine landPlace_kept _ _ _ ?_
    | with_reducible refine poisonGranule_kept _ ?_
    | with_reducible refine onTiers_kept _ ?_
    | with_reducible refine foldl_kept _ _ ?_ ?_
    | split
    | intro _
    | refine Kept.of_fst (by assumption) ?_

theorem rxData_kept (x0 : RxXfer) (bs : List Byte) (poison : Bool) (last : Bool) (port : Nat) (h : Kept F s) :
    Kept F (rxData x0 bs poison last port s) := by
  unfold rxData
  repeat' first
    | with_reducible assumption
    | with_reducible refine dropRx_kept _ ?_
    | with_reducible refine setRx_kept _ ?_
    | with_reducible refine sinkRx_kept _ _ _ ?_
    | with_reducible refine poisonRange_kept _ _ _ _ _ ?_
    | with_reducible refine landData_kept _ _ _ _ _ ?_
    | with_reducible refine landDone_kept _ _ _ _ _ _ _ _ ?_
    | with_reducible refine settle_kept _ ?_
    | with_reducible refine sendTo_kept _ _ _ _ _ ?_
    | with_reducible refine cond_kept ?_ ?_
    | split
    | refine Kept.of_fst (by assumption) ?_

theorem rxStart_kept (port : Nat) (f : List Byte) (pay : List Byte) (h : Kept F s) :
    Kept F (rxStart port f pay s) := by
  unfold rxStart
  repeat' first
    | with_reducible assumption
    | with_reducible refine rxData_kept _ _ _ _ _ ?_
    | with_reducible refine sendNack_kept _ _ _ _ ?_
    | with_reducible refine sinkRx_kept _ _ _ ?_
    | with_reducible refine takeLanding_kept (by assumption) ?_
    | with_reducible refine landingRefused_kept _ _ ?_
    | dsimp only
    | split

theorem execPut_kept (port : Nat) (flit : List Byte) (h : Kept F s) :
    KeptO F (execPut port flit s) := by
  unfold execPut
  repeat' first
    | with_reducible assumption
    | with_reducible refine occurs_keptO _ _ ?_ ?_
    | with_reducible refine protocolError_kept _ ?_
    | with_reducible refine accept_kept _ _ ?_
    | with_reducible refine returnCredits_kept _ ?_
    | with_reducible refine rxStart_kept _ _ _ ?_
    | with_reducible refine rxData_kept _ _ _ _ _ ?_
    | split
    | intro _

/-! ### Cave -/

theorem demandRange_kept (k : Nat) (layer : Nat) (a : Nat) (n : Nat) (seen : List (Nat × Option Bool)) (h : Kept F s) :
    Kept F (demandRange k layer a n seen s).1 := by
  unfold demandRange
  repeat' first
    | with_reducible assumption
    | with_reducible refine onShare_kept _ _ ?_
    | with_reducible refine foldl_fst_kept _ _ ?_ _ ?_
    | dsimp only
    | split
    | intro _

theorem deliverFill_kept (k : Nat) (m : Nat) (bad : Bool) (h : Kept F s) :
    Kept F (deliverFill k m bad s) := by
  unfold deliverFill
  repeat' first
    | with_reducible assumption
    | with_reducible refine cores_kept _ ?_

theorem execCaveDemandRead_kept (t : TaskRef) (addr : Nat) (h : Kept F s) :
    KeptO F (execCaveDemandRead t addr s) := by
  unfold execCaveDemandRead
  repeat' first
    | with_reducible assumption
    | with_reducible refine next_keptO ?_
    | with_reducible refine occurs_keptO _ _ ?_ ?_
    | with_reducible refine onShare_kept _ _ ?_
    | split
    | intro _

theorem execCaveFillComplete_kept (recipe : Nat) (segment : Nat) (bad : Option Nat) (h : Kept F s) :
    KeptO F (execCaveFillComplete recipe segment bad s) := by
  unfold execCaveFillComplete
  repeat' first
    | with_reducible assumption
    | with_reducible refine next_keptO ?_
    | with_reducible refine occurs_keptO _ _ ?_ ?_
    | with_reducible refine onShare_kept _ _ ?_
    | with_reducible refine deliverFill_kept _ _ _ ?_
    | with_reducible refine post_kept _ _ _ _ ?_
    | with_reducible refine onTiers_kept _ ?_
    | dsimp only
    | split
    | intro _

theorem closeLeads_kept (k : Nat) (h : Kept F s) :
    Kept F (closeLeads k s) := by
  unfold closeLeads
  repeat' first
    | with_reducible assumption
    | with_reducible refine onShare_kept _ _ ?_
    | split

theorem openLeads_kept (k : Nat) (h : Kept F s) :
    Kept F (openLeads k s) := by
  unfold openLeads
  repeat' first
    | with_reducible assumption
    | with_reducible refine onShare_kept _ _ ?_

theorem execTrackerClose_kept (recipe : Nat) (k : Nat) (h : Kept F s) :
    KeptO F (execTrackerClose recipe k s) := by
  unfold execTrackerClose
  repeat' first
    | with_reducible assumption
    | with_reducible refine next_keptO ?_
    | with_reducible refine occurs_keptO _ _ ?_ ?_
    | with_reducible refine onShare_kept _ _ ?_
    | split
    | intro _

/-! ### Start -/

theorem takeShadows_kept (k : Nat) (t : Nat) (a2 : Task) (h : Kept F s) :
    Kept F (takeShadows k t a2 s) := by
  unfold takeShadows
  repeat' first
    | with_reducible assumption
    | with_reducible refine onTask_kept _ _ _ ?_
    | with_reducible refine onRecipe_kept _ _ ?_
    | split

theorem restorePrivate_kept (k : Nat) (t : Nat) (h : Kept F s) :
    Kept F (restorePrivate k t s) := by
  unfold restorePrivate
  repeat' first
    | with_reducible assumption
    | with_reducible refine tRestore_kept _ _ _ ?_
    | with_reducible refine forEach_kept _ _ ?_ ?_
    | split
    | intro _

theorem markStarted_kept (k : Nat) (t : Nat) (h : Kept F s) :
    Kept F (markStarted k t s) := by
  unfold markStarted
  repeat' first
    | with_reducible assumption
    | with_reducible refine onTask_kept _ _ _ ?_
    | with_reducible refine seq_kept _ ?_

theorem checkDescs_kept (k : Nat) (t : Nat) (a2 : Task) (h : Kept F s) :
    Kept F (checkDescs k t a2 s) := by
  unfold checkDescs
  repeat' first
    | with_reducible assumption
    | with_reducible refine vatFault_kept _ _ _ _ _ _ _ _ _ _ ?_
    | with_reducible refine memoryError_kept _ _ _ _ ?_
    | with_reducible refine updFault_kept _ _ _ _ _ _ _ _ ?_
    | with_reducible refine hingeFault_kept _ _ _ _ _ _ _ _ _ _ ?_
    | dsimp only
    | split

theorem nameLedgers_kept (k : Nat) (a1 : Task) (h : Kept F s) :
    Kept F (nameLedgers k a1 s) := by
  unfold nameLedgers
  repeat' first
    | with_reducible assumption
    | with_reducible refine nameLedger_kept _ _ ?_
    | with_reducible refine forEach_kept _ _ ?_ ?_
    | split
    | intro _

theorem beginUpdatePhase_kept (k : Nat) (r : Recipe) (a2 : Task) (h : Kept F s) :
    Kept F (beginUpdatePhase k r a2 s) := by
  unfold beginUpdatePhase
  repeat' first
    | with_reducible assumption
    | with_reducible refine onStep_kept _ _ ?_
    | with_reducible refine cond_kept ?_ ?_

theorem beginDescs_kept (k : Nat) (t : Nat) (r : Recipe) (a3 : Task) (h : Kept F s) :
    Kept F (beginDescs k t r a3 s) := by
  unfold beginDescs
  have h1 := checkDescs_kept (F := F) k t a3 h
  dsimp only
  split
  · exact refuseWaits_kept _ _ _ (nameLedgers_kept _ _ h1)
  · exact nameLedgers_kept _ _ h1

theorem startTask_kept (k : Nat) (t : Nat) (r : Recipe) (a3 : Task) (x0 : TaskRun) (h : Kept F s) :
    Kept F (startTask k t r a3 x0 s) := by
  unfold startTask
  repeat' first
    | with_reducible assumption
    | with_reducible refine markStarted_kept _ _ ?_
    | with_reducible refine beginUpdatePhase_kept _ _ _ ?_
    | with_reducible refine takeShadows_kept _ _ _ ?_
    | with_reducible refine restorePrivate_kept _ _ ?_
    | with_reducible refine beginDescs_kept _ _ _ _ ?_
    | with_reducible refine cond_kept ?_ ?_

theorem shadowWait_kept (k : Nat) (t : Nat) (x0 : TaskRun) (h : Kept F s) :
    Kept F (shadowWait k t x0 s) := by
  unfold shadowWait
  repeat' first
    | with_reducible assumption
    | with_reducible refine onTask_kept _ _ _ ?_
    | with_reducible refine onRecipe_kept _ _ ?_
    | with_reducible refine cond_kept ?_ ?_

theorem execTaskStart_kept (t : TaskRef) (h : Kept F s) :
    KeptO F (execTaskStart t s) := by
  unfold execTaskStart
  repeat' first
    | with_reducible assumption
    | with_reducible refine next_keptO ?_
    | with_reducible refine occurs_keptO _ _ ?_ ?_
    | with_reducible refine shadowWait_kept _ _ _ ?_
    | with_reducible refine trackWatchdog_kept _ ?_
    | with_reducible refine onStep_kept _ _ ?_
    | with_reducible refine settle_kept _ ?_
    | with_reducible refine startTask_kept _ _ _ _ _ ?_
    | split
    | intro _

/-! ### Gate -/

theorem onHoop_kept (w : Nat) (k : Nat) (f : (Hoop → Hoop)) (h : Kept F s) :
    Kept F (onHoop w k f s) := by
  unfold onHoop
  repeat' first
    | with_reducible assumption
    | with_reducible refine next_keptO ?_
    | with_reducible refine onWheel_kept _ _ ?_

theorem applyChange_kept (c : ViewChange) (h : Kept F s) :
    Kept F (applyChange c s) := by
  unfold applyChange
  repeat' first
    | with_reducible assumption
    | with_reducible refine onVat_kept _ _ ?_
    | with_reducible refine takeShape_kept _ ?_
    | with_reducible refine onView_kept _ ?_
    | with_reducible refine setPort_kept _ _ ?_
    | with_reducible refine onFar_kept _ _ ?_
    | with_reducible refine onHoop_kept _ _ _ ?_
    | with_reducible refine onWheel_kept _ _ ?_
    | split

theorem barRecipes_kept (x0 : Res) (h : Kept F s) :
    Kept F (barRecipes x0 s) := by
  unfold barRecipes
  repeat' first
    | with_reducible assumption
    | with_reducible refine recipes_kept _ ?_

theorem updatePost_kept (p : Nat × Nat × List Byte) (h : Kept F s) :
    Kept F (updatePost p s) := by
  unfold updatePost
  repeat' first
    | with_reducible assumption
    | with_reducible refine wpost_kept _ _ _ _ ?_
    | with_reducible refine post_kept _ _ _ _ ?_
    | with_reducible refine cond_kept ?_ ?_

theorem degrade_kept (h : Kept F s) :
    Kept F (degrade s) := by
  unfold degrade
  repeat' first
    | with_reducible assumption
    | with_reducible refine enter_kept _ ?_
    | with_reducible refine onLife_kept _ ?_
    | with_reducible refine cond_kept ?_ ?_

theorem takeUpdate_kept (u : ViewUpdate) (h : Kept F s) :
    Kept F (takeUpdate u s) := by
  unfold takeUpdate
  repeat' first
    | with_reducible assumption
    | with_reducible refine applyChange_kept _ ?_
    | with_reducible refine barRecipes_kept _ ?_
    | with_reducible refine startDrain_kept _ ?_
    | with_reducible refine degrade_kept ?_
    | with_reducible refine updatePost_kept _ ?_
    | with_reducible refine forEach_kept _ _ ?_ ?_
    | split
    | intro _

theorem applyUpdate_kept (u : ViewUpdate) (h : Kept F s) :
    Kept F (applyUpdate u s) := takeUpdate_kept _ (onGate_kept _ h)

theorem execViewUpdate_kept (h : Kept F s) :
    KeptO F (execViewUpdate s) := by
  unfold execViewUpdate
  repeat' first
    | with_reducible assumption
    | with_reducible refine next_keptO ?_
    | with_reducible refine applyUpdate_kept _ ?_
    | with_reducible refine onGate_kept _ ?_
    | split

theorem applyPending_kept (h : Kept F s) :
    Kept F (applyPending s) := by
  unfold applyPending
  repeat' first
    | with_reducible assumption
    | with_reducible refine applyUpdate_kept _ ?_
    | with_reducible refine onGate_kept _ ?_
    | with_reducible refine forEach_kept _ _ ?_ ?_
    | intro _

end Sys2Proof.Machine
end

