-- ==== Sys2Proof/Laws/KeepRuns.lean ====
section
/-! SUPPORT. What the operations of admission, the runs of recipes and the rind keep: the invariant of
Safety.lean and the fixed part of the state (KeepBase.lean). A law ends in `_kept` and cites those of the operations
that its own calls. -/

namespace Sys2Proof.Machine

variable {F : Fixed} {s : State}

/-! ### Admission -/

theorem installRecipe_kept (k : Nat) (r : Recipe) (h : Kept F s) :
    Kept F (installRecipe k r s) := by
  unfold installRecipe
  repeat' first
    | with_reducible assumption
    | with_reducible refine onGate_kept _ ?_
    | with_reducible refine onVat_kept _ _ ?_
    | with_reducible refine onRecipe_kept _ _ ?_
    | with_reducible refine tRestore_kept _ _ _ ?_
    | with_reducible refine forEach_kept _ _ ?_ ?_
    | split
    | intro _
    | with_reducible refine recipes_kept _ ?_

theorem admitImage_kept (c : HostCmd) (h : Kept F s) :
    Kept F (admitImage c s) := by
  unfold admitImage
  repeat' first
    | with_reducible assumption
    | with_reducible refine refuse_kept _ _ ?_
    | with_reducible refine applyPending_kept ?_
    | with_reducible refine finish_kept _ _ ?_
    | with_reducible refine installRecipe_kept _ _ ?_
    | dsimp only
    | split

theorem admit_kept (c : HostCmd) (h : Kept F s) :
    Kept F (admitImage c s) := by
  unfold admitImage
  repeat' first
    | with_reducible assumption
    | with_reducible refine refuse_kept _ _ ?_
    | with_reducible refine applyPending_kept ?_
    | with_reducible refine finish_kept _ _ ?_
    | with_reducible refine installRecipe_kept _ _ ?_
    | dsimp only
    | split

theorem execAdmitRecipe_kept (h : Kept F s) :
    KeptO F (execAdmitRecipe s) := by
  unfold execAdmitRecipe
  repeat' first
    | with_reducible assumption
    | with_reducible refine next_keptO ?_
    | with_reducible refine admitImage_kept _ ?_
    | with_reducible refine onEntry_kept _ _ ?_ ?_
    | with_reducible refine holdCmd_kept _ ?_
    | split
    | intro _

/-! ### Runs -/

theorem clearCounters_kept (r : Recipe) (h : Kept F s) :
    Kept F (clearCounters r s) := by
  unfold clearCounters
  repeat' first
    | with_reducible assumption
    | with_reducible refine clearRecord_kept _ ?_
    | with_reducible refine forEach_kept _ _ ?_ ?_
    | split
    | intro _

theorem resetTumblers_kept (k : Nat) (r : Recipe) (h : Kept F s) :
    Kept F (resetTumblers k r s) := by
  unfold resetTumblers
  repeat' first
    | with_reducible assumption
    | with_reducible refine tRestore_kept _ _ _ ?_
    | with_reducible refine forEach_kept _ _ ?_ ?_
    | intro _

theorem stepRecord_kept (r : Recipe) (dataSeed : Nat) (h : Kept F s) :
    Kept F (stepRecord r dataSeed s) := by
  unfold stepRecord
  repeat' first
    | with_reducible assumption
    | with_reducible refine locWrite_kept _ _ ?_
    | with_reducible refine cond_kept ?_ ?_

theorem selectModes_kept (h : Kept F s) :
    Kept F (selectModes s) := by
  unfold selectModes
  repeat' first
    | with_reducible assumption
    | with_reducible refine onVat_kept _ _ ?_
    | with_reducible refine forEach_kept _ _ ?_ ?_
    | dsimp only
    | split
    | intro _

theorem touchWheels_kept (r : Recipe) (h : Kept F s) :
    Kept F (touchWheels r s) := by
  unfold touchWheels
  repeat' first
    | with_reducible assumption
    | with_reducible refine onWheel_kept _ _ ?_
    | with_reducible refine forEach_kept _ _ ?_ ?_
    | intro _

theorem beginStep_kept (k : Nat) (ord : Nat) (seed : Nat) (dataSeed : Nat) (origin : StepOrigin) (h : Kept F s) :
    Kept F (beginStep k ord seed dataSeed origin s) := by
  unfold beginStep
  repeat' first
    | with_reducible assumption
    | with_reducible refine clearCounters_kept _ ?_
    | with_reducible refine onRecipe_kept _ _ ?_
    | with_reducible refine stepRecord_kept _ _ ?_
    | with_reducible refine resetTumblers_kept _ _ ?_
    | with_reducible refine settle_kept _ ?_
    | with_reducible refine touchWheels_kept _ ?_
    | with_reducible refine selectModes_kept ?_
    | with_reducible refine stashStart_kept _ ?_
    | with_reducible refine openLeads_kept _ ?_
    | split

theorem startNow_kept (c : HostCmd) (h : Kept F s) :
    Kept F (startNow c s) := by
  unfold startNow
  repeat' first
    | with_reducible assumption
    | with_reducible refine refuse_kept _ _ ?_
    | with_reducible refine beginStep_kept _ _ _ _ _ ?_
    | with_reducible refine beginCmd_kept _ ?_
    | dsimp only
    | split

theorem execStartStep_kept (h : Kept F s) :
    KeptO F (execStartStep s) := by
  unfold execStartStep
  repeat' first
    | with_reducible assumption
    | with_reducible refine next_keptO ?_
    | with_reducible refine onEntry_kept _ _ ?_ ?_
    | with_reducible refine refuse_kept _ _ ?_
    | with_reducible refine holdCmd_kept _ ?_
    | with_reducible refine startNow_kept _ ?_
    | split
    | intro _

theorem execStartStepHeldBegin_kept (recipe : Nat) (h : Kept F s) :
    KeptO F (execStartStepHeldBegin recipe s) := by
  unfold execStartStepHeldBegin
  repeat' first
    | with_reducible assumption
    | with_reducible refine next_keptO ?_
    | with_reducible refine occurs_keptO _ _ ?_ ?_
    | with_reducible refine startNow_kept _ ?_
    | split
    | intro _

theorem dropLandings_kept (k : Nat) (h : Kept F s) :
    Kept F (dropLandings k s) := by
  unfold dropLandings
  repeat' first
    | with_reducible assumption
    | with_reducible refine post_kept _ _ _ _ ?_
    | with_reducible refine onRecipe_kept _ _ ?_
    | split

theorem openLedgers_kept (k : Nat) (h : Kept F s) :
    Kept F (openLedgers k s) := by
  unfold openLedgers
  repeat' first
    | with_reducible assumption
    | with_reducible refine drawn_kept ?_
    | with_reducible refine post_kept _ _ _ _ ?_
    | with_reducible refine forEach_kept _ _ ?_ ?_
    | split
    | intro _

theorem closeSnapshot_kept (k : Nat) (h : Kept F s) :
    Kept F (closeSnapshot k s) := by
  unfold closeSnapshot
  repeat' first
    | with_reducible assumption
    | with_reducible refine setPending_kept _ _ ?_
    | with_reducible refine onImage_kept _ _ ?_
    | with_reducible refine forEach_kept _ _ ?_ ?_
    | dsimp only
    | split
    | intro _

theorem clearStep_kept (k : Nat) (r : Recipe) (h : Kept F s) :
    Kept F (clearStep k r s) := by
  unfold clearStep
  repeat' first
    | with_reducible assumption
    | with_reducible refine touchWheels_kept _ ?_
    | with_reducible refine selectModes_kept ?_
    | with_reducible refine onRecipe_kept _ _ ?_

theorem recipeWrite_kept (k : Nat) (a : Nat) (bs : List Byte) (h : Kept F s) :
    Kept F (recipeWrite k a bs s) := by
  unfold recipeWrite
  repeat' first
    | with_reducible assumption
    | with_reducible refine locWrite_kept _ _ ?_
    | with_reducible refine foldl_kept _ _ ?_ ?_
    | split
    | intro _

theorem writeSection_kept (k : Nat) (c : CaptEntry) (bytes : List Byte) (h : Kept F s) :
    Kept F (writeSection k c bytes s) := by
  unfold writeSection
  repeat' first
    | with_reducible assumption
    | with_reducible refine recipeWrite_kept _ _ _ ?_
    | with_reducible refine foldl_fst_kept _ _ ?_ _ ?_
    | intro _

theorem loseMasters_kept (k : Nat) (h : Kept F s) :
    Kept F (loseMasters k s) := by
  unfold loseMasters
  repeat' first
    | with_reducible assumption
    | with_reducible refine drawn_kept ?_
    | with_reducible refine recipeWrite_kept _ _ _ ?_
    | with_reducible refine forEach_kept _ _ ?_ ?_
    | split
    | intro _

theorem finishRestore_kept (k : Nat) (code : Nat) (f : Cpl) (h : Kept F s) :
    Kept F (finishRestore k code f s) := by
  unfold finishRestore
  repeat' first
    | with_reducible assumption
    | with_reducible refine onRecipe_kept _ _ ?_
    | with_reducible refine post_kept _ _ _ _ ?_
    | with_reducible refine finish_kept _ _ ?_
    | with_reducible refine onWarden_kept _ ?_ ?_ ?_
    | exact fun _ hx => hx
    | dsimp only
    | split

theorem haltRestored_kept (k : Nat) (h : Kept F s) :
    Kept F (haltRestored k s) := by
  unfold haltRestored
  repeat' first
    | with_reducible assumption
    | with_reducible refine onRecipe_kept _ _ ?_

theorem keepRestored_kept (k : Nat) (x0 : RestoreRun) (h : Kept F s) :
    Kept F (keepRestored k x0 s) := by
  unfold keepRestored
  repeat' first
    | with_reducible assumption
    | with_reducible refine onRecipe_kept _ _ ?_
    | with_reducible refine onRind_kept _ ?_

theorem replayEnd_kept (k : Nat) (good : Bool) (ns : Nat) (h : Kept F s) :
    Kept F (replayEnd k good ns s) := by
  unfold replayEnd
  repeat' first
    | with_reducible assumption
    | with_reducible refine finishRestore_kept _ _ _ ?_
    | with_reducible refine keepRestored_kept _ _ ?_
    | with_reducible refine haltRestored_kept _ ?_
    | with_reducible refine loseMasters_kept _ ?_
    | split

theorem completeStep_kept (k : Nat) (r : Recipe) (u : StepRun) (h : Kept F s) :
    Kept F (completeStep k r u s) := by
  unfold completeStep
  repeat' first
    | with_reducible assumption
    | with_reducible refine closeLeads_kept _ ?_
    | with_reducible refine releaseAll_kept _ ?_
    | with_reducible refine dropLandings_kept _ ?_
    | with_reducible refine openLedgers_kept _ ?_
    | with_reducible refine closeSnapshot_kept _ ?_
    | with_reducible refine markRestorable_kept ?_
    | with_reducible refine appendJournal_kept _ _ ?_
    | with_reducible refine onRecipe_kept _ _ ?_
    | with_reducible refine clearStep_kept _ _ ?_
    | with_reducible refine finish_kept _ _ ?_
    | with_reducible refine replayEnd_kept _ _ _ ?_
    | dsimp only
    | split

theorem flushChains_kept (k : Nat) (h : Kept F s) :
    Kept F (flushChains k s) := by
  unfold flushChains
  repeat' first
    | with_reducible assumption
    | with_reducible refine applyChain_kept _ ?_
    | with_reducible refine forEach_kept _ _ ?_ ?_
    | split
    | intro _
    | with_reducible refine chains_kept _ ?_

theorem absorbTasks_kept (k : Nat) (h : Kept F s) :
    Kept F (absorbTasks k s) := by
  unfold absorbTasks
  repeat' first
    | with_reducible assumption
    | with_reducible refine returnShadows_kept _ _ ?_
    | with_reducible refine stopCores_kept _ _ ?_
    | with_reducible refine stopVatTask_kept _ _ ?_
    | with_reducible refine endTask_kept _ _ _ ?_
    | with_reducible refine onHinge_kept _ ?_ ?_
    | with_reducible refine flushChains_kept _ ?_
    | with_reducible refine forEach_kept _ _ ?_ ?_
    | split
    | intro _

theorem endFaulted_kept (k : Nat) (h : Kept F s) :
    Kept F (endFaulted k s) := by
  unfold endFaulted
  repeat' first
    | with_reducible assumption
    | with_reducible refine closeLeads_kept _ ?_
    | with_reducible refine releaseAll_kept _ ?_
    | with_reducible refine dropLandings_kept _ ?_
    | with_reducible refine absorbTasks_kept _ ?_
    | with_reducible refine abandonCapture_kept _ ?_
    | with_reducible refine markRestorable_kept ?_
    | with_reducible refine appendJournal_kept _ _ ?_
    | with_reducible refine onRecipe_kept _ _ ?_
    | with_reducible refine clearStep_kept _ _ ?_
    | with_reducible refine finish_kept _ _ ?_
    | with_reducible refine finishRestore_kept _ _ _ ?_
    | with_reducible refine haltRestored_kept _ ?_
    | with_reducible refine loseMasters_kept _ ?_
    | dsimp only
    | split

theorem writeFirst_kept (k : Nat) (r : Recipe) (a2 : List ImgTensor) (a3 : Nat) (h : Kept F s) :
    Kept F (writeFirst k r a2 a3 s) := by
  induction a2 generalizing s k r a3 with
  | nil => exact h
  | cons b l ih =>
    unfold writeFirst
    repeat' first
      | with_reducible assumption
      | with_reducible refine ih _ _ _ ?_
      | with_reducible refine writeSection_kept _ _ _ ?_
      | split

theorem bodyStopped_kept (k : Nat) (h : Kept F s) :
    Kept F (bodyStopped k s) := by
  unfold bodyStopped
  repeat' first
    | with_reducible assumption
    | with_reducible refine writeFirst_kept _ _ _ _ ?_
    | with_reducible refine drawn_kept ?_
    | split

theorem stopRestore_kept (k : Nat) (h : Kept F s) :
    Kept F (stopRestore k s) := by
  unfold stopRestore
  repeat' first
    | with_reducible assumption
    | with_reducible refine finishRestore_kept _ _ _ ?_
    | with_reducible refine bodyStopped_kept _ ?_

theorem loseSegments_kept (segs : List Segment) (h : Kept F s) :
    Kept F (loseSegments segs s) := by
  unfold loseSegments
  repeat' first
    | with_reducible assumption
    | with_reducible refine drawn_kept ?_
    | with_reducible refine forEach_kept _ _ ?_ ?_
    | intro _
    | with_reducible refine cave_write_kept _ _ ?_

theorem removeRecipe_kept (k : Nat) (h : Kept F s) : Kept F (removeRecipe k s) := by
  unfold removeRecipe
  split
  · exact h
  · rename_i r _
    have h1 := loseSegments_kept r.cave.segments (abandonRecipe_kept k h)
    refine selectModes_kept (onGate_kept _ (onHinge_kept _ (fun _ hx => hx) ?_))
    exact Kept.mk' h1.inv.stores.near h1.inv.stores.dev h1.inv.stores.cave h1.inv.stores.hostMem h1.inv.stores.bar0
      h1.inv.stores.bar4 ((List.length_map _).trans h1.inv.units.wheels) h1.inv.units.farPorts h1.inv.units.hingePorts
      h1.inv.units.queues h1.inv.lists.log h1.inv.lists.backlog h1.inv.lists.cache h1.fixed

theorem refuseHeld_kept (k : Nat) (h : Kept F s) :
    Kept F (refuseHeld k s) := by
  unfold refuseHeld
  repeat' first
    | with_reducible assumption
    | with_reducible refine refuse_kept _ _ ?_
    | with_reducible refine forEach_kept _ _ ?_ ?_
    | intro _

theorem endStepOutside_kept (k : Nat) (h : Kept F s) :
    Kept F (endStepOutside k s) := by
  unfold endStepOutside
  repeat' first
    | with_reducible assumption
    | with_reducible refine stepFaultOutside_kept _ _ ?_

theorem retireNow_kept (k : Nat) (h : Kept F s) :
    Kept F (retireNow k s) := by
  unfold retireNow
  repeat' first
    | with_reducible assumption
    | with_reducible refine removeRecipe_kept _ ?_
    | with_reducible refine finish_kept _ _ ?_
    | dsimp only
    | split

theorem retire_kept (k : Nat) (h : Kept F s) :
    Kept F (retire k s) := by
  unfold retire
  repeat' first
    | with_reducible assumption
    | with_reducible refine refuseHeld_kept _ ?_
    | with_reducible refine endStepOutside_kept _ ?_
    | with_reducible refine retireNow_kept _ ?_
    | with_reducible refine stopRestore_kept _ ?_
    | dsimp only
    | split

theorem execRetireRecipe_kept (h : Kept F s) :
    KeptO F (execRetireRecipe s) := by
  unfold execRetireRecipe
  repeat' first
    | with_reducible assumption
    | with_reducible refine onEntry_kept _ _ ?_ ?_
    | with_reducible refine refuse_kept _ _ ?_
    | with_reducible refine retire_kept _ ?_
    | dsimp only
    | split
    | intro _

theorem execSnapshotNow_kept (h : Kept F s) :
    KeptO F (execSnapshotNow s) := by
  unfold execSnapshotNow
  repeat' first
    | with_reducible assumption
    | with_reducible refine onEntry_kept _ _ ?_ ?_
    | with_reducible refine refuse_kept _ _ ?_
    | with_reducible refine finish_kept _ _ ?_
    | with_reducible refine onRecipe_kept _ _ ?_
    | split
    | intro _

theorem nandEvent_kept (n : Nand) (h : Kept F s) :
    Kept F (nandEvent n s) := by
  unfold nandEvent
  repeat' first
    | with_reducible assumption
    | with_reducible refine postAbove_kept _ _ _ _ _ _ _ _ ?_
    | with_reducible refine post_kept _ _ _ _ ?_
    | split

theorem execRestore_kept (nand : Nand) (h : Kept F s) :
    KeptO F (execRestore nand s) := by
  unfold execRestore
  repeat' first
    | with_reducible assumption
    | with_reducible refine onEntry_kept _ _ ?_ ?_
    | with_reducible refine refuse_kept _ _ ?_
    | with_reducible refine finish_kept _ _ ?_
    | with_reducible refine abandonRecipe_kept _ ?_
    | with_reducible refine nandEvent_kept _ ?_
    | with_reducible refine onRecipe_kept _ _ ?_
    | split
    | intro _

theorem writeBody_kept (k : Nat) (r : Recipe) (i : Image) (bad : Bool) (h : Kept F s) :
    Kept F (writeBody k r i bad s) := by
  unfold writeBody
  repeat' first
    | with_reducible assumption
    | with_reducible refine drawn_kept ?_
    | with_reducible refine writeSection_kept _ _ _ ?_
    | with_reducible refine forEach_kept _ _ ?_ ?_
    | split
    | intro _

theorem resetDemotions_kept (k : Nat) (h : Kept F s) :
    Kept F (resetDemotions k s) := by
  unfold resetDemotions
  repeat' first
    | with_reducible assumption
    | with_reducible refine onStash_kept _ _ ?_

theorem markBad_kept (no : Nat) (h : Kept F s) :
    Kept F (markBad no s) := by
  unfold markBad
  repeat' first
    | with_reducible assumption
    | with_reducible refine onRind_kept _ ?_
    | with_reducible refine onImage_kept _ _ ?_

theorem execRestoreBodyWritten_kept (recipe : Nat) (h : Kept F s) :
    KeptO F (execRestoreBodyWritten recipe s) := by
  unfold execRestoreBodyWritten
  repeat' first
    | with_reducible assumption
    | with_reducible refine next_keptO ?_
    | with_reducible refine occurs_keptO _ _ ?_ ?_
    | with_reducible refine writeBody_kept _ _ _ _ ?_
    | with_reducible refine finishRestore_kept _ _ _ ?_
    | with_reducible refine haltRestored_kept _ ?_
    | with_reducible refine markBad_kept _ ?_
    | with_reducible refine onRecipe_kept _ _ ?_
    | with_reducible refine onWarden_kept _ ?_ ?_ ?_
    | with_reducible refine beginStep_kept _ _ _ _ _ ?_
    | with_reducible refine resetDemotions_kept _ ?_
    | dsimp only
    | split
    | intro _

theorem execQueryCapacity_kept (h : Kept F s) :
    KeptO F (execQueryCapacity s) := by
  unfold execQueryCapacity
  repeat' first
    | with_reducible assumption
    | with_reducible refine onEntry_kept _ _ ?_ ?_
    | with_reducible refine finish_kept _ _ ?_
    | intro _
    | with_reducible refine hostMem_write_kept _ _ ?_

/-! ### Rind -/

theorem captured_kept (c : Capture) (rix : Nat) (e : CaptEntry) (bytes : List Byte) (h : Kept F s) :
    Kept F (captured c rix e bytes s) := by
  unfold captured
  repeat' first
    | with_reducible assumption
    | with_reducible refine onRind_kept _ ?_
    | with_reducible refine onRecipe_kept _ _ ?_
    | with_reducible refine onImage_kept _ _ ?_

theorem execCaptureEntry_kept (recipe : Nat) (n : Nand) (h : Kept F s) :
    KeptO F (execCaptureEntry recipe n s) := by
  unfold execCaptureEntry
  repeat' first
    | with_reducible assumption
    | with_reducible refine next_keptO ?_
    | with_reducible refine occurs_keptO _ _ ?_ ?_
    | with_reducible refine nandEvent_kept _ ?_
    | with_reducible refine abandonCapture_kept _ ?_
    | with_reducible refine settle_kept _ ?_
    | with_reducible refine captured_kept _ _ _ _ ?_
    | split
    | intro _

theorem endLossWait_kept (k : Nat) (h : Kept F s) :
    Kept F (endLossWait k s).1 := by
  unfold endLossWait
  repeat' first
    | with_reducible assumption
    | with_reducible refine post_kept _ _ _ _ ?_
    | with_reducible refine onStep_kept _ _ ?_
    | split

theorem makeDurable_kept (c : Capture) (r : Recipe) (i : Image) (h : Kept F s) :
    Kept F (makeDurable c r i s) := by
  unfold makeDurable
  repeat' first
    | with_reducible assumption
    | with_reducible refine onRecipe_kept _ _ ?_
    | with_reducible refine endLossWait_kept _ ?_
    | with_reducible refine onImage_kept _ _ ?_
    | with_reducible refine onRind_kept _ ?_
    | with_reducible refine markRestorable_kept ?_
    | with_reducible refine pruneImages_kept _ ?_
    | with_reducible refine post_kept _ _ _ _ ?_

theorem execImageDurable_kept (recipe : Nat) (h : Kept F s) :
    KeptO F (execImageDurable recipe s) := by
  unfold execImageDurable
  repeat' first
    | with_reducible assumption
    | with_reducible refine next_keptO ?_
    | with_reducible refine occurs_keptO _ _ ?_ ?_
    | with_reducible refine makeDurable_kept _ _ _ ?_
    | split
    | intro _

end Sys2Proof.Machine
end

