-- ==== Sys2Proof/Laws/KeepCores.lean ====
section
/-! SUPPORT. What the operations of the helper cores and their instructions keep: the invariant of
Safety.lean and the fixed part of the state (KeepBase.lean). A law ends in `_kept` and cites those of the operations
that its own calls. -/

namespace Sys2Proof.Machine

variable {F : Fixed} {s : State}

/-! ### Cores -/

theorem putCore_kept (c : Core) (h : Kept F s) :
    Kept F (putCore c s) := by
  unfold putCore
  repeat' first
    | with_reducible assumption
    | with_reducible refine onCore_kept _ _ ?_

theorem retireInstr_kept (c : Core) (beats : Nat) (h : Kept F s) :
    Kept F (retireInstr c beats s) := by
  unfold retireInstr
  repeat' first
    | with_reducible assumption
    | with_reducible refine drawn_kept ?_
    | with_reducible refine putCore_kept _ ?_

theorem coreFault_kept (c : Core) (code : Nat) (sub : Nat) (mtval : Nat) (h : Kept F s) :
    Kept F (coreFault c code sub mtval s) := by
  unfold coreFault
  repeat' first
    | with_reducible assumption
    | with_reducible refine postTranslation_kept _ _ _ ?_
    | with_reducible refine post_kept _ _ _ _ ?_
    | with_reducible refine settle_kept _ ?_
    | with_reducible refine taskFault_kept _ _ _ _ _ ?_
    | with_reducible refine noteStall_kept _ _ ?_
    | with_reducible refine cond_kept ?_ ?_

theorem coreMemoryError_kept (c : Core) (h : Kept F s) :
    Kept F (coreMemoryError c s) := by
  unfold coreMemoryError
  repeat' first
    | with_reducible assumption
    | with_reducible refine settle_kept _ ?_
    | with_reducible refine taskFault_kept _ _ _ _ _ ?_

theorem breakReservation_kept (id : CoreId) (a : Nat) (n : Nat) (h : Kept F s) :
    Kept F (breakReservation id a n s) := by
  unfold breakReservation
  repeat' first
    | with_reducible assumption
    | with_reducible refine onCore_kept _ _ ?_

theorem scratchWrite_kept {c : Core} {a : Nat} {bs : List Byte} {t : State} (e : scratchWrite c a bs s = some t)
    (h : Kept F s) : Kept F t := by
  unfold scratchWrite at e
  rw [Option.map_eq_some_iff] at e
  obtain ⟨p, _, rfl⟩ := e
  exact breakReservation_kept _ _ _ (dev_write_kept _ _ h)

theorem claimScratch_kept (k : Nat) (id : CoreId) (h : Kept F s) :
    Kept F (claimScratch k id s) := by
  unfold claimScratch
  repeat' first
    | with_reducible assumption
    | with_reducible refine onWheel_kept _ _ ?_
    | split
    | with_reducible refine dev_clear_kept _ _ ?_

theorem launch_kept (w : Nat) (k : Nat) (r : Recipe) (a3 : Task) (x0 : TaskRun) (h : Kept F s) :
    Kept F (launch w k r a3 x0 s) := by
  unfold launch
  repeat' first
    | with_reducible assumption
    | with_reducible refine onTask_kept _ _ _ ?_
    | with_reducible refine startTask_kept _ _ _ _ _ ?_
    | with_reducible refine claimScratch_kept _ _ ?_
    | with_reducible refine onHoop_kept _ _ _ ?_
    | with_reducible refine forEach_kept _ _ ?_ ?_
    | with_reducible refine cond_kept ?_ ?_
    | intro _
    | with_reducible refine cores_kept _ ?_

theorem passOver_kept (a : Recipe × Task × TaskRun) (h : Kept F s) :
    Kept F (passOver a s) := by
  unfold passOver
  repeat' first
    | with_reducible assumption
    | with_reducible refine onTask_kept _ _ _ ?_

theorem launchCand_kept (w : Nat) (k : Nat) (a : Recipe × Task × TaskRun) (h : Kept F s) :
    Kept F (launchCand w k a s) := by
  unfold launchCand
  repeat' first
    | with_reducible assumption
    | with_reducible refine shadowWait_kept _ _ _ ?_
    | with_reducible refine settle_kept _ ?_
    | with_reducible refine launch_kept _ _ _ _ _ ?_
    | with_reducible refine cond_kept ?_ ?_

theorem pick_kept (w : Nat) (k : Nat) (h : Kept F s) :
    Kept F (pick w k s) := by
  unfold pick
  repeat' first
    | with_reducible assumption
    | with_reducible refine launchCand_kept _ _ _ ?_
    | with_reducible refine onHoop_kept _ _ _ ?_
    | with_reducible refine passOver_kept _ ?_
    | with_reducible refine forEach_kept _ _ ?_ ?_
    | dsimp only
    | split
    | intro _

theorem execHoopPick_kept (wheel : Nat) (hoop : Nat) (h : Kept F s) :
    KeptO F (execHoopPick wheel hoop s) := by
  unfold execHoopPick
  repeat' first
    | with_reducible assumption
    | with_reducible refine occurs_keptO _ _ ?_ ?_
    | with_reducible refine pick_kept _ _ ?_
    | intro _

theorem recordEnd_kept (k : Nat) (t : Nat) (h : Kept F s) :
    Kept F (recordEnd k t s) := by
  unfold recordEnd
  repeat' first
    | with_reducible assumption
    | with_reducible refine settle_kept _ ?_
    | with_reducible refine onTask_kept _ _ _ ?_
    | with_reducible refine cond_kept ?_ ?_
    | with_reducible refine cores_kept _ ?_

theorem fillLine_kept (c : CoreId) (k : Nat) (line : Nat) (bytes : List Byte) (h : Kept F s) :
    Kept F (fillLine c k line bytes s) := by
  unfold fillLine
  repeat' first
    | with_reducible assumption
    | with_reducible refine cores_kept _ ?_

theorem fetchPoisoned_kept (c : Core) (line : Nat) (h : Kept F s) :
    Kept F (fetchPoisoned c line s) := by
  unfold fetchPoisoned
  repeat' first
    | with_reducible assumption
    | with_reducible refine fillLine_kept _ _ _ _ ?_
    | with_reducible refine deferFault_kept _ _ _ ?_
    | with_reducible refine coreMemoryError_kept _ ?_
    | with_reducible refine cond_kept ?_ ?_

theorem execIcacheMissFill_kept (c : CoreId) (h : Kept F s) :
    KeptO F (execIcacheMissFill c s) := by
  unfold execIcacheMissFill
  repeat' first
    | with_reducible assumption
    | with_reducible refine next_keptO ?_
    | with_reducible refine coreFault_kept _ _ _ _ ?_
    | with_reducible refine fetchPoisoned_kept _ _ ?_
    | with_reducible refine fillLine_kept _ _ _ _ ?_
    | split

theorem beginMiss_kept (c : Core) (line : Nat) (h : Kept F s) :
    Kept F (beginMiss c line s) := by
  unfold beginMiss
  repeat' first
    | with_reducible assumption
    | with_reducible refine putCore_kept _ ?_

theorem execBudgetExceeded_kept (c : CoreId) (h : Kept F s) :
    KeptO F (execBudgetExceeded c s) := by
  unfold execBudgetExceeded
  repeat' first
    | with_reducible assumption
    | with_reducible refine next_keptO ?_
    | with_reducible refine occurs_keptO _ _ ?_ ?_
    | with_reducible refine coreFault_kept _ _ _ _ ?_
    | split
    | intro _

theorem execEcallExit_kept (c : CoreId) (h : Kept F s) :
    KeptO F (execEcallExit c s) := by
  unfold execEcallExit
  repeat' first
    | with_reducible assumption
    | with_reducible refine next_keptO ?_
    | with_reducible refine occurs_keptO _ _ ?_ ?_
    | with_reducible refine coreFault_kept _ _ _ _ ?_
    | with_reducible refine recordEnd_kept _ _ ?_
    | with_reducible refine retireInstr_kept _ _ ?_
    | split
    | intro _

/-! ### Riscv -/

/-- What an instruction's result keeps. -/
def KeptI (F : Fixed) : IRes → Prop
  | .next _ t _ => Kept F t
  | .trap _ _ _ => True
  | .trapAfter t _ _ => Kept F t

/-- What a result that may be absent keeps. -/
def KeptIO (F : Fixed) (o : Option IRes) : Prop := ∀ r, o = some r → KeptI F r

theorem next_keptI (c : Core) (b : Nat) (h : Kept F s) : KeptI F (.next c s b) := h

theorem trapAfter_keptI (a b : Nat) (h : Kept F s) : KeptI F (.trapAfter s a b) := h

theorem trap_keptI (a b c : Nat) : KeptI F (.trap a b c) := trivial

theorem illegal_keptI (w : Nat) : KeptI F (illegal w) := trivial

theorem some_keptIO {r : IRes} (h : KeptI F r) : KeptIO F (some r) := by
  intro x e; cases e; exact h

theorem none_keptIO : KeptIO F none := by
  intro x e; cases e

theorem map_keptIO {α : Type} (o : Option α) (f : α → IRes) (h : ∀ a, KeptI F (f a)) : KeptIO F (o.map f) := by
  intro x e
  rw [Option.map_eq_some_iff] at e
  obtain ⟨a, _, rfl⟩ := e
  exact h a

theorem ite_keptI {c : Prop} [Decidable c] {a b : IRes} (ha : KeptI F a) (hb : KeptI F b) :
    KeptI F (if c then a else b) := by
  split
  · exact ha
  · exact hb

theorem wrote_kept (c : Core) (len rd v : Nat) (h : Kept F s) : KeptI F (wrote c s len rd v) := h

theorem storeScalar_kept {c : Core} {a n v : Nat} {t : State} (e : storeScalar c a n v s = .ok t)
    (h : Kept F s) : Kept F t := by
  unfold storeScalar at e
  split at e
  · cases e
  · split at e
    · rename_i e2
      cases e
      exact scratchWrite_kept e2 h
    · cases e

theorem execLoad_kept (c : Core) (w : Nat) (len : Nat) (h : Kept F s) :
    KeptI F (execLoad c s w len) := by
  unfold execLoad
  repeat' first
    | with_reducible assumption
    | with_reducible refine trap_keptI _ _ _
    | with_reducible refine illegal_keptI _
    | with_reducible refine wrote_kept _ _ _ _ ?_
    | dsimp only
    | split

theorem execStore_kept (c : Core) (w : Nat) (len : Nat) (h : Kept F s) :
    KeptI F (execStore c s w len) := by
  unfold execStore
  repeat' first
    | with_reducible assumption
    | with_reducible refine next_keptI _ _ ?_
    | with_reducible refine trap_keptI _ _ _
    | with_reducible refine illegal_keptI _
    | with_reducible refine storeScalar_kept (by assumption) ?_
    | with_reducible refine ite_keptI ?_ ?_
    | split

theorem execAmo_kept (c : Core) (w : Nat) (len : Nat) (h : Kept F s) :
    KeptI F (execAmo c s w len) := by
  unfold execAmo
  repeat' first
    | with_reducible assumption
    | with_reducible refine next_keptI _ _ ?_
    | with_reducible refine trap_keptI _ _ _
    | with_reducible refine illegal_keptI _
    | with_reducible refine breakReservation_kept _ _ _ ?_
    | with_reducible refine ite_keptI ?_ ?_
    | split
    | with_reducible refine dev_write_kept _ _ ?_

theorem execCsr_kept (c : Core) (w : Nat) (len : Nat) (h : Kept F s) :
    KeptI F (execCsr c s w len) := by
  unfold execCsr
  repeat' first
    | with_reducible assumption
    | with_reducible refine illegal_keptI _
    | with_reducible refine wrote_kept _ _ _ _ ?_
    | dsimp only
    | split

theorem execSystem_kept (c : Core) (w : Nat) (len : Nat) (h : Kept F s) :
    KeptI F (execSystem c s w len) := by
  unfold execSystem
  repeat' first
    | with_reducible assumption
    | with_reducible refine next_keptI _ _ ?_
    | with_reducible refine trap_keptI _ _ _
    | with_reducible refine illegal_keptI _
    | with_reducible refine execCsr_kept _ _ _ ?_
    | with_reducible refine ite_keptI ?_ ?_

theorem execFenceInstr_kept (c : Core) (w : Nat) (len : Nat) (h : Kept F s) :
    KeptI F (execFenceInstr c s w len) := by
  unfold execFenceInstr
  repeat' first
    | with_reducible assumption
    | with_reducible refine next_keptI _ _ ?_
    | with_reducible refine illegal_keptI _
    | split

theorem execInt_kept (c : Core) (w : Nat) (len : Nat) (h : Kept F s) :
    KeptIO F (execInt c s w len) := by
  unfold execInt
  repeat' first
    | with_reducible assumption
    | with_reducible refine next_keptI _ _ ?_
    | with_reducible refine illegal_keptI _
    | with_reducible refine some_keptIO ?_
    | with_reducible refine none_keptIO
    | with_reducible refine wrote_kept _ _ _ _ ?_
    | with_reducible refine execLoad_kept _ _ _ ?_
    | with_reducible refine execStore_kept _ _ _ ?_
    | with_reducible refine execAmo_kept _ _ _ ?_
    | with_reducible refine execFenceInstr_kept _ _ _ ?_
    | with_reducible refine execSystem_kept _ _ _ ?_
    | dsimp only
    | split

/-! ### RiscvFp -/

theorem fpWrote_kept (c : Core) (f : Ieee) (len : Nat) (rd : Nat) (p : Nat × Nat) (h : Kept F s) :
    KeptI F (fpWrote c s f len rd p) := by
  unfold fpWrote
  repeat' first
    | with_reducible assumption
    | with_reducible refine next_keptI _ _ ?_

theorem fpWroteX_kept (c : Core) (len : Nat) (rd : Nat) (v : Nat) (fl : Nat) (h : Kept F s) :
    KeptI F (fpWroteX c s len rd v fl) := by
  unfold fpWroteX
  repeat' first
    | with_reducible assumption
    | with_reducible refine next_keptI _ _ ?_

theorem execOpFp_kept (c : Core) (w : Nat) (len : Nat) (h : Kept F s) :
    KeptI F (execOpFp c s w len) := by
  unfold execOpFp
  repeat' first
    | with_reducible assumption
    | with_reducible refine illegal_keptI _
    | with_reducible refine fpWrote_kept _ _ _ _ _ ?_
    | with_reducible refine fpWroteX_kept _ _ _ _ _ ?_
    | dsimp only
    | split

theorem execFmaInstr_kept (c : Core) (w : Nat) (len : Nat) (h : Kept F s) :
    KeptI F (execFmaInstr c s w len) := by
  unfold execFmaInstr
  repeat' first
    | with_reducible assumption
    | with_reducible refine illegal_keptI _
    | with_reducible refine fpWrote_kept _ _ _ _ _ ?_
    | split

theorem execFpLoad_kept (c : Core) (w : Nat) (len : Nat) (h : Kept F s) :
    KeptIO F (execFpLoad c s w len) := by
  unfold execFpLoad
  repeat' first
    | with_reducible assumption
    | with_reducible refine next_keptI _ _ ?_
    | with_reducible refine trap_keptI _ _ _
    | with_reducible refine map_keptIO _ _ ?_
    | split
    | intro _

theorem execFpStore_kept (c : Core) (w : Nat) (len : Nat) (h : Kept F s) :
    KeptIO F (execFpStore c s w len) := by
  unfold execFpStore
  repeat' first
    | with_reducible assumption
    | with_reducible refine next_keptI _ _ ?_
    | with_reducible refine trap_keptI _ _ _
    | with_reducible refine map_keptIO _ _ ?_
    | with_reducible refine storeScalar_kept (by assumption) ?_
    | split
    | intro _

theorem execFp_kept (c : Core) (w : Nat) (len : Nat) (h : Kept F s) :
    KeptIO F (execFp c s w len) := by
  unfold execFp
  repeat' first
    | with_reducible assumption
    | with_reducible refine some_keptIO ?_
    | with_reducible refine none_keptIO
    | with_reducible refine execFpLoad_kept _ _ _ ?_
    | with_reducible refine execFpStore_kept _ _ _ ?_
    | with_reducible refine execFmaInstr_kept _ _ _ ?_
    | with_reducible refine execOpFp_kept _ _ _ ?_
    | split

/-! ### RiscvV -/

theorem execVset_kept (c : Core) (w : Nat) (len : Nat) (h : Kept F s) :
    KeptI F (execVset c s w len) := by
  unfold execVset
  repeat' first
    | with_reducible assumption
    | with_reducible refine illegal_keptI _
    | with_reducible refine wrote_kept _ _ _ _ ?_
    | with_reducible refine ite_keptI ?_ ?_

theorem vDone_kept (c : Core) (len : Nat) (p : List (BitVec 512) × Nat) (h : Kept F s) :
    KeptI F (vDone c s len p) := by
  unfold vDone
  repeat' first
    | with_reducible assumption
    | with_reducible refine next_keptI _ _ ?_

theorem execOpi_kept (c : Core) (w : Nat) (len : Nat) (h : Kept F s) :
    KeptI F (execOpi c s w len) := by
  unfold execOpi
  repeat' first
    | with_reducible assumption
    | with_reducible refine next_keptI _ _ ?_
    | with_reducible refine illegal_keptI _
    | with_reducible refine vDone_kept _ _ _ ?_
    | with_reducible refine ite_keptI ?_ ?_
    | split

theorem execVmunary_kept (c : Core) (w : Nat) (len : Nat) (vm : Bool) (h : Kept F s) :
    KeptI F (execVmunary c s w len vm) := by
  unfold execVmunary
  repeat' first
    | with_reducible assumption
    | with_reducible refine illegal_keptI _
    | with_reducible refine vDone_kept _ _ _ ?_
    | with_reducible refine ite_keptI ?_ ?_
    | split

theorem execVxunary_kept (c : Core) (w : Nat) (len : Nat) (vm : Bool) (h : Kept F s) :
    KeptI F (execVxunary c s w len vm) := by
  unfold execVxunary
  repeat' first
    | with_reducible assumption
    | with_reducible refine illegal_keptI _
    | with_reducible refine vDone_kept _ _ _ ?_
    | with_reducible refine wrote_kept _ _ _ _ ?_
    | split

theorem execVext_kept (c : Core) (w : Nat) (len : Nat) (vm : Bool) (h : Kept F s) :
    KeptI F (execVext c s w len vm) := by
  unfold execVext
  repeat' first
    | with_reducible assumption
    | with_reducible refine illegal_keptI _
    | with_reducible refine vDone_kept _ _ _ ?_
    | with_reducible refine ite_keptI ?_ ?_

theorem execVcompress_kept (c : Core) (w : Nat) (len : Nat) (h : Kept F s) :
    KeptI F (execVcompress c s w len) := by
  unfold execVcompress
  repeat' first
    | with_reducible assumption
    | with_reducible refine illegal_keptI _
    | with_reducible refine vDone_kept _ _ _ ?_
    | with_reducible refine ite_keptI ?_ ?_

theorem execOpm_kept (c : Core) (w : Nat) (len : Nat) (h : Kept F s) :
    KeptI F (execOpm c s w len) := by
  unfold execOpm
  repeat' first
    | with_reducible assumption
    | with_reducible refine illegal_keptI _
    | with_reducible refine vDone_kept _ _ _ ?_
    | with_reducible refine execVxunary_kept _ _ _ _ ?_
    | with_reducible refine execVext_kept _ _ _ _ ?_
    | with_reducible refine execVmunary_kept _ _ _ _ ?_
    | with_reducible refine execVcompress_kept _ _ _ ?_
    | with_reducible refine ite_keptI ?_ ?_

theorem execVfcvt_kept (c : Core) (w : Nat) (len : Nat) (vm : Bool) (rm : Nat) (h : Kept F s) :
    KeptI F (execVfcvt c s w len vm rm) := by
  unfold execVfcvt
  repeat' first
    | with_reducible assumption
    | with_reducible refine illegal_keptI _
    | with_reducible refine vDone_kept _ _ _ ?_
    | with_reducible refine ite_keptI ?_ ?_
    | split

theorem execOpf_kept (c : Core) (w : Nat) (len : Nat) (h : Kept F s) :
    KeptI F (execOpf c s w len) := by
  unfold execOpf
  repeat' first
    | with_reducible assumption
    | with_reducible refine next_keptI _ _ ?_
    | with_reducible refine illegal_keptI _
    | with_reducible refine execVfcvt_kept _ _ _ _ _ ?_
    | with_reducible refine vDone_kept _ _ _ ?_
    | with_reducible refine ite_keptI ?_ ?_
    | split

theorem execVload_kept (c : Core) (w : Nat) (len : Nat) (h : Kept F s) :
    KeptI F (execVload c s w len) := by
  unfold execVload
  repeat' first
    | with_reducible assumption
    | with_reducible refine next_keptI _ _ ?_
    | with_reducible refine trap_keptI _ _ _
    | with_reducible refine illegal_keptI _
    | dsimp only
    | split

theorem execVstore_kept (c : Core) (w : Nat) (len : Nat) (h : Kept F s) :
    KeptI F (execVstore c s w len) := by
  unfold execVstore
  repeat' first
    | with_reducible assumption
    | with_reducible refine next_keptI _ _ ?_
    | with_reducible refine trapAfter_keptI _ _ ?_
    | with_reducible refine illegal_keptI _
    | with_reducible refine storeScalar_kept (by assumption) ?_
    | with_reducible refine foldl_fst_kept _ _ ?_ _ ?_
    | dsimp only
    | split
    | intro _

theorem execVec_kept (c : Core) (w : Nat) (len : Nat) (h : Kept F s) :
    KeptIO F (execVec c s w len) := by
  unfold execVec
  repeat' first
    | with_reducible assumption
    | with_reducible refine some_keptIO ?_
    | with_reducible refine none_keptIO
    | with_reducible refine execVload_kept _ _ _ ?_
    | with_reducible refine execVstore_kept _ _ _ ?_
    | with_reducible refine execVset_kept _ _ _ ?_
    | with_reducible refine execOpf_kept _ _ _ ?_
    | with_reducible refine execOpm_kept _ _ _ ?_
    | with_reducible refine execOpi_kept _ _ _ ?_
    | split

/-! ### RiscvRun -/

theorem stdInstr_kept (c : Core) (w len : Nat) (h : Kept F s) : KeptI F (stdInstr c s w len) := by
  unfold stdInstr
  split
  · exact illegal_keptI _
  · split
    · rename_i e; exact execInt_kept _ _ _ h _ e
    · split
      · rename_i e; exact execFp_kept _ _ _ h _ e
      · split
        · rename_i e; exact execVec_kept _ _ _ h _ e
        · exact illegal_keptI _

theorem applyIRes_kept (c : Core) (r : IRes) (hr : KeptI F r) (h : Kept F s) : Kept F (applyIRes c s r) := by
  unfold applyIRes
  cases r with
  | next k t b => exact retireInstr_kept _ _ hr
  | trap a b m => exact coreFault_kept _ _ _ _ h
  | trapAfter t a m => exact coreFault_kept _ _ _ _ hr

theorem execRiscvInstruction_kept (c : CoreId) (h : Kept F s) : KeptO F (execRiscvInstruction c s) := by
  unfold execRiscvInstruction
  split
  · exact next_keptO h
  · refine occurs_keptO _ _ (fun x hx => ?_) h
    split
    · exact coreFault_kept _ _ _ _ hx
    · exact beginMiss_kept _ _ hx
    · split
      · exact hx
      · exact applyIRes_kept _ _ (stdInstr_kept _ _ _ hx) hx

/-! ### KzData -/

theorem kzFault_kept (k : Core) (w : Nat) (f : KzFault) (h : Kept F s) :
    Kept F (kzFault k w f s) := by
  unfold kzFault
  repeat' first
    | with_reducible assumption
    | with_reducible refine drawn_kept ?_
    | with_reducible refine coreFault_kept _ _ _ _ ?_
    | split

theorem kzDone_kept (k : Core) (rd : Nat) (v : Nat) (beats : Nat) (h : Kept F s) :
    Kept F (kzDone k rd v beats s) := by
  unfold kzDone
  repeat' first
    | with_reducible assumption
    | with_reducible refine retireInstr_kept _ _ ?_

theorem store_kept (c : Core) (a : Nat) (bs : List Byte) (h : Kept F s) : Kept F (store c a bs s) := by
  unfold store
  cases e : scratchWrite c a bs s with
  | none => exact h
  | some t => exact scratchWrite_kept e h

theorem execKzQuant_kept (c : CoreId) (h : Kept F s) :
    KeptO F (execKzQuant c s) := by
  unfold execKzQuant
  repeat' first
    | with_reducible assumption
    | with_reducible refine next_keptO ?_
    | with_reducible refine kzFault_kept _ _ _ ?_
    | with_reducible refine store_kept _ _ _ ?_
    | with_reducible refine countTask_kept _ _ _ _ _ ?_
    | with_reducible refine kzDone_kept _ _ _ _ ?_
    | dsimp only
    | split

theorem execKzDequant_kept (c : CoreId) (h : Kept F s) :
    KeptO F (execKzDequant c s) := by
  unfold execKzDequant
  repeat' first
    | with_reducible assumption
    | with_reducible refine next_keptO ?_
    | with_reducible refine kzFault_kept _ _ _ ?_
    | with_reducible refine store_kept _ _ _ ?_
    | with_reducible refine countTask_kept _ _ _ _ _ ?_
    | with_reducible refine kzDone_kept _ _ _ _ ?_
    | dsimp only
    | split

theorem execKzEyepickAccumulate_kept (c : CoreId) (h : Kept F s) :
    KeptO F (execKzEyepickAccumulate c s) := by
  unfold execKzEyepickAccumulate
  repeat' first
    | with_reducible assumption
    | with_reducible refine next_keptO ?_
    | with_reducible refine kzFault_kept _ _ _ ?_
    | with_reducible refine occurs_keptO _ _ ?_ ?_
    | with_reducible refine kzDone_kept _ _ _ _ ?_
    | with_reducible refine store_kept _ _ _ ?_
    | dsimp only
    | split
    | intro _

theorem execKzEyepickSelect_kept (c : CoreId) (h : Kept F s) :
    KeptO F (execKzEyepickSelect c s) := by
  unfold execKzEyepickSelect
  repeat' first
    | with_reducible assumption
    | with_reducible refine next_keptO ?_
    | with_reducible refine kzFault_kept _ _ _ ?_
    | with_reducible refine occurs_keptO _ _ ?_ ?_
    | with_reducible refine kzDone_kept _ _ _ _ ?_
    | with_reducible refine store_kept _ _ _ ?_
    | dsimp only
    | split
    | intro _

theorem execKzTopk_kept (c : CoreId) (h : Kept F s) :
    KeptO F (execKzTopk c s) := by
  unfold execKzTopk
  repeat' first
    | with_reducible assumption
    | with_reducible refine next_keptO ?_
    | with_reducible refine kzFault_kept _ _ _ ?_
    | with_reducible refine store_kept _ _ _ ?_
    | with_reducible refine kzDone_kept _ _ _ _ ?_
    | split

theorem execKzHist_kept (c : CoreId) (h : Kept F s) :
    KeptO F (execKzHist c s) := by
  unfold execKzHist
  repeat' first
    | with_reducible assumption
    | with_reducible refine next_keptO ?_
    | with_reducible refine kzFault_kept _ _ _ ?_
    | with_reducible refine kzDone_kept _ _ _ _ ?_
    | with_reducible refine store_kept _ _ _ ?_
    | split

/-! ### Kz -/

theorem carryWake_kept (k : Core) (y : Carry) (h : Kept F s) :
    Kept F (carryWake k y s) := by
  unfold carryWake
  repeat' first
    | with_reducible assumption
    | with_reducible refine kzDone_kept _ _ _ _ ?_
    | with_reducible refine putCore_kept _ ?_
    | with_reducible refine drawn_kept ?_
    | split

theorem carryGone_kept (k : Core) (i : Nat) (y : Carry) (h : Kept F s) :
    Kept F (carryGone k i y s) := by
  unfold carryGone
  repeat' first
    | with_reducible assumption
    | with_reducible refine settle_kept _ ?_
    | with_reducible refine recordEnd_kept _ _ ?_
    | with_reducible refine carryWake_kept _ _ ?_

theorem carryFault_kept (k : Core) (i : Nat) (y : Carry) (a : Access) (h : Kept F s) :
    Kept F (carryFault k i y a s) := by
  unfold carryFault
  repeat' first
    | with_reducible assumption
    | with_reducible refine carryGone_kept _ _ _ ?_
    | with_reducible refine drawn_kept ?_
    | with_reducible refine deferFault_kept _ _ _ ?_
    | with_reducible refine coreFault_kept _ _ _ _ ?_
    | with_reducible refine settle_kept _ ?_
    | with_reducible refine breachFault_kept _ _ _ ?_
    | with_reducible refine absorbTask_kept _ _ _ ?_
    | with_reducible refine coreMemoryError_kept _ ?_
    | split

theorem carryDemand_kept (k : Core) (i : Nat) (y : Carry) (h : Kept F s) :
    Kept F (carryDemand k i y s).1 := by
  unfold carryDemand
  repeat' first
    | with_reducible assumption
    | with_reducible refine demandRange_kept _ _ _ _ _ ?_
    | with_reducible refine putCore_kept _ ?_
    | with_reducible refine foldl_fst_kept _ _ ?_ _ ?_
    | split
    | intro _

/-- The state that the writes of a carry come to. -/
def CarryOut.state : CarryOut → State
  | .done t => t
  | .wait t => t
  | .failed t _ => t

theorem carryWrite_kept (k : Core) (y : Carry) (ps : List Put) (h : Kept F s) : Kept F (carryWrite k y ps s).state := by
  unfold carryWrite
  dsimp only
  split
  · refine forEach_kept _ _ (fun p t ht => ?_) h
    split
    · exact breakReservation_kept _ _ _ (dev_write_kept _ _ ht)
    · exact dev_write_kept _ _ ht
  · split
    · refine forEach_kept _ _ (fun p t ht => ?_) h
      split
      · exact breach_kept _ _ _ ht
      · exact drawn_kept (doPutsSpec_kept _ _ _ _ _ ht)
    · split
      · exact preOpen_kept _ _ _ h
      · have h2 := doPuts_kept (F := F) k.recipe k.task (coreUnit k.id) ps (preOpen_kept k.recipe k.task ps h)
        split
        · rename_i e; exact Kept.of_fst e h2
        · rename_i e; exact Kept.of_fst e h2
        · rename_i e; exact Kept.of_fst e h2

theorem carryMove_kept (k : Core) (i : Nat) (y : Carry) (h : Kept F s) : Kept F (carryMove k i y s) := by
  have h0 := carryDemand_kept k i y h
  have h1 := fun ps => carryWrite_kept (carryDemand k i y s).2.1 (carryDemand k i y s).2.2 ps h0
  unfold carryMove
  dsimp only
  split
  · exact h0
  · split
    · rename_i e; have h2 := h1 (carryRows (carryDemand k i y s).1 (carryDemand k i y s).2.1 (carryDemand k i y s).2.2).1
      rw [e] at h2; exact h2
    · rename_i e; have h2 := h1 (carryRows (carryDemand k i y s).1 (carryDemand k i y s).2.1 (carryDemand k i y s).2.2).1
      rw [e] at h2; exact carryFault_kept _ _ _ _ h2
    · rename_i e; have h2 := h1 (carryRows (carryDemand k i y s).1 (carryDemand k i y s).2.1 (carryDemand k i y s).2.2).1
      rw [e] at h2
      split
      · exact h2
      · split
        · exact carryFault_kept _ _ _ _ h2
        · exact carryGone_kept _ _ _ h2

theorem execCarryComplete_kept (c : CoreId) (n : Nat) (e : CarryEnd) (h : Kept F s) :
    KeptO F (execCarryComplete c n e s) := by
  unfold execCarryComplete
  repeat' first
    | with_reducible assumption
    | with_reducible refine next_keptO ?_
    | with_reducible refine occurs_keptO _ _ ?_ ?_
    | with_reducible refine carryMove_kept _ _ _ ?_
    | with_reducible refine settle_kept _ ?_
    | with_reducible refine taskFault_kept _ _ _ _ _ ?_
    | split
    | intro _

theorem execKzCarry_kept (c : CoreId) (h : Kept F s) :
    KeptO F (execKzCarry c s) := by
  unfold execKzCarry
  repeat' first
    | with_reducible assumption
    | with_reducible refine next_keptO ?_
    | with_reducible refine kzFault_kept _ _ _ ?_
    | with_reducible refine kzDone_kept _ _ _ _ ?_
    | with_reducible refine putCore_kept _ ?_
    | dsimp only
    | split

theorem kzAfter_kept (k : Core) (rd : Nat) (v : Nat) (beats : Nat) (h : Kept F s) :
    Kept F (kzAfter k rd v beats s) := by
  unfold kzAfter
  repeat' first
    | with_reducible assumption
    | with_reducible refine settle_kept _ ?_
    | with_reducible refine kzDone_kept _ _ _ _ ?_
    | split

theorem execKzTadd_kept (c : CoreId) (h : Kept F s) :
    KeptO F (execKzTadd c s) := by
  unfold execKzTadd
  repeat' first
    | with_reducible assumption
    | with_reducible refine next_keptO ?_
    | with_reducible refine occurs_keptO _ _ ?_ ?_
    | with_reducible refine kzFault_kept _ _ _ ?_
    | with_reducible refine settle_kept _ ?_
    | with_reducible refine misuse_kept _ _ _ _ ?_
    | with_reducible refine kzDone_kept _ _ _ _ ?_
    | with_reducible refine kzAfter_kept _ _ _ _ ?_
    | with_reducible refine underR182_kept _ _ _ _ _ ?_ ?_
    | with_reducible refine tAdd_kept _ _ _ _ ?_
    | split
    | intro _

theorem execKzTwait_kept (c : CoreId) (h : Kept F s) :
    KeptO F (execKzTwait c s) := by
  unfold execKzTwait
  repeat' first
    | with_reducible assumption
    | with_reducible refine next_keptO ?_
    | with_reducible refine kzFault_kept _ _ _ ?_
    | with_reducible refine settle_kept _ ?_
    | with_reducible refine misuse_kept _ _ _ _ ?_
    | with_reducible refine kzDone_kept _ _ _ _ ?_
    | with_reducible refine trackWatchdog_kept _ ?_
    | with_reducible refine putCore_kept _ ?_
    | split

theorem execTwaitWake_kept (c : CoreId) (h : Kept F s) :
    KeptO F (execTwaitWake c s) := by
  unfold execTwaitWake
  repeat' first
    | with_reducible assumption
    | with_reducible refine next_keptO ?_
    | with_reducible refine occurs_keptO _ _ ?_ ?_
    | with_reducible refine trackWatchdog_kept _ ?_
    | with_reducible refine drawn_kept ?_
    | with_reducible refine kzDone_kept _ _ _ _ ?_
    | split
    | intro _

theorem execKzTarm_kept (c : CoreId) (h : Kept F s) :
    KeptO F (execKzTarm c s) := by
  unfold execKzTarm
  repeat' first
    | with_reducible assumption
    | with_reducible refine next_keptO ?_
    | with_reducible refine occurs_keptO _ _ ?_ ?_
    | with_reducible refine kzFault_kept _ _ _ ?_
    | with_reducible refine drawn_kept ?_
    | with_reducible refine kzAfter_kept _ _ _ _ ?_
    | with_reducible refine underR182_kept _ _ _ _ _ ?_ ?_
    | with_reducible refine tArm_kept _ _ _ _ _ _ _ ?_
    | split
    | intro _

theorem execKzPost_kept (c : CoreId) (h : Kept F s) :
    KeptO F (execKzPost c s) := by
  unfold execKzPost
  repeat' first
    | with_reducible assumption
    | with_reducible refine next_keptO ?_
    | with_reducible refine occurs_keptO _ _ ?_ ?_
    | with_reducible refine kzFault_kept _ _ _ ?_
    | with_reducible refine kzAfter_kept _ _ _ _ ?_
    | with_reducible refine onTask_kept _ _ _ ?_
    | with_reducible refine tAdd_kept _ _ _ _ ?_
    | split
    | intro _

theorem execKzSpecBegin_kept (c : CoreId) (h : Kept F s) :
    KeptO F (execKzSpecBegin c s) := by
  unfold execKzSpecBegin
  repeat' first
    | with_reducible assumption
    | with_reducible refine next_keptO ?_
    | with_reducible refine kzFault_kept _ _ _ ?_
    | with_reducible refine kzDone_kept _ _ _ _ ?_
    | split

theorem execKzSpecEnd_kept (c : CoreId) (h : Kept F s) :
    KeptO F (execKzSpecEnd c s) := by
  unfold execKzSpecEnd
  repeat' first
    | with_reducible assumption
    | with_reducible refine next_keptO ?_
    | with_reducible refine kzFault_kept _ _ _ ?_
    | with_reducible refine putCore_kept _ ?_
    | with_reducible refine kzDone_kept _ _ _ _ ?_
    | split

end Sys2Proof.Machine
end

