-- ==== Sys2Proof/Laws/KeepPower.lean ====
section
/-! SUPPORT. What the operations of halts, power, spares, ageing, bring-up and resets keep: the invariant of
Safety.lean and the fixed part of the state (KeepBase.lean). A law ends in `_kept` and cites those of the operations
that its own calls. -/

namespace Sys2Proof.Machine

variable {F : Fixed} {s : State}

/-! ### Halt -/

theorem resetHostRegs_bar0 (x : HostIf) : (resetHostRegs x).bar0 = memWrite x.bar0 0x20000 msixResetBytes := by
  simp only [resetHostRegs]

theorem resetHostRegs_bar0_wf (x : HostIf) (hx : x.bar0.wf = true) : (resetHostRegs x).bar0.wf = true := by
  rw [resetHostRegs_bar0]
  generalize msixResetBytes = bs
  exact memWrite_wf bs _ _ hx

theorem resetHostRegs_queues (x : HostIf) : (resetHostRegs x).queues.length = 16 := by
  simp only [resetHostRegs, List.length_replicate]

theorem resetFunction_kept (h : Kept F s) : Kept F (resetFunction s) :=
  onWarden_kept _ (fun _ hx => hx) (fun _ hx => hx) (onEvents_kept _ (fun _ hx => hx) (fun _ hx => hx)
    (onHost_kept resetHostRegs resetHostRegs_bar0_wf (fun x _ => resetHostRegs_queues x) h))

theorem hostResetDone_kept (h : Kept F s) :
    Kept F (hostResetDone s) := by
  unfold hostResetDone
  repeat' first
    | with_reducible assumption
    | with_reducible refine onHost_kept _ ?_ ?_ ?_
    | exact fun _ hx => hx
    | with_reducible refine cond_kept ?_ ?_

theorem markHostReset_kept (k : Nat) (h : Kept F s) :
    Kept F (markHostReset k s) := by
  unfold markHostReset
  repeat' first
    | with_reducible assumption
    | with_reducible refine onGate_kept _ ?_

theorem endForReset_kept (k : Nat) (h : Kept F s) :
    Kept F (endForReset k s) := by
  unfold endForReset
  repeat' first
    | with_reducible assumption
    | with_reducible refine markHostReset_kept _ ?_
    | with_reducible refine endStepOutside_kept _ ?_
    | with_reducible refine removeRecipe_kept _ ?_
    | with_reducible refine stopRestore_kept _ ?_
    | split

theorem hostReset_kept (h : Kept F s) :
    Kept F (hostReset s) := by
  unfold hostReset
  repeat' first
    | with_reducible assumption
    | with_reducible refine resetFunction_kept ?_
    | with_reducible refine post_kept _ _ _ _ ?_
    | with_reducible refine hostResetDone_kept ?_
    | with_reducible refine endForReset_kept _ ?_
    | with_reducible refine forEach_kept _ _ ?_ ?_
    | intro _

theorem dropLink_kept (h : Kept F s) :
    Kept F (dropLink s) := by
  unfold dropLink
  repeat' first
    | with_reducible assumption
    | with_reducible refine hostReset_kept ?_
    | with_reducible refine onHost_kept _ ?_ ?_ ?_
    | exact fun _ hx => hx
    | with_reducible refine cond_kept ?_ ?_

theorem execHostFunctionReset_kept (cause : HostResetCause) (h : Kept F s) :
    KeptO F (execHostFunctionReset cause s) := by
  unfold execHostFunctionReset
  repeat' first
    | with_reducible assumption
    | with_reducible refine occurs_keptO _ _ ?_ ?_
    | with_reducible refine hostReset_kept ?_
    | with_reducible refine dropLink_kept ?_
    | split
    | intro _

theorem linkTrained_kept (width : Nat) (rate : Nat) (qualified : Bool) (h : Kept F s) :
    Kept F (linkTrained width rate qualified s) := by
  unfold linkTrained
  repeat' first
    | with_reducible assumption
    | with_reducible refine onHost_kept _ ?_ ?_ ?_
    | with_reducible refine post_kept _ _ _ _ ?_
    | exact fun _ hx => hx
    | with_reducible refine cond_kept ?_ ?_

theorem execHostLinkError_kept (correctable : Bool) (h : Kept F s) :
    KeptO F (execHostLinkError correctable s) := by
  unfold execHostLinkError
  repeat' first
    | with_reducible assumption
    | with_reducible refine occurs_keptO _ _ ?_ ?_
    | with_reducible refine postAbove_kept _ _ _ _ _ _ _ _ ?_
    | with_reducible refine onHost_kept _ ?_ ?_ ?_
    | with_reducible refine post_kept _ _ _ _ ?_
    | split
    | intro _

theorem clearFences_kept (h : Kept F s) : Kept F (clearFences s) :=
  Kept.mk' h.inv.stores.near h.inv.stores.dev h.inv.stores.cave h.inv.stores.hostMem h.inv.stores.bar0
    h.inv.stores.bar4 h.inv.units.wheels ((List.length_map _).trans h.inv.units.farPorts)
    ((List.length_map _).trans h.inv.units.hingePorts) h.inv.units.queues h.inv.lists.log h.inv.lists.backlog
    h.inv.lists.cache h.fixed

theorem restartCounts_kept (h : Kept F s) : Kept F (restartCounts s) :=
  Kept.mk' h.inv.stores.near h.inv.stores.dev h.inv.stores.cave h.inv.stores.hostMem h.inv.stores.bar0
    h.inv.stores.bar4 ((List.length_map _).trans h.inv.units.wheels) h.inv.units.farPorts
    ((List.length_map _).trans h.inv.units.hingePorts) h.inv.units.queues h.inv.lists.log h.inv.lists.backlog
    h.inv.lists.cache h.fixed

theorem darkState_kept (h : Kept F s) : Kept F (darkState s) :=
  Kept.mk' rfl rfl rfl h.inv.stores.hostMem h.inv.stores.bar0 h.inv.stores.bar4
    ((List.length_map _).trans h.inv.units.wheels) ((List.length_map _).trans h.inv.units.farPorts)
    ((List.length_map _).trans h.inv.units.hingePorts) h.inv.units.queues h.inv.lists.log h.inv.lists.backlog
    h.inv.lists.cache h.fixed

theorem bankHours_kept (h : Kept F s) :
    Kept F (bankHours s) := by
  unfold bankHours
  repeat' first
    | with_reducible assumption
    | with_reducible refine onAgeing_kept _ ?_
    | with_reducible refine cond_kept ?_ ?_

theorem railsOff_kept (h : Kept F s) :
    Kept F (railsOff s) := by
  unfold railsOff
  repeat' first
    | with_reducible assumption
    | with_reducible refine hostResetDone_kept ?_
    | with_reducible refine onEvents_kept _ ?_ ?_ ?_
    | with_reducible refine onPower_kept _ ?_
    | with_reducible refine onGate_kept _ ?_
    | with_reducible refine darkState_kept ?_
    | with_reducible refine dropLink_kept ?_
    | with_reducible refine bankHours_kept ?_
    | exact fun _ hx => hx

theorem journalLoss_kept (r : Recipe) (h : Kept F s) :
    Kept F (journalLoss r s) := by
  unfold journalLoss
  repeat' first
    | with_reducible assumption
    | with_reducible refine appendJournal_kept _ _ ?_
    | split

theorem loseRecipes_kept (h : Kept F s) : Kept F (loseRecipes s) :=
  (abandonAll_kept h).congr rfl rfl rfl rfl rfl rfl rfl rfl rfl rfl rfl

theorem dropRun_kept (h : Kept F s) :
    Kept F (dropRun s) := by
  unfold dropRun
  repeat' first
    | with_reducible assumption
    | with_reducible refine onWarden_kept _ ?_ ?_ ?_
    | exact fun _ hx => hx

theorem haltStep_kept (k : Nat) (h : Kept F s) :
    Kept F (haltStep k s) := by
  unfold haltStep
  repeat' first
    | with_reducible assumption
    | with_reducible refine endFaulted_kept _ ?_
    | with_reducible refine onStep_kept _ _ ?_
    | with_reducible refine drawn_kept ?_

theorem haltRecipe_kept (k : Nat) (h : Kept F s) :
    Kept F (haltRecipe k s) := by
  unfold haltRecipe
  repeat' first
    | with_reducible assumption
    | with_reducible refine refuseHeld_kept _ ?_
    | with_reducible refine retireNow_kept _ ?_
    | with_reducible refine haltStep_kept _ ?_
    | with_reducible refine stopRestore_kept _ ?_
    | dsimp only
    | split

theorem coolantHalt_kept (cause : HaltCause) (injected : Bool) (h : Kept F s) :
    Kept F (coolantHalt cause injected s) := by
  unfold coolantHalt
  repeat' first
    | with_reducible assumption
    | with_reducible refine onGate_kept _ ?_
    | with_reducible refine onPower_kept _ ?_
    | with_reducible refine haltRecipe_kept _ ?_
    | with_reducible refine railsOff_kept ?_
    | with_reducible refine dropRun_kept ?_
    | with_reducible refine enter_kept _ ?_
    | with_reducible refine onLife_kept _ ?_
    | with_reducible refine onStored_kept _ ?_
    | with_reducible refine forEach_kept _ _ ?_ ?_
    | intro _
    | with_reducible refine cores_kept _ ?_

/-! ### Power -/

theorem applyStep_kept (d : Nat) (mv : ℤ) (h : Kept F s) :
    Kept F (applyStep d mv s) := by
  unfold applyStep
  repeat' first
    | with_reducible assumption
    | with_reducible refine onPower_kept _ ?_
    | with_reducible refine cond_kept ?_ ?_

theorem applyIslands_kept (slow : Bool) (h : Kept F s) :
    Kept F (applyIslands slow s) := by
  unfold applyIslands
  repeat' first
    | with_reducible assumption
    | with_reducible refine onPower_kept _ ?_
    | with_reducible refine wpost_kept _ _ _ _ ?_
    | with_reducible refine cond_kept ?_ ?_

theorem stepRail_kept (d : Nat) (mv : ℤ) (h : Kept F s) :
    Kept F (stepRail d mv s) := by
  unfold stepRail
  repeat' first
    | with_reducible assumption
    | with_reducible refine onPower_kept _ ?_
    | with_reducible refine applyStep_kept _ _ ?_
    | with_reducible refine cond_kept ?_ ?_

theorem stepIslands_kept (slow : Bool) (h : Kept F s) :
    Kept F (stepIslands slow s) := by
  unfold stepIslands
  repeat' first
    | with_reducible assumption
    | with_reducible refine onPower_kept _ ?_
    | with_reducible refine applyIslands_kept _ ?_
    | with_reducible refine cond_kept ?_ ?_

theorem execDeferredRateStep_kept (d : Nat) (h : Kept F s) :
    KeptO F (execDeferredRateStep d s) := by
  unfold execDeferredRateStep
  repeat' first
    | with_reducible assumption
    | with_reducible refine next_keptO ?_
    | with_reducible refine occurs_keptO _ _ ?_ ?_
    | with_reducible refine onPower_kept _ ?_
    | with_reducible refine applyIslands_kept _ ?_
    | with_reducible refine applyStep_kept _ _ ?_
    | with_reducible refine absentEpisode_kept _ _ ?_
    | with_reducible refine postEpisode_kept _ _ _ _ _ ?_
    | split
    | intro _

theorem execDroopBegin_kept (d : Nat) (h : Kept F s) :
    KeptO F (execDroopBegin d s) := by
  unfold execDroopBegin
  repeat' first
    | with_reducible assumption
    | with_reducible refine occurs_keptO _ _ ?_ ?_
    | with_reducible refine onPower_kept _ ?_
    | with_reducible refine post_kept _ _ _ _ ?_
    | with_reducible refine countDet_kept _ ?_
    | dsimp only
    | split
    | intro _

theorem execDroopClear_kept (d : Nat) (h : Kept F s) :
    KeptO F (execDroopClear d s) := by
  unfold execDroopClear
  repeat' first
    | with_reducible assumption
    | with_reducible refine occurs_keptO _ _ ?_ ?_
    | with_reducible refine onPower_kept _ ?_
    | intro _

theorem cappedInCollective_kept (old : Nat) (new : Nat) (h : Kept F s) :
    Kept F (cappedInCollective old new s) := by
  unfold cappedInCollective
  repeat' first
    | with_reducible assumption
    | with_reducible refine wpost_kept _ _ _ _ ?_
    | with_reducible refine cond_kept ?_ ?_

theorem setCeiling_kept (h : Kept F s) :
    Kept F (setCeiling s) := by
  unfold setCeiling
  repeat' first
    | with_reducible assumption
    | with_reducible refine onPower_kept _ ?_
    | with_reducible refine cappedInCollective_kept _ _ ?_
    | with_reducible refine queueUpdate_kept _ ?_
    | with_reducible refine cond_kept ?_ ?_

theorem stepDown_kept (h : Kept F s) :
    Kept F (stepDown s) := by
  unfold stepDown
  repeat' first
    | with_reducible assumption
    | with_reducible refine onPower_kept _ ?_
    | with_reducible refine stepRail_kept _ _ ?_
    | with_reducible refine stepIslands_kept _ ?_
    | split

theorem stepUp_kept (act : List Nat) (h : Kept F s) :
    Kept F (stepUp act s) := by
  unfold stepUp
  repeat' first
    | with_reducible assumption
    | with_reducible refine stepIslands_kept _ ?_
    | with_reducible refine stepRail_kept _ _ ?_
    | with_reducible refine onPower_kept _ ?_
    | split

theorem lowerRail_kept (d : Nat) (h : Kept F s) :
    Kept F (lowerRail d s) := by
  unfold lowerRail
  repeat' first
    | with_reducible assumption
    | with_reducible refine stepRail_kept _ _ ?_
    | with_reducible refine cond_kept ?_ ?_

theorem follow_kept (d : Nat) (h : Kept F s) :
    Kept F (follow d s) := by
  unfold follow
  repeat' first
    | with_reducible assumption
    | with_reducible refine lowerRail_kept _ ?_
    | with_reducible refine stepRail_kept _ _ ?_
    | with_reducible refine cond_kept ?_ ?_

theorem nearNeighbours_kept (h : Kept F s) :
    Kept F (nearNeighbours s) := by
  unfold nearNeighbours
  repeat' first
    | with_reducible assumption
    | with_reducible refine stepRail_kept _ _ ?_
    | with_reducible refine forEach_kept _ _ ?_ ?_
    | split
    | intro _

theorem allocate_kept (act : List Nat) (p : ℚ) (h : Kept F s) :
    Kept F (allocate act p s) := by
  unfold allocate
  repeat' first
    | with_reducible assumption
    | with_reducible refine stepDown_kept ?_
    | with_reducible refine stepUp_kept _ ?_
    | with_reducible refine nearNeighbours_kept ?_
    | with_reducible refine follow_kept _ ?_
    | with_reducible refine onPower_kept _ ?_
    | with_reducible refine forEach_kept _ _ ?_ ?_
    | with_reducible refine cond_kept ?_ ?_
    | intro _

theorem creditEpisode_kept (h : Kept F s) :
    Kept F (creditEpisode s) := by
  unfold creditEpisode
  repeat' first
    | with_reducible assumption
    | with_reducible refine absentEpisode_kept _ _ ?_
    | with_reducible refine onPower_kept _ ?_
    | with_reducible refine postArising_kept _ _ _ _ _ ?_
    | split

theorem execPaceLineRefresh_kept (activity : List Nat) (h : Kept F s) :
    KeptO F (execPaceLineRefresh activity s) := by
  unfold execPaceLineRefresh
  repeat' first
    | with_reducible assumption
    | with_reducible refine occurs_keptO _ _ ?_ ?_
    | with_reducible refine onPower_kept _ ?_
    | with_reducible refine creditEpisode_kept ?_
    | with_reducible refine allocate_kept _ _ ?_
    | intro _

theorem execPaceLineKeepaliveLoss_kept (h : Kept F s) :
    KeptO F (execPaceLineKeepaliveLoss s) := by
  unfold execPaceLineKeepaliveLoss
  repeat' first
    | with_reducible assumption
    | with_reducible refine occurs_keptO _ _ ?_ ?_
    | with_reducible refine post_kept _ _ _ _ ?_
    | with_reducible refine onPower_kept _ ?_
    | intro _

theorem judgeSecond_kept (h : Kept F s) :
    Kept F (judgeSecond s) := by
  unfold judgeSecond
  repeat' first
    | with_reducible assumption
    | with_reducible refine onPower_kept _ ?_
    | with_reducible refine wpost_kept _ _ _ _ ?_
    | with_reducible refine cond_kept ?_ ?_
    | split

theorem voltsSeen_kept (volts : ℚ) (h : Kept F s) : Kept F (voltsSeen volts s) := by
  unfold voltsSeen
  dsimp only
  split
  · exact wpost_kept _ _ _ _ (onPower_kept _ h)
  · exact onPower_kept _ h

theorem execShuntSample_kept (volts watts : ℚ) (h : Kept F s) :
    KeptO F (execShuntSample volts watts s) := by
  unfold execShuntSample
  repeat' first
    | with_reducible assumption
    | with_reducible refine occurs_keptO _ _ ?_ ?_
    | with_reducible refine onPower_kept _ ?_
    | with_reducible refine voltsSeen_kept _ ?_
    | with_reducible refine wpost_kept _ _ _ _ ?_
    | with_reducible refine judgeSecond_kept ?_
    | dsimp only
    | split
    | intro _

theorem execPowerExcursion_kept (joules : ℚ) (longerThan10ms : Bool) (h : Kept F s) :
    KeptO F (execPowerExcursion joules longerThan10ms s) := by
  unfold execPowerExcursion
  repeat' first
    | with_reducible assumption
    | with_reducible refine occurs_keptO _ _ ?_ ?_
    | with_reducible refine onPower_kept _ ?_
    | with_reducible refine wpost_kept _ _ _ _ ?_
    | split
    | intro _

theorem limitStep_kept (gap : Nat) (d : Nat) (h : Kept F s) :
    Kept F (limitStep gap d s) := by
  unfold limitStep
  repeat' first
    | with_reducible assumption
    | with_reducible refine nearNeighbours_kept ?_
    | with_reducible refine lowerRail_kept _ ?_
    | with_reducible refine onPower_kept _ ?_
    | with_reducible refine cond_kept ?_ ?_

theorem execJunctionSample_kept (d : Nat) (hottest : ℚ) (mean : ℚ) (h : Kept F s) :
    KeptO F (execJunctionSample d hottest mean s) := by
  unfold execJunctionSample
  repeat' first
    | with_reducible assumption
    | with_reducible refine occurs_keptO _ _ ?_ ?_
    | with_reducible refine onPower_kept _ ?_
    | with_reducible refine limitStep_kept _ _ ?_
    | with_reducible refine postEpisode_kept _ _ _ _ _ ?_
    | with_reducible refine postArising_kept _ _ _ _ _ ?_
    | with_reducible refine endEpisode_kept _ _ ?_
    | dsimp only
    | split
    | intro _

theorem pullStep_kept (k : PullKind) (a : Nat) (b : Nat) (h : Kept F s) :
    Kept F (pullStep k a b s) := by
  unfold pullStep
  repeat' first
    | with_reducible assumption
    | with_reducible refine limitStep_kept _ _ ?_
    | with_reducible refine stepRail_kept _ _ ?_
    | with_reducible refine cond_kept ?_ ?_
    | split

theorem execRegionalPullStep_kept (k : PullKind) (x0 : Nat) (y : Nat) (h : Kept F s) :
    KeptO F (execRegionalPullStep k x0 y s) := by
  unfold execRegionalPullStep
  repeat' first
    | with_reducible assumption
    | with_reducible refine occurs_keptO _ _ ?_ ?_
    | with_reducible refine onPower_kept _ ?_
    | with_reducible refine pullStep_kept _ _ _ ?_
    | with_reducible refine wpost_kept _ _ _ _ ?_
    | split
    | intro _

theorem applyInlet_kept (t : ℚ) (h : Kept F s) :
    Kept F (applyInlet t s) := by
  unfold applyInlet
  repeat' first
    | with_reducible assumption
    | with_reducible refine setCeiling_kept ?_
    | with_reducible refine onPower_kept _ ?_
    | with_reducible refine wpost_kept _ _ _ _ ?_
    | with_reducible refine cond_kept ?_ ?_

theorem inletGuard_kept (t : ℚ) (h : Kept F s) :
    Kept F (inletGuard t s) := by
  unfold inletGuard
  repeat' first
    | with_reducible assumption
    | with_reducible refine queueUpdate_kept _ ?_
    | with_reducible refine postEpisode_kept _ _ _ _ _ ?_
    | with_reducible refine postArising_kept _ _ _ _ _ ?_
    | with_reducible refine applyInlet_kept _ ?_
    | with_reducible refine onPower_kept _ ?_
    | with_reducible refine cond_kept ?_ ?_

theorem execInletSample_kept (celsius : ℚ) (outlet : ℚ) (h : Kept F s) :
    KeptO F (execInletSample celsius outlet s) := by
  unfold execInletSample
  repeat' first
    | with_reducible assumption
    | with_reducible refine occurs_keptO _ _ ?_ ?_
    | with_reducible refine onPower_kept _ ?_
    | with_reducible refine applyInlet_kept _ ?_
    | with_reducible refine inletGuard_kept _ ?_
    | with_reducible refine postArising_kept _ _ _ _ _ ?_
    | with_reducible refine absentEpisode_kept _ _ ?_
    | dsimp only
    | split
    | intro _

theorem execInletRecoveryTimer_kept (h : Kept F s) :
    KeptO F (execInletRecoveryTimer s) := by
  unfold execInletRecoveryTimer
  repeat' first
    | with_reducible assumption
    | with_reducible refine occurs_keptO _ _ ?_ ?_
    | with_reducible refine queueUpdate_kept _ ?_
    | with_reducible refine endEpisode_kept _ _ ?_
    | with_reducible refine onPower_kept _ ?_
    | intro _

theorem realTrip_kept (cause : HaltCause) (h : Kept F s) :
    Kept F (realTrip cause s) := by
  unfold realTrip
  repeat' first
    | with_reducible assumption
    | with_reducible refine coolantHalt_kept _ _ ?_
    | with_reducible refine onPower_kept _ ?_
    | with_reducible refine cond_kept ?_ ?_

theorem execFlowLoss_kept (h : Kept F s) :
    KeptO F (execFlowLoss s) := by
  unfold execFlowLoss
  repeat' first
    | with_reducible assumption
    | with_reducible refine occurs_keptO _ _ ?_ ?_
    | with_reducible refine realTrip_kept _ ?_
    | with_reducible refine wpost_kept _ _ _ _ ?_
    | with_reducible refine onPower_kept _ ?_
    | intro _

theorem execJunctionTrip_kept (d : Nat) (h : Kept F s) :
    KeptO F (execJunctionTrip d s) := by
  unfold execJunctionTrip
  repeat' first
    | with_reducible assumption
    | with_reducible refine occurs_keptO _ _ ?_ ?_
    | with_reducible refine realTrip_kept _ ?_
    | with_reducible refine wpost_kept _ _ _ _ ?_
    | intro _

theorem execTrayFlowOkAssert_kept (h : Kept F s) :
    KeptO F (execTrayFlowOkAssert s) := by
  unfold execTrayFlowOkAssert
  repeat' first
    | with_reducible assumption
    | with_reducible refine occurs_keptO _ _ ?_ ?_
    | with_reducible refine onPower_kept _ ?_
    | intro _

theorem rindInputLoss_kept (h : Kept F s) :
    Kept F (rindInputLoss s) := by
  unfold rindInputLoss
  repeat' first
    | with_reducible assumption
    | with_reducible refine abandonAll_kept ?_
    | with_reducible refine onRind_kept _ ?_
    | with_reducible refine journalLoss_kept _ ?_
    | with_reducible refine forEach_kept _ _ ?_ ?_
    | intro _

theorem abandonDrains_kept (h : Kept F s) :
    Kept F (abandonDrains s) := by
  unfold abandonDrains
  repeat' first
    | with_reducible assumption
    | with_reducible refine dropRun_kept ?_
    | with_reducible refine onGate_kept _ ?_
    | with_reducible refine cond_kept ?_ ?_

theorem mainLoss_kept (code : Nat) (h : Kept F s) :
    Kept F (mainLoss code s) := by
  unfold mainLoss
  repeat' first
    | with_reducible assumption
    | with_reducible refine wpost_kept _ _ _ _ ?_
    | with_reducible refine loseRecipes_kept ?_
    | with_reducible refine rindInputLoss_kept ?_
    | with_reducible refine onPower_kept _ ?_
    | with_reducible refine enter_kept _ ?_
    | with_reducible refine onLife_kept _ ?_
    | with_reducible refine clearFences_kept ?_
    | with_reducible refine railsOff_kept ?_
    | with_reducible refine dropRun_kept ?_
    | with_reducible refine onGate_kept _ ?_
    | with_reducible refine onRind_kept _ ?_
    | with_reducible refine dropLink_kept ?_
    | with_reducible refine abandonDrains_kept ?_
    | with_reducible refine cond_kept ?_ ?_

theorem cancelActivation_kept (h : Kept F s) :
    Kept F (cancelActivation s) := by
  unfold cancelActivation
  repeat' first
    | with_reducible assumption
    | with_reducible refine onWarden_kept _ ?_ ?_ ?_
    | exact fun _ hx => hx

theorem inputLost_kept (volts : ℚ) (h : Kept F s) :
    Kept F (inputLost volts s) := by
  unfold inputLost
  repeat' first
    | with_reducible assumption
    | with_reducible refine cancelActivation_kept ?_
    | with_reducible refine onPower_kept _ ?_
    | with_reducible refine mainLoss_kept _ ?_
    | with_reducible refine voltsSeen_kept _ ?_

theorem execInputLoss_kept (h : Kept F s) :
    KeptO F (execInputLoss s) := by
  unfold execInputLoss
  repeat' first
    | with_reducible assumption
    | with_reducible refine occurs_keptO _ _ ?_ ?_
    | with_reducible refine inputLost_kept _ ?_
    | with_reducible refine drawn_kept ?_
    | intro _

theorem execInputOvervoltage_kept (volts : ℚ) (h : Kept F s) :
    KeptO F (execInputOvervoltage volts s) := by
  unfold execInputOvervoltage
  repeat' first
    | with_reducible assumption
    | with_reducible refine occurs_keptO _ _ ?_ ?_
    | with_reducible refine inputLost_kept _ ?_
    | intro _

theorem enterStage_kept (n : Nat) (at_ : Nat) (h : Kept F s) :
    Kept F (enterStage n at_ s) := by
  unfold enterStage
  repeat' first
    | with_reducible assumption
    | with_reducible refine enter_kept _ ?_
    | with_reducible refine onHost_kept _ ?_ ?_ ?_
    | with_reducible refine onLife_kept _ ?_
    | exact fun _ hx => hx

theorem execInputReturn_kept (volts : ℚ) (h : Kept F s) :
    KeptO F (execInputReturn volts s) := by
  unfold execInputReturn
  repeat' first
    | with_reducible assumption
    | with_reducible refine occurs_keptO _ _ ?_ ?_
    | with_reducible refine onPower_kept _ ?_
    | with_reducible refine enterStage_kept _ _ ?_
    | split
    | intro _

theorem execPowerUp_kept (volts : ℚ) (h : Kept F s) :
    KeptO F (execPowerUp volts s) := by
  unfold execPowerUp
  repeat' first
    | with_reducible assumption
    | with_reducible refine occurs_keptO _ _ ?_ ?_
    | with_reducible refine onPower_kept _ ?_
    | intro _

theorem execPrechargeComplete_kept (h : Kept F s) :
    KeptO F (execPrechargeComplete s) := by
  unfold execPrechargeComplete
  repeat' first
    | with_reducible assumption
    | with_reducible refine occurs_keptO _ _ ?_ ?_
    | with_reducible refine enterStage_kept _ _ ?_
    | with_reducible refine onLife_kept _ ?_
    | with_reducible refine onPower_kept _ ?_
    | intro _

theorem chargeSeen_kept (percent : Nat) (h : Kept F s) :
    Kept F (chargeSeen percent s) := by
  unfold chargeSeen
  repeat' first
    | with_reducible assumption
    | with_reducible refine onRind_kept _ ?_
    | with_reducible refine onPower_kept _ ?_
    | with_reducible refine absentEpisode_kept _ _ ?_
    | with_reducible refine postArising_kept _ _ _ _ _ ?_
    | with_reducible refine cond_kept ?_ ?_

theorem measureHoldup_kept (ms : Nat) (h : Kept F s) :
    Kept F (measureHoldup ms s) := by
  unfold measureHoldup
  repeat' first
    | with_reducible assumption
    | with_reducible refine chargeSeen_kept _ ?_
    | with_reducible refine drawn_kept ?_
    | with_reducible refine onPower_kept _ ?_
    | with_reducible refine wpost_kept _ _ _ _ ?_
    | with_reducible refine cond_kept ?_ ?_

theorem execHoldupMeasurement_kept (ms : Nat) (h : Kept F s) :
    KeptO F (execHoldupMeasurement ms s) := by
  unfold execHoldupMeasurement
  repeat' first
    | with_reducible assumption
    | with_reducible refine occurs_keptO _ _ ?_ ?_
    | with_reducible refine measureHoldup_kept _ ?_
    | intro _

theorem execHoldUpChargeThreshold_kept (percent : Nat) (h : Kept F s) :
    KeptO F (execHoldUpChargeThreshold percent s) := by
  unfold execHoldUpChargeThreshold
  repeat' first
    | with_reducible assumption
    | with_reducible refine occurs_keptO _ _ ?_ ?_
    | with_reducible refine chargeSeen_kept _ ?_
    | intro _

/-! ### Spares -/

theorem postSubstitutions_kept (s0 : State) (h : Kept F s) :
    Kept F (postSubstitutions s0 s) := by
  unfold postSubstitutions
  repeat' first
    | with_reducible assumption
    | with_reducible refine wpost_kept _ _ _ _ ?_
    | with_reducible refine forEach_kept _ _ ?_ ?_
    | intro _

theorem withdraw_kept (bar : Res) (first : List ViewChange) (second : List ViewChange)
    (fence : Option (Nat × Nat × List Byte)) (unit : Nat) (new : List Nat) (h : Kept F s) :
    Kept F (withdraw bar first second fence unit new s) := by
  unfold withdraw
  repeat' first
    | with_reducible assumption
    | with_reducible refine queueUpdate_kept _ ?_

theorem fenceVat_kept (w : Nat) (maps : List ViewChange) (h : Kept F s) :
    Kept F (fenceVat w maps s) := by
  unfold fenceVat
  repeat' first
    | with_reducible assumption
    | with_reducible refine withdraw_kept _ _ _ _ _ _ ?_
    | with_reducible refine onLife_kept _ ?_
    | with_reducible refine cond_kept ?_ ?_

theorem fenceHoop_kept (w : Nat) (k : Nat) (maps : List ViewChange) (h : Kept F s) :
    Kept F (fenceHoop w k maps s) := by
  unfold fenceHoop
  repeat' first
    | with_reducible assumption
    | with_reducible refine withdraw_kept _ _ _ _ _ _ ?_
    | with_reducible refine onHoop_kept _ _ _ ?_
    | with_reducible refine cond_kept ?_ ?_

theorem remapped_kept (maps : List ViewChange) (h : Kept F s) :
    Kept F (remapped maps s) := by
  unfold remapped
  repeat' first
    | with_reducible assumption
    | with_reducible refine queueUpdate_kept _ ?_

theorem holdBroadcast_kept (w : Nat) (f : (Vat → Vat)) (seg : Nat) (h : Kept F s) :
    Kept F (holdBroadcast w f seg s) := by
  unfold holdBroadcast
  repeat' first
    | with_reducible assumption
    | with_reducible refine onVat_kept _ _ ?_
    | with_reducible refine wpost_kept _ _ _ _ ?_
    | with_reducible refine cond_kept ?_ ?_

theorem holdGap_kept (w : Nat) (h : Kept F s) :
    Kept F (holdGap w s) := by
  unfold holdGap
  repeat' first
    | with_reducible assumption
    | with_reducible refine holdBroadcast_kept _ _ _ ?_

theorem applyVat_kept (s0 : State) (w : Nat) (h : Kept F s) :
    Kept F (applyVat s0 w s) := by
  unfold applyVat
  repeat' first
    | with_reducible assumption
    | with_reducible refine holdGap_kept _ ?_
    | with_reducible refine fenceVat_kept _ _ ?_
    | with_reducible refine remapped_kept _ ?_
    | with_reducible refine withdraw_kept _ _ _ _ _ _ ?_
    | with_reducible refine queueUpdate_kept _ ?_
    | with_reducible refine cond_kept ?_ ?_

theorem applyHoop_kept (s0 : State) (w : Nat) (k : Nat) (m : List Nat) (h : Kept F s) :
    Kept F (applyHoop s0 w k m s) := by
  unfold applyHoop
  repeat' first
    | with_reducible assumption
    | with_reducible refine fenceHoop_kept _ _ _ ?_
    | with_reducible refine withdraw_kept _ _ _ _ _ _ ?_
    | with_reducible refine remapped_kept _ ?_
    | with_reducible refine queueUpdate_kept _ ?_
    | with_reducible refine cond_kept ?_ ?_

theorem applyHoops_kept (s0 : State) (w : Nat) (h : Kept F s) :
    Kept F (applyHoops s0 w s) := by
  unfold applyHoops
  repeat' first
    | with_reducible assumption
    | with_reducible refine applyHoop_kept _ _ _ _ ?_
    | with_reducible refine forEach_kept _ _ ?_ ?_
    | intro _

/-! ### Ageing -/

theorem writePlan_kept (d : Nat) (sw : List (List Rat) × Rat) (tf : Option (Nat × Nat)) (h : Kept F s) :
    Kept F (writePlan d sw tf s) := by
  unfold writePlan
  repeat' first
    | with_reducible assumption
    | with_reducible refine drawn_kept ?_
    | with_reducible refine onAgeing_kept _ ?_
    | with_reducible refine wpost_kept _ _ _ _ ?_
    | with_reducible refine forEach_kept _ _ ?_ ?_
    | with_reducible refine cond_kept ?_ ?_
    | intro _

theorem planVat_kept (w : Nat) (sw : List (List VatMargins)) (h : Kept F s) :
    Kept F (planVat w sw s) := by
  unfold planVat
  repeat' first
    | with_reducible assumption
    | dsimp only
    | with_reducible refine writePlan_kept _ _ _ ?_
    | with_reducible refine fenceVat_kept _ _ ?_
    | with_reducible refine holdBroadcast_kept _ _ _ ?_
    | split

theorem planHoops_kept (w : Nat) (sw : List (List HoopMargins)) (h : Kept F s) :
    Kept F (planHoops w sw s) := by
  unfold planHoops
  repeat' first
    | with_reducible assumption
    | with_reducible refine writePlan_kept _ _ _ ?_
    | with_reducible refine fenceHoop_kept _ _ ?_
    | with_reducible refine forEach_kept _ _ ?_ ?_
    | split
    | intro _

theorem enterParts_kept (ps : List (Nat × Nat)) (h : Kept F s) :
    Kept F (enterParts ps s) := by
  unfold enterParts
  repeat' first
    | with_reducible assumption
    | with_reducible refine testFailed_kept _ _ ?_
    | with_reducible refine forEach_kept _ _ ?_ ?_
    | intro _

theorem replanWheel_kept (w : Nat) (x0 : WheelScan) (h : Kept F s) :
    Kept F (replanWheel w x0 s) := by
  unfold replanWheel
  repeat' first
    | with_reducible assumption
    | with_reducible refine holdGap_kept _ ?_
    | with_reducible refine enterParts_kept _ ?_
    | with_reducible refine planHoops_kept _ _ ?_
    | with_reducible refine planVat_kept _ _ ?_
    | with_reducible refine postSubstitutions_kept _ ?_
    | with_reducible refine applyHoops_kept _ _ ?_
    | with_reducible refine applyVat_kept _ _ ?_
    | with_reducible refine onAgeing_kept _ ?_

theorem stopReplan_kept (w : Nat) (h : Kept F s) : Kept F (stopReplan w s) := onAgeing_kept _ h

theorem execIdleWindowReplan_kept (wheel : Nat) (scan : WheelScan) (h : Kept F s) :
    KeptO F (execIdleWindowReplan wheel scan s) := by
  unfold execIdleWindowReplan
  repeat' first
    | with_reducible refine cond_kept ?_ ?_
    | with_reducible refine stopReplan_kept _ ?_
    | with_reducible assumption
    | with_reducible refine occurs_keptO _ _ ?_ ?_
    | with_reducible refine replanWheel_kept _ _ ?_
    | intro _

theorem execReplanOverdue_kept (wheel : Nat) (h : Kept F s) :
    KeptO F (execReplanOverdue wheel s) := by
  unfold execReplanOverdue
  repeat' first
    | with_reducible assumption
    | with_reducible refine occurs_keptO _ _ ?_ ?_
    | with_reducible refine wpost_kept _ _ _ _ ?_
    | with_reducible refine onAgeing_kept _ ?_
    | intro _

theorem execMonitorSample_kept (d : Nat) (margin : ℚ) (h : Kept F s) :
    KeptO F (execMonitorSample d margin s) := by
  unfold execMonitorSample
  repeat' first
    | with_reducible assumption
    | with_reducible refine occurs_keptO _ _ ?_ ?_
    | with_reducible refine absentEpisode_kept _ _ ?_
    | with_reducible refine onAgeing_kept _ ?_
    | with_reducible refine episodeHolds_kept _ _ ?_
    | with_reducible refine postEpisode_kept _ _ _ _ _ ?_
    | with_reducible refine wpost_kept _ _ _ _ ?_
    | dsimp only
    | split
    | intro _

theorem execVatHandshakeStall_kept (vat : Nat) (suspect : Option (Bool × Nat)) (h : Kept F s) :
    KeptO F (execVatHandshakeStall vat suspect s) := by
  unfold execVatHandshakeStall
  repeat' first
    | with_reducible assumption
    | with_reducible refine occurs_keptO _ _ ?_ ?_
    | with_reducible refine post_kept _ _ _ _ ?_
    | with_reducible refine noteStall_kept _ _ ?_
    | split
    | intro _

theorem replanOne_kept (w : Nat) (h : Kept F s) :
    Kept F (replanOne w s) := by
  unfold replanOne
  repeat' first
    | with_reducible assumption
    | with_reducible refine replanWheel_kept _ _ ?_
    | with_reducible refine onWarden_kept _ ?_ ?_ ?_
    | exact fun _ hx => hx
    | split

theorem replanReady_kept (h : Kept F s) :
    Kept F (replanReady s) := by
  unfold replanReady
  repeat' first
    | with_reducible assumption
    | with_reducible refine replanOne_kept _ ?_
    | with_reducible refine forEach_kept _ _ ?_ ?_
    | intro _

theorem execStepComplete_kept (recipe : Nat) (h : Kept F s) :
    KeptO F (execStepComplete recipe s) := by
  unfold execStepComplete
  repeat' first
    | with_reducible assumption
    | with_reducible refine next_keptO ?_
    | with_reducible refine occurs_keptO _ _ ?_ ?_
    | with_reducible refine replanReady_kept ?_
    | with_reducible refine completeStep_kept _ _ _ ?_
    | split
    | intro _

/-! ### Bringup -/

theorem endRun_kept (obj : Nat) (detail : List Byte) (h : Kept F s) :
    Kept F (endRun obj detail s) := by
  unfold endRun
  repeat' first
    | with_reducible assumption
    | with_reducible refine onWarden_kept _ ?_ ?_ ?_
    | exact fun _ hx => hx

theorem loseRam_kept (h : Kept F s) :
    Kept F (loseRam s) := by
  unfold loseRam
  repeat' first
    | with_reducible assumption
    | with_reducible refine onAgeing_kept _ ?_
    | with_reducible refine onEvents_kept _ ?_ ?_ ?_
    | with_reducible refine onWarden_kept _ ?_ ?_ ?_
    | exact fun _ hx => hx

theorem interruptRun_kept (detail : (RunOp → List Byte)) (h : Kept F s) :
    Kept F (interruptRun detail s) := by
  unfold interruptRun
  repeat' first
    | with_reducible assumption
    | with_reducible refine onWarden_kept _ ?_ ?_ ?_
    | exact fun _ hx => hx

theorem deviceReset_kept (h : Kept F s) :
    Kept F (deviceReset s) := by
  unfold deviceReset
  repeat' first
    | with_reducible assumption
    | with_reducible refine restartCounts_kept ?_
    | with_reducible refine clearFences_kept ?_
    | with_reducible refine railsOff_kept ?_
    | with_reducible refine loseRecipes_kept ?_
    | with_reducible refine onPower_kept _ ?_
    | with_reducible refine interruptRun_kept _ ?_
    | with_reducible refine loseRam_kept ?_
    | with_reducible refine onEvents_kept _ ?_ ?_ ?_
    | with_reducible refine onGate_kept _ ?_
    | with_reducible refine onLife_kept _ ?_
    | with_reducible refine enterStage_kept _ _ ?_
    | exact fun _ hx => hx

theorem postRestart_kept (h : Kept F s) :
    Kept F (postRestart s) := by
  unfold postRestart
  repeat' first
    | with_reducible assumption
    | with_reducible refine wpost_kept _ _ _ _ ?_
    | with_reducible refine onWarden_kept _ ?_ ?_ ?_
    | exact fun _ hx => hx
    | split

theorem enterRecoveryState_kept (h : Kept F s) :
    Kept F (enterRecoveryState s) := by
  unfold enterRecoveryState
  repeat' first
    | with_reducible assumption
    | with_reducible refine enter_kept _ ?_
    | with_reducible refine postRestart_kept ?_
    | with_reducible refine onWarden_kept _ ?_ ?_ ?_
    | with_reducible refine onLife_kept _ ?_
    | exact fun _ hx => hx

theorem report_kept (n : Nat) (result : Nat) (first : Option (Nat × Nat)) (counts : List Nat) (h : Kept F s) :
    Kept F (report n result first counts s) := by
  unfold report
  repeat' first
    | with_reducible assumption
    | with_reducible refine onLife_kept _ ?_

theorem nextStage_kept (n : Nat) (h : Kept F s) :
    Kept F (nextStage n s) := by
  unfold nextStage
  repeat' first
    | with_reducible assumption
    | with_reducible refine onLife_kept _ ?_

theorem bringView_kept (h : Kept F s) :
    Kept F (bringView s) := by
  unfold bringView
  repeat' first
    | with_reducible assumption
    | with_reducible refine applyPending_kept ?_
    | with_reducible refine onVat_kept _ _ ?_
    | with_reducible refine forEach_kept _ _ ?_ ?_
    | intro _

theorem setSlots_kept (named : SlotState) (other : SlotState) (h : Kept F s) :
    Kept F (setSlots named other s) := by
  unfold setSlots
  repeat' first
    | with_reducible assumption
    | with_reducible refine onWarden_kept _ ?_ ?_ ?_
    | split
    | intro _

theorem swapSlots_kept (h : Kept F s) :
    Kept F (swapSlots s) := by
  unfold swapSlots
  repeat' first
    | with_reducible assumption
    | with_reducible refine onWarden_kept _ ?_ ?_ ?_
    | exact fun _ hx => hx

theorem fallBack_kept (h : Kept F s) :
    Kept F (fallBack s) := by
  unfold fallBack
  repeat' first
    | with_reducible assumption
    | with_reducible refine onWarden_kept _ ?_ ?_ ?_
    | with_reducible refine swapSlots_kept ?_
    | with_reducible refine setSlots_kept _ _ ?_
    | exact fun _ hx => hx

theorem trialFails_kept (n : Nat) (unit : Nat) (counts : List Nat) (h : Kept F s) :
    Kept F (trialFails n unit counts s) := by
  unfold trialFails
  repeat' first
    | with_reducible assumption
    | with_reducible refine deviceReset_kept ?_
    | with_reducible refine wpost_kept _ _ _ _ ?_
    | with_reducible refine fallBack_kept ?_
    | with_reducible refine report_kept _ _ _ _ ?_

theorem activationEnds_kept (h : Kept F s) :
    Kept F (activationEnds s) := by
  unfold activationEnds
  repeat' first
    | with_reducible assumption
    | with_reducible refine onWarden_kept _ ?_ ?_ ?_
    | exact fun _ hx => hx

theorem loadStore_kept (h : Kept F s) :
    Kept F (loadStore s) := by
  unfold loadStore
  repeat' first
    | with_reducible assumption
    | with_reducible refine onWarden_kept _ ?_ ?_ ?_
    | exact fun _ hx => hx
    | with_reducible refine cond_kept ?_ ?_

theorem loadHistory_kept (h : Kept F s) :
    Kept F (loadHistory s) := by
  unfold loadHistory
  repeat' first
    | with_reducible assumption
    | with_reducible refine onAgeing_kept _ ?_
    | with_reducible refine onWarden_kept _ ?_ ?_ ?_
    | exact fun _ hx => hx
    | with_reducible refine cond_kept ?_ ?_

theorem convertImage_kept (f : Nat) (i : Image) (h : Kept F s) :
    Kept F (convertImage f i s) := by
  unfold convertImage
  repeat' first
    | with_reducible assumption
    | with_reducible refine onRind_kept _ ?_
    | with_reducible refine post_kept _ _ _ _ ?_
    | with_reducible refine cond_kept ?_ ?_

theorem loadImages_kept (h : Kept F s) :
    Kept F (loadImages s) := by
  unfold loadImages
  repeat' first
    | with_reducible assumption
    | with_reducible refine markRestorable_kept ?_
    | with_reducible refine convertImage_kept _ _ ?_
    | with_reducible refine onRind_kept _ ?_
    | with_reducible refine forEach_kept _ _ ?_ ?_
    | intro _

theorem beginStage0_kept (h : Kept F s) :
    Kept F (beginStage0 s) := by
  unfold beginStage0
  repeat' first
    | with_reducible assumption
    | with_reducible refine onLife_kept _ ?_

theorem romFails_kept (h : Kept F s) :
    Kept F (romFails s) := by
  unfold romFails
  repeat' first
    | with_reducible assumption
    | with_reducible refine onLife_kept _ ?_
    | with_reducible refine report_kept _ _ _ _ ?_

theorem stage0_kept (romOk : Bool) (holdupMs : Nat) (recoveryReq : Bool) (slotId : Nat) (h : Kept F s) :
    Kept F (stage0 romOk holdupMs recoveryReq slotId s) := by
  unfold stage0
  repeat' first
    | with_reducible assumption
    | with_reducible refine onLife_kept _ ?_
    | with_reducible refine beginStage0_kept ?_
    | with_reducible refine onPower_kept _ ?_
    | with_reducible refine romFails_kept ?_
    | with_reducible refine measureHoldup_kept _ ?_
    | with_reducible refine report_kept _ _ _ _ ?_
    | with_reducible refine enterRecoveryState_kept ?_
    | with_reducible refine nextStage_kept _ ?_
    | with_reducible refine cond_kept ?_ ?_

theorem execAuxPowerUp_kept (romOk : Bool) (holdupMs : Nat) (recoveryReq : Bool) (slotId : Nat) (h : Kept F s) :
    KeptO F (execAuxPowerUp romOk holdupMs recoveryReq slotId s) := by
  unfold execAuxPowerUp
  repeat' first
    | with_reducible assumption
    | with_reducible refine occurs_keptO _ _ ?_ ?_
    | with_reducible refine stage0_kept _ _ _ _ ?_
    | intro _

theorem resetEnds_kept (h : Kept F s) :
    Kept F (resetEnds s) := by
  unfold resetEnds
  repeat' first
    | with_reducible assumption
    | with_reducible refine onWarden_kept _ ?_ ?_ ?_
    | exact fun _ hx => hx

theorem firmwareStarts_kept (h : Kept F s) :
    Kept F (firmwareStarts s) := by
  unfold firmwareStarts
  repeat' first
    | with_reducible assumption
    | with_reducible refine loadImages_kept ?_
    | with_reducible refine loadHistory_kept ?_
    | with_reducible refine loadStore_kept ?_
    | with_reducible refine resetEnds_kept ?_
    | with_reducible refine postRestart_kept ?_
    | with_reducible refine onWarden_kept _ ?_ ?_ ?_
    | with_reducible refine activationEnds_kept ?_
    | with_reducible refine report_kept _ _ _ _ ?_
    | with_reducible refine onLife_kept _ ?_
    | with_reducible refine enter_kept _ ?_
    | with_reducible refine nextStage_kept _ ?_
    | exact fun _ hx => hx
    | with_reducible refine cond_kept ?_ ?_

theorem firmwareFails_kept (failed : List Nat) (h : Kept F s) :
    Kept F (firmwareFails failed s) := by
  unfold firmwareFails
  repeat' first
    | with_reducible assumption
    | with_reducible refine trialFails_kept _ _ _ ?_
    | with_reducible refine enterRecoveryState_kept ?_
    | with_reducible refine setSlots_kept _ _ ?_
    | with_reducible refine report_kept _ _ _ _ ?_
    | with_reducible refine cond_kept ?_ ?_

theorem stage1_kept (check : SlotCheck) (h : Kept F s) :
    Kept F (stage1 check s) := by
  unfold stage1
  repeat' first
    | with_reducible assumption
    | with_reducible refine firmwareStarts_kept ?_
    | with_reducible refine firmwareFails_kept _ ?_
    | with_reducible refine cond_kept ?_ ?_

theorem execStage1Firmware_kept (slotA : SlotCheck) (slotB : SlotCheck) (h : Kept F s) :
    KeptO F (execStage1Firmware slotA slotB s) := by
  unfold execStage1Firmware
  repeat' first
    | with_reducible assumption
    | with_reducible refine occurs_keptO _ _ ?_ ?_
    | with_reducible refine stage1_kept _ ?_
    | intro _

theorem stage2Waits_kept (missing : List Nat) (h : Kept F s) :
    Kept F (stage2Waits missing s) := by
  unfold stage2Waits
  repeat' first
    | with_reducible assumption
    | with_reducible refine wpost_kept _ _ _ _ ?_
    | with_reducible refine onLife_kept _ ?_
    | with_reducible refine forEach_kept _ _ ?_ ?_
    | intro _

theorem railsOn_kept (failed : List Nat) (h : Kept F s) :
    Kept F (railsOn failed s) := by
  unfold railsOn
  repeat' first
    | with_reducible assumption
    | with_reducible refine onPower_kept _ ?_
    | with_reducible refine onLife_kept _ ?_
    | with_reducible refine free_kept _ ?_

theorem stage2_kept (r : Stage2Result) (late : Bool) (h : Kept F s) :
    Kept F (stage2 r late s) := by
  unfold stage2
  repeat' first
    | with_reducible assumption
    | with_reducible refine railsOn_kept _ ?_
    | with_reducible refine onAgeing_kept _ ?_
    | with_reducible refine onLife_kept _ ?_
    | with_reducible refine onView_kept _ ?_
    | with_reducible refine drawn_kept ?_
    | with_reducible refine trialFails_kept _ _ _ ?_
    | with_reducible refine nextStage_kept _ ?_
    | with_reducible refine report_kept _ _ _ _ ?_
    | with_reducible refine cond_kept ?_ ?_

theorem execStage2Rails_kept (r : Stage2Result) (h : Kept F s) :
    KeptO F (execStage2Rails r s) := by
  unfold execStage2Rails
  repeat' first
    | with_reducible assumption
    | with_reducible refine occurs_keptO _ _ ?_ ?_
    | with_reducible refine stage2_kept _ _ ?_
    | with_reducible refine stage2Waits_kept _ ?_
    | split
    | intro _

theorem buildBanks_kept (s0 : State) (w : Nat) (h : Kept F s) :
    Kept F (buildBanks s0 w s) := by
  unfold buildBanks
  repeat' first
    | with_reducible assumption
    | with_reducible refine onWheel_kept _ _ ?_
    | with_reducible refine queueUpdate_kept _ ?_

theorem networkLost_kept (h : Kept F s) :
    Kept F (networkLost s) := by
  unfold networkLost
  repeat' first
    | with_reducible assumption
    | with_reducible refine fenceVat_kept _ _ ?_
    | with_reducible refine queueUpdate_kept _ ?_
    | with_reducible refine forEach_kept _ _ ?_ ?_
    | with_reducible refine cond_kept ?_ ?_
    | intro _

theorem stage3_kept (late : Bool) (h : Kept F s) :
    Kept F (stage3 late s) := by
  unfold stage3
  repeat' first
    | with_reducible assumption
    | with_reducible refine enterParts_kept _ ?_
    | with_reducible refine applyHoop_kept _ _ _ ?_
    | with_reducible refine buildBanks_kept _ _ ?_
    | with_reducible refine applyVat_kept _ _ ?_
    | with_reducible refine bringView_kept ?_
    | with_reducible refine networkLost_kept ?_
    | with_reducible refine postSubstitutions_kept _ ?_
    | with_reducible refine nextStage_kept _ ?_
    | with_reducible refine report_kept _ _ _ _ ?_
    | with_reducible refine forEach_kept _ _ ?_ ?_
    | intro _
    | with_reducible refine wheels_map_kept _ ?_

theorem execStage3Spares_kept (h : Kept F s) :
    KeptO F (execStage3Spares s) := by
  unfold execStage3Spares
  repeat' first
    | with_reducible assumption
    | with_reducible refine occurs_keptO _ _ ?_ ?_
    | with_reducible refine stage3_kept _ ?_
    | intro _

theorem stage4_kept (r : Stage4Result) (late : Bool) (h : Kept F s) :
    Kept F (stage4 r late s) := by
  unfold stage4
  repeat' first
    | with_reducible assumption
    | with_reducible refine wpost_kept _ _ _ _ ?_
    | with_reducible refine onStored_kept _ ?_
    | with_reducible refine onTiers_kept _ ?_
    | with_reducible refine bringView_kept ?_
    | with_reducible refine queueUpdate_kept _ ?_
    | with_reducible refine trialFails_kept _ _ _ ?_
    | with_reducible refine nextStage_kept _ ?_
    | with_reducible refine report_kept _ _ _ _ ?_
    | with_reducible refine forEach_kept _ _ ?_ ?_
    | with_reducible refine cond_kept ?_ ?_
    | intro _
    | with_reducible refine near_clear_kept ?_

theorem execStage4Hbm_kept (r : Stage4Result) (h : Kept F s) :
    KeptO F (execStage4Hbm r s) := by
  unfold execStage4Hbm
  repeat' first
    | with_reducible assumption
    | with_reducible refine occurs_keptO _ _ ?_ ?_
    | with_reducible refine stage4_kept _ _ ?_
    | intro _

theorem respare_kept (s0 : State) (w : Nat) (h : Kept F s) :
    Kept F (respare s0 w s) := by
  unfold respare
  repeat' first
    | with_reducible assumption
    | with_reducible refine applyHoops_kept _ _ ?_
    | with_reducible refine applyVat_kept _ _ ?_

theorem stage5_kept (r : Stage5Result) (late : Bool) (h : Kept F s) :
    Kept F (stage5 r late s) := by
  unfold stage5
  repeat' first
    | with_reducible assumption
    | with_reducible refine enterParts_kept _ ?_
    | with_reducible refine onLife_kept _ ?_
    | with_reducible refine postSubstitutions_kept _ ?_
    | with_reducible refine respare_kept _ _ ?_
    | with_reducible refine bringView_kept ?_
    | with_reducible refine queueUpdate_kept _ ?_
    | with_reducible refine trialFails_kept _ _ _ ?_
    | with_reducible refine nextStage_kept _ ?_
    | with_reducible refine report_kept _ _ _ _ ?_
    | with_reducible refine forEach_kept _ _ ?_ ?_
    | dsimp only
    | split
    | intro _

theorem execStage5Tests_kept (r : Stage5Result) (h : Kept F s) :
    KeptO F (execStage5Tests r s) := by
  unfold execStage5Tests
  repeat' first
    | with_reducible assumption
    | with_reducible refine occurs_keptO _ _ ?_ ?_
    | with_reducible refine stage5_kept _ _ ?_
    | intro _

theorem trainFar_kept (p : Nat) (found : FarFound) (h : Kept F s) :
    Kept F (trainFar p found s) := by
  unfold trainFar
  repeat' first
    | with_reducible assumption
    | with_reducible refine onFar_kept _ _ ?_
    | with_reducible refine wpost_kept _ _ _ _ ?_
    | with_reducible refine cond_kept ?_ ?_
    | split

theorem trainHinge_kept (p : Nat) (t : HingeTrain) (h : Kept F s) :
    Kept F (trainHinge p t s) := by
  unfold trainHinge
  repeat' first
    | with_reducible assumption
    | with_reducible refine portWpost_kept _ _ ?_
    | with_reducible refine setPort_kept _ _ ?_
    | with_reducible refine onPort_kept _ _ ?_
    | with_reducible refine sendLinkInit_kept _ _ ?_
    | with_reducible refine forEach_kept _ _ ?_ ?_
    | with_reducible refine cond_kept ?_ ?_
    | intro _

theorem viewPorts_kept (h : Kept F s) :
    Kept F (viewPorts s) := by
  unfold viewPorts
  repeat' first
    | with_reducible assumption
    | with_reducible refine queueUpdate_kept _ ?_

theorem stage6_kept (r : Stage6Result) (late : Bool) (h : Kept F s) :
    Kept F (stage6 r late s) := by
  unfold stage6
  repeat' first
    | with_reducible assumption
    | with_reducible refine trainFar_kept _ _ ?_
    | with_reducible refine trainHinge_kept _ _ ?_
    | with_reducible refine linkTrained_kept _ _ _ ?_
    | with_reducible refine bringView_kept ?_
    | with_reducible refine viewPorts_kept ?_
    | with_reducible refine trialFails_kept _ _ _ ?_
    | with_reducible refine nextStage_kept _ ?_
    | with_reducible refine report_kept _ _ _ _ ?_
    | with_reducible refine forEach_kept _ _ ?_ ?_
    | with_reducible refine cond_kept ?_ ?_
    | split
    | intro _

theorem execStage6Links_kept (r : Stage6Result) (h : Kept F s) :
    KeptO F (execStage6Links r s) := by
  unfold execStage6Links
  repeat' first
    | with_reducible assumption
    | with_reducible refine occurs_keptO _ _ ?_ ?_
    | with_reducible refine stage6_kept _ _ ?_
    | intro _

theorem execHostLinkWaitExpiry_kept (h : Kept F s) :
    KeptO F (execHostLinkWaitExpiry s) := by
  unfold execHostLinkWaitExpiry
  repeat' first
    | with_reducible assumption
    | with_reducible refine occurs_keptO _ _ ?_ ?_
    | with_reducible refine onLife_kept _ ?_
    | intro _

theorem stage7_kept (scans : List (Nat × WheelScan)) (late : Bool) (h : Kept F s) :
    Kept F (stage7 scans late s) := by
  unfold stage7
  repeat' first
    | with_reducible assumption
    | with_reducible refine replanWheel_kept _ _ ?_
    | with_reducible refine bringView_kept ?_
    | with_reducible refine fenceHoop_kept _ _ _ ?_
    | with_reducible refine fenceVat_kept _ _ ?_
    | with_reducible refine nextStage_kept _ ?_
    | with_reducible refine report_kept _ _ _ _ ?_
    | with_reducible refine forEach_kept _ _ ?_ ?_
    | split
    | intro _

theorem execStage7Plan_kept (scans : List (Nat × WheelScan)) (h : Kept F s) :
    KeptO F (execStage7Plan scans s) := by
  unfold execStage7Plan
  repeat' first
    | with_reducible assumption
    | with_reducible refine occurs_keptO _ _ ?_ ?_
    | with_reducible refine stage7_kept _ _ ?_
    | intro _

theorem stage8_kept (late : Bool) (h : Kept F s) :
    Kept F (stage8 late s) := by
  unfold stage8
  repeat' first
    | with_reducible assumption
    | with_reducible refine report_kept _ _ _ _ ?_
    | with_reducible refine enter_kept _ ?_
    | with_reducible refine onLife_kept _ ?_
    | with_reducible refine onHost_kept _ ?_ ?_ ?_
    | with_reducible refine endRun_kept _ _ ?_
    | with_reducible refine activationEnds_kept ?_
    | with_reducible refine wpost_kept _ _ _ _ ?_
    | exact fun _ hx => hx
    | with_reducible refine cond_kept ?_ ?_

theorem execStage8Decision_kept (h : Kept F s) :
    KeptO F (execStage8Decision s) := by
  unfold execStage8Decision
  repeat' first
    | with_reducible assumption
    | with_reducible refine occurs_keptO _ _ ?_ ?_
    | with_reducible refine stage8_kept _ ?_
    | intro _

theorem lateStage_kept (n : Nat) (h : Kept F s) :
    Kept F (lateStage n s) := by
  unfold lateStage
  repeat' first
    | with_reducible assumption
    | with_reducible refine romFails_kept ?_
    | with_reducible refine beginStage0_kept ?_
    | with_reducible refine firmwareFails_kept _ ?_
    | with_reducible refine stage2_kept _ _ ?_
    | with_reducible refine bringView_kept ?_
    | with_reducible refine fenceHoop_kept _ _ _ ?_
    | with_reducible refine fenceVat_kept _ _ ?_
    | with_reducible refine stage3_kept _ ?_
    | with_reducible refine stage4_kept _ _ ?_
    | with_reducible refine stage5_kept _ _ ?_
    | with_reducible refine stage6_kept _ _ ?_
    | with_reducible refine stage7_kept _ _ ?_
    | with_reducible refine stage8_kept _ ?_
    | with_reducible refine forEach_kept _ _ ?_ ?_
    | split
    | intro _

theorem execStageTimeout_kept (h : Kept F s) :
    KeptO F (execStageTimeout s) := by
  unfold execStageTimeout
  repeat' first
    | with_reducible assumption
    | with_reducible refine next_keptO ?_
    | with_reducible refine occurs_keptO _ _ ?_ ?_
    | with_reducible refine lateStage_kept _ ?_
    | split
    | intro _

theorem execHostLinkTraining_kept (width : Nat) (rate : Nat) (qualified : Bool) (h : Kept F s) :
    KeptO F (execHostLinkTraining width rate qualified s) := by
  unfold execHostLinkTraining
  repeat' first
    | with_reducible assumption
    | with_reducible refine occurs_keptO _ _ ?_ ?_
    | with_reducible refine linkTrained_kept _ _ _ ?_
    | with_reducible refine onLife_kept _ ?_
    | with_reducible refine degrade_kept ?_
    | split
    | intro _

/-! ### Resets -/

theorem takeIn_kept (x0 : Scope) (h : Kept F s) :
    Kept F (takeIn x0 s) := by
  unfold takeIn
  repeat' first
    | with_reducible assumption
    | with_reducible refine onGate_kept _ ?_

theorem markEnded_kept (k : Nat) (h : Kept F s) :
    Kept F (markEnded k s) := by
  unfold markEnded
  repeat' first
    | with_reducible assumption
    | with_reducible refine onStep_kept _ _ ?_
    | with_reducible refine drawn_kept ?_

theorem beginReset_kept (x0 : Scope) (h : Kept F s) :
    Kept F (beginReset x0 s) := by
  unfold beginReset
  repeat' first
    | with_reducible assumption
    | with_reducible refine beginDrain_kept _ _ _ ?_
    | with_reducible refine takeIn_kept _ ?_
    | with_reducible refine cond_kept ?_ ?_

theorem beginWheelReset_kept (w : Nat) (h : Kept F s) :
    Kept F (beginWheelReset w s) := by
  unfold beginWheelReset
  repeat' first
    | with_reducible assumption
    | with_reducible refine takeIn_kept _ ?_
    | with_reducible refine markEnded_kept _ ?_
    | with_reducible refine addDrain_kept _ _ _ _ ?_
    | with_reducible refine queueUpdate_kept _ ?_
    | with_reducible refine forEach_kept _ _ ?_ ?_
    | with_reducible refine cond_kept ?_ ?_
    | intro _

theorem beginDeviceReset_kept (h : Kept F s) :
    Kept F (beginDeviceReset s) := by
  unfold beginDeviceReset
  repeat' first
    | with_reducible assumption
    | with_reducible refine beginDrain_kept _ _ _ ?_
    | with_reducible refine takeIn_kept _ ?_
    | with_reducible refine cond_kept ?_ ?_

theorem beginDisable_kept (x0 : Scope) (first : Option ViewUpdate) (after : List ViewUpdate) (h : Kept F s) :
    Kept F (beginDisable x0 first after s) := by
  unfold beginDisable
  repeat' first
    | with_reducible assumption
    | with_reducible refine queueUpdate_kept _ ?_
    | with_reducible refine addDrain_kept _ _ _ _ ?_
    | split

theorem absorbWrite_kept (q : MemReq) (h : Kept F s) :
    Kept F (absorbWrite q s) := by
  unfold absorbWrite
  repeat' first
    | with_reducible assumption
    | with_reducible refine drawn_kept ?_
    | with_reducible refine locWrite_kept _ _ ?_
    | with_reducible refine forEach_kept _ _ ?_ ?_
    | split
    | intro _

theorem restStalls_kept (h : Kept F s) :
    Kept F (restStalls s) := by
  unfold restStalls
  repeat' first
    | with_reducible assumption
    | with_reducible refine onTiers_kept _ ?_

theorem absorbRequests_kept (p : (MemReq → Bool)) (h : Kept F s) :
    Kept F (absorbRequests p s).1 := by
  unfold absorbRequests
  repeat' first
    | with_reducible assumption
    | with_reducible refine absorbWrite_kept _ ?_
    | with_reducible refine restStalls_kept ?_
    | with_reducible refine onTiers_kept _ ?_
    | with_reducible refine forEach_kept _ _ ?_ ?_
    | intro _

theorem absorbIssuer_kept (k t : Nat) (h : Kept F s) :
    Kept F (absorbIssuer k t s) := by
  unfold absorbIssuer
  repeat' first
    | with_reducible assumption
    | with_reducible refine settle_kept _ ?_
    | with_reducible refine absorbTask_kept _ _ _ ?_
    | split

theorem absorbIssuers_kept (qs : List MemReq) (h : Kept F s) :
    Kept F (absorbIssuers qs s) :=
  forEach_kept _ _ (fun _ _ hx => absorbIssuer_kept _ _ hx) h

theorem zeroScratch_kept (c : CoreId) (h : Kept F s) : Kept F (zeroScratch c s) := by
  unfold zeroScratch
  split
  · exact drawn_kept (dev_kept _ (memWrite_wf _ _ _ (memClear_wf _ _ _ h.inv.stores.dev)) h)
  · exact h

theorem resetComplete_kept (x0 : Scope) (requests : Nat) (granules : Nat) (tasks : Nat) (h : Kept F s) :
    Kept F (resetComplete x0 requests granules tasks s) := by
  unfold resetComplete
  repeat' first
    | with_reducible assumption
    | with_reducible refine post_kept _ _ _ _ ?_

theorem finishCore_kept (c : CoreId) (h : Kept F s) :
    Kept F (finishCore c s) := by
  unfold finishCore
  repeat' first
    | with_reducible assumption
    | with_reducible refine absorbRequests_kept _ ?_
    | with_reducible refine settle_kept _ ?_
    | with_reducible refine absorbTask_kept _ _ _ ?_
    | with_reducible refine resetComplete_kept _ _ _ _ ?_
    | with_reducible refine zeroScratch_kept _ ?_
    | with_reducible refine forEach_kept _ _ ?_ ?_
    | intro _
    | with_reducible refine cores_kept _ ?_

theorem clearPasses_kept (w : Nat) (k : Nat) (h : Kept F s) :
    Kept F (clearPasses w k s) := by
  unfold clearPasses
  repeat' first
    | with_reducible assumption
    | with_reducible refine recipes_kept _ ?_

theorem finishHoop_kept (w k : Nat) (h : Kept F s) : Kept F (finishHoop w k s) := by
  unfold finishHoop
  extract_lets ts a s1 s2 s3 s4
  have h1 : Kept F s1 := forEach_kept _ _ (fun _ _ hx => settle_kept _ (absorbTask_kept _ _ _ hx))
    (absorbRequests_kept _ h)
  have h2 : Kept F s2 := cores_kept _ h1
  have h3 : Kept F s3 := forEach_kept _ _ (fun _ _ hx => zeroScratch_kept _ hx) h2
  have h4 : Kept F s4 := cond_kept (onHoop_kept _ _ _ h3) h3
  exact resetComplete_kept _ _ _ _ (clearPasses_kept _ _ h4)

theorem clearWheel_kept (w : Nat) (h : Kept F s) :
    Kept F (clearWheel w s) := by
  unfold clearWheel
  repeat' first
    | with_reducible assumption
    | with_reducible refine takeShape_kept _ ?_
    | with_reducible refine onWheel_kept _ _ ?_
    | with_reducible refine forEach_kept _ _ ?_ ?_
    | intro _
    | with_reducible refine cores_kept _ ?_
    | with_reducible refine dev_clear_kept _ _ ?_

theorem wheelGoesOff_kept (w : Nat) (h : Kept F s) :
    Kept F (wheelGoesOff w s) := by
  unfold wheelGoesOff
  repeat' first
    | with_reducible assumption
    | with_reducible refine onPower_kept _ ?_
    | with_reducible refine clearWheel_kept _ ?_
    | with_reducible refine queueUpdate_kept _ ?_
    | with_reducible refine dev_clear_kept _ _ ?_

theorem finishWheelReset_kept (w : Nat) (h : Kept F s) :
    Kept F (finishWheelReset w s) := by
  unfold finishWheelReset
  repeat' first
    | with_reducible assumption
    | with_reducible refine absorbRequests_kept _ ?_
    | with_reducible refine absorbIssuers_kept _ ?_
    | with_reducible refine retireNow_kept _ ?_
    | with_reducible refine endFaulted_kept _ ?_
    | with_reducible refine refuseHeld_kept _ ?_
    | with_reducible refine stopRestore_kept _ ?_
    | with_reducible refine resetComplete_kept _ _ _ _ ?_
    | with_reducible refine hostResetDone_kept ?_
    | with_reducible refine clearWheel_kept _ ?_
    | with_reducible refine onWarden_kept _ ?_ ?_ ?_
    | with_reducible refine replanReady_kept ?_
    | with_reducible refine onWheel_kept _ _ ?_
    | with_reducible refine endRun_kept _ _ ?_
    | with_reducible refine wheelGoesOff_kept _ ?_
    | with_reducible refine forEach_kept _ _ ?_ ?_
    | split
    | intro _

theorem finishWheelDisable_kept (w : Nat) (h : Kept F s) :
    Kept F (finishWheelDisable w s) := by
  unfold finishWheelDisable
  repeat' first
    | with_reducible assumption
    | with_reducible refine absorbIssuers_kept _ ?_
    | with_reducible refine absorbRequests_kept _ ?_
    | with_reducible refine settle_kept _ ?_
    | with_reducible refine absorbTask_kept _ _ _ ?_
    | with_reducible refine endRun_kept _ _ ?_
    | with_reducible refine wheelGoesOff_kept _ ?_
    | with_reducible refine forEach_kept _ _ ?_ ?_
    | split
    | intro _

theorem finishStepEnd_kept (k : Nat) (kind : DrainKind) (h : Kept F s) :
    Kept F (finishStepEnd k kind s) := by
  unfold finishStepEnd
  repeat' first
    | with_reducible assumption
    | with_reducible refine absorbRequests_kept _ ?_
    | with_reducible refine endFaulted_kept _ ?_
    | with_reducible refine hostResetDone_kept ?_
    | with_reducible refine removeRecipe_kept _ ?_
    | with_reducible refine retireNow_kept _ ?_
    | with_reducible refine replanReady_kept ?_
    | with_reducible refine cond_kept ?_ ?_

theorem finishDeviceOff_kept (h : Kept F s) :
    Kept F (finishDeviceOff s) := by
  unfold finishDeviceOff
  repeat' first
    | with_reducible assumption
    | with_reducible refine haltRecipe_kept _ ?_
    | with_reducible refine endRun_kept _ _ ?_
    | with_reducible refine enter_kept _ ?_
    | with_reducible refine railsOff_kept ?_
    | with_reducible refine forEach_kept _ _ ?_ ?_
    | intro _

theorem finishPort_kept (p : Nat) (h : Kept F s) :
    Kept F (finishPort p s) := by
  unfold finishPort
  repeat' first
    | with_reducible assumption
    | with_reducible refine onHinge_kept _ ?_ ?_
    | with_reducible refine settle_kept _ ?_
    | with_reducible refine absorbTask_kept _ _ _ ?_
    | with_reducible refine endRun_kept _ _ ?_
    | with_reducible refine onPort_kept _ _ ?_
    | with_reducible refine forEach_kept _ _ ?_ ?_
    | intro _

theorem finishCave_kept (h : Kept F s) : Kept F (finishCave s) :=
  Kept.mk' h.inv.stores.near h.inv.stores.dev rfl h.inv.stores.hostMem h.inv.stores.bar0 h.inv.stores.bar4
    h.inv.units.wheels h.inv.units.farPorts h.inv.units.hingePorts h.inv.units.queues h.inv.lists.log
    h.inv.lists.backlog h.inv.lists.cache h.fixed

theorem endAllWaits_kept (h : Kept F s) :
    Kept F (endAllWaits s) := by
  unfold endAllWaits
  repeat' first
    | with_reducible assumption
    | with_reducible refine settle_kept _ ?_
    | with_reducible refine endLossWait_kept _ ?_
    | with_reducible refine forEach_kept _ _ ?_ ?_
    | intro _

theorem finishDrain_kept (d : Drain) (h : Kept F s) :
    Kept F (finishDrain d s) := by
  unfold finishDrain
  repeat' first
    | with_reducible assumption
    | with_reducible refine finishCore_kept _ ?_
    | with_reducible refine finishHoop_kept _ _ ?_
    | with_reducible refine finishWheelDisable_kept _ ?_
    | with_reducible refine finishWheelReset_kept _ ?_
    | with_reducible refine resetComplete_kept _ _ _ _ ?_
    | with_reducible refine deviceReset_kept ?_
    | with_reducible refine finishDeviceOff_kept ?_
    | with_reducible refine finishPort_kept _ ?_
    | with_reducible refine endRun_kept _ _ ?_
    | with_reducible refine finishCave_kept ?_
    | with_reducible refine finishStepEnd_kept _ _ ?_
    | with_reducible refine endAllWaits_kept ?_
    | with_reducible refine abandonAll_kept ?_
    | with_reducible refine queueUpdate_kept _ ?_
    | with_reducible refine forEach_kept _ _ ?_ ?_
    | with_reducible refine foldl_kept _ _ ?_ ?_
    | split
    | intro _

theorem onDrain_kept (k : Nat) (f : (Drain → Drain)) (h : Kept F s) :
    Kept F (onDrain k f s) := by
  unfold onDrain
  repeat' first
    | with_reducible assumption
    | with_reducible refine onGate_kept _ ?_

theorem execDrainEnd_kept (k : Nat) (h : Kept F s) :
    KeptO F (execDrainEnd k s) := by
  unfold execDrainEnd
  repeat' first
    | with_reducible assumption
    | with_reducible refine next_keptO ?_
    | with_reducible refine occurs_keptO _ _ ?_ ?_
    | with_reducible refine onDrain_kept _ _ ?_
    | split
    | intro _

theorem execDrainDeadline_kept (k : Nat) (h : Kept F s) :
    KeptO F (execDrainDeadline k s) := by
  unfold execDrainDeadline
  repeat' first
    | with_reducible assumption
    | with_reducible refine next_keptO ?_
    | with_reducible refine occurs_keptO _ _ ?_ ?_
    | with_reducible refine onDrain_kept _ _ ?_
    | split
    | intro _

theorem execAbsorptionComplete_kept (k : Nat) (h : Kept F s) :
    KeptO F (execAbsorptionComplete k s) := by
  unfold execAbsorptionComplete
  repeat' first
    | with_reducible assumption
    | with_reducible refine next_keptO ?_
    | with_reducible refine occurs_keptO _ _ ?_ ?_
    | with_reducible refine finishDrain_kept _ ?_
    | with_reducible refine onGate_kept _ ?_
    | split
    | intro _

theorem beginScope_kept (a0 : Scope) (h : Kept F s) :
    Kept F (beginScope a0 s) := by
  unfold beginScope
  repeat' first
    | with_reducible assumption
    | with_reducible refine beginWheelReset_kept _ ?_
    | with_reducible refine beginDeviceReset_kept ?_
    | with_reducible refine beginReset_kept _ ?_
    | split

theorem execResetEscalation_kept (k : Nat) (h : Kept F s) :
    KeptO F (execResetEscalation k s) := by
  unfold execResetEscalation
  repeat' first
    | with_reducible assumption
    | with_reducible refine next_keptO ?_
    | with_reducible refine occurs_keptO _ _ ?_ ?_
    | with_reducible refine post_kept _ _ _ _ ?_
    | with_reducible refine onDrain_kept _ _ ?_
    | with_reducible refine onGate_kept _ ?_
    | with_reducible refine beginScope_kept _ ?_
    | split
    | intro _

theorem execCoreStallDetect_kept (c : CoreId) (h : Kept F s) :
    KeptO F (execCoreStallDetect c s) := by
  unfold execCoreStallDetect
  repeat' first
    | with_reducible assumption
    | with_reducible refine next_keptO ?_
    | with_reducible refine occurs_keptO _ _ ?_ ?_
    | with_reducible refine beginReset_kept _ ?_
    | with_reducible refine noteStall_kept _ _ ?_
    | with_reducible refine post_kept _ _ _ _ ?_
    | split
    | intro _

theorem execCoreStopTimeout_kept (c : CoreId) (h : Kept F s) :
    KeptO F (execCoreStopTimeout c s) := by
  unfold execCoreStopTimeout
  repeat' first
    | with_reducible assumption
    | with_reducible refine next_keptO ?_
    | with_reducible refine occurs_keptO _ _ ?_ ?_
    | with_reducible refine beginReset_kept _ ?_
    | split
    | intro _

theorem execHoopPickStall_kept (wheel : Nat) (hoop : Nat) (h : Kept F s) :
    KeptO F (execHoopPickStall wheel hoop s) := by
  unfold execHoopPickStall
  repeat' first
    | with_reducible assumption
    | with_reducible refine occurs_keptO _ _ ?_ ?_
    | with_reducible refine beginReset_kept _ ?_
    | with_reducible refine wpost_kept _ _ _ _ ?_
    | intro _

theorem execWheelUsableAgain_kept (wheel : Nat) (r : Stage5Result) (h : Kept F s) :
    KeptO F (execWheelUsableAgain wheel r s) := by
  unfold execWheelUsableAgain
  repeat' first
    | with_reducible assumption
    | with_reducible refine occurs_keptO _ _ ?_ ?_
    | with_reducible refine postSubstitutions_kept _ ?_
    | with_reducible refine respare_kept _ _ ?_
    | with_reducible refine enterParts_kept _ ?_
    | with_reducible refine onWheel_kept _ _ ?_
    | with_reducible refine endRun_kept _ _ ?_
    | with_reducible refine queueUpdate_kept _ ?_
    | intro _

theorem afterWrite_kept (k : Nat) (data : Option (List Byte)) (h : Kept F s) :
    Kept F (afterWrite k data s) := by
  unfold afterWrite
  repeat' first
    | with_reducible assumption
    | with_reducible refine settle_kept _ ?_
    | with_reducible refine cond_kept ?_ ?_

theorem reachBank_kept (r : ReqId) (b : BankId) (a : Nat) (n : Nat) (data : Option (List Byte)) (sv : Serve)
    (h : Kept F s) :
    Kept F (reachBank r b a n data sv s) := by
  unfold reachBank
  repeat' first
    | with_reducible assumption
    | with_reducible refine afterWrite_kept _ _ ?_
    | with_reducible refine requestStep_kept _ _ _ _ _ _ ?_
    | with_reducible refine absorbIssuer_kept _ _ ?_
    | with_reducible refine cond_kept ?_ ?_

theorem execMemoryRead_kept (r : ReqId) (addr : Nat) (len : Nat) (sv : Serve) (h : Kept F s) :
    KeptO F (execMemoryRead r addr len sv s) := by
  unfold execMemoryRead
  repeat' first
    | with_reducible assumption
    | with_reducible refine next_keptO ?_
    | with_reducible refine occurs_keptO _ _ ?_ ?_
    | with_reducible refine reachBank_kept _ _ _ _ _ _ ?_
    | split
    | intro _

theorem execMemoryWrite_kept (r : ReqId) (addr : Nat) (bytes : List Byte) (sv : Serve) (h : Kept F s) :
    KeptO F (execMemoryWrite r addr bytes sv s) := by
  unfold execMemoryWrite
  repeat' first
    | with_reducible assumption
    | with_reducible refine next_keptO ?_
    | with_reducible refine occurs_keptO _ _ ?_ ?_
    | with_reducible refine reachBank_kept _ _ _ _ _ _ ?_
    | split
    | intro _

theorem execBankFailed_kept (b : BankId) (h : Kept F s) :
    KeptO F (execBankFailed b s) := by
  unfold execBankFailed
  repeat' first
    | with_reducible assumption
    | with_reducible refine next_keptO ?_
    | with_reducible refine occurs_keptO _ _ ?_ ?_
    | with_reducible refine completePoisoned_kept _ ?_
    | with_reducible refine progress_kept _ ?_
    | with_reducible refine onTiers_kept _ ?_
    | with_reducible refine onWheel_kept _ _ ?_
    | with_reducible refine scheduleMapOut_kept _ ?_
    | with_reducible refine settle_kept _ ?_
    | with_reducible refine forEach_kept _ _ ?_ ?_
    | with_reducible refine foldl_kept _ _ ?_ ?_
    | with_reducible refine foldl_fst_kept _ _ ?_ _ ?_
    | with_reducible refine cond_kept ?_ ?_
    | dsimp only
    | split
    | intro _

theorem execBankCapWaitEnd_kept (b : BankId) (h : Kept F s) :
    KeptO F (execBankCapWaitEnd b s) := by
  unfold execBankCapWaitEnd
  repeat' first
    | with_reducible assumption
    | with_reducible refine next_keptO ?_
    | with_reducible refine occurs_keptO _ _ ?_ ?_
    | with_reducible refine onTiers_kept _ ?_
    | split
    | intro _

end Sys2Proof.Machine
end

