-- ==== Sys2Proof/Laws/KeepWarden.lean ====
section
/-! SUPPORT. What the operations of the Warden: its requests, writes, enables, firmware, commands and restarts keep: the invariant of
Safety.lean and the fixed part of the state (KeepBase.lean). A law ends in `_kept` and cites those of the operations
that its own calls. -/

namespace Sys2Proof.Machine

variable {F : Fixed} {s : State}

/-! ### Dict -/

theorem readDrawn_kept (obj : Nat) (h : Kept F s) :
    Kept F (readDrawn obj s) := by
  unfold readDrawn
  repeat' first
    | with_reducible assumption
    | with_reducible refine cond_kept ?_ ?_
    | with_reducible refine free_kept _ ?_

/-! ### Oap -/

theorem takeFrame_kept (src : OapSrc) (h : Kept F s) :
    Kept F (takeFrame src s) := by
  unfold takeFrame
  repeat' first
    | with_reducible assumption
    | with_reducible refine onWarden_kept _ ?_ ?_ ?_
    | exact fun _ hx => hx
    | split

theorem sendFrame_kept (p : Peer) (b : List Byte) (h : Kept F s) :
    Kept F (sendFrame p b s) := by
  unfold sendFrame
  repeat' first
    | with_reducible assumption
    | with_reducible refine raiseMsix_kept _ ?_
    | with_reducible refine onWarden_kept _ ?_ ?_ ?_
    | exact fun _ hx => hx
    | exact fun _ hx => memWrite_wf _ _ _ hx
    | with_reducible refine cond_kept ?_ ?_

theorem respond_kept (p : Peer) (op seq obj : Nat) (a : Ans) (h : Kept F s) : Kept F (respond p op seq obj a s) := by
  unfold respond
  dsimp only
  split
  · exact onWarden_kept _ (fun _ hx => hx) (fun _ _ => List.length_take_le _ _) (sendFrame_kept _ _ h)
  · exact sendFrame_kept _ _ h

theorem answerReq_kept (src : OapSrc) (r : Req) (act : Act) (hact : ∀ r f x, Kept F x → Kept F (act r f x).1)
    (h : Kept F s) :
    Kept F (answerReq src r act s) := by
  unfold answerReq
  repeat' first
    | with_reducible assumption
    | with_reducible refine hact _ _ _ ?_
    | with_reducible refine respond_kept _ _ _ _ _ ?_
    | with_reducible refine onWarden_kept _ ?_ ?_ ?_
    | with_reducible refine sendFrame_kept _ _ ?_
    | exact fun _ hx => hx
    | dsimp only
    | split

theorem serve_kept (src : OapSrc) (row : Row) (act : Act) (hact : ∀ r f x, Kept F x → Kept F (act r f x).1)
    (h : Kept F s) :
    KeptO F (serve src row act s) := by
  unfold serve
  repeat' first
    | with_reducible assumption
    | with_reducible refine next_keptO ?_
    | with_reducible refine occurs_keptO _ _ ?_ ?_
    | with_reducible refine answerReq_kept _ _ _ ?_ ?_
    | with_reducible refine takeFrame_kept _ ?_
    | split
    | intro _

theorem startRun_kept (r : Req) (committed : Bool) (h : Kept F s) :
    Kept F (startRun r committed s) := by
  unfold startRun
  repeat' first
    | with_reducible assumption
    | with_reducible refine onWarden_kept _ ?_ ?_ ?_
    | exact fun _ hx => hx

theorem onRun_kept (f : (RunOp → RunOp)) (h : Kept F s) :
    Kept F (onRun f s) := by
  unfold onRun
  repeat' first
    | with_reducible assumption
    | with_reducible refine onWarden_kept _ ?_ ?_ ?_
    | exact fun _ hx => hx

theorem finishRun_kept (result : Nat) (reason : Nat) (detail : List Byte) (h : Kept F s) :
    Kept F (finishRun result reason detail s) := by
  unfold finishRun
  repeat' first
    | with_reducible assumption
    | with_reducible refine onRun_kept _ ?_

theorem sendNotice_kept (p : Peer) (b : List Byte) (h : Kept F s) :
    Kept F (sendNotice p b s) := by
  unfold sendNotice
  repeat' first
    | with_reducible assumption
    | with_reducible refine onWarden_kept _ ?_ ?_ ?_
    | with_reducible refine raiseMsix_kept _ ?_
    | exact fun _ hx => hx
    | exact fun _ hx => memWrite_wf _ _ _ hx
    | with_reducible refine cond_kept ?_ ?_

theorem notify_kept (k : Nat) (h : Kept F s) :
    Kept F (notify k s) := by
  unfold notify
  repeat' first
    | with_reducible assumption
    | with_reducible refine sendNotice_kept _ _ ?_
    | with_reducible refine readDrawn_kept _ ?_
    | with_reducible refine onWarden_kept _ ?_ ?_ ?_
    | exact fun _ hx => hx
    | split

/-! ### Requests -/

theorem readAct_kept (a0 : Req) (a1 : Info) (h : Kept F s) :
    Kept F (readAct a0 a1 s).1 := by
  unfold readAct
  repeat' first
    | with_reducible assumption
    | with_reducible refine readDrawn_kept _ ?_

theorem execRead_kept (src : OapSrc) (h : Kept F s) :
    KeptO F (execRead src s) := by
  unfold execRead
  repeat' first
    | with_reducible assumption
    | with_reducible refine serve_kept _ _ _ ?_ ?_
    | with_reducible refine readAct_kept _ _ ?_
    | intro _

theorem execAlertClearingRead_kept (src : OapSrc) (h : Kept F s) :
    KeptO F (execAlertClearingRead src s) := by
  unfold execAlertClearingRead
  repeat' first
    | with_reducible assumption
    | with_reducible refine serve_kept _ _ _ ?_ ?_
    | with_reducible refine readAct_kept _ _ ?_
    | with_reducible refine onEvents_kept _ ?_ ?_ ?_
    | intro _

theorem execExecute_kept (src : OapSrc) (h : Kept F s) :
    KeptO F (execExecute src s) := by
  unfold execExecute
  repeat' first
    | with_reducible assumption
    | with_reducible refine serve_kept _ _ _ ?_ ?_
    | intro _

theorem execProbe_kept (src : OapSrc) (allNodes : Bool) (h : Kept F s) :
    KeptO F (execProbe src allNodes s) := by
  unfold execProbe
  repeat' first
    | with_reducible assumption
    | with_reducible refine next_keptO ?_
    | with_reducible refine serve_kept _ _ _ ?_ ?_
    | split
    | intro _

theorem stored_kept (f : (Stored → Stored)) (h : Kept F s) :
    Kept F (stored f s).1 := by
  unfold stored
  repeat' first
    | with_reducible assumption
    | with_reducible refine onStored_kept _ ?_

theorem refusedAct_kept (code : Nat) (h : Kept F s) :
    Kept F (refusedAct code s).1 := by
  unfold refusedAct
  repeat' first
    | with_reducible assumption

theorem writeRind_kept (f : (Stored → Stored)) (h : Kept F s) :
    Kept F (writeRind f s).1 := by
  unfold writeRind
  repeat' first
    | with_reducible assumption
    | with_reducible refine onStored_kept _ ?_
    | with_reducible refine refusedAct_kept _ ?_
    | with_reducible refine endAllWaits_kept ?_
    | split

theorem writeFar_kept (p : Nat) (v : Nat) (h : Kept F s) :
    Kept F (writeFar p v s).1 := by
  unfold writeFar
  repeat' first
    | with_reducible assumption
    | with_reducible refine refusedAct_kept _ ?_
    | with_reducible refine stored_kept _ ?_
    | dsimp only
    | split

theorem writeNet_kept (f : (Stored → Stored)) (h : Kept F s) :
    Kept F (writeNet f s).1 := by
  unfold writeNet
  repeat' first
    | with_reducible assumption
    | with_reducible refine onWarden_kept _ ?_ ?_ ?_
    | with_reducible refine onStored_kept _ ?_
    | exact fun _ hx => hx

theorem writeAct_kept (a0 : Req) (a1 : Info) (h : Kept F s) :
    Kept F (writeAct a0 a1 s).1 := by
  unfold writeAct
  repeat' first
    | with_reducible assumption
    | with_reducible refine writeNet_kept _ ?_
    | with_reducible refine stored_kept _ ?_
    | with_reducible refine writeFar_kept _ _ ?_
    | with_reducible refine refusedAct_kept _ ?_
    | with_reducible refine writeRind_kept _ ?_
    | dsimp only
    | split

theorem execWrite_kept (src : OapSrc) (h : Kept F s) :
    KeptO F (execWrite src s) := by
  unfold execWrite
  repeat' first
    | with_reducible assumption
    | with_reducible refine serve_kept _ _ _ ?_ ?_
    | with_reducible refine writeAct_kept _ _ ?_
    | intro _

theorem subscribeAct_kept (a0 : Req) (a1 : Info) (h : Kept F s) :
    Kept F (subscribeAct a0 a1 s).1 := by
  unfold subscribeAct
  repeat' first
    | with_reducible assumption
    | with_reducible refine onWarden_kept _ ?_ ?_ ?_
    | with_reducible refine notify_kept _ ?_
    | with_reducible refine refusedAct_kept _ ?_
    | exact fun _ hx => hx
    | dsimp only
    | split

theorem execSubscribe_kept (src : OapSrc) (h : Kept F s) :
    KeptO F (execSubscribe src s) := by
  unfold execSubscribe
  repeat' first
    | with_reducible assumption
    | with_reducible refine serve_kept _ _ _ ?_ ?_
    | with_reducible refine subscribeAct_kept _ _ ?_
    | intro _

theorem execNotificationPeriod_kept (k : Nat) (h : Kept F s) :
    KeptO F (execNotificationPeriod k s) := by
  unfold execNotificationPeriod
  repeat' first
    | with_reducible assumption
    | with_reducible refine next_keptO ?_
    | with_reducible refine occurs_keptO _ _ ?_ ?_
    | with_reducible refine notify_kept _ ?_
    | split
    | intro _

theorem execSubscriptionExpiry_kept (k : Nat) (h : Kept F s) :
    KeptO F (execSubscriptionExpiry k s) := by
  unfold execSubscriptionExpiry
  repeat' first
    | with_reducible assumption
    | with_reducible refine next_keptO ?_
    | with_reducible refine occurs_keptO _ _ ?_ ?_
    | with_reducible refine onWarden_kept _ ?_ ?_ ?_
    | split
    | intro _

theorem countDiscard_kept (mailbox : Bool) (h : Kept F s) :
    Kept F (countDiscard mailbox s) := by
  unfold countDiscard
  repeat' first
    | with_reducible assumption
    | with_reducible refine onEvents_kept _ ?_ ?_ ?_
    | with_reducible refine countDet_kept _ ?_
    | with_reducible refine onWarden_kept _ ?_ ?_ ?_
    | with_reducible refine sendRec_kept _ ?_
    | exact fun _ hx => hx
    | with_reducible refine cond_kept ?_ ?_

theorem execFrameDiscard_kept (src : OapSrc) (h : Kept F s) :
    KeptO F (execFrameDiscard src s) := by
  unfold execFrameDiscard
  repeat' first
    | with_reducible assumption
    | with_reducible refine next_keptO ?_
    | with_reducible refine occurs_keptO _ _ ?_ ?_
    | with_reducible refine countDiscard_kept _ ?_
    | with_reducible refine takeFrame_kept _ ?_
    | split
    | intro _

theorem execMailboxDoorbell_kept (v : Word) (h : Kept F s) :
    KeptO F (execMailboxDoorbell v s) := by
  unfold execMailboxDoorbell
  repeat' first
    | with_reducible assumption
    | with_reducible refine occurs_keptO _ _ ?_ ?_
    | with_reducible refine onWarden_kept _ ?_ ?_ ?_
    | intro _

theorem execRspHeadWrite_kept (v : Word) (h : Kept F s) :
    KeptO F (execRspHeadWrite v s) := by
  unfold execRspHeadWrite
  repeat' first
    | with_reducible assumption
    | with_reducible refine occurs_keptO _ _ ?_ ?_
    | with_reducible refine onWarden_kept _ ?_ ?_ ?_
    | intro _

theorem writeBar0_kept (off : Nat) (bs : List Byte) (h : Kept F s) :
    Kept F (writeBar0 off bs s) := by
  unfold writeBar0
  repeat' first
    | with_reducible assumption
    | with_reducible refine onEvents_kept _ ?_ ?_ ?_
    | with_reducible refine flushMsix_kept ?_
    | with_reducible refine onHost_kept _ ?_ ?_ ?_
    | exact fun _ hx => hx
    | exact fun _ hx => memWrite_wf _ _ _ hx
    | with_reducible refine cond_kept ?_ ?_

theorem writeBar4_kept (off : Nat) (bs : List Byte) (h : Kept F s) :
    Kept F (writeBar4 off bs s) := by
  unfold writeBar4
  repeat' first
    | with_reducible assumption
    | with_reducible refine onWarden_kept _ ?_ ?_ ?_
    | exact fun _ hx => hx
    | exact fun _ hx => memWrite_wf _ _ _ hx
    | with_reducible refine cond_kept ?_ ?_

theorem execGenericRegisterWrite_kept (bar : Bar) (off : Nat) (bytes : List Byte) (h : Kept F s) :
    KeptO F (execGenericRegisterWrite bar off bytes s) := by
  unfold execGenericRegisterWrite
  repeat' first
    | with_reducible assumption
    | with_reducible refine occurs_keptO _ _ ?_ ?_
    | with_reducible refine writeBar0_kept _ _ ?_
    | with_reducible refine writeBar4_kept _ _ ?_
    | split
    | intro _

/-! ### Writes -/

theorem execCapWrite_kept (src : OapSrc) (h : Kept F s) :
    KeptO F (execCapWrite src s) := by
  unfold execCapWrite
  repeat' first
    | with_reducible assumption
    | with_reducible refine serve_kept _ _ _ ?_ ?_
    | with_reducible refine refusedAct_kept _ ?_
    | with_reducible refine setCeiling_kept ?_
    | with_reducible refine onStored_kept _ ?_
    | split
    | intro _

theorem execWindowWrite_kept (src : OapSrc) (h : Kept F s) :
    KeptO F (execWindowWrite src s) := by
  unfold execWindowWrite
  repeat' first
    | with_reducible assumption
    | with_reducible refine serve_kept _ _ _ ?_ ?_
    | with_reducible refine refusedAct_kept _ ?_
    | with_reducible refine stored_kept _ ?_
    | split
    | intro _

theorem writeBack_kept (k : Nat) (h : Kept F s) :
    Kept F (writeBack k s) := by
  unfold writeBack
  repeat' first
    | with_reducible assumption
    | with_reducible refine recipes_kept _ ?_

theorem leaveMaintenance_kept (h : Kept F s) :
    Kept F (leaveMaintenance s) := by
  unfold leaveMaintenance
  repeat' first
    | with_reducible assumption
    | with_reducible refine onStored_kept _ ?_
    | with_reducible refine enter_kept _ ?_
    | with_reducible refine onLife_kept _ ?_

theorem execCaveFlushComplete_kept (portError : Option Nat) (h : Kept F s) :
    KeptO F (execCaveFlushComplete portError s) := by
  unfold execCaveFlushComplete
  repeat' first
    | with_reducible assumption
    | with_reducible refine occurs_keptO _ _ ?_ ?_
    | with_reducible refine writeBack_kept _ ?_
    | with_reducible refine finishRun_kept _ _ _ ?_
    | with_reducible refine leaveMaintenance_kept ?_
    | with_reducible refine post_kept _ _ _ _ ?_
    | with_reducible refine drawn_kept ?_
    | split
    | intro _
    | with_reducible refine flushing_kept _ ?_

theorem execMaintenanceRequest_kept (src : OapSrc) (h : Kept F s) :
    KeptO F (execMaintenanceRequest src s) := by
  unfold execMaintenanceRequest
  repeat' first
    | with_reducible assumption
    | with_reducible refine serve_kept _ _ _ ?_ ?_
    | with_reducible refine stored_kept _ ?_
    | with_reducible refine onLife_kept _ ?_
    | intro _

theorem execMaintenanceEntry_kept (h : Kept F s) :
    KeptO F (execMaintenanceEntry s) := by
  unfold execMaintenanceEntry
  repeat' first
    | with_reducible assumption
    | with_reducible refine occurs_keptO _ _ ?_ ?_
    | with_reducible refine enter_kept _ ?_
    | with_reducible refine onLife_kept _ ?_
    | intro _

theorem execMaintenanceExit_kept (src : OapSrc) (h : Kept F s) :
    KeptO F (execMaintenanceExit src s) := by
  unfold execMaintenanceExit
  repeat' first
    | with_reducible assumption
    | with_reducible refine serve_kept _ _ _ ?_ ?_
    | with_reducible refine startRun_kept _ _ ?_
    | with_reducible refine stored_kept _ ?_
    | with_reducible refine onLife_kept _ ?_
    | split
    | intro _
    | with_reducible refine flushing_kept _ ?_

theorem wrongCode_kept (h : Kept F s) :
    Kept F (wrongCode s) := by
  unfold wrongCode
  repeat' first
    | with_reducible assumption
    | with_reducible refine wpost_kept _ _ _ _ ?_
    | with_reducible refine onWarden_kept _ ?_ ?_ ?_
    | exact fun _ hx => hx
    | with_reducible refine cond_kept ?_ ?_

theorem execOwnerLockWrite_kept (src : OapSrc) (h : Kept F s) :
    KeptO F (execOwnerLockWrite src s) := by
  unfold execOwnerLockWrite
  repeat' first
    | with_reducible assumption
    | with_reducible refine serve_kept _ _ _ ?_ ?_
    | with_reducible refine refusedAct_kept _ ?_
    | with_reducible refine stored_kept _ ?_
    | with_reducible refine wrongCode_kept ?_
    | dsimp only
    | split
    | intro _

theorem execOwnerLockLockoutEnd_kept (h : Kept F s) :
    KeptO F (execOwnerLockLockoutEnd s) := by
  unfold execOwnerLockLockoutEnd
  repeat' first
    | with_reducible assumption
    | with_reducible refine occurs_keptO _ _ ?_ ?_
    | with_reducible refine onWarden_kept _ ?_ ?_ ?_
    | intro _

theorem execInjectionPermitWrite_kept (src : OapSrc) (h : Kept F s) :
    KeptO F (execInjectionPermitWrite src s) := by
  unfold execInjectionPermitWrite
  repeat' first
    | with_reducible assumption
    | with_reducible refine serve_kept _ _ _ ?_ ?_
    | with_reducible refine onEvents_kept _ ?_ ?_ ?_
    | intro _

theorem execInjectionPointWrite_kept (src : OapSrc) (h : Kept F s) :
    KeptO F (execInjectionPointWrite src s) := by
  unfold execInjectionPointWrite
  repeat' first
    | with_reducible assumption
    | with_reducible refine serve_kept _ _ _ ?_ ?_
    | with_reducible refine refusedAct_kept _ ?_
    | with_reducible refine onEvents_kept _ ?_ ?_ ?_
    | split
    | intro _

theorem injectedHalt_kept (det : Nat) (h : Kept F s) :
    Kept F (injectedHalt det s) := by
  unfold injectedHalt
  repeat' first
    | with_reducible assumption
    | with_reducible refine onEvents_kept _ ?_ ?_ ?_
    | with_reducible refine coolantHalt_kept _ _ ?_
    | exact fun _ hx => hx
    | with_reducible refine cond_kept ?_ ?_

theorem execInjectionTick_kept (det : Nat) (h : Kept F s) :
    KeptO F (execInjectionTick det s) := by
  unfold execInjectionTick
  repeat' first
    | with_reducible assumption
    | with_reducible refine next_keptO ?_
    | with_reducible refine occurs_keptO _ _ ?_ ?_
    | with_reducible refine injectionTick_kept _ _ ?_
    | with_reducible refine injectedHalt_kept _ ?_
    | split
    | intro _

theorem execDetectorConfigWrite_kept (src : OapSrc) (h : Kept F s) :
    KeptO F (execDetectorConfigWrite src s) := by
  unfold execDetectorConfigWrite
  repeat' first
    | with_reducible assumption
    | with_reducible refine serve_kept _ _ _ ?_ ?_
    | with_reducible refine onEvents_kept _ ?_ ?_ ?_
    | intro _

theorem execRouteEntryWrite_kept (src : OapSrc) (h : Kept F s) :
    KeptO F (execRouteEntryWrite src s) := by
  unfold execRouteEntryWrite
  repeat' first
    | with_reducible assumption
    | with_reducible refine serve_kept _ _ _ ?_ ?_
    | with_reducible refine refusedAct_kept _ ?_
    | with_reducible refine stored_kept _ ?_
    | dsimp only
    | split
    | intro _

theorem execRegionSizeWrite_kept (src : OapSrc) (h : Kept F s) :
    KeptO F (execRegionSizeWrite src s) := by
  unfold execRegionSizeWrite
  repeat' first
    | with_reducible assumption
    | with_reducible refine serve_kept _ _ _ ?_ ?_
    | with_reducible refine refusedAct_kept _ ?_
    | with_reducible refine stored_kept _ ?_
    | dsimp only
    | split
    | intro _

theorem execVatModeOverrideWrite_kept (src : OapSrc) (h : Kept F s) :
    KeptO F (execVatModeOverrideWrite src s) := by
  unfold execVatModeOverrideWrite
  repeat' first
    | with_reducible assumption
    | with_reducible refine serve_kept _ _ _ ?_ ?_
    | with_reducible refine onStored_kept _ ?_
    | with_reducible refine onVat_kept _ _ ?_
    | intro _

/-! ### Enables -/

theorem operationDone_kept (r : Req) (h : Kept F s) :
    Kept F (operationDone r s).1 := by
  unfold operationDone
  repeat' first
    | with_reducible assumption
    | with_reducible refine finishRun_kept _ _ _ ?_
    | with_reducible refine startRun_kept _ _ ?_

theorem runsOn_kept (h : Kept F s) :
    Kept F (runsOn s).1 := by
  unfold runsOn
  repeat' first
    | with_reducible assumption

theorem execDeviceEnable_kept (src : OapSrc) (h : Kept F s) :
    KeptO F (execDeviceEnable src s) := by
  unfold execDeviceEnable
  repeat' first
    | with_reducible assumption
    | with_reducible refine serve_kept _ _ _ ?_ ?_
    | with_reducible refine refusedAct_kept _ ?_
    | with_reducible refine runsOn_kept ?_
    | with_reducible refine enterStage_kept _ _ ?_
    | with_reducible refine startRun_kept _ _ ?_
    | with_reducible refine onStored_kept _ ?_
    | split
    | intro _

theorem execDeviceDisable_kept (src : OapSrc) (h : Kept F s) :
    KeptO F (execDeviceDisable src s) := by
  unfold execDeviceDisable
  repeat' first
    | with_reducible assumption
    | with_reducible refine serve_kept _ _ _ ?_ ?_
    | with_reducible refine onLife_kept _ ?_
    | with_reducible refine onStored_kept _ ?_
    | with_reducible refine runsOn_kept ?_
    | with_reducible refine beginDisable_kept _ _ _ ?_
    | with_reducible refine takeIn_kept _ ?_
    | with_reducible refine startRun_kept _ _ ?_
    | with_reducible refine enter_kept _ ?_
    | split
    | intro _

theorem wheelRails_kept (w : Nat) (h : Kept F s) :
    Kept F (wheelRails w s) := by
  unfold wheelRails
  repeat' first
    | with_reducible assumption
    | with_reducible refine onPower_kept _ ?_

theorem wheelComesUp_kept (w : Nat) (scan : WheelScan) (h : Kept F s) :
    Kept F (wheelComesUp w scan s) := by
  unfold wheelComesUp
  repeat' first
    | with_reducible assumption
    | with_reducible refine queueUpdate_kept _ ?_
    | with_reducible refine replanWheel_kept _ _ ?_
    | with_reducible refine wheelRails_kept _ ?_

theorem execWheelEnable_kept (src : OapSrc) (scan : WheelScan) (h : Kept F s) :
    KeptO F (execWheelEnable src scan s) := by
  unfold execWheelEnable
  repeat' first
    | with_reducible assumption
    | with_reducible refine serve_kept _ _ _ ?_ ?_
    | with_reducible refine refusedAct_kept _ ?_
    | with_reducible refine onStored_kept _ ?_
    | with_reducible refine operationDone_kept _ ?_
    | with_reducible refine wheelComesUp_kept _ _ ?_
    | dsimp only
    | split
    | intro _

theorem execWheelDisable_kept (src : OapSrc) (h : Kept F s) :
    KeptO F (execWheelDisable src s) := by
  unfold execWheelDisable
  repeat' first
    | with_reducible assumption
    | with_reducible refine serve_kept _ _ _ ?_ ?_
    | with_reducible refine onStored_kept _ ?_
    | with_reducible refine operationDone_kept _ ?_
    | with_reducible refine wheelGoesOff_kept _ ?_
    | with_reducible refine onWheel_kept _ _ ?_
    | with_reducible refine runsOn_kept ?_
    | with_reducible refine startRun_kept _ _ ?_
    | with_reducible refine beginDisable_kept _ _ _ ?_
    | with_reducible refine takeIn_kept _ ?_
    | dsimp only
    | split
    | intro _

theorem rebuildCave_kept (gone : List Nat) (as : FarState) (new : List Nat) (h : Kept F s) :
    Kept F (rebuildCave gone as new s) := by
  unfold rebuildCave
  repeat' first
    | with_reducible assumption
    | with_reducible refine beginDisable_kept _ _ _ ?_

theorem farComesUp_kept (p : Nat) (mode : Nat) (found : FarFound) (h : Kept F s) :
    Kept F (farComesUp p mode found s) := by
  unfold farComesUp
  repeat' first
    | with_reducible assumption
    | with_reducible refine rebuildCave_kept _ _ _ ?_
    | with_reducible refine queueUpdate_kept _ ?_
    | with_reducible refine onFar_kept _ _ ?_
    | with_reducible refine wpost_kept _ _ _ _ ?_
    | split

theorem execFarPortEnable_kept (src : OapSrc) (found : FarFound) (h : Kept F s) :
    KeptO F (execFarPortEnable src found s) := by
  unfold execFarPortEnable
  repeat' first
    | with_reducible assumption
    | with_reducible refine serve_kept _ _ _ ?_ ?_
    | with_reducible refine refusedAct_kept _ ?_
    | with_reducible refine onStored_kept _ ?_
    | with_reducible refine farComesUp_kept _ _ _ ?_
    | with_reducible refine startRun_kept _ _ ?_
    | with_reducible refine runsOn_kept ?_
    | with_reducible refine finishRun_kept _ _ _ ?_
    | dsimp only
    | split
    | intro _

theorem execFarPortDisable_kept (src : OapSrc) (h : Kept F s) :
    KeptO F (execFarPortDisable src s) := by
  unfold execFarPortDisable
  repeat' first
    | with_reducible assumption
    | with_reducible refine serve_kept _ _ _ ?_ ?_
    | with_reducible refine onStored_kept _ ?_
    | with_reducible refine runsOn_kept ?_
    | with_reducible refine rebuildCave_kept _ _ _ ?_
    | with_reducible refine startRun_kept _ _ ?_
    | with_reducible refine queueUpdate_kept _ ?_
    | dsimp only
    | split
    | intro _

theorem execHingePortEnable_kept (src : OapSrc) (train : HingeTrain) (h : Kept F s) :
    KeptO F (execHingePortEnable src train s) := by
  unfold execHingePortEnable
  repeat' first
    | with_reducible assumption
    | with_reducible refine serve_kept _ _ _ ?_ ?_
    | with_reducible refine refusedAct_kept _ ?_
    | with_reducible refine onStored_kept _ ?_
    | with_reducible refine trainHinge_kept _ _ ?_
    | with_reducible refine operationDone_kept _ ?_
    | with_reducible refine queueUpdate_kept _ ?_
    | dsimp only
    | split
    | intro _

theorem execHingePortDisable_kept (src : OapSrc) (h : Kept F s) :
    KeptO F (execHingePortDisable src s) := by
  unfold execHingePortDisable
  repeat' first
    | with_reducible assumption
    | with_reducible refine serve_kept _ _ _ ?_ ?_
    | with_reducible refine onStored_kept _ ?_
    | with_reducible refine runsOn_kept ?_
    | with_reducible refine beginDisable_kept _ _ _ ?_
    | with_reducible refine startRun_kept _ _ ?_
    | dsimp only
    | split
    | intro _

theorem restartBound_kept (h : Kept F s) :
    Kept F (restartBound s) := by
  unfold restartBound
  repeat' first
    | with_reducible assumption
    | with_reducible refine recipes_kept _ ?_

theorem execRindEnable_kept (src : OapSrc) (h : Kept F s) :
    KeptO F (execRindEnable src s) := by
  unfold execRindEnable
  repeat' first
    | with_reducible assumption
    | with_reducible refine serve_kept _ _ _ ?_ ?_
    | with_reducible refine refusedAct_kept _ ?_
    | with_reducible refine stored_kept _ ?_
    | with_reducible refine restartBound_kept ?_
    | split
    | intro _

theorem execRindDisable_kept (src : OapSrc) (h : Kept F s) :
    KeptO F (execRindDisable src s) := by
  unfold execRindDisable
  repeat' first
    | with_reducible assumption
    | with_reducible refine serve_kept _ _ _ ?_ ?_
    | with_reducible refine runsOn_kept ?_
    | with_reducible refine beginDisable_kept _ _ _ ?_
    | with_reducible refine endAllWaits_kept ?_
    | with_reducible refine startRun_kept _ _ ?_
    | with_reducible refine onStored_kept _ ?_
    | split
    | intro _

/-! ### Firmware -/

theorem onTarget_kept (f : (FwSlot → FwSlot)) (h : Kept F s) :
    Kept F (onTarget f s) := by
  unfold onTarget
  repeat' first
    | with_reducible assumption
    | with_reducible refine onWarden_kept _ ?_ ?_ ?_
    | exact fun _ hx => hx
    | with_reducible refine cond_kept ?_ ?_

theorem closeSession_kept (obj : Nat) (h : Kept F s) :
    Kept F (closeSession obj s) := by
  unfold closeSession
  repeat' first
    | with_reducible assumption
    | with_reducible refine onWarden_kept _ ?_ ?_ ?_
    | exact fun _ hx => hx

theorem blockBeginAct_kept (a0 : Req) (a1 : Info) (h : Kept F s) :
    Kept F (blockBeginAct a0 a1 s).1 := by
  unfold blockBeginAct
  repeat' first
    | with_reducible assumption
    | with_reducible refine refusedAct_kept _ ?_
    | with_reducible refine onWarden_kept _ ?_ ?_ ?_
    | with_reducible refine closeSession_kept _ ?_
    | with_reducible refine onTarget_kept _ ?_
    | exact fun _ hx => hx
    | dsimp only
    | split

theorem execBlockBegin_kept (src : OapSrc) (h : Kept F s) :
    KeptO F (execBlockBegin src s) := by
  unfold execBlockBegin
  repeat' first
    | with_reducible assumption
    | with_reducible refine serve_kept _ _ _ ?_ ?_
    | with_reducible refine blockBeginAct_kept _ _ ?_
    | intro _

theorem blockDataAct_kept (a0 : Req) (a1 : Info) (h : Kept F s) :
    Kept F (blockDataAct a0 a1 s).1 := by
  unfold blockDataAct
  repeat' first
    | with_reducible assumption
    | with_reducible refine onWarden_kept _ ?_ ?_ ?_
    | exact fun _ hx => hx
    | dsimp only
    | split

theorem execBlockData_kept (src : OapSrc) (h : Kept F s) :
    KeptO F (execBlockData src s) := by
  unfold execBlockData
  repeat' first
    | with_reducible assumption
    | with_reducible refine serve_kept _ _ _ ?_ ?_
    | with_reducible refine blockDataAct_kept _ _ ?_
    | intro _

theorem routesEnd_kept (b : List Byte) (h : Kept F s) :
    Kept F (routesEnd b s).1 := by
  unfold routesEnd
  repeat' first
    | with_reducible assumption
    | with_reducible refine refusedAct_kept _ ?_
    | with_reducible refine stored_kept _ ?_
    | dsimp only
    | split

theorem firmwareEnd_kept (r : Req) (code : Option Nat) (h : Kept F s) :
    Kept F (firmwareEnd r code s).1 := by
  unfold firmwareEnd
  repeat' first
    | with_reducible assumption
    | with_reducible refine finishRun_kept _ _ _ ?_
    | with_reducible refine startRun_kept _ _ ?_
    | split

theorem manifestEnd_kept (r : Req) (m : List Byte) (h : Kept F s) :
    Kept F (manifestEnd r m s).1 := by
  unfold manifestEnd
  repeat' first
    | with_reducible assumption
    | with_reducible refine firmwareEnd_kept _ _ ?_
    | with_reducible refine onTarget_kept _ ?_
    | split

theorem partEnd_kept (r : Req) (b : List Byte) (h : Kept F s) :
    Kept F (partEnd r b s).1 := by
  unfold partEnd
  repeat' first
    | with_reducible assumption
    | with_reducible refine firmwareEnd_kept _ _ ?_
    | with_reducible refine onTarget_kept _ ?_
    | dsimp only
    | split

theorem blockEndAct_kept (a0 : Req) (a1 : Info) (h : Kept F s) :
    Kept F (blockEndAct a0 a1 s).1 := by
  unfold blockEndAct
  repeat' first
    | with_reducible assumption
    | with_reducible refine closeSession_kept _ ?_
    | with_reducible refine routesEnd_kept _ ?_
    | with_reducible refine refusedAct_kept _ ?_
    | with_reducible refine manifestEnd_kept _ _ ?_
    | with_reducible refine partEnd_kept _ _ ?_
    | split

theorem execBlockEnd_kept (src : OapSrc) (h : Kept F s) :
    KeptO F (execBlockEnd src s) := by
  unfold execBlockEnd
  repeat' first
    | with_reducible assumption
    | with_reducible refine serve_kept _ _ _ ?_ ?_
    | with_reducible refine blockEndAct_kept _ _ ?_
    | intro _

theorem execBlockSessionTimeout_kept (obj : Nat) (h : Kept F s) :
    KeptO F (execBlockSessionTimeout obj s) := by
  unfold execBlockSessionTimeout
  repeat' first
    | with_reducible assumption
    | with_reducible refine next_keptO ?_
    | with_reducible refine occurs_keptO _ _ ?_ ?_
    | with_reducible refine closeSession_kept _ ?_
    | split
    | intro _

theorem execActivateFirmware_kept (src : OapSrc) (h : Kept F s) :
    KeptO F (execActivateFirmware src s) := by
  unfold execActivateFirmware
  repeat' first
    | with_reducible assumption
    | with_reducible refine serve_kept _ _ _ ?_ ?_
    | with_reducible refine refusedAct_kept _ ?_
    | with_reducible refine startRun_kept _ _ ?_
    | split
    | intro _

theorem switchSlots_kept (h : Kept F s) :
    Kept F (switchSlots s) := by
  unfold switchSlots
  repeat' first
    | with_reducible assumption
    | with_reducible refine onWarden_kept _ ?_ ?_ ?_
    | exact fun _ hx => hx
    | split

theorem activationSteps_kept (h : Kept F s) :
    Kept F (activationSteps s) := by
  unfold activationSteps
  repeat' first
    | with_reducible assumption
    | with_reducible refine finishRun_kept _ _ _ ?_
    | with_reducible refine onTarget_kept _ ?_
    | with_reducible refine beginDeviceReset_kept ?_
    | with_reducible refine onRun_kept _ ?_
    | with_reducible refine switchSlots_kept ?_
    | split

theorem confirmSlot_kept (h : Kept F s) :
    Kept F (confirmSlot s) := by
  unfold confirmSlot
  repeat' first
    | with_reducible assumption
    | with_reducible refine onWarden_kept _ ?_ ?_ ?_
    | with_reducible refine setSlots_kept _ _ ?_
    | exact fun _ hx => hx

theorem freeOldImages_kept (h : Kept F s) :
    Kept F (freeOldImages s) := by
  unfold freeOldImages
  repeat' first
    | with_reducible assumption
    | with_reducible refine onRind_kept _ ?_

theorem execConfirmFirmware_kept (src : OapSrc) (h : Kept F s) :
    KeptO F (execConfirmFirmware src s) := by
  unfold execConfirmFirmware
  repeat' first
    | with_reducible assumption
    | with_reducible refine serve_kept _ _ _ ?_ ?_
    | with_reducible refine refusedAct_kept _ ?_
    | with_reducible refine finishRun_kept _ _ _ ?_
    | with_reducible refine freeOldImages_kept ?_
    | with_reducible refine confirmSlot_kept ?_
    | with_reducible refine startRun_kept _ _ ?_
    | split
    | intro _

theorem execEnterRecovery_kept (src : OapSrc) (h : Kept F s) :
    KeptO F (execEnterRecovery src s) := by
  unfold execEnterRecovery
  repeat' first
    | with_reducible assumption
    | with_reducible refine serve_kept _ _ _ ?_ ?_
    | with_reducible refine beginDeviceReset_kept ?_
    | with_reducible refine onLife_kept _ ?_
    | with_reducible refine startRun_kept _ _ ?_
    | intro _

/-! ### Commands -/

theorem execDeviceReset_kept (src : OapSrc) (h : Kept F s) :
    KeptO F (execDeviceReset src s) := by
  unfold execDeviceReset
  repeat' first
    | with_reducible assumption
    | with_reducible refine serve_kept _ _ _ ?_ ?_
    | with_reducible refine startRun_kept _ _ ?_
    | with_reducible refine deviceReset_kept ?_
    | with_reducible refine resetComplete_kept _ _ _ _ ?_
    | with_reducible refine report_kept _ _ _ _ ?_
    | with_reducible refine beginDeviceReset_kept ?_
    | split
    | intro _

theorem execWheelReset_kept (src : OapSrc) (h : Kept F s) :
    KeptO F (execWheelReset src s) := by
  unfold execWheelReset
  repeat' first
    | with_reducible assumption
    | with_reducible refine serve_kept _ _ _ ?_ ?_
    | with_reducible refine refusedAct_kept _ ?_
    | with_reducible refine beginWheelReset_kept _ ?_
    | with_reducible refine startRun_kept _ _ ?_
    | dsimp only
    | split
    | intro _

theorem execReplanMargins_kept (src : OapSrc) (scans : List (Nat × WheelScan)) (h : Kept F s) :
    KeptO F (execReplanMargins src scans s) := by
  unfold execReplanMargins
  repeat' first
    | with_reducible assumption
    | with_reducible refine serve_kept _ _ _ ?_ ?_
    | with_reducible refine refusedAct_kept _ ?_
    | with_reducible refine onRun_kept _ ?_
    | with_reducible refine startRun_kept _ _ ?_
    | with_reducible refine finishRun_kept _ _ _ ?_
    | with_reducible refine replanReady_kept ?_
    | dsimp only
    | split
    | intro _

theorem execRestoreRindImage_kept (src : OapSrc) (nand : Nand) (h : Kept F s) :
    KeptO F (execRestoreRindImage src nand s) := by
  unfold execRestoreRindImage
  repeat' first
    | with_reducible assumption
    | with_reducible refine serve_kept _ _ _ ?_ ?_
    | with_reducible refine startRun_kept _ _ ?_
    | with_reducible refine refusedAct_kept _ ?_
    | with_reducible refine finishRun_kept _ _ _ ?_
    | with_reducible refine abandonRecipe_kept _ ?_
    | with_reducible refine nandEvent_kept _ ?_
    | with_reducible refine onRecipe_kept _ _ ?_
    | dsimp only
    | split
    | intro _

theorem execReconcileDefectMap_kept (src : OapSrc) (passed : List Nat) (h : Kept F s) :
    KeptO F (execReconcileDefectMap src passed s) := by
  unfold execReconcileDefectMap
  repeat' first
    | with_reducible assumption
    | with_reducible refine serve_kept _ _ _ ?_ ?_
    | with_reducible refine refusedAct_kept _ ?_
    | with_reducible refine onRun_kept _ ?_
    | with_reducible refine startRun_kept _ _ ?_
    | split
    | intro _

theorem commitReconcile_kept (passed : List Nat) (h : Kept F s) :
    Kept F (commitReconcile passed s) := by
  unfold commitReconcile
  repeat' first
    | with_reducible assumption
    | with_reducible refine onAgeing_kept _ ?_
    | with_reducible refine finishRun_kept _ _ _ ?_

theorem execFlushCaveCache_kept (src : OapSrc) (h : Kept F s) :
    KeptO F (execFlushCaveCache src s) := by
  unfold execFlushCaveCache
  repeat' first
    | with_reducible assumption
    | with_reducible refine serve_kept _ _ _ ?_ ?_
    | with_reducible refine startRun_kept _ _ ?_
    | with_reducible refine finishRun_kept _ _ _ ?_
    | split
    | intro _
    | with_reducible refine flushing_kept _ ?_

theorem stopFlush_kept (h : Kept F s) :
    Kept F (stopFlush s).1 := by
  unfold stopFlush
  repeat' first
    | with_reducible assumption
    | with_reducible refine writeBack_kept _ ?_
    | with_reducible refine drawn_kept ?_
    | with_reducible refine flushing_kept _ ?_

theorem beginQualify_kept (k : Nat) (h : Kept F s) :
    Kept F (beginQualify k s) := by
  unfold beginQualify
  repeat' first
    | with_reducible assumption
    | with_reducible refine onPort_kept _ _ ?_
    | with_reducible refine portStop_kept _ _ ?_
    | with_reducible refine cond_kept ?_ ?_

theorem execQualifyLinks_kept (src : OapSrc) (h : Kept F s) :
    KeptO F (execQualifyLinks src s) := by
  unfold execQualifyLinks
  repeat' first
    | with_reducible assumption
    | with_reducible refine serve_kept _ _ _ ?_ ?_
    | with_reducible refine refusedAct_kept _ ?_
    | with_reducible refine beginQualify_kept _ ?_
    | with_reducible refine onRun_kept _ ?_
    | with_reducible refine startRun_kept _ _ ?_
    | with_reducible refine finishRun_kept _ _ _ ?_
    | with_reducible refine forEach_kept _ _ ?_ ?_
    | dsimp only
    | split
    | intro _

theorem portReturns_kept (p : Nat) (h : Kept F s) :
    Kept F (portReturns p s) := by
  unfold portReturns
  repeat' first
    | with_reducible assumption
    | with_reducible refine onPort_kept _ _ ?_

theorem keepOthers_kept (o : RunOp) (h : Kept F s) :
    Kept F (keepOthers o s) := by
  unfold keepOthers
  repeat' first
    | with_reducible assumption
    | with_reducible refine portReturns_kept _ ?_
    | with_reducible refine forEach_kept _ _ ?_ ?_
    | intro _

theorem hingeFails_kept (p : Nat) (h : Kept F s) :
    Kept F (hingeFails p s) := by
  unfold hingeFails
  repeat' first
    | with_reducible assumption
    | with_reducible refine onPort_kept _ _ ?_

theorem hingeDwell_kept (p : Nat) (r : DwellResult) (h : Kept F s) :
    Kept F (hingeDwell p r s).1 := by
  unfold hingeDwell
  repeat' first
    | with_reducible assumption
    | with_reducible refine onPort_kept _ _ ?_
    | with_reducible refine portReturns_kept _ ?_
    | with_reducible refine setPort_kept _ _ ?_
    | with_reducible refine withdrawPort_kept _ _ _ ?_
    | with_reducible refine hingeFails_kept _ ?_
    | with_reducible refine portPost_kept _ _ ?_
    | dsimp only
    | split

theorem farDwell_kept (p : Nat) (r : DwellResult) (o : RunOp) (h : Kept F s) :
    Kept F (farDwell p r o s).1 := by
  unfold farDwell
  repeat' first
    | with_reducible assumption
    | with_reducible refine wpost_kept _ _ _ _ ?_
    | with_reducible refine rebuildCave_kept _ _ _ ?_
    | with_reducible refine onRun_kept _ ?_
    | split

theorem linkSettled_kept (k : Nat) (settled : Bool) (good : Bool) (h : Kept F s) :
    Kept F (linkSettled k settled good s) := by
  unfold linkSettled
  repeat' first
    | with_reducible assumption
    | with_reducible refine onRun_kept _ ?_
    | with_reducible refine finishRun_kept _ _ _ ?_
    | with_reducible refine keepOthers_kept _ ?_
    | dsimp only
    | split

theorem execQualificationDwellEnd_kept (link : LinkId) (r : DwellResult) (h : Kept F s) :
    KeptO F (execQualificationDwellEnd link r s) := by
  unfold execQualificationDwellEnd
  repeat' first
    | with_reducible assumption
    | with_reducible refine next_keptO ?_
    | with_reducible refine occurs_keptO _ _ ?_ ?_
    | with_reducible refine hingeDwell_kept _ _ ?_
    | with_reducible refine farDwell_kept _ _ _ ?_
    | with_reducible refine linkSettled_kept _ _ _ ?_
    | split
    | intro _

theorem leaveReplans_kept (ws : List Nat) (h : Kept F s) : Kept F (leaveReplans ws s) := by
  unfold leaveReplans
  exact onAgeing_kept _ h

theorem rollBack_kept (o : RunOp) (h : Kept F s) :
    Kept F (rollBack o s).1 := by
  unfold rollBack
  repeat' first
    | with_reducible refine leaveReplans_kept _ ?_
    | with_reducible assumption
    | with_reducible refine haltRestored_kept _ ?_
    | with_reducible refine onRecipe_kept _ _ ?_
    | with_reducible refine bodyStopped_kept _ ?_
    | with_reducible refine keepOthers_kept _ ?_
    | with_reducible refine stopFlush_kept ?_
    | split

theorem abortAct_kept (a0 : Req) (a1 : Info) (h : Kept F s) :
    Kept F (abortAct a0 a1 s).1 := by
  unfold abortAct
  repeat' first
    | with_reducible assumption
    | with_reducible refine onRun_kept _ ?_
    | with_reducible refine rollBack_kept _ ?_
    | with_reducible refine finishRun_kept _ _ _ ?_
    | split

theorem execAbort_kept (src : OapSrc) (h : Kept F s) :
    KeptO F (execAbort src s) := by
  unfold execAbort
  repeat' first
    | with_reducible assumption
    | with_reducible refine serve_kept _ _ _ ?_ ?_
    | with_reducible refine abortAct_kept _ _ ?_
    | intro _

theorem writeResult_kept (o : RunOp) (e : Nat × Nat × List Byte) (h : Kept F s) :
    Kept F (writeResult o e s) := by
  unfold writeResult
  repeat' first
    | with_reducible assumption
    | with_reducible refine wpost_kept _ _ _ _ ?_
    | with_reducible refine onWarden_kept _ ?_ ?_ ?_
    | exact fun _ hx => hx

theorem owedAnswer_kept (o : RunOp) (e : Nat × Nat × List Byte) (h : Kept F s) :
    Kept F (owedAnswer o e s) := by
  unfold owedAnswer
  repeat' first
    | with_reducible assumption
    | with_reducible refine respond_kept _ _ _ _ _ ?_

theorem abortAnswer_kept (o : RunOp) (e : Nat × Nat × List Byte) (h : Kept F s) :
    Kept F (abortAnswer o e s) := by
  unfold abortAnswer
  repeat' first
    | with_reducible assumption
    | with_reducible refine respond_kept _ _ _ _ _ ?_
    | split

theorem closeRun_kept (o : RunOp) (e : Nat × Nat × List Byte) (h : Kept F s) :
    Kept F (closeRun o e s) := by
  unfold closeRun
  repeat' first
    | with_reducible assumption
    | with_reducible refine onWarden_kept _ ?_ ?_ ?_
    | with_reducible refine abortAnswer_kept _ _ ?_
    | with_reducible refine writeResult_kept _ _ ?_
    | with_reducible refine owedAnswer_kept _ _ ?_
    | exact fun _ hx => hx
    | with_reducible refine cond_kept ?_ ?_

theorem execCommandEnd_kept (h : Kept F s) :
    KeptO F (execCommandEnd s) := by
  unfold execCommandEnd
  repeat' first
    | with_reducible assumption
    | with_reducible refine next_keptO ?_
    | with_reducible refine occurs_keptO _ _ ?_ ?_
    | with_reducible refine closeRun_kept _ _ ?_
    | with_reducible refine commitReconcile_kept _ ?_
    | with_reducible refine onRun_kept _ ?_
    | with_reducible refine activationSteps_kept ?_
    | split
    | intro _

/-! ### Restart -/

theorem execSeatLatchedClear_kept (h : Kept F s) :
    KeptO F (execSeatLatchedClear s) := by
  unfold execSeatLatchedClear
  repeat' first
    | with_reducible assumption
    | with_reducible refine occurs_keptO _ _ ?_ ?_
    | with_reducible refine onPower_kept _ ?_
    | with_reducible refine mainLoss_kept _ ?_
    | with_reducible refine enter_kept _ ?_
    | with_reducible refine onLife_kept _ ?_
    | split
    | intro _

theorem execSeatLatchedSet_kept (h : Kept F s) :
    KeptO F (execSeatLatchedSet s) := by
  unfold execSeatLatchedSet
  repeat' first
    | with_reducible assumption
    | with_reducible refine occurs_keptO _ _ ?_ ?_
    | with_reducible refine onPower_kept _ ?_
    | with_reducible refine enterStage_kept _ _ ?_
    | split
    | intro _

theorem execStby12SenseChange_kept (level : Bool) (h : Kept F s) :
    KeptO F (execStby12SenseChange level s) := by
  unfold execStby12SenseChange
  repeat' first
    | with_reducible assumption
    | with_reducible refine occurs_keptO _ _ ?_ ?_
    | with_reducible refine onPower_kept _ ?_
    | intro _

theorem execAuxiliarySupplyLoss_kept (h : Kept F s) : KeptO F (execAuxiliarySupplyLoss s) :=
  occurs_keptO _ _ (fun _ hx => enter_kept _ (onAgeing_kept _ (onPower_kept _ (onGate_kept _ (onLife_kept _
    (onEvents_kept _ (fun _ hy => hy) (fun _ _ => Nat.zero_le _)
      (onWarden_kept _ (fun _ _ => rfl) (fun _ _ => Nat.zero_le _)
        (onPower_kept _ (restartCounts_kept (clearFences_kept (railsOff_kept (loseRecipes_kept hx)))))))))))) h

theorem interruptCommand_kept (h : Kept F s) :
    Kept F (interruptCommand s) := by
  unfold interruptCommand
  repeat' first
    | with_reducible assumption
    | with_reducible refine stopFlush_kept ?_
    | with_reducible refine onWarden_kept _ ?_ ?_ ?_
    | with_reducible refine rollBack_kept _ ?_
    | with_reducible refine finishRun_kept _ _ _ ?_
    | exact fun _ hx => hx
    | split

theorem restartWarden_kept (det : Nat) (h : Kept F s) :
    Kept F (restartWarden det s) := by
  unfold restartWarden
  repeat' first
    | with_reducible assumption
    | with_reducible refine onWarden_kept _ ?_ ?_ ?_
    | with_reducible refine loseRam_kept ?_
    | with_reducible refine interruptCommand_kept ?_
    | with_reducible refine trialFails_kept _ _ _ ?_
    | with_reducible refine wpost_kept _ _ _ _ ?_
    | exact fun _ hx => hx
    | with_reducible refine cond_kept ?_ ?_

theorem execLockstepMismatch_kept (h : Kept F s) :
    KeptO F (execLockstepMismatch s) := by
  unfold execLockstepMismatch
  repeat' first
    | with_reducible assumption
    | with_reducible refine occurs_keptO _ _ ?_ ?_
    | with_reducible refine restartWarden_kept _ ?_
    | intro _

theorem execWardenWatchdogExpiry_kept (h : Kept F s) :
    KeptO F (execWardenWatchdogExpiry s) := by
  unfold execWardenWatchdogExpiry
  repeat' first
    | with_reducible assumption
    | with_reducible refine occurs_keptO _ _ ?_ ?_
    | with_reducible refine restartWarden_kept _ ?_
    | intro _

theorem execWardenRestartComplete_kept (h : Kept F s) :
    KeptO F (execWardenRestartComplete s) := by
  unfold execWardenRestartComplete
  repeat' first
    | with_reducible assumption
    | with_reducible refine occurs_keptO _ _ ?_ ?_
    | with_reducible refine postRestart_kept ?_
    | with_reducible refine onWarden_kept _ ?_ ?_ ?_
    | intro _

theorem execPlcaBeaconLoss_kept (h : Kept F s) :
    KeptO F (execPlcaBeaconLoss s) := by
  unfold execPlcaBeaconLoss
  repeat' first
    | with_reducible assumption
    | with_reducible refine occurs_keptO _ _ ?_ ?_
    | with_reducible refine absentEpisode_kept _ _ ?_
    | with_reducible refine postEpisode_kept _ _ _ _ _ ?_
    | with_reducible refine onWarden_kept _ ?_ ?_ ?_
    | intro _

end Sys2Proof.Machine
end

