-- ==== Sys2Proof/Machine/RomBounds.lean ====
section
/-! DEFINITION. The bounds of R245 on the ROM function tables and on a firmware set's overrides, as propositions about
real numbers. The coefficients are free constants of Config; a statement that needs the bounds takes
`TablesConform` as its hypothesis. -/

namespace Sys2Proof.Machine

/-- A real number is the value of a finite number. -/
def IsReal (v : Val) (x : ℝ) : Prop :=
  match v with
  | .fin s m e => x = (if s then -1 else 1) * (m : ℝ) * (2 : ℝ) ^ e
  | _ => False

/-- The exact function of a ROM_ID at x (R245); the constants of the tanh form of GELU are PRESUMED (log entry 79). -/
def RomExact (id : Nat) (x g : ℝ) : Prop :=
  match id with
  | 1 => g = x / 2 * (1 + Real.tanh (Real.sqrt (2 / Real.pi) * (x + 0.044715 * x ^ 3)))
  | 2 => g = deriv (fun u : ℝ => u / 2 * (1 + Real.tanh (Real.sqrt (2 / Real.pi) * (u + 0.044715 * u ^ 3)))) x
  | 3 => g = x / (1 + Real.exp (-x))
  | 4 => g = deriv (fun u : ℝ => u / (1 + Real.exp (-u))) x
  | 5 => g = 1 / (1 + Real.exp (-x))
  | 6 => g = deriv (fun u : ℝ => 1 / (1 + Real.exp (-u))) x
  | 7 => g = Real.tanh x
  | 8 => g = deriv Real.tanh x
  | 9 => g = Real.exp x
  | 10 => g = Real.exp x
  | 11 => g = Real.log (1 + Real.exp x)
  | 12 => g = 1 / (1 + Real.exp (-x))
  | 13 => g = 1 / Real.sqrt x
  | 14 => g = -1 / (2 * x * Real.sqrt x)
  | _ => False

/-- The bound on the difference d from the exact value g (R245). -/
def RomBound (id : Nat) (g d : ℝ) : Prop :=
  match id with
  | 1 => d ≤ 2⁻¹ ^ 20 * max 1 |g|
  | 3 => d ≤ 2⁻¹ ^ 20 * max 1 |g|
  | 11 => d ≤ 2⁻¹ ^ 20 * max 1 |g|
  | 2 => d ≤ 2 * 2⁻¹ ^ 20 * max 1 |g|
  | 4 => d ≤ 2 * 2⁻¹ ^ 20 * max 1 |g|
  | 9 => d ≤ 2⁻¹ ^ 15 * g
  | 10 => d ≤ 2⁻¹ ^ 15 * g
  | 13 => d ≤ 2⁻¹ ^ 14 * g
  | 14 => d ≤ 2⁻¹ ^ 13 * |g|
  | _ => d ≤ 2⁻¹ ^ 20

/-- The inputs at which the bound holds (R245). -/
def RomDomain (id : Nat) (x : ℝ) : Prop :=
  match id with
  | 9 => -16 < x ∧ x < 16
  | 10 => -16 < x ∧ x < 16
  | 13 => 2⁻¹ ^ 20 ≤ x ∧ x < 2 ^ 42
  | 14 => 2⁻¹ ^ 20 ≤ x ∧ x < 2 ^ 42
  | _ => True

/-- A table meets the bound of a ROM_ID at every FP32 input at which the bound holds. -/
def MeetsBound (id : Nat) (t : TableSrc) : Prop :=
  ∀ (c : Nat) (x : ℝ), IsReal (f32.decode c) x → RomDomain id x →
    ∃ y g : ℝ, IsReal (tableEval t (f32.decode c)) y ∧ RomExact id x g ∧ RomBound id g |y - g|

/-- The device's own tables meet their bounds, and the manifest check passes only an override that does (R245, R491). -/
structure TablesConform : Prop where
  rom : ∀ id, 1 ≤ id → id ≤ 14 → MeetsBound id (.rom id)
  override : ∀ id bs, Config.tableBound id bs = true → MeetsBound id (.image bs)

end Sys2Proof.Machine
end

