-- ==== Sys2Proof/Tests/Slice0.lean ====
section
/-! SUPPORT. Tests: the well-formedness smoke, a witness for every clause of every statement that has hypotheses, and
single steps on small states whose results are worked out from the spec. -/

namespace Sys2Proof.Machine.Tests

set_option Elab.async false

/-! ### Helper states -/

/-- A module that serves: host link up, rails on, Warden up, one queue enabled, one wheel with one hoop. -/
def on : State :=
  let r := State.reset
  { r with
    now := 10 ^ 12
    host := { r.host with linkUp := true, qualified := true, rdy := true,
                          queues := { Queue.reset with en := true, drain := 1, size := 16, phase := true } ::
                            List.replicate 15 Queue.reset }
    power := { r.power with volts := 400, input := true, aux := true, rails := true, flowOk := true, gatesClosed := false,
                            charge := 95, seated := true }
    warden := { r.warden with up := true, mbCfg := 1 }
    life := { r.life with state := .ready, reached := true, supervisorLoaded := true }
    tiers := { r.tiers with channels := List.range 512, placed := true, caveRegion := 64, devRegion := 4 }
    gate := { r.gate with view := { r.gate.view with
                            shapes := List.replicate 8 (1024, 1024), wheels := List.replicate 8 .usable,
                            hoopCores := [16], hoopMarks := [], nearUsable := 2 ^ 40,
                            curdUsable := List.replicate 8 (2 ^ 30) } }
    wheels := { Wheel.reset with hoops := [{ wheel := 0, hoop := 0, posMap := List.range 16, bad := [], fenced := false,
                                             pin := none }] } :: List.replicate 7 Wheel.reset }

/-- `on` with a submission entry waiting in queue 0. -/
def withEntry (e : List Byte) (s : State) : State :=
  (s.onHost (fun h => { h with bar0 := memWrite h.bar0 (sqBase 0) e })).onQueue 0 (fun x => { x with sqTail := 1 })

/-- The 64 bytes of an entry: operation code, flags, recipe and the operand bytes from 8 on. -/
def entry (opc flags recipe : Nat) (ops : List Byte) : List Byte :=
  leBytes 1 opc ++ leBytes 1 flags ++ leBytes 2 7 ++ leBytes 4 recipe ++ ops ++ zeros (56 - ops.length)

/-- The command and the state when the entry of queue 0 is taken. -/
def cmdOf (s : State) : HostCmd := (takeEntry 0 true s).1
def tookOf (s : State) : State := (takeEntry 0 true s).2

theorem taken {s : State} {opc : Nat}
    (h : nextQueue s = some 0 ∧ (if entryValid (entryAt s 0) then leAt (entryAt s 0) 0 1 else 0) = opc) :
    Taken s opc (cmdOf s) (tookOf s) := ⟨0, h.1, h.2, rfl⟩

/-- A frame from the field network, and the request it is. -/
def frame (op obj : Nat) (pay : List Byte) : List Byte := frameBytes op 0 0 9 obj 0 pay
def fsrc (op obj : Nat) (pay : List Byte) : OapSrc := .field 1 2 0 (frame op obj pay)
def freq (op obj : Nat) (pay : List Byte) : Req :=
  parseFrame { mailbox := false, addr := 1, port := 2 } (frame op obj pay)

/-- What the dictionary says of the object of a request that passes the checks. -/
def fieldOf (s : State) (r : Req) : Info :=
  match precheck s r with
  | .ok f => f
  | .error _ => { ty := .u8, acc := .ro, len := 0, lo := 0, hi := 0 }

def isOk {α β} : Except α β → Bool
  | .ok _ => true
  | .error _ => false

theorem frameTaken {s : State} {row : Row} {op obj : Nat} {pay : List Byte}
    (h : awake s = true ∧ frameBad (frame op obj pay) = false ∧ rowOf s (freq op obj pay) = row ∧
      s.life.romFailed = false ∧ repeatsRunning s (freq op obj pay) = false ∧ cachedFor s (freq op obj pay) = none) :
    FrameTaken s (fsrc op obj pay) row (freq op obj pay) s :=
  ⟨_, _, rfl, rfl, rfl, h.1, h.2.1, h.2.2.1, h.2.2.2.1, (by decide : (0 : Nat) < 32), h.2.2.2.2.1, h.2.2.2.2.2⟩

theorem accepted {s : State} {row : Row} {op obj : Nat} {pay : List Byte}
    (h : awake s = true ∧ frameBad (frame op obj pay) = false ∧ rowOf s (freq op obj pay) = row ∧
      s.life.romFailed = false ∧ repeatsRunning s (freq op obj pay) = false ∧ cachedFor s (freq op obj pay) = none)
    (h2 : isOk (precheck s (freq op obj pay)) = true) :
    Accepted s (fsrc op obj pay) row (freq op obj pay) (fieldOf s (freq op obj pay)) s := by
  refine ⟨frameTaken h, ?_⟩
  unfold fieldOf
  cases h3 : precheck s (freq op obj pay) with
  | ok f => rfl
  | error e => rw [h3] at h2; cases h2

/-- A recipe with one leaf of ordinary and one of cave memory, tumblers on wheel 0, a capture table of one entry, one
curd extent on wheel 0 and one shadow page. -/
def rcp : Recipe :=
  { draftRecipe { base := 0, bytes := [] } [{ cave := false, base := 0, size := 2 ^ 30, pa := 2 ^ 33, ra := true, w := true },
      { cave := true, base := 0, size := 2 ^ 30, pa := 0, ra := true, w := true }] with
    handle := 1, wheels := 1, taskSlots := List.replicate 8 64, tumbCounts := List.replicate 8 64,
    curd := List.replicate 8 (0, 16), specShare := 32, shadowFree := [2 ^ 34], heCtx := List.replicate 8 4,
    capt := [{ tensor := 5, mode := 1, rows := 1, cols := 4, master := nearBase, m := 0, ms := 0, v := 0, vs := 0 }],
    owned := [(2 ^ 33, 2 ^ 30)], rindPending := [] }

/-- `on` with the recipe, changed by a function. -/
def withRcp (f : Recipe → Recipe) (s : State) : State := { s with recipes := [f rcp] }

/-- A waiting descriptor, and a task that runs with the given descriptors. -/
def desc0 : DescRun :=
  { phase := .waiting, began := 0, ready := 1, waitFrom := 0, packets := [], units := [], heldCopies := false,
    rindWait := none, rindPosted := false, counted := [], stage := 0, awaiting := [], refused := [] }

def run0 : TaskRun :=
  { idx := 0, phase := .started, ready := some 0, loadedAt := 0, missing := none, startOrder := 0, specRun := false, verdict := none,
    descs := [desc0], record := 0, shadows := [], heldPosts := [], deferred := none, shadowWaited := false, passedOver := 0, versionWait := [],
    versionPosted := [], spanSince := none, hoop := 0 }

def task0 : Task :=
  { cls := 0, home := 0, unit := 0, layer := 0, mb := 0, spec := false, alt := false, vread := false, credMask := 0,
    waits := [], outs := [(0, 1)], dcount := 1, npages := 0, descOff := 0, gstride := 0, gval := 0, guard := 0 }

/-- A step that runs the given tasks. -/
def step0 (rs : List TaskRun) : StepRun :=
  { ordinal := 3, seed := 1, dataSeed := 2, origin := .command 0 7, start := 0, snapshot := false, updated := false,
    updatePhase := false, lossWait := none, runs := rs, fault := none, nFurther := 0, ledgers := [], pendingSet := [],
    refusedLandings := 0, early := [], pausedNs := 0, pausedSince := none, imageLost := false }

/-- A recipe whose step runs a task of the given class with one descriptor of the given words. -/
def running (cls : Nat) (ws : List Nat) (r : Recipe) : Recipe :=
  { r with tasks := [{ task0 with cls := cls }], pool := (ws.map (leBytes 8)).flatten, running := some (step0 [run0]) }

/-- A queue command of the recipe in hand. -/
def cmd (opc : Nat) (begun : Bool) (e : List Byte) : HostCmd :=
  { q := 0, cid := 7, opc := opc, recipe := 1, order := 0, begun := begun, entry := e }

/-- An image of the capture table's one tensor, with its journal record for the next step. -/
def img0 : Image :=
  { no := 4, step := 2, stamp := 0, crc := 0, jobTag := 0, n := 0, rank := 0, shapes := [], state := .restorable, format := 1,
    tensors := [{ tensor := 5, mode := 1, rows := 1, cols := 4, bytes := zeros 16 }], tumblers := [], captureNs := 0, waitNs := 0,
    raw := [] }

def jrn0 : JournalRec :=
  { step := 3, seed := 1, dataSeed := 2, loss := 0, lossValid := true, completed := true, faulted := false, updated := true,
    replay := false, crc := 0, stamp := 0, endNs := 0, imageNo := 4 }

def restore0 : RestoreRun :=
  { origin := .command 0 7, image := 4, step := 2, replaying := false, loss := 0, exact := true, nandBad := false }

def ev0 : EventRec :=
  { time := 0, det := 0x540, unit := 0, sev := 3, code := 0, alert := false, lostRec := false, warden := false, inj := false,
    detail := [] }

/-- The state that a result gives, or the one that is given. -/
def okOr {α β} (d : β) : Except α β → β
  | .ok x => x
  | .error _ => d

def outOr (s : State) : Host.Outcome State Fault Refusal → State
  | .next t => t
  | _ => s

def errOf {α β} : Except α β → Option α
  | .ok _ => none
  | .error e => some e

theorem isError {α β} {x : Except α β} {c : α} (h : errOf x = some c) : x = .error c := by
  cases x with
  | ok _ => cases h
  | error e => cases h; rfl

theorem someOf {α} {x : Option α} {d : α} (h : x.isSome = true) : x = some (x.getD d) := by
  cases x with
  | none => cases h
  | some _ => rfl

theorem okOf {α β} {x : Except α β} {d : β} (h : isOk x = true) : x = .ok (okOr d x) := by
  cases x with
  | ok _ => rfl
  | error e => cases h

/-- `on` with the Rind enabled, the recipe, an image of it and the image's journal record. -/
def onRind : State :=
  let s := (withRcp id on).onStored (fun x => { x with rindEnable := true })
  { s with rind := { s.rind with images := [img0], journal := [jrn0] } }

def sub0 : Sub :=
  { peer := { mailbox := false, addr := 1, port := 2 }, obj := od 0x01 0 0, period := 1, lifetime := 1, since := 0,
    lastSent := 0, seq := 0, number := 1, lastValue := [] }

def sess0 : Session :=
  { obj := od 0x22 0x101 0, total := 0, data := [], lastOff := 0, lastChunk := [], lastTime := 0 }

def copyOps (n : Nat) : List Byte := leBytes 8 0 ++ leBytes 8 4096 ++ leBytes 8 n

def runOp0 : RunOp :=
  { obj := od 0x7F 2 0, exec := true, peer := { mailbox := false, addr := 1, port := 2 }, seq := 1, start := 0, progress := 0,
    committed := false, aborting := none, ending := none, todo := [], done := [], scans := [], tally := [] }

def scan0 : WheelScan :=
  { vat := List.replicate 16 (List.replicate 51 { tj := 60, cell := 20, forward := List.replicate 8 15, broadcast := 18 }),
    hoops := List.replicate 16 (List.replicate 51 { tj := 60, hoops := List.replicate 80 20 }),
    badRows := [], badCols := [], badCores := [] }

def train0 : HingeTrain :=
  { trained := true, localMask := 15, peerMask := 15, peerId := 5, whole := true, pair0 := true, pair1 := true }

def job0 : Job :=
  { tag := 1, n := 2, rank := 0, members := [5, 6], hops := 1, spanHe := 0, tSw := 0, minLanes := 2 }

/-- States in which the enables, an activation and a cave flush are granted. -/
def readyToEnable : State :=
  ((on.onStored (fun x => { x with devEnable := false })).onLife (fun l => { l with state := .off })).onPower
    (fun p => { p with rails := false })

def portable : State :=
  (on.onStored (fun x => { x with pmd := List.replicate 32 1, moduleId := 5 })).onPower (fun p => { p with rails := false })

def activable : State := on.onWarden (fun w => { w with fwB := { w.fwB with state := .pending } })

def dirty : State :=
  withRcp (fun r => { r with cave := { r.cave with mib := 64, segments := [
    { seg := 0, filling := false, prefetched := false, dirty := true, poisoned := false, used := 0 }] } }) on

/-- A helper core whose instruction cache holds one word at its pc, with x10 and x11 as given. -/
def coreAt (w x10 x11 : Nat) : Core :=
  { id := ⟨0, 0, 0⟩, recipe := 1, task := 0, rank := 0, ncores := 1,
    x := ((List.replicate 32 (0#64)).set 10 (BitVec.ofNat 64 x10)).set 11 (BitVec.ofNat 64 x11),
    f := List.replicate 32 0, v := List.replicate 32 0, pc := BitVec.ofNat 64 nearBase, frm := 0, fflags := 0, vtype := 0,
    vl := 0, vstart := 0, vxrm := 0, vxsat := false, resv := none, beats := 0, instret := 0, hpm := List.replicate 8 0,
    budget := 0, codeVa := nearBase, codeLen := 64, entry := 0, wait := .none, carries := [], region := false,
    icache := [(nearBase, leBytes 4 w ++ zeros 60)], exited := false, priv := .user, mcsr := [] }

/-- A step with one task of helper cores that runs on the core, and a parameter block at the start of its scratch. -/
def onCore (k : Core) (blk : List Byte) : State :=
  { withRcp (running 1 []) on with cores := [k], dev := memWrite [] (scratchAt 0) blk }

/-- A parameter block of 64 bytes from its fields: offset, bytes, value. -/
def pblock (l : List (Nat × Nat × Nat)) : List Byte :=
  l.foldl (fun b f => splice b f.1 (leBytes f.2.1 f.2.2)) (zeros 64)

theorem atWord {s : State} {c : CoreId} {k : Core} {w op f3 f7 : Nat}
    (h : s.core? c = some k ∧ executing s k = true ∧ fetch k = .word w 4 ∧ fOp w = op ∧ fF3 w = f3 ∧ fF7 w = f7) :
    AtWord s c k w op f3 f7 := h

/-- What an instruction leaves, where it completes. -/
def nextCore (d : Core) : IRes → Core
  | .next k _ _ => k
  | _ => d

def nextState (d : State) : IRes → State
  | .next _ s _ => s
  | _ => d

def nextBeats : IRes → Nat
  | .next _ _ b => b
  | _ => 0

def isNext : IRes → Bool
  | .next _ _ _ => true
  | _ => false

theorem nextOf {x : IRes} {k : Core} {s : State} (h : isNext x = true) :
    x = .next (nextCore k x) (nextState s x) (nextBeats x) := by
  cases x <;> first | rfl | cases h

theorem vatReady {s : State} {d : DescRef} {op : Nat} {v : VatDesc}
    (h : vatDesc? s d = some v ∧ opOf v.ws = op ∧ canBegin s v = true) : VatReady s d op v := h

theorem updReady {s : State} {d : DescRef} {mode : Nat} {u : UpdDesc}
    (h : updDesc? s d = some u ∧ enginesIssue s = true ∧ uMode u.ws = mode ∧ u.run.phase = .waiting ∧
      u.before.all (fun b => b.2.phase != .waiting) = true) : UpdReady s d mode u := h

theorem hingeReady {s : State} {d : DescRef} {e : HDesc}
    (h : hDesc? s d = some e ∧ e.alive s = true ∧ enginesIssue s = true ∧ e.run.phase = .waiting ∧ e.run.ready ≠ 0) :
    HingeReady s d e := h


/-- The descriptor that a command names, or an empty one. -/
def vatOf (s : State) (d : DescRef) : VatDesc :=
  (vatDesc? s d).getD { h := 0, t := 0, i := 0, w := 0, ws := [], run := desc0, spec := false, off := 0, layer := 0, live := false }

def updOf (s : State) (d : DescRef) : UpdDesc :=
  (updDesc? s d).getD { h := 0, t := 0, i := 0, ws := [], run := desc0, ord := 0, seed := 0, layer := 0, before := [], named := [],
                        pending := [], setNow := [], snapshot := false }

def hOf (s : State) (d : DescRef) : HDesc :=
  (hDesc? s d).getD { h := 0, t := 0, i := 0, ws := [], run := desc0, job := job0, unit := 0, stamp := 0 }

/-- The first descriptor of the running task. -/
def d0 : DescRef := { recipe := 1, task := 0, idx := 0 }

def t0 : TaskRef := { recipe := 1, task := 0 }

def carry0 : Carry :=
  { src := 0, dst := ownBase, len := 64, rows := 1, zero := false, spitch := 0, dpitch := 0, waiting := none, inRegion := false,
    demanded := [] }

def stash0 : StashEntry :=
  { wpage := 0, layer := 0, mb := 0, mandatory := false, checkpoint := false, sized := false, rcFirst := 0, decision := 0,
    sizeHandle := 0, maxPages := 0, rowBytes := 0, release := 0, rstride := 0, rval := 0, state := .planned,
    standsDemoted := false, pages := [], waiting := some { order := 0, since := 0, rc := true }, waitPosted := false }

/-- A recipe that runs a vat descriptor of the given words on wheel 0. -/
def onVatOf (ws : List Nat) : State := withRcp (running 0 ws) on
/-- A recipe that runs an update descriptor of the given words. -/
def onUpdOf (ws : List Nat) : State := withRcp (running 2 ws) on

/-- `on` with hinge port 0 up and a recipe with a job. -/
def onLink : State :=
  let s := withRcp (fun r => { r with job := some job0 }) on
  (s.onPort 0 (fun q => { q with state := .up4, peerId := 6, before := .up4, credits := [8, 8, 8, 8] })).onStored
    (fun x => { x with moduleId := 5, routes := [(6, 0x8000000001000000#64)] })

/-- A recipe with a job that runs a hinge descriptor of the given words. -/
def onHingeOf (ws : List Nat) : State := withRcp (fun r => { running 3 ws r with job := some job0 }) onLink

def retrainingPort : State := onLink.onPort 31 (fun q => { q with
  state := .retraining, before := .up4, peerId := 5, retrainStart := 10 ^ 12 })

/-- A flit with LSEQ 0 and a good CRC, from the module with ID 6. -/
def flit (ty vc flags : Nat) (pay : List Byte) : List Byte := sealFlit 0 0 0 0 (mkFlit ty vc 6 5 flags 9 pay)

theorem flitTaken {s : State} {p ty vc flags : Nat} {pay : List Byte} (hl : (mkFlit ty vc 6 5 flags 9 pay).length = 256)
    (h : p < 32 ∧ (s.port p).up = true ∧ fType (flit ty vc flags pay) = ty ∧
      fLseq (flit ty vc flags pay) = (s.port p).rxSeq ∧ protoBad (flit ty vc flags pay) = false) :
    FlitTaken s p ty (flit ty vc flags pay) := ⟨h.1, h.2.1, seal_good hl, h.2.2⟩

def xfer0 (k : XferKind) : Xfer :=
  { tag := 9, recipe := 1, task := 0, idx := 0, rank := 1, dst := 6, port := 0, kind := k, addr := nearBase, len := 240, got := 0, mode := 0 }

def rx0 : RxXfer :=
  { src := 6, tag := 9, port := 0, recipe := 1, base := nearBase, dest := nearBase, left := 480, total := 480, rhandle := 0,
    rinc := 0, mode := 0, ls := 0, slot := 0, more := true, sunk := none }

/-- `on` with curd banks in use on wheel 0. -/
def onMem : State := on.onWheel 0 (fun w => { w with bankList := List.range 256 })

def req0 (held : Bool) (b : BankId) : MemReq :=
  { id := ⟨0, 1, 0, 0, false⟩, bank := b, addr := 0, len := 32, data := none, held := held }

def holding (b : BankId) : State := onMem.onTiers (fun t => { t with requests := [req0 true b] })

def update0 : ViewUpdate := { bar := none, changes := [.capCeiling 7000], drain := none, post := none }

def drain0 (x : Scope) (absorbing : Bool) : Drain :=
  { scope := x, kind := .reset, begun := true, began := 0, deadline := 2000, absorbing := absorbing, requests := 0, granules := 0, tasks := 0,
    after := [] }

def draining (x : Scope) (absorbing : Bool) : State := on.onGate (fun g => { g with drains := [drain0 x absorbing] })

def atStage (n : Nat) : State := on.onLife (fun l => { l with state := .staging, stage := some n })

def rails0 : Stage2Result := { failedRails := [], badRows := [], badCols := [], badCores := [], badBanks := [] }
def tests0 : Stage5Result := { badRows := [], badCols := [], badCores := [] }
def links0 : Stage6Result :=
  { far := List.replicate 4 .none, hinge := List.replicate 32 train0, hostLink := some (16, 64), hostQualified := true,
    worstBer := 0 }

/-- A capture of the recipe's one tensor, pending or copied. -/
def capturing (done pendingIx : List Nat) : State :=
  let s := withRcp (fun r => { r with rindPending := pendingIx }) onRind
  { s with rind := { s.rind with captures := [{ recipe := 1, image := 4, done := done, firstPending := 0 }] } }

def point0 (mode : Nat) : InjPoint := { mode := mode, n := 2, ticks := 1, seq := 4 }

def injecting (mode : Nat) : State := on.onEvents (fun e => { e with permit := true, points := [(0x540, point0 mode)] })

/-- `on` with a cave segment of the recipe, filling. -/
def filling : State :=
  withRcp (fun r => { r with cave := { r.cave with mib := 64, segments := [
    { seg := 0, filling := true, prefetched := false, dirty := false, poisoned := false, used := 0 }] } }) on

def tracker0 : Tracker :=
  { next := some 0, up := true, lead := 1, hits := 0, stalls := 0, layer := 0, firstPage := 0, used := 0, step := 0,
    risen := false }

/-- A core of wheel 1 whose carry reads the curd slice of wheel 0, which drains. -/
def onDrained : State :=
  let s := (onCore { coreAt 0 0 0 with id := ⟨1, 0, 0⟩, carries := [carry0] } []).onWheel 0 (fun w => { w with bankList := List.range 256 })
  { s.onGate (fun g => { g with drains := [drain0 (.wheel 0) false] }) with
    recipes := s.recipes.map (fun r => { r with reqSlots := List.replicate 8 64 }) }

/-! ### A recipe image that admission accepts -/

/-- The bytes of fields, each an address, a number of bytes and a value, without the zero ones. -/
def cellsOf (l : List (Nat × Nat × Nat)) : Memory :=
  (l.map (fun f => (leBytes f.2.1 f.2.2).zipIdx.filterMap (fun p =>
    if p.1 = 0 then none else some (f.1 + p.2, p.1)))).flatten

/-- `on` with a recipe image at 0x10000 (one task without descriptors, one wheel, one owned extent, a stash of one page:
the fields of R361, R362, R171 and R230 at their offsets) and its page table, which maps the first GiB read-only (R141). -/
def withImage : State :=
  let b := 0x10000
  { on with near := cellsOf [(b, 4, 0x50434552), (b + 4, 2, 1), (b + 6, 1, 1), (b + 8, 4, 2370739644), (b + 16, 8, 77),
      (b + 24, 8, 704), (b + 32, 8, 0x20000), (b + 72, 8, 256), (b + 80, 4, 1), (b + 96, 8, 320), (b + 104, 8, 576),
      (b + 256, 8, 2 ^ 60), (b + 324, 2, 64), (b + 448, 8, 672), (b + 456, 4, 1), (b + 576, 8, 2 ^ 33), (b + 584, 4, 1),
      (b + 592, 8, nearBase + 2 ^ 33), (b + 600, 4, 1), (b + 604, 2, 1), (b + 608, 8, 2 ^ 33 + 2 ^ 21), (b + 647, 1, 3),
      (b + 656, 4, 1), (b + 672, 8, 2 ^ 33), (b + 680, 8, 2 ^ 22), (0x20000, 8, 0x21000), (0x20008, 4, 1), (0x21000, 8, 3)] }

/-- CRC-32C with each step evaluated before the next. -/
def crcStrict : List Byte → BitVec 32 → BitVec 32
  | [], c => c
  | b :: bs, c => if c.toNat < 2 ^ 32 then crcStrict bs (crcByte 0x82F63B78#32 c b) else c

theorem crc_strict (l : List Byte) : crc32c l = (~~~ (crcStrict l 0xFFFFFFFF#32)).toNat := by
  have h : ∀ (l : List Byte) (c : BitVec 32), crcStrict l c = l.foldl (crcByte 0x82F63B78#32) c := by
    intro l
    induction l with
    | nil => intro c; rfl
    | cons b bs ih => intro c; simp only [crcStrict, List.foldl_cons, if_pos c.isLt, ih]
  rw [crc32c, h]

def admitting : State := withEntry (entry 1 0 0 (leBytes 8 0x10000)) withImage
def theImage : Img := readImage (tookOf admitting) 0x10000
def theLeaves : List Leaf := (pageCheck (tookOf admitting) theImage).getD []
def theRecipe : Recipe := okOr rcp (listsCheck (tookOf admitting) theImage theLeaves)

theorem image_genuine : imageGenuine (tookOf admitting) theImage = true := by
  unfold imageGenuine
  rw [crc_strict]
  decide +kernel

theorem image_ok : imageCheck (tookOf admitting) (leAt (cmdOf admitting).entry 8 8) = .ok theRecipe := by
  rw [show leAt (cmdOf admitting).entry 8 8 = 0x10000 by decide +kernel]
  unfold imageCheck
  rw [show admitState (tookOf admitting) = none by decide +kernel]
  dsimp only
  have h : readImage (tookOf admitting) 0x10000 = theImage := rfl
  rw [h, if_neg (by decide +kernel), if_neg (by decide +kernel), if_neg (by simp [image_genuine])]
  rw [show pageCheck (tookOf admitting) theImage = some theLeaves from someOf (by decide +kernel)]
  exact okOf (by decide +kernel)

theorem gate_ok : gateCheck (applyPending (tookOf admitting)) theRecipe = none := by decide +kernel

theorem image_wf : withImage.near.wf = true := by decide +kernel

/-- A state with hot inlet water in the view, which the checks of the image do not look at. -/
def heat (s : State) : State := s.onGate (fun g => { g with view := { g.view with inletHot := true } })
theorem heat_walk (s : State) (b : Nat) : walkTable (heat s) b = walkTable s b := rfl
theorem heat_genuine (s : State) (i : Img) : imageGenuine (heat s) i = imageGenuine s i := rfl
theorem heat_page (s : State) (i : Img) : pageCheck (heat s) i = pageCheck s i := by unfold pageCheck; rw [heat_walk]; rfl
theorem heat_tables (s : State) (i : Img) (ls : List Leaf) : tablesCheck (heat s) i ls = tablesCheck s i ls := rfl
theorem heat_job (s : State) (i : Img) (r : Recipe) (ls : List Leaf) : jobCheck (heat s) i r ls = jobCheck s i r ls := rfl
theorem heat_capt (s : State) (i : Img) (r : Recipe) (ls : List Leaf) : captCheck (heat s) i r ls = captCheck s i r ls := rfl
theorem heat_lists (s : State) (i : Img) (ls : List Leaf) : listsCheck (heat s) i ls = listsCheck s i ls := by
  unfold listsCheck; simp only [heat_tables, heat_job, heat_capt]
theorem heat_image (s : State) (b : Nat) : imageCheck (heat s) b = imageCheck s b := by
  unfold imageCheck
  rw [show admitState (heat s) = admitState s from rfl, show readImage (heat s) b = readImage s b from rfl,
    show imagePlaced (heat s) b = imagePlaced s b from rfl]
  simp only [heat_genuine, heat_page, heat_lists]

theorem heat_took (s : State) : tookOf (heat s) = heat (tookOf s) := rfl
theorem heat_cmd (s : State) : cmdOf (heat s) = cmdOf s := rfl

/-- `admitting` with hot inlet water in the view: the gate refuses the image (R363 check 7). -/
def hot : State := heat admitting

theorem hot_image_ok : imageCheck (tookOf hot) (leAt (cmdOf hot).entry 8 8) = .ok theRecipe := by
  rw [show hot = heat admitting from rfl, heat_took, heat_cmd, heat_image]
  exact image_ok

theorem on_inv : Inv on :=
  ⟨⟨by decide +kernel, by decide +kernel, by decide +kernel, by decide +kernel, by decide +kernel, by decide +kernel⟩,
   ⟨by decide +kernel, by decide +kernel, by decide +kernel, by decide +kernel⟩,
   ⟨by decide +kernel, by decide +kernel, by decide +kernel⟩⟩

/-! ### Witnesses: for each statement, states and operands that meet the hypotheses of each of its clauses -/

theorem wit_StepRunsTheFrontCommand :
    (∃ (c : Instr) (cs : List Instr) (s : State), s.pending = c :: cs) ∧
    (∃ s : State, s.pending = []) :=
  ⟨⟨.stage3Spares, [], { on with pending := [.stage3Spares] }, rfl⟩,
   ⟨State.reset, rfl⟩⟩

theorem wit_StepKeepsTheInvariant :
    ∃ s t : State, Inv s ∧ step s = .next t :=
  ⟨on, _, on_inv, rfl⟩

theorem wit_StepKeepsFactoryData :
    ∃ s t : State, Inv s ∧ step s = .next t :=
  ⟨on, _, on_inv, rfl⟩

theorem wit_QueueRegistersAnswer :
    (∃ (s : State) (q _tail : Nat), s.host.linkUp = true ∧ s.host.hostPower = .d0 ∧ q < 16 ∧ s.host.rdy = false) ∧
    (∃ (s : State) (q tail : Nat), s.host.linkUp = true ∧ s.host.hostPower = .d0 ∧ q < 16 ∧ s.host.rdy = true ∧
    (s.queue q).en = true ∧ tail < (s.queue q).size) ∧
    (∃ (s : State) (q index : Nat), s.host.linkUp = true ∧ s.host.hostPower = .d0 ∧ q < 16 ∧ (s.queue q).en = true
    ∧ index < (s.queue q).size ∧ (s.queue q).held = [] ∧ index ≠ (s.queue q).cqHead ∧ (index + (s.queue q).size -
    (s.queue q).cqHead) % (s.queue q).size ≤ ((s.queue q).cqTail + (s.queue q).size - (s.queue q).cqHead) %
    (s.queue q).size) ∧
    (∃ (s : State) (q index : Nat), s.host.linkUp = true ∧ s.host.hostPower = .d0 ∧ q < 16 ∧ (s.queue q).en = true
    ∧ index < (s.queue q).size ∧ (index + (s.queue q).size - (s.queue q).cqHead) % (s.queue q).size ≤ ((s.queue
    q).cqTail + (s.queue q).size - (s.queue q).cqHead) % (s.queue q).size) ∧
    (∃ (s : State) (q : Nat) (v : Word), s.host.linkUp = true ∧ s.host.hostPower = .d0 ∧ q < 16 ∧ (s.queue q).en =
    false ∧ v.getLsbD 0 = true ∧ bitsOf v.toNat 63 48 ≠ 0 ∧ bitsOf v.toNat 13 1 ∈ [16, 32, 64, 128, 256, 512, 1024,
    2048, 4096] ∧ bitsOf v.toNat 31 22 = 0 ∧ bitsOf v.toNat 15 14 = 0) ∧
    (∃ (s : State) (q : Nat) (v : Word), s.host.linkUp = true ∧ s.host.hostPower = .d0 ∧ q < 16 ∧ (s.queue q).en =
    false ∧ v.getLsbD 0 = true ∧ bitsOf v.toNat 63 48 = 0) ∧
    (∃ (s : State) (q : Nat) (v : Word), s.host.linkUp = true ∧ s.host.hostPower = .d0 ∧ q < 16 ∧ (s.queue q).en =
    false ∧ v.getLsbD 0 = false) ∧
    (∃ (s : State) (q : Nat) (v : Word), s.host.linkUp = true ∧ s.host.hostPower = .d0 ∧ q < 16 ∧ (s.queue q).en =
    true ∧ v.getLsbD 0 = false ∧ s.host.cmds.all (fun c => c.q != q) = true ∧ (s.queue q).held = [] ∧ (s.queue
    q).cqHead = (s.queue q).cqTail ∧ (s.queue q).sqHead = (s.queue q).sqTail) ∧
    (∃ (s : State) (q : Nat) (v : Word), (s.queue q).en = true ∧ v.getLsbD 0 = true) :=
  ⟨⟨on.onHost (fun h => { h with rdy := false }), 15, 3, by decide +kernel⟩,
   ⟨on, 0, 15, by decide +kernel⟩,
   ⟨on.onQueue 0 (fun x => { x with cqTail := 1 }), 0, 1, by decide +kernel⟩,
   ⟨on, 0, 0, by decide +kernel⟩,
   ⟨on, 15, 0x0001000000000021#64, by decide +kernel⟩,
   ⟨on, 15, 1#64, by decide +kernel⟩,
   ⟨on, 15, 0x0001000000000020#64, by decide +kernel⟩,
   ⟨on, 0, 0#64, by decide +kernel⟩,
   ⟨on, 0, 1#64, by decide +kernel⟩⟩

theorem wit_RingTimersAnswer :
    (∃ (s : State) (q t : Nat), (s.queue q).fullSince = some t ∧ t + (s.queue q).drain * 100000 < s.now ∧ (s.queue
    q).stallPosted = false) ∧
    (∃ (s : State) (q t : Nat), (s.queue q).firstUnsignalled = some t ∧ (s.queue q).itime ≠ 0 ∧ t + (s.queue
    q).itime * 1000 ≤ s.now) ∧
    (∃ (s : State) (t : Nat), s.events.en = true ∧ s.events.firstUnsignalled = some t ∧ bitsOf s.events.cfg.toNat
    31 24 ≠ 0 ∧ t + bitsOf s.events.cfg.toNat 31 24 * 1000 ≤ s.now) :=
  ⟨⟨on.onQueue 0 (fun x => { x with fullSince := some 0 }), 0, 0, by decide +kernel⟩,
   ⟨on.onQueue 15 (fun x => { x with firstUnsignalled := some 0, itime := 1 }), 15, 0, by decide +kernel⟩,
   ⟨on.onEvents (fun e => { e with en := true, cfg := 0x0000000C01000001#64, firstUnsignalled := some 0 }), 0, by decide +kernel⟩⟩

theorem wit_HostWindowAnswers :
    (∃ (s : State) (v : Word), s.host.linkUp = true ∧ s.host.hostPower = .d0 ∧ v.toNat / 2 ^ 30 * 2 ^ 30 + 2 ^ 36 ≤
    hostSpace s) ∧
    (∃ (s : State) (v : Word), hostSpace s < v.toNat / 2 ^ 30 * 2 ^ 30 + 2 ^ 36) ∧
    (∃ (s : State) (off n : Nat), s.host.linkUp = true ∧ s.host.hostPower = .d0 ∧ off + n ≤ 2 ^ 36 ∧
    s.host.bar2Base.toNat + off + n ≤ hostSpace s) ∧
    (∃ (s : State) (off : Nat) (bs : List Byte), s.host.linkUp = true ∧ s.host.hostPower = .d0 ∧ s.near.wf = true ∧
    off + bs.length ≤ 2 ^ 36 ∧ s.host.bar2Base.toNat + off + bs.length ≤ hostSpace s) ∧
    (∃ (s : State) (_v : Word), s.host.linkUp = true ∧ s.host.hostPower = .d0 ∧ s.events.en = false) ∧
    (∃ (s : State) (off : Nat) (bs : List Byte), s.host.linkUp = true ∧ s.host.hostPower = .d0 ∧ 0x100000 ≤ off ∧
    off + bs.length ≤ 0x900000) ∧
    (∃ (_s : State) (off : Nat) (_bs : List Byte), 0x900000 ≤ off) ∧
    (∃ (s : State) (_v : Word), s.host.linkUp = true ∧ s.host.hostPower = .d0 ∧ s.warden.mbCfg.getLsbD 0 = true ∧
    ((s.life.state ≠ .failed ∨ s.host.qualified = true)) ∧ s.warden.up = true) ∧
    (∃ (s : State) (_v : Word), s.host.linkUp = true ∧ s.host.hostPower = .d0 ∧ s.warden.mbCfg.getLsbD 0 = true ∧
    ((s.life.state ≠ .failed ∨ s.host.qualified = true)) ∧ s.warden.up = false) ∧
    (∃ (s : State) (_v : Word), s.host.linkUp = true ∧ s.host.hostPower = .d0) :=
  ⟨⟨on, 0#64, by decide +kernel⟩,
   ⟨State.reset, 0#64, by decide +kernel⟩,
   ⟨on, 2 ^ 36 - 8, 8, by decide +kernel⟩,
   ⟨on, 2 ^ 36 - 1, [1#8], by decide +kernel⟩,
   ⟨on, 0#64, by decide +kernel⟩,
   ⟨on, 0x8FFFFF, [1#8], by decide +kernel⟩,
   ⟨on, 0x900000, [1#8], by decide +kernel⟩,
   ⟨on, 5#64, by decide +kernel⟩,
   ⟨on.onWarden (fun w => { w with up := false }), 5#64, by decide +kernel⟩,
   ⟨on, 63#64, by decide +kernel⟩⟩

theorem wit_EventTrayAnswers :
    (∃ (s : State) (v : Word), s.host.linkUp = true ∧ s.host.hostPower = .d0 ∧ s.events.en = false ∧ v.getLsbD 0 =
    true ∧ etEnableOk s v.toNat = true ∧ s.events.backlog = []) ∧
    (∃ (s : State) (v : Word), s.host.linkUp = true ∧ s.host.hostPower = .d0 ∧ s.events.en = false ∧ v.getLsbD 0 =
    true ∧ etEnableOk s v.toNat = false) ∧
    (∃ (s : State) (v : Word), s.host.linkUp = true ∧ s.host.hostPower = .d0 ∧ s.events.full = false ∧ v.toNat % 2
    ^ 20 < etSize s.events ∧ (v.toNat % 2 ^ 20 + etSize s.events - s.events.head) % etSize s.events ≤
    (s.events.tail + etSize s.events - s.events.head) % etSize s.events) ∧
    (∃ (s : State) (r : EventRec) (rs : List EventRec), s.events.transit = r :: rs) :=
  ⟨⟨on, 0x0000000800000001#64, by decide +kernel⟩,
   ⟨on, 0x0000000700000001#64, by decide +kernel⟩,
   ⟨on.onEvents (fun e => { e with en := true, cfg := 0x0000000800000001#64, tail := 3 }), 3#64, by decide +kernel⟩,
   ⟨on.onEvents (fun e => { e with transit := [ev0] }), ev0, [], by decide +kernel⟩⟩

theorem wit_TakingAnEntry :
    ∃ (s : State) (opc : Nat) (c : HostCmd) (t : State), Taken s opc c t :=
  ⟨withEntry (entry 7 0 0 []) on, 7, _, _, taken (by decide +kernel)⟩

theorem wit_QueueCommandsAnswer :
    (∃ (s : State) (c : HostCmd) (t : State), Taken s 0 c t) ∧
    (∃ (s : State) (c : HostCmd) (t : State) (code : Nat), heldAdmission s = none ∧ Taken s 1 c t ∧
    t.life.maintenanceWaiting = false ∧ t.warden.up = true ∧ imageCheck t (leAt c.entry 8 8) = .error code) ∧
    (∃ (s : State) (c : HostCmd) (t : State) (r : Recipe), heldAdmission s = none ∧ Taken s 1 c t ∧
    t.life.maintenanceWaiting = false ∧ t.warden.up = true ∧ imageCheck t (leAt c.entry 8 8) = .ok r ∧ gateCheck
    (applyPending t) r = none) ∧
    (∃ (s : State) (c : HostCmd) (t : State) (r : Recipe) (code : Nat), heldAdmission s = none ∧ Taken s 1 c t ∧
    t.life.maintenanceWaiting = false ∧ t.warden.up = true ∧ imageCheck t (leAt c.entry 8 8) = .ok r ∧ gateCheck
    (applyPending t) r = some code) ∧
    (∃ (s : State) (c : HostCmd) (t : State), heldAdmission s = none ∧ Taken s 1 c t ∧ ((t.life.maintenanceWaiting
    = true ∨ t.warden.up = false))) ∧
    (∃ (s : State) (c : HostCmd), heldAdmission s = some c) ∧
    (∃ (s : State) (c : HostCmd) (t : State), Taken s 7 c t) ∧
    (∃ (s : State) (c : HostCmd) (t : State) (r : Recipe), Taken s 5 c t ∧ t.serving = true ∧ t.recipe? c.recipe =
    some r ∧ retiring t c.recipe = false ∧ t.warden.stored.rindEnable = true ∧ r.capt ≠ []) ∧
    (∃ (s : State) (c : HostCmd) (t : State) (_e : Option Nat) (code : Nat), Taken s 4 c t ∧ copyRefusal t c = some
    code) ∧
    (∃ (s : State) (c : HostCmd) (t : State) (_e : Option Nat), Taken s 4 c t ∧ copyRefusal t c = none ∧
    (copyEngineFree t).isSome = true ∧ t.host.cmds.any (fun d => d.opc == 4 && !d.begun) = false) ∧
    (∃ (s : State) (c : HostCmd) (t : State) (_e : Option Nat), Taken s 4 c t ∧ copyRefusal t c = none ∧
    copyEngineFree t = none) ∧
    (∃ (s : State) (c : HostCmd) (_e : Option Nat), s.host.cmds.find? (fun d => d.opc == 4 && !d.begun) = some c ∧
    (copyEngineFree s).isSome = true) ∧
    (∃ (s : State) (c : HostCmd) (t : State), Taken s 8 c t ∧ leAt c.entry 9 1 = 0) ∧
    (∃ (s : State) (c : HostCmd) (t u : State), Taken s 8 c t ∧ leAt c.entry 9 1 = 1 ∧ t.host.cmds.filter (fun d =>
    d.q == leAt c.entry 8 1 && !d.begun && leAt c.entry 8 1 != c.q) = [] ∧ u = flushEntries (t.queue (leAt c.entry
    8 1)).size (leAt c.entry 8 1) t) ∧
    (∃ (s : State) (c d : HostCmd) (t u : State), Taken s 8 c t ∧ leAt c.entry 9 1 = 1 ∧ t.host.cmds.filter (fun d
    => d.q == leAt c.entry 8 1 && !d.begun && leAt c.entry 8 1 != c.q) = [d] ∧ hasEntry ((finishOne d
    { status := 4, recipe := d.recipe } t).queue (leAt c.entry 8 1)) = false ∧ u = finishOne d
    { status := 4, recipe := d.recipe } t) :=
  ⟨⟨withEntry (entry 9 0 0 []) on, _, _, taken (by decide +kernel)⟩,
   ⟨withEntry (entry 1 0 0 []) on, _, _, 0x613, by decide +kernel, taken (by decide +kernel), by decide +kernel⟩,
   ⟨admitting, _, _, theRecipe, by decide +kernel, taken (by decide +kernel), by decide +kernel, by decide +kernel, image_ok, gate_ok⟩,
   ⟨hot, _, _, theRecipe, 0x61A, by decide +kernel, taken (by decide +kernel), by decide +kernel, by decide +kernel, hot_image_ok, by decide +kernel⟩,
   ⟨withEntry (entry 1 0 0 []) (on.onLife (fun l => { l with maintenanceWaiting := true })), _, _, by decide +kernel, taken (by decide +kernel), by decide +kernel⟩,
   ⟨on.onHost (fun h => { h with cmds := [cmd 1 false (entry 1 0 0 [])] }), cmd 1 false (entry 1 0 0 []), by decide +kernel⟩,
   ⟨withEntry (entry 7 0 0 []) on, _, _, taken (by decide +kernel)⟩,
   ⟨withEntry (entry 5 0 1 []) onRind, _, _, rcp, taken (by decide +kernel), by decide +kernel⟩,
   ⟨withEntry (entry 4 0 0 []) on, _, _, none, 0x618, taken (by decide +kernel), by decide +kernel⟩,
   ⟨withEntry (entry 4 0 0 (copyOps 64)) on, _, _, none, taken (by decide +kernel), by decide +kernel⟩,
   ⟨withEntry (entry 4 0 0 (copyOps 64)) (on.onHost (fun h => { h with copyEngines := List.replicate 4 (10 ^ 13) })), _, _, none, taken (by decide +kernel), by decide +kernel⟩,
   ⟨on.onHost (fun h => { h with cmds := [cmd 4 false (entry 4 0 0 (copyOps 64))] }), cmd 4 false (entry 4 0 0 (copyOps 64)), none, by decide +kernel⟩,
   ⟨withEntry (entry 8 0 0 []) on, _, _, taken (by decide +kernel), by decide +kernel⟩,
   ⟨withEntry (entry 8 0 0 [0#8, 1#8]) on, _, _, _, taken (by decide +kernel), by decide +kernel, by decide +kernel, rfl⟩,
   ⟨withEntry (entry 8 0 0 [1#8, 1#8]) (on.onHost (fun h => { h with cmds := [{ cmd 4 false (entry 4 0 0 (copyOps 64)) with q := 1 }] })), _, { cmd 4 false (entry 4 0 0 (copyOps 64)) with q := 1 }, _, _, taken (by decide +kernel), by decide +kernel, by decide +kernel, by decide +kernel, rfl⟩⟩

theorem wit_StepCommandsAnswer :
    (∃ (s : State) (c : HostCmd) (t : State) (r : Recipe), Taken s 2 c t ∧ t.serving = true ∧ t.recipe? c.recipe =
    some r ∧ retiring t c.recipe = false ∧ startHeld t r c = false ∧ startRefusal t r (bitOf (leAt c.entry 1 1) 0)
    = none ∧ r.halted = none) ∧
    (∃ (s : State) (c : HostCmd) (t : State) (r : Recipe), Taken s 2 c t ∧ t.serving = true ∧ t.recipe? c.recipe =
    some r ∧ retiring t c.recipe = false ∧ r.running.isSome = true) ∧
    (∃ (s : State) (c : HostCmd) (t : State), Taken s 2 c t ∧ t.serving = false) ∧
    (∃ (s : State) (c : HostCmd) (t : State), Taken s 2 c t ∧ t.serving = true ∧ t.recipe? c.recipe = none) ∧
    (∃ (s : State) (c : HostCmd) (t : State) (r : Recipe) (code : Nat), Taken s 2 c t ∧ t.serving = true ∧
    t.recipe? c.recipe = some r ∧ retiring t c.recipe = false ∧ startHeld t r c = false ∧ startRefusal t r (bitOf
    (leAt c.entry 1 1) 0) = some code) ∧
    (∃ (s : State) (c : HostCmd) (t : State) (r : Recipe), Taken s 2 c t ∧ t.serving = true ∧ t.recipe? c.recipe =
    some r ∧ retiring t c.recipe = true) ∧
    (∃ (s : State) (c : HostCmd) (t : State) (r : Recipe) (o : Nat × Bool), Taken s 2 c t ∧ t.serving = true ∧
    t.recipe? c.recipe = some r ∧ retiring t c.recipe = false ∧ startHeld t r c = false ∧ startRefusal t r (bitOf
    (leAt c.entry 1 1) 0) = none ∧ r.halted = some o) ∧
    (∃ (s : State) (c : HostCmd) (h : Nat) (r : Recipe), s.life.maintenanceWaiting = false ∧ s.host.cmds.find? (fun
    d => d.opc == 2 && d.recipe == h && !d.begun) = some c ∧ c.recipe = h ∧ s.recipe? h = some r ∧ startHeld s r c
    = false ∧ startRefusal s r (bitOf (leAt c.entry 1 1) 0) = none ∧ r.halted = none) ∧
    (∃ (s : State) (c : HostCmd) (t : State) (r : Recipe), Taken s 3 c t ∧ t.recipe? c.recipe = some r ∧
    t.host.cmds.any (fun d => d.opc == 3 && d.recipe == c.recipe && d.order != c.order) = false) ∧
    (∃ (s : State) (c : HostCmd) (t : State), Taken s 3 c t ∧ t.recipe? c.recipe = none) ∧
    (∃ (s : State) (c : HostCmd) (t : State) (r : Recipe) (x : RestoreRun) (n : Nand), Taken s 6 c t ∧ t.serving =
    true ∧ t.recipe? c.recipe = some r ∧ retiring t c.recipe = false ∧ t.warden.stored.rindEnable = true ∧ r.capt ≠
    [] ∧ restoreStart t r (leAt c.entry 8 8) (.command c.q c.cid) (n == .uncorrectable) = .ok x) ∧
    (∃ (s : State) (h : Nat) (r : Recipe) (x : RestoreRun) (i : Image) (j : JournalRec), s.recipe? h = some r ∧
    r.restoring = some x ∧ s.image? x.image = some i ∧ x.replaying = false ∧ r.running = none ∧ replanWaits s r =
    false ∧ x.nandBad = false ∧ journalOf (writeBody h r i false s) i.crc i.stamp (i.step + 1) = some j) :=
  ⟨⟨withEntry (entry 2 0 1 []) (withRcp id on), _, _, rcp, taken (by decide +kernel), by decide +kernel⟩,
   ⟨withEntry (entry 2 0 1 []) (withRcp (running 0 []) on), _, _, running 0 [] rcp, taken (by decide +kernel), by decide +kernel⟩,
   ⟨withEntry (entry 2 0 1 []) (on.onLife (fun l => { l with state := .off })), _, _, taken (by decide +kernel), by decide +kernel⟩,
   ⟨withEntry (entry 2 0 1 []) on, _, _, taken (by decide +kernel), by decide +kernel⟩,
   ⟨withEntry (entry 2 0 1 []) (withRcp (fun r => { r with bar := some 0x608 }) on), _, _, { rcp with bar := some 0x608 }, 0x608, taken (by decide +kernel), by decide +kernel⟩,
   ⟨withEntry (entry 2 0 1 []) (withRcp id (on.onHost (fun h => { h with cmds := [cmd 3 true (entry 3 0 1 [])] }))), _, _, rcp, taken (by decide +kernel), by decide +kernel⟩,
   ⟨withEntry (entry 2 1 1 []) (withRcp (fun r => { r with halted := some (0, false) }) on), _, _, { rcp with halted := some (0, false) }, (0, false), taken (by decide +kernel), by decide +kernel⟩,
   ⟨(withRcp id on).onHost (fun h => { h with cmds := [cmd 2 false (entry 2 0 1 [])] }), cmd 2 false (entry 2 0 1 []), 1, rcp, by decide +kernel⟩,
   ⟨withEntry (entry 3 0 1 []) (withRcp id on), _, _, rcp, taken (by decide +kernel), by decide +kernel⟩,
   ⟨withEntry (entry 3 0 1 []) on, _, _, taken (by decide +kernel), by decide +kernel⟩,
   ⟨withEntry (entry 6 0 1 []) onRind, _, _, rcp, _, .ok, taken (by decide +kernel), by decide +kernel, by decide +kernel, by decide +kernel, by decide +kernel, by decide +kernel, okOf (d := restore0) (by decide +kernel)⟩,
   ⟨withRcp (fun r => { r with restoring := some restore0 }) onRind, 1, { rcp with restoring := some restore0 }, restore0, img0, jrn0, by decide +kernel⟩⟩

theorem wit_RequestsAreCheckedBeforeTheirEffect :
    ∃ (i : Instr) (src : OapSrc) (row : Row), oapOf i = some (src, row) :=
  ⟨.read .mailbox, .mailbox, .read, rfl⟩

theorem wit_ReadsAndSubscriptionsAnswer :
    (∃ (s : State) (src : OapSrc) (r : Req) (f : Info) (t : State), Accepted s src .read r f t) ∧
    (∃ (s : State) (src : OapSrc) (r : Req) (f : Info) (t : State), Accepted s src .alertRead r f t) ∧
    (∃ (s : State) (src : OapSrc) (r : Req) (f : Info) (t : State), Accepted s src .probe r f t) ∧
    (∃ (s : State) (src : OapSrc) (r : Req) (t : State) (f : Info), FrameTaken s src .execute r t ∧ r.ver = 1 ∧
    bitsOf r.flags 7 3 = 0 ∧ t.warden.run = none ∧ objInfo t r.obj = some f ∧ f.acc ≠ .cmd) ∧
    (∃ (s : State) (src : OapSrc) (r : Req) (f : Info) (t : State), Accepted s src .subscribe r f t ∧ beAt r.pay 4
    4 ≠ 0 ∧ t.warden.subs = []) ∧
    (∃ (s : State) (k : Nat) (x : Sub), s.warden.subs[k]? = some x ∧ s.power.aux = true ∧ s.warden.up = true ∧
    x.period ≠ 0 ∧ x.lastSent + x.period * 10 ^ 6 ≤ s.now) ∧
    (∃ (s : State) (k : Nat) (x : Sub), s.warden.subs[k]? = some x ∧ x.since + x.lifetime * 10 ^ 9 ≤ s.now) ∧
    (∃ (s : State) (src : OapSrc) (p : Peer) (b : List Byte), frameOf s src = some (p, b) ∧ awake s = true ∧
    frameBad b = true) :=
  ⟨⟨on, _, _, _, _, accepted (s := (on)) (op := 1) (obj := od 0 4 0) (pay := []) (by decide +kernel) (by decide +kernel)⟩,
   ⟨on, _, _, _, _, accepted (s := (on)) (op := 1) (obj := od 0x70 1 0) (pay := []) (by decide +kernel) (by decide +kernel)⟩,
   ⟨on, _, _, _, _, accepted (s := (on)) (op := 4) (obj := 0) (pay := []) (by decide +kernel) (by decide +kernel)⟩,
   ⟨on, _, _, _, { ty := .u16, acc := .ro, len := 1, lo := 0, hi := 0 }, frameTaken (s := on) (op := 3) (obj := od 0 4 0) (pay := []) (by decide +kernel), by decide +kernel⟩,
   ⟨on, _, _, _, _, accepted (s := (on)) (op := 6) (obj := od 1 0 0) (pay := [0#8, 0#8, 0#8, 0#8, 0#8, 0#8, 0#8, 1#8]) (by decide +kernel) (by decide +kernel), by decide +kernel⟩,
   ⟨on.onWarden (fun w => { w with subs := [sub0] }), 0, sub0, by decide +kernel⟩,
   ⟨on.onWarden (fun w => { w with subs := [sub0] }), 0, sub0, by decide +kernel⟩,
   ⟨on, .field 1 2 0 [0#8], _, _, rfl, by decide +kernel⟩⟩

theorem wit_BlockTransfersAnswer :
    (∃ (s : State) (src : OapSrc) (r : Req) (f : Info) (t : State), Accepted s src .blockBegin r f t ∧ isRoutes
    r.obj = true ∧ totalOk r.obj (beAt r.pay 1 4) = true ∧ t.warden.sessions = []) ∧
    (∃ (s : State) (src : OapSrc) (r : Req) (f : Info) (t : State) (x : Session), Accepted s src .blockData r f t ∧
    t.warden.sessions = [x] ∧ x.obj = r.obj ∧ beAt r.pay 1 4 = x.data.length) ∧
    (∃ (s : State) (src : OapSrc) (r : Req) (f : Info) (t : State) (x : Session), Accepted s src .blockEnd r f t ∧
    sessionOf t r.obj = some x ∧ (x.data.length ≠ x.total ∨ crc32c x.data ≠ beAt r.pay 1 4)) ∧
    (∃ (s : State) (src : OapSrc) (r : Req) (f : Info) (t : State) (x : Session), Accepted s src .blockEnd r f t ∧
    sessionOf t r.obj = some x ∧ x.data.length = x.total ∧ crc32c x.data = beAt r.pay 1 4 ∧ isRoutes r.obj = true) ∧
    (∃ (s : State) (obj : Nat) (x : Session), sessionOf s obj = some x ∧ s.warden.up = true ∧ x.lastTime + 60 * 10
    ^ 9 ≤ s.now) :=
  ⟨⟨on, _, _, _, _, accepted (s := (on)) (op := 7) (obj := od 0x22 0x101 0) (pay := [0#8, 0#8, 0#8, 0x80#8, 0#8]) (by decide +kernel) (by decide +kernel), by decide +kernel⟩,
   ⟨on.onWarden (fun w => { w with sessions := [sess0] }), _, _, _, _, sess0, accepted (s := (on.onWarden (fun w => { w with sessions := [sess0] }))) (op := 7) (obj := od 0x22 0x101 0) (pay := [1#8, 0#8, 0#8, 0#8, 0#8, 0xAA#8]) (by decide +kernel) (by decide +kernel), by decide +kernel⟩,
   ⟨on.onWarden (fun w => { w with sessions := [{ sess0 with total := 1 }] }), _, _, _, _, { sess0 with total := 1 }, accepted (s := (on.onWarden (fun w => { w with sessions := [{ sess0 with total := 1 }] }))) (op := 7) (obj := od 0x22 0x101 0) (pay := [2#8, 0#8, 0#8, 0#8, 0#8]) (by decide +kernel) (by decide +kernel), by decide +kernel⟩,
   ⟨on.onWarden (fun w => { w with sessions := [sess0] }), _, _, _, _, sess0, accepted (s := (on.onWarden (fun w => { w with sessions := [sess0] }))) (op := 7) (obj := od 0x22 0x101 0) (pay := [2#8, 0#8, 0#8, 0#8, 0#8]) (by decide +kernel) (by decide +kernel), by decide +kernel⟩,
   ⟨on.onWarden (fun w => { w with sessions := [sess0] }), od 0x22 0x101 0, sess0, by decide +kernel⟩⟩

theorem wit_SettingsAnswer :
    (∃ (s : State) (src : OapSrc) (r : Req) (f : Info) (t : State), Accepted s src .write r f t ∧ groupOf r.obj =
    0x11) ∧
    (∃ (s : State) (src : OapSrc) (r : Req) (f : Info) (t : State), Accepted s src .cap r f t ∧ 4000 ≤ beAt r.pay 0
    r.pay.length ∧ beAt r.pay 0 r.pay.length ≤ 9000) ∧
    (∃ (s : State) (src : OapSrc) (r : Req) (f : Info) (t : State), Accepted s src .cap r f t ∧ (beAt r.pay 0
    r.pay.length < 4000 ∨ 9000 < beAt r.pay 0 r.pay.length)) ∧
    (∃ (s : State) (src : OapSrc) (r : Req) (f : Info) (t : State), Accepted s src .window r f t ∧ 1 ≤ beAt r.pay 0
    r.pay.length ∧ beAt r.pay 0 r.pay.length ≤ 10) ∧
    (∃ (s : State) (src : OapSrc) (r : Req) (f : Info) (t : State), Accepted s src .permit r f t ∧ r.pay = [1#8]) ∧
    (∃ (s : State) (src : OapSrc) (r : Req) (f : Info) (t : State), Accepted s src .permit r f t ∧ r.pay = [0#8]) ∧
    (∃ (s : State) (src : OapSrc) (r : Req) (f : Info) (t : State), Accepted s src .point r f t ∧ beAt r.pay 0
    r.pay.length ≠ 0 ∧ t.events.permit = true) ∧
    (∃ (s : State) (src : OapSrc) (r : Req) (f : Info) (t : State), Accepted s src .point r f t ∧ beAt r.pay 0
    r.pay.length ≠ 0 ∧ t.events.permit = false) ∧
    (∃ (s : State) (src : OapSrc) (r : Req) (f : Info) (t : State), Accepted s src .detCfg r f t) ∧
    (∃ (s : State) (src : OapSrc) (r : Req) (f : Info) (t : State), Accepted s src .route r f t ∧ hingeInUse t =
    true) ∧
    (∃ (s : State) (src : OapSrc) (r : Req) (f : Info) (t : State), Accepted s src .route r f t ∧ hingeInUse t =
    false ∧ routesOk t none (putRoute t.warden.stored.routes (indexOf r.obj) (routeBits (beAt r.pay 0
    r.pay.length))) = true) ∧
    (∃ (s : State) (src : OapSrc) (r : Req) (f : Info) (t : State), Accepted s src .region r f t ∧ itemOf r.obj =
    0x030 ∧ regionsReach t (beAt r.pay 0 r.pay.length) t.warden.stored.devGiB = false) ∧
    (∃ (s : State) (src : OapSrc) (r : Req) (f : Info) (t : State), Accepted s src .region r f t ∧ itemOf r.obj =
    0x031 ∧ regionsReach t t.warden.stored.caveGiB (beAt r.pay 0 r.pay.length) = true) ∧
    (∃ (s : State) (src : OapSrc) (r : Req) (f : Info) (t : State) (w : Nat), Accepted s src .vatMode r f t ∧ w < 8
    ∧ itemOf r.obj = 0x102 + 0x10 * w) :=
  ⟨⟨on, _, _, _, _, accepted (s := (on)) (op := 2) (obj := od 0x11 0x011 0) (pay := [95#8]) (by decide +kernel) (by decide +kernel), by decide +kernel⟩,
   ⟨on, _, _, _, _, accepted (s := (on)) (op := 2) (obj := od 0x10 0x010 0) (pay := [0#8, 0#8, 0x0F#8, 0xA0#8]) (by decide +kernel) (by decide +kernel), by decide +kernel⟩,
   ⟨on, _, _, _, _, accepted (s := (on)) (op := 2) (obj := od 0x10 0x010 0) (pay := [0#8, 0#8, 0x23#8, 0x29#8]) (by decide +kernel) (by decide +kernel), by decide +kernel⟩,
   ⟨on, _, _, _, _, accepted (s := (on)) (op := 2) (obj := od 0x10 0x011 0) (pay := [0#8, 0#8, 0#8, 10#8]) (by decide +kernel) (by decide +kernel), by decide +kernel⟩,
   ⟨on, _, _, _, _, accepted (s := (on)) (op := 2) (obj := od 0x60 0 0) (pay := [1#8]) (by decide +kernel) (by decide +kernel), by decide +kernel⟩,
   ⟨on, _, _, _, _, accepted (s := (on)) (op := 2) (obj := od 0x60 0 0) (pay := [0#8]) (by decide +kernel) (by decide +kernel), by decide +kernel⟩,
   ⟨on.onEvents (fun e => { e with permit := true }), _, _, _, _, accepted (s := (on.onEvents (fun e => { e with permit := true }))) (op := 2) (obj := od 0x61 0x540 0) (pay := [0#8, 0#8, 0#8, 1#8]) (by decide +kernel) (by decide +kernel), by decide +kernel⟩,
   ⟨on, _, _, _, _, accepted (s := (on)) (op := 2) (obj := od 0x61 0x540 0) (pay := [0#8, 0#8, 0#8, 1#8]) (by decide +kernel) (by decide +kernel), by decide +kernel⟩,
   ⟨on, _, _, _, _, accepted (s := (on)) (op := 2) (obj := od 0x60 2 0x540) (pay := [0#8, 0#8, 0#8, 3#8]) (by decide +kernel) (by decide +kernel)⟩,
   ⟨withRcp (fun r => { r with job := some job0 }) on, _, _, _, _, accepted (s := (withRcp (fun r => { r with job := some job0 }) on)) (op := 2) (obj := od 0x22 0x100 0) (pay := zeros 8) (by decide +kernel) (by decide +kernel), by decide +kernel⟩,
   ⟨on, _, _, _, _, accepted (s := (on)) (op := 2) (obj := od 0x22 0x100 0) (pay := zeros 8) (by decide +kernel) (by decide +kernel), by decide +kernel⟩,
   ⟨on, _, _, _, _, accepted (s := (on)) (op := 2) (obj := od 0x21 0x030 0) (pay := [0#8, 64#8]) (by decide +kernel) (by decide +kernel), by decide +kernel⟩,
   ⟨on.onGate (fun g => { g with view := { g.view with nearUsable := 2 ^ 35 } }), _, _, _, _, accepted (s := (on.onGate (fun g => { g with view := { g.view with nearUsable := 2 ^ 35 } }))) (op := 2) (obj := od 0x21 0x031 0) (pay := [64#8]) (by decide +kernel) (by decide +kernel), by decide +kernel⟩,
   ⟨on, _, _, _, _, 7, accepted (s := (on)) (op := 2) (obj := od 0x20 0x172 0) (pay := [1#8]) (by decide +kernel) (by decide +kernel), by decide +kernel⟩⟩

theorem wit_OwnerLockAnswers :
    (∃ (s : State) (src : OapSrc) (r : Req) (f : Info) (t : State), Accepted s src .lock r f t ∧ t.warden.lockout =
    none ∧ t.warden.stored.lock = false ∧ beAt r.pay 0 1 = 1) ∧
    (∃ (s : State) (src : OapSrc) (r : Req) (f : Info) (t : State), Accepted s src .lock r f t ∧ t.warden.lockout =
    none ∧ t.warden.stored.lock = true ∧ beAt r.pay 0 1 = 0 ∧ beAt r.pay 1 4 = t.warden.stored.ownerCode) ∧
    (∃ (s : State) (src : OapSrc) (r : Req) (f : Info) (t : State), Accepted s src .lock r f t ∧ t.warden.lockout =
    none ∧ t.warden.stored.lock = true ∧ beAt r.pay 1 4 ≠ t.warden.stored.ownerCode) ∧
    (∃ (s : State) (src : OapSrc) (r : Req) (f : Info) (t : State), Accepted s src .lock r f t ∧ t.warden.lockout =
    none ∧ t.warden.stored.lock = true ∧ beAt r.pay 1 4 ≠ t.warden.stored.ownerCode ∧ t.warden.wrongCodes = []) ∧
    (∃ (s : State) (src : OapSrc) (r : Req) (f : Info) (t : State) (e : Nat), Accepted s src .lock r f t ∧
    t.warden.lockout = some e ∧ t.now < e) ∧
    (∃ (s : State) (e : Nat), s.warden.lockout = some e ∧ e ≤ s.now) :=
  ⟨⟨on, _, _, _, _, accepted (s := (on)) (op := 2) (obj := od 0x50 0 0) (pay := [1#8, 0#8, 0#8, 0#8, 5#8]) (by decide +kernel) (by decide +kernel), by decide +kernel⟩,
   ⟨on.onStored (fun x => { x with lock := true, ownerCode := 5 }), _, _, _, _, accepted (s := (on.onStored (fun x => { x with lock := true, ownerCode := 5 }))) (op := 2) (obj := od 0x50 0 0) (pay := [0#8, 0#8, 0#8, 0#8, 5#8]) (by decide +kernel) (by decide +kernel), by decide +kernel⟩,
   ⟨on.onStored (fun x => { x with lock := true, ownerCode := 5 }), _, _, _, _, accepted (s := (on.onStored (fun x => { x with lock := true, ownerCode := 5 }))) (op := 2) (obj := od 0x50 0 0) (pay := [0#8, 0#8, 0#8, 0#8, 6#8]) (by decide +kernel) (by decide +kernel), by decide +kernel⟩,
   ⟨on.onStored (fun x => { x with lock := true, ownerCode := 5 }), _, _, _, _, accepted (s := (on.onStored (fun x => { x with lock := true, ownerCode := 5 }))) (op := 2) (obj := od 0x50 0 0) (pay := [0#8, 0#8, 0#8, 0#8, 6#8]) (by decide +kernel) (by decide +kernel), by decide +kernel⟩,
   ⟨on.onWarden (fun w => { w with lockout := some (10 ^ 12 + 1) }), _, _, _, _, 10 ^ 12 + 1, accepted (s := (on.onWarden (fun w => { w with lockout := some (10 ^ 12 + 1) }))) (op := 2) (obj := od 0x50 0 0) (pay := [0#8, 0#8, 0#8, 0#8, 6#8]) (by decide +kernel) (by decide +kernel), by decide +kernel⟩,
   ⟨on.onWarden (fun w => { w with lockout := some (10 ^ 12) }), 10 ^ 12, by decide +kernel⟩⟩

theorem wit_EnablesAnswer :
    (∃ (s : State) (src : OapSrc) (r : Req) (f : Info) (t : State), Accepted s src .devOn r f t ∧
    t.warden.stored.devEnable = false ∧ deviceRefusal t = none) ∧
    (∃ (s : State) (src : OapSrc) (r : Req) (f : Info) (t : State), Accepted s src .devOff r f t ∧ t.power.rails =
    false ∧ t.life.state = .staging) ∧
    (∃ (s : State) (src : OapSrc) (r : Req) (f : Info) (t : State) (_x : WheelScan), Accepted s src .wheelOn r f t ∧
    nth t.warden.stored.wheelEnable (wheelOf r.obj) true = true) ∧
    (∃ (s : State) (src : OapSrc) (r : Req) (f : Info) (t : State) (_x : WheelScan), Accepted s src .wheelOn r f t ∧
    nth t.warden.stored.wheelEnable (wheelOf r.obj) true = false ∧ t.serving = true ∧ underReset t (wheelOf r.obj)
    = false ∧ t.life.fencedWheels.contains (wheelOf r.obj) = false) ∧
    (∃ (s : State) (src : OapSrc) (r : Req) (f : Info) (t : State), Accepted s src .wheelOff r f t ∧ t.power.rails
    = false) ∧
    (∃ (s : State) (src : OapSrc) (r : Req) (f : Info) (t : State) (x : FarFound) (code : Nat), Accepted s src
    .farOn r f t ∧ farRefusal t (beAt r.pay 0 r.pay.length % 4) x = some code) ∧
    (∃ (s : State) (src : OapSrc) (r : Req) (f : Info) (t : State) (x : FarFound), Accepted s src .farOn r f t ∧
    farRefusal t (beAt r.pay 0 r.pay.length % 4) x = none ∧ t.power.rails = true ∧ beAt r.pay 0 r.pay.length % 4 ≠
    0 ∧ (farUsable (beAt r.pay 0 r.pay.length % 4) x).isSome = true) ∧
    (∃ (s : State) (src : OapSrc) (r : Req) (f : Info) (t : State), Accepted s src .farOff r f t ∧ (usableFar
    t).contains (farOf r.obj) = false) ∧
    (∃ (s : State) (src : OapSrc) (r : Req) (f : Info) (t : State) (_x : HingeTrain) (code : Nat), Accepted s src
    .portOn r f t ∧ nth t.warden.stored.portEnable (hingeOf r.obj) false = false ∧ hingeRefusal t (hingeOf r.obj) =
    some code) ∧
    (∃ (s : State) (src : OapSrc) (r : Req) (f : Info) (t : State) (_x : HingeTrain), Accepted s src .portOn r f t ∧
    nth t.warden.stored.portEnable (hingeOf r.obj) false = false ∧ hingeRefusal t (hingeOf r.obj) = none ∧
    linksTrain t = false) ∧
    (∃ (s : State) (src : OapSrc) (r : Req) (f : Info) (t : State), Accepted s src .portOff r f t ∧ (t.port
    (hingeOf r.obj)).state = .down) ∧
    (∃ (s : State) (src : OapSrc) (r : Req) (f : Info) (t : State), Accepted s src .rindOn r f t ∧
    t.warden.stored.rindEnable = false ∧ rindRefusal t = none) ∧
    (∃ (s : State) (src : OapSrc) (r : Req) (f : Info) (t : State), Accepted s src .rindOff r f t ∧
    t.warden.stored.rindEnable = false) ∧
    (∃ (s : State) (src : OapSrc) (r : Req) (f : Info) (t : State), Accepted s src .rindOff r f t ∧
    t.warden.stored.rindEnable = true) :=
  ⟨⟨readyToEnable, _, _, _, _, accepted (s := (readyToEnable)) (op := 2) (obj := od 0x20 0 0) (pay := [1#8]) (by decide +kernel) (by decide +kernel), by decide +kernel⟩,
   ⟨(on.onPower (fun p => { p with rails := false })).onLife (fun l => { l with state := .staging }), _, _, _, _, accepted (s := ((on.onPower (fun p => { p with rails := false })).onLife (fun l => { l with state := .staging }))) (op := 2) (obj := od 0x20 0 0) (pay := [0#8]) (by decide +kernel) (by decide +kernel), by decide +kernel⟩,
   ⟨on, _, _, _, _, scan0, accepted (s := (on)) (op := 2) (obj := od 0x20 0x170 0) (pay := [1#8]) (by decide +kernel) (by decide +kernel), by decide +kernel⟩,
   ⟨on.onStored (fun x => { x with wheelEnable := List.replicate 8 false }), _, _, _, _, scan0, accepted (s := (on.onStored (fun x => { x with wheelEnable := List.replicate 8 false }))) (op := 2) (obj := od 0x20 0x100 0) (pay := [1#8]) (by decide +kernel) (by decide +kernel), by decide +kernel⟩,
   ⟨on.onPower (fun p => { p with rails := false }), _, _, _, _, accepted (s := (on.onPower (fun p => { p with rails := false }))) (op := 2) (obj := od 0x20 0x100 0) (pay := [0#8]) (by decide +kernel) (by decide +kernel), by decide +kernel⟩,
   ⟨on, _, _, _, _, .none, 0x0202, accepted (s := (on)) (op := 2) (obj := od 0x21 0x130 0) (pay := [0x83#8]) (by decide +kernel) (by decide +kernel), by decide +kernel⟩,
   ⟨on, _, _, _, _, .cxl (2 ^ 40) false true, accepted (s := (on)) (op := 2) (obj := od 0x21 0x130 0) (pay := [0x81#8]) (by decide +kernel) (by decide +kernel), by decide +kernel⟩,
   ⟨on.onStored (fun x => { x with farEnable := List.replicate 4 true }), _, _, _, _, accepted (s := (on.onStored (fun x => { x with farEnable := List.replicate 4 true }))) (op := 2) (obj := od 0x21 0x100 0) (pay := [0#8]) (by decide +kernel) (by decide +kernel), by decide +kernel⟩,
   ⟨on, _, _, _, _, train0, 0x0301, accepted (s := (on)) (op := 2) (obj := od 0x22 31 0) (pay := [1#8]) (by decide +kernel) (by decide +kernel), by decide +kernel⟩,
   ⟨portable, _, _, _, _, train0, accepted (s := (portable)) (op := 2) (obj := od 0x22 0 0) (pay := [1#8]) (by decide +kernel) (by decide +kernel), by decide +kernel⟩,
   ⟨on, _, _, _, _, accepted (s := (on)) (op := 2) (obj := od 0x22 0 0) (pay := [0#8]) (by decide +kernel) (by decide +kernel), by decide +kernel⟩,
   ⟨onRind.onStored (fun x => { x with rindEnable := false }), _, _, _, _, accepted (s := (onRind.onStored (fun x => { x with rindEnable := false }))) (op := 2) (obj := od 0x40 0 0) (pay := [1#8]) (by decide +kernel) (by decide +kernel), by decide +kernel⟩,
   ⟨on, _, _, _, _, accepted (s := (on)) (op := 2) (obj := od 0x40 0 0) (pay := [0#8]) (by decide +kernel) (by decide +kernel), by decide +kernel⟩,
   ⟨onRind, _, _, _, _, accepted (s := (onRind)) (op := 2) (obj := od 0x40 0 0) (pay := [0#8]) (by decide +kernel) (by decide +kernel), by decide +kernel⟩⟩

theorem wit_MaintenanceAnswers :
    (∃ (s : State) (src : OapSrc) (r : Req) (f : Info) (t : State), Accepted s src .maintOn r f t ∧ t.life.state =
    .ready) ∧
    (∃ s : State, s.life.maintenanceWaiting = true ∧ s.serving = true ∧ stepRunning s = false) ∧
    (∃ (s : State) (src : OapSrc) (r : Req) (f : Info) (t : State), Accepted s src .maintOff r f t ∧ t.life.state =
    .maintenance) ∧
    (∃ (s : State) (src : OapSrc) (r : Req) (f : Info) (t : State), Accepted s src .maintOff r f t ∧ t.life.state ≠
    .maintenance) ∧
    (∃ (s : State) (n : Nat), s.flushing = some n ∧ flushOf s = od 0x7F 8 0) ∧
    (∃ (s : State) (n : Nat), s.flushing = some n ∧ flushOf s ≠ od 0x7F 8 0) :=
  ⟨⟨on, _, _, _, _, accepted (s := (on)) (op := 2) (obj := od 0x01 0x010 0) (pay := [1#8]) (by decide +kernel) (by decide +kernel), by decide +kernel⟩,
   ⟨on.onLife (fun l => { l with maintenanceWaiting := true }), by decide +kernel⟩,
   ⟨on.onLife (fun l => { l with state := .maintenance }), _, _, _, _, accepted (s := (on.onLife (fun l => { l with state := .maintenance }))) (op := 2) (obj := od 0x01 0x010 0) (pay := [0#8]) (by decide +kernel) (by decide +kernel), by decide +kernel⟩,
   ⟨on, _, _, _, _, accepted (s := (on)) (op := 2) (obj := od 0x01 0x010 0) (pay := [0#8]) (by decide +kernel) (by decide +kernel), by decide +kernel⟩,
   ⟨{ on.onWarden (fun w => { w with run := some { runOp0 with obj := od 0x7F 8 0 } }) with flushing := some 0 }, 0, by decide +kernel⟩,
   ⟨{ on with flushing := some 0 }, 0, by decide +kernel⟩⟩

theorem wit_OperationsAnswer :
    (∃ (s : State) (src : OapSrc) (r : Req) (f : Info) (t : State), Accepted s src .activate r f t ∧
    activateRefusal t = none) ∧
    (∃ (s : State) (src : OapSrc) (r : Req) (f : Info) (t : State) (code : Nat), Accepted s src .activate r f t ∧
    activateRefusal t = some code) ∧
    (∃ (s : State) (src : OapSrc) (r : Req) (f : Info) (t : State) (_x : List (Nat × WheelScan)), Accepted s src
    .replan r f t ∧ t.serving = true) ∧
    (∃ (s : State) (src : OapSrc) (r : Req) (f : Info) (t : State) (_n : Nand) (code : Nat), Accepted s src .restore
    r f t ∧ restoreRefusal t (beAt r.pay 0 4) = some code) ∧
    (∃ (s : State) (src : OapSrc) (r : Req) (f : Info) (t : State) (n : Nand) (x : Recipe) (y : RestoreRun),
    Accepted s src .restore r f t ∧ restoreRefusal t (beAt r.pay 0 4) = none ∧ t.recipe? (beAt r.pay 0 4) = some x
    ∧ restoreStart t x (beAt r.pay 4 8) .wardenRestore (n == .uncorrectable) = .ok y) ∧
    (∃ (s : State) (src : OapSrc) (r : Req) (f : Info) (t : State) (_x : List Nat), Accepted s src .reconcile r f t
    ∧ t.life.state = .maintenance) ∧
    (∃ (s : State) (src : OapSrc) (r : Req) (f : Info) (t : State), Accepted s src .qualify r f t ∧ t.serving =
    true) ∧
    (∃ (s : State) (src : OapSrc) (r : Req) (f : Info) (t : State), Accepted s src .confirm r f t ∧ onTrial t =
    true) ∧
    (∃ (s : State) (src : OapSrc) (r : Req) (f : Info) (t : State), Accepted s src .recovery r f t) ∧
    (∃ (s : State) (src : OapSrc) (r : Req) (f : Info) (t : State), Accepted s src .flush r f t ∧ dirtyCount t ≠ 0) ∧
    (∃ (s : State) (src : OapSrc) (r : Req) (f : Info) (t : State), Accepted s src .devReset r f t ∧ t.life.stage =
    none) ∧
    (∃ (s : State) (src : OapSrc) (r : Req) (f : Info) (t : State), Accepted s src .wheelReset r f t ∧ t.serving =
    true ∧ nth t.warden.stored.wheelEnable (wheelOf r.obj) true = true ∧ underReset t (wheelOf r.obj) = false) ∧
    (∃ (s : State) (src : OapSrc) (r : Req) (f : Info) (t : State) (o : RunOp), Accepted s src .abort r f t ∧
    t.warden.run = some o ∧ o.obj = r.obj ∧ o.aborting = none ∧ o.ending = none ∧ o.committed = false ∧ o.exec =
    true ∧ o.obj ≠ od 0x7F 5 0) ∧
    (∃ (s : State) (src : OapSrc) (r : Req) (f : Info) (t : State), Accepted s src .abort r f t ∧ t.warden.run =
    none) ∧
    (∃ (s : State) (o : RunOp) (e : Nat × Nat × List Byte), s.warden.run = some o ∧ o.ending = some e ∧ s.warden.up
    = true) ∧
    (∃ (s : State) (o : RunOp), s.warden.run = some o ∧ o.ending = none ∧ o.exec = true ∧ s.warden.up = true ∧
    o.obj = od 0x7F 4 0 ∧ o.committed = false) ∧
    (∃ (s : State) (o : RunOp), s.warden.run = some o ∧ o.ending = none ∧ o.exec = true ∧ s.warden.up = true ∧
    o.obj = od 0x7F 4 0 ∧ o.committed = true) ∧
    (∃ s : State, s.warden.run = none) ∧
    (∃ (s : State) (o : RunOp) (k : LinkId) (_x : DwellResult) (p : Nat), s.warden.run = some o ∧ o.obj = od 0x7F 5
    0 ∧ o.ending = none ∧ k = .hinge p ∧ o.todo.contains (linkKey k) = true) :=
  ⟨⟨activable, _, _, _, _, accepted (s := (activable)) (op := 3) (obj := od 0x7F 1 0) (pay := []) (by decide +kernel) (by decide +kernel), by decide +kernel⟩,
   ⟨on.onPower (fun p => { p with seated := false }), _, _, _, _, 0x0502, accepted (s := (on.onPower (fun p => { p with seated := false }))) (op := 3) (obj := od 0x7F 1 0) (pay := []) (by decide +kernel) (by decide +kernel), by decide +kernel⟩,
   ⟨on, _, _, _, _, [(0, scan0)], accepted (s := (on)) (op := 3) (obj := od 0x7F 2 0) (pay := []) (by decide +kernel) (by decide +kernel), by decide +kernel⟩,
   ⟨on, _, _, _, _, .ok, 0x0614, accepted (s := (on)) (op := 3) (obj := od 0x7F 3 0) (pay := zeros 12) (by decide +kernel) (by decide +kernel), by decide +kernel⟩,
   ⟨onRind, _, _, _, _, .ok, rcp, _, accepted (s := onRind) (op := 3) (obj := od 0x7F 3 0) (pay := [0#8, 0#8, 0#8, 1#8] ++ zeros 8) (by decide +kernel) (by decide +kernel), by decide +kernel, by decide +kernel, okOf (d := restore0) (by decide +kernel)⟩,
   ⟨on.onLife (fun l => { l with state := .maintenance }), _, _, _, _, [], accepted (s := (on.onLife (fun l => { l with state := .maintenance }))) (op := 3) (obj := od 0x7F 4 0) (pay := []) (by decide +kernel) (by decide +kernel), by decide +kernel⟩,
   ⟨on, _, _, _, _, accepted (s := (on)) (op := 3) (obj := od 0x7F 5 0) (pay := []) (by decide +kernel) (by decide +kernel), by decide +kernel⟩,
   ⟨on.onWarden (fun w => { w with fwA := { w.fwA with state := .onTrial } }), _, _, _, _, accepted (s := (on.onWarden (fun w => { w with fwA := { w.fwA with state := .onTrial } }))) (op := 3) (obj := od 0x7F 6 0) (pay := []) (by decide +kernel) (by decide +kernel), by decide +kernel⟩,
   ⟨on, _, _, _, _, accepted (s := (on)) (op := 3) (obj := od 0x7F 7 0) (pay := []) (by decide +kernel) (by decide +kernel)⟩,
   ⟨dirty, _, _, _, _, accepted (s := (dirty)) (op := 3) (obj := od 0x7F 8 0) (pay := []) (by decide +kernel) (by decide +kernel), by decide +kernel⟩,
   ⟨on, _, _, _, _, accepted (s := (on)) (op := 3) (obj := od 0x20 1 0) (pay := []) (by decide +kernel) (by decide +kernel), by decide +kernel⟩,
   ⟨on, _, _, _, _, accepted (s := (on)) (op := 3) (obj := od 0x20 0x101 0) (pay := []) (by decide +kernel) (by decide +kernel), by decide +kernel⟩,
   ⟨on.onWarden (fun w => { w with run := some runOp0 }), _, _, _, _, runOp0, accepted (s := (on.onWarden (fun w => { w with run := some runOp0 }))) (op := 5) (obj := od 0x7F 2 0) (pay := []) (by decide +kernel) (by decide +kernel), by decide +kernel⟩,
   ⟨on, _, _, _, _, accepted (s := (on)) (op := 5) (obj := od 0x7F 2 0) (pay := []) (by decide +kernel) (by decide +kernel), by decide +kernel⟩,
   ⟨on.onWarden (fun w => { w with run := some { runOp0 with ending := some (0, 0, []) } }), { runOp0 with ending := some (0, 0, []) }, (0, 0, []), by decide +kernel⟩,
   ⟨on.onWarden (fun w => { w with run := some { runOp0 with obj := od 0x7F 4 0 } }), { runOp0 with obj := od 0x7F 4 0 }, by decide +kernel⟩,
   ⟨on.onWarden (fun w => { w with run := some { runOp0 with obj := od 0x7F 4 0, committed := true } }), { runOp0 with obj := od 0x7F 4 0, committed := true }, by decide +kernel⟩,
   ⟨on, by decide +kernel⟩,
   ⟨on.onWarden (fun w => { w with run := some { runOp0 with obj := od 0x7F 5 0, todo := [linkKey (.hinge 31)] } }), { runOp0 with obj := od 0x7F 5 0, todo := [linkKey (.hinge 31)] }, .hinge 31, .pass, 31, by decide +kernel⟩⟩

theorem wit_TasksAnswer :
    (∃ (s : State) (h w : Nat) (r : Recipe) (t : Nat), s.recipe? h = some r ∧ nextToLoad r w false = some t ∧
    r.stepping = true ∧ poolUse r w false < ordinaryPool r w) ∧
    (∃ (s : State) (h w : Nat) (r : Recipe) (t : Nat), s.recipe? h = some r ∧ nextToLoad r w true = some t ∧
    r.stepping = true ∧ poolUse r w true < specPool r w r.throttle) ∧
    (∃ (s : State) (t : TaskRef) (r : Recipe) (k : Task) (x : TaskRun), s.recipe? t.recipe = some r ∧ r.task?
    t.task = some k ∧ r.run? t.task = some x ∧ mayStart s r k x = true ∧ ((runsSpec k x ∧ r.shadowFree.length <
    k.npages) = False) ∧ lossHeld s r k = false) ∧
    (∃ (s : State) (t : TaskRef) (r : Recipe) (k : Task) (x : TaskRun), s.recipe? t.recipe = some r ∧ r.task?
    t.task = some k ∧ r.run? t.task = some x ∧ x.started = true ∧ workDone s t.recipe k x = true ∧ x.specRun =
    false) ∧
    (∃ (s : State) (h p : Nat) (r : Recipe), s.recipe? h = some r ∧ p ∈ r.shadowReturning ∧ pageBusy s p = false) ∧
    (∃ (s : State) (h p : Nat) (r : Recipe), s.recipe? h = some r ∧ p ∉ r.shadowReturning ∧ p ∈ r.stash.returning ∧
    pageBusy s p = false) ∧
    (∃ (s : State) (h : Nat) (r : Recipe) (u : StepRun), s.recipe? h = some r ∧ r.running = some u ∧ stepDone s r u
    = true) ∧
    (∃ (s : State) (h : Nat) (r : Recipe) (u : StepRun), s.recipe? h = some r ∧ r.running = some u ∧ u.fault = none
    ∧ u.pausedSince = none ∧ u.start + u.pausedNs + (if r.wdogK = 0 then 2 else r.wdogK) * tBound r < s.now) ∧
    (∃ (s : State) (h n : Nat) (r : Recipe) (u : StepRun) (k : Task) (x : TaskRun), s.recipe? h = some r ∧
    r.running = some u ∧ r.stepping = true ∧ u.runs = [x] ∧ r.task? x.idx = some k ∧ x.phase = .loaded ∧
    x.spanSince = some n ∧ r.patience ≠ 0 ∧ n + r.patience * 10 ^ 6 < s.now) ∧
    (∃ (s : State) (h i : Nat) (r : Recipe) (e : StashEntry), s.recipe? h = some r ∧ r.stash.entries[i]? = some e ∧
    e.waits true = true) ∧
    (∃ (s : State) (t : TaskRef) (w n : Nat) (r : Recipe) (k : Task) (x : TaskRun), s.recipe? t.recipe = some r ∧
    r.task? t.task = some k ∧ r.run? t.task = some x ∧ x.versionWait = [(w, n)] ∧ w ∉ x.versionPosted ∧ n +
    versionThreshold r k w < s.now) ∧
    (∃ (s : State) (c : Chain) (cs : List Chain), s.chains = c :: cs ∧ c.span = false) :=
  ⟨⟨withRcp (fun r => { running 0 [] r with running := some (step0 []) }) on, 1, 0, { running 0 [] rcp with running := some (step0 []) }, 0, by decide +kernel⟩,
   ⟨withRcp (fun r => { running 0 [] r with tasks := [{ task0 with spec := true }], running := some (step0 []) }) on, 1, 0, { running 0 [] rcp with tasks := [{ task0 with spec := true }], running := some (step0 []) }, 0, by decide +kernel⟩,
   ⟨withRcp (fun r => { running 0 [] r with running := some (step0 [{ run0 with phase := .loaded }]) }) on, t0, { running 0 [] rcp with running := some (step0 [{ run0 with phase := .loaded }]) }, task0, { run0 with phase := .loaded }, by decide +kernel, by decide +kernel, by decide +kernel, by decide +kernel, eq_false (by decide +kernel), by decide +kernel⟩,
   ⟨withRcp (fun r => { running 0 [] r with running := some (step0 [{ run0 with descs := [] }]) }) on, t0, { running 0 [] rcp with running := some (step0 [{ run0 with descs := [] }]) }, task0, { run0 with descs := [] }, by decide +kernel⟩,
   ⟨withRcp (fun r => { r with shadowReturning := [0] }) on, 1, 0, { rcp with shadowReturning := [0] }, by decide +kernel⟩,
   ⟨withRcp (fun r => { r with stash := { r.stash with returning := [0] } }) on, 1, 0, { rcp with stash := { rcp.stash with returning := [0] } }, by decide +kernel⟩,
   ⟨withRcp (fun r => { r with running := some (step0 []) }) on, 1, { rcp with running := some (step0 []) }, step0 [], by decide +kernel⟩,
   ⟨withRcp (fun r => { r with running := some (step0 []) }) on, 1, { rcp with running := some (step0 []) }, step0 [], by decide +kernel⟩,
   ⟨withRcp (fun r => { running 0 [] r with patience := 1, running := some (step0 [{ run0 with phase := .loaded, spanSince := some 0 }]) }) on, 1, 0, { running 0 [] rcp with patience := 1, running := some (step0 [{ run0 with phase := .loaded, spanSince := some 0 }]) }, step0 [{ run0 with phase := .loaded, spanSince := some 0 }], task0, { run0 with phase := .loaded, spanSince := some 0 }, by decide +kernel⟩,
   ⟨withRcp (fun r => { r with stash := { r.stash with entries := [stash0] } }) on, 1, 0, { rcp with stash := { rcp.stash with entries := [stash0] } }, stash0, by decide +kernel⟩,
   ⟨withRcp (fun r => { running 2 [] r with running := some (step0 [{ run0 with versionWait := [(0, 0)] }]) }) on, t0, 0, 0, { running 2 [] rcp with running := some (step0 [{ run0 with versionWait := [(0, 0)] }]) }, { task0 with cls := 2 }, { run0 with versionWait := [(0, 0)] }, by decide +kernel⟩,
   ⟨{ on with chains := [{ recipe := 1, handle := 0, inc := 1, level := 0, task := none, blame := none, unit := 0, span := false }] }, { recipe := 1, handle := 0, inc := 1, level := 0, task := none, blame := none, unit := 0, span := false }, [], by decide +kernel⟩⟩

theorem wit_CoresAnswer :
    (∃ (s : State) (w h : Nat), w < 8 ∧ h < 80 ∧ hoopOut s w h = false ∧ idleSlots s w h ≠ []) ∧
    (∃ (s : State) (c : CoreId) (k : Core) (w n : Nat) (k1 : Core) (s1 : State) (b : Nat), s.core? c = some k ∧
    executing s k = true ∧ fetch k = .word w n ∧ isKz w = false ∧ w ≠ ecallWord ∧ stdInstr (touchFetch k) s w n =
    .next k1 s1 b) ∧
    (∃ (s : State) (c : CoreId) (k : Core) (line : Nat), s.core? c = some k ∧ executing s k = true ∧ fetch k =
    .miss line) ∧
    (∃ (s : State) (c : CoreId) (k : Core) (line : Nat) (r : Recipe) (l : Loc), s.core? c = some k ∧ k.wait =
    .icache line ∧ s.recipe? k.recipe = some r ∧ translate s r line false = .ok l ∧ poisoned s l 64 = false) ∧
    (∃ (s : State) (c : CoreId) (k : Core), s.core? c = some k ∧ executing s k = true ∧ fetch k = .word ecallWord 4
    ∧ k.rx 17 = 0 ∧ k.region = false ∧ k.rx 10 = 0) ∧
    (∃ (s : State) (c : CoreId) (k : Core), s.core? c = some k ∧ k.exited = false ∧ k.budget ≠ 0 ∧ k.budget <
    k.beats) ∧
    (∃ (s : State) (c : CoreId) (k : Core), s.core? c = some k ∧ k.exited = false ∧ k.wait = .none ∧ coveredBy s
    (.core c) = false) ∧
    (∃ (s : State) (c : CoreId) (k : Core) (r : Recipe) (u : StepRun) (i : FaultInfo), s.core? c = some k ∧
    s.recipe? k.recipe = some r ∧ r.running = some u ∧ u.fault = some i) ∧
    (∃ (s : State) (w h : Nat), w < 8 ∧ h < 80 ∧ s.warden.up = true ∧ hoopWaits s w h = true ∧ hoopOut s w h =
    false ∧ coveredBy s (.hoop w h) = false) :=
  ⟨⟨on, 0, 0, by decide +kernel⟩,
   ⟨onCore (coreAt (encI 0x13 0 1 0 5) 0 0) [], ⟨0, 0, 0⟩, coreAt (encI 0x13 0 1 0 5) 0 0, encI 0x13 0 1 0 5, 4, _, _, _, by decide +kernel, by decide +kernel, by decide +kernel, by decide +kernel, by decide +kernel, nextOf (k := coreAt 0 0 0) (s := on) (by decide +kernel)⟩,
   ⟨onCore { coreAt 0 0 0 with icache := [] } [], ⟨0, 0, 0⟩, { coreAt 0 0 0 with icache := [] }, nearBase, by decide +kernel⟩,
   ⟨onCore { coreAt 0 0 0 with wait := .icache nearBase } [], ⟨0, 0, 0⟩, { coreAt 0 0 0 with wait := .icache nearBase }, nearBase, running 1 [] rcp, .near (2 ^ 33), by decide +kernel, by decide +kernel, by decide +kernel, okOf (d := .near 0) (by decide +kernel), by decide +kernel⟩,
   ⟨onCore (coreAt ecallWord 0 0) [], ⟨0, 0, 0⟩, coreAt ecallWord 0 0, by decide +kernel⟩,
   ⟨onCore { coreAt 0 0 0 with budget := 1, beats := 2 } [], ⟨0, 0, 0⟩, { coreAt 0 0 0 with budget := 1, beats := 2 }, by decide +kernel⟩,
   ⟨onCore (coreAt 0 0 0) [], ⟨0, 0, 0⟩, coreAt 0 0 0, by decide +kernel⟩,
   ⟨{ withRcp (fun r => { r with running := some { step0 [] with fault := some { task := 0, unit := 0, tstatus := 3, ufault := 0 } } }) on with cores := [coreAt 0 0 0] }, ⟨0, 0, 0⟩, coreAt 0 0 0, { rcp with running := some { step0 [] with fault := some { task := 0, unit := 0, tstatus := 3, ufault := 0 } } }, { step0 [] with fault := some { task := 0, unit := 0, tstatus := 3, ufault := 0 } }, { task := 0, unit := 0, tstatus := 3, ufault := 0 }, by decide +kernel⟩,
   ⟨withRcp (fun r => { running 1 [] r with running := some (step0 [{ run0 with phase := .loaded }]) }) on, 0, 0, by decide +kernel⟩⟩

theorem wit_KzDataAnswer :
    (∃ (s : State) (c : CoreId) (k : Core) (w : Nat) (b : List Byte), AtWord s c k w 0x0B 0 0 ∧ paramBlock s
    (touchFetch k) ((touchFetch k).rx (fRs1 w)) = .ok b ∧ kzChecks (qChecks s (touchFetch k) (qOps true
    ((touchFetch k).rx (fRs2 w)) b)) = none) ∧
    (∃ (s : State) (c : CoreId) (k : Core) (w : Nat) (b : List Byte), AtWord s c k w 0x0B 1 0 ∧ paramBlock s
    (touchFetch k) ((touchFetch k).rx (fRs1 w)) = .ok b ∧ kzChecks (qChecks s (touchFetch k) (qOps false
    ((touchFetch k).rx (fRs2 w)) b)) = none) ∧
    (∃ (s : State) (c : CoreId) (k : Core) (w : Nat) (b : List Byte), AtWord s c k w 0x0B 2 0 ∧ paramBlock s
    (touchFetch k) ((touchFetch k).rx (fRs1 w)) = .ok b ∧ leAt b 29 1 = 0 ∧ kzChecks (accChecks s (touchFetch k) w
    b) = none) ∧
    (∃ (s : State) (c : CoreId) (k : Core) (w : Nat) (b : List Byte), AtWord s c k w 0x0B 2 0 ∧ paramBlock s
    (touchFetch k) ((touchFetch k).rx (fRs1 w)) = .ok b ∧ leAt b 29 1 = 1 ∧ kzChecks (selChecks s (touchFetch k) w
    b) = none) ∧
    (∃ (s : State) (c : CoreId) (k : Core) (w : Nat) (b : List Byte), AtWord s c k w 0x0B 3 0 ∧ paramBlock s
    (touchFetch k) ((touchFetch k).rx (fRs1 w)) = .ok b ∧ kzChecks (topkChecks s (touchFetch k) w b) = none ∧ leAt
    b 16 8 = 0) ∧
    (∃ (s : State) (c : CoreId) (k : Core) (w : Nat) (b : List Byte), AtWord s c k w 0x0B 4 0 ∧ paramBlock s
    (touchFetch k) ((touchFetch k).rx (fRs1 w)) = .ok b ∧ kzChecks (histChecks s (touchFetch k) w b) = none) :=
  ⟨⟨onCore (coreAt (encR 0x0B 0 0 12 10 11) ownBase 1) (pblock [(0, 8, ownBase + 0x1000), (8, 8, ownBase + 0x2000), (16, 8, ownBase + 0x3000), (61, 1, 8)]), ⟨0, 0, 0⟩, coreAt (encR 0x0B 0 0 12 10 11) ownBase 1, encR 0x0B 0 0 12 10 11, _, atWord (by decide +kernel), okOf (d := []) (by decide +kernel), by decide +kernel⟩,
   ⟨onCore (coreAt (encR 0x0B 1 0 12 10 11) ownBase 1) (pblock [(0, 8, ownBase + 0x1000), (8, 8, ownBase + 0x2000), (16, 8, ownBase + 0x3000), (60, 1, 8)]), ⟨0, 0, 0⟩, coreAt (encR 0x0B 1 0 12 10 11) ownBase 1, encR 0x0B 1 0 12 10 11, _, atWord (by decide +kernel), okOf (d := []) (by decide +kernel), by decide +kernel⟩,
   ⟨onCore (coreAt (encR 0x0B 2 0 12 10 11) ownBase 0) (pblock [(0, 8, ownBase + 0x1000), (8, 8, ownBase + 0x2000), (24, 4, 1), (32, 4, 0x3F800000), (36, 4, 1)]), ⟨0, 0, 0⟩, coreAt (encR 0x0B 2 0 12 10 11) ownBase 0, encR 0x0B 2 0 12 10 11, _, atWord (by decide +kernel), okOf (d := []) (by decide +kernel), by decide +kernel⟩,
   ⟨onCore (coreAt (encR 0x0B 2 0 12 10 11) ownBase 0) (pblock [(8, 8, ownBase + 0x2000), (16, 8, ownBase + 0x3000), (29, 1, 1), (32, 4, 0x3F800000), (36, 4, 1)]), ⟨0, 0, 0⟩, coreAt (encR 0x0B 2 0 12 10 11) ownBase 0, encR 0x0B 2 0 12 10 11, _, atWord (by decide +kernel), okOf (d := []) (by decide +kernel), by decide +kernel⟩,
   ⟨onCore (coreAt (encR 0x0B 3 0 12 10 11) ownBase 0) (pblock [(0, 8, ownBase + 0x1000), (8, 8, ownBase + 0x2000), (24, 4, 1), (28, 2, 1), (30, 1, 1)]), ⟨0, 0, 0⟩, coreAt (encR 0x0B 3 0 12 10 11) ownBase 0, encR 0x0B 3 0 12 10 11, _, atWord (by decide +kernel), okOf (d := []) (by decide +kernel), by decide +kernel⟩,
   ⟨onCore (coreAt (encR 0x0B 4 0 12 10 11) ownBase 0) (pblock [(0, 8, ownBase + 0x1000), (8, 8, ownBase + 0x2000), (16, 4, 1), (20, 2, 1)]), ⟨0, 0, 0⟩, coreAt (encR 0x0B 4 0 12 10 11) ownBase 0, encR 0x0B 4 0 12 10 11, _, atWord (by decide +kernel), okOf (d := []) (by decide +kernel), by decide +kernel⟩⟩

theorem wit_KzControlAnswer :
    (∃ (s : State) (c : CoreId) (k : Core) (w a : Nat), AtWord s c k w 0x2B 0 0 ∧ fRs1 w ≠ 0 ∧ (touchFetch k).rx
    (fRs1 w) % 32 = 0 ∧ ownPlace s (touchFetch k) ((touchFetch k).rx (fRs1 w)) 32 = some a ∧ bitOf ((touchFetch
    k).rx (fRs2 w)) 0 = false ∧ kzChecks (carryChecks s (touchFetch k) ((touchFetch k).rx (fRs2 w)) (memRead s.dev
    a 32) (carryOf (memRead s.dev a 32) none k.region)) = none ∧ k.carries.length < 8) ∧
    (∃ (s : State) (c : CoreId) (k : Core) (w : Nat), AtWord s c k w 0x2B 0 0 ∧ fRs1 w = 0 ∧ (touchFetch k).rx
    (fRs2 w) ≤ 1 ∧ k.carries = []) ∧
    (∃ (s : State) (c : CoreId) (k : Core) (n : Nat) (y : Carry), s.core? c = some k ∧ k.carries[n]? = some y ∧
    s.power.gatesClosed = false ∧ carryRoom s k y = true ∧ carryMeetsDrain s k y = false) ∧
    (∃ (s : State) (c : CoreId) (k : Core) (n : Nat) (y : Carry), s.core? c = some k ∧ k.carries[n]? = some y ∧
    s.power.gatesClosed = false ∧ carryRoom s k y = true ∧ carryMeetsDrain s k y = true) ∧
    (∃ (s : State) (c : CoreId) (k : Core) (w : Nat) (r : Recipe), AtWord s c k w 0x2B 1 0 ∧ s.recipe? k.recipe =
    some r ∧ k.carries = [] ∧ (touchFetch k).rx (fRs1 w) < 65536 ∧ (touchFetch k).rx (fRs2 w) ≠ 0 ∧ addRule s
    k.recipe k.task ((touchFetch k).rx (fRs1 w)) = .allowed ∧ writesOut s k.recipe k.task = false) ∧
    (∃ (s : State) (c : CoreId) (k : Core) (w : Nat) (r : Recipe), AtWord s c k w 0x2B 2 0 ∧ s.recipe? k.recipe =
    some r ∧ (touchFetch k).rx (fRs1 w) < 65536 ∧ accessMisuse r ((touchFetch k).rx (fRs1 w)) { Issuer.ofTask
    k.task (coreUnit c) false with op := 2 } = none) ∧
    (∃ (s : State) (c : CoreId) (k : Core) (r : Recipe) (h v rd t : Nat), s.core? c = some k ∧ s.recipe? k.recipe =
    some r ∧ k.wait = .tumbler h v rd t ∧ r.reached h v = true) ∧
    (∃ (s : State) (c : CoreId) (k : Core) (w x : Nat) (r : Recipe), AtWord s c k w 0x2B 3 0 ∧ s.recipe? k.recipe =
    some r ∧ k.carries = [] ∧ x = (touchFetch k).rx (fRs1 w) ∧ bitsOf x 31 18 = 0 ∧ bitsOf x 17 16 ≠ 3 ∧ addRule s
    k.recipe k.task (x % 65536) = .allowed ∧ writesOut s k.recipe k.task = false) ∧
    (∃ (s : State) (c : CoreId) (k : Core) (w : Nat) (r : Recipe) (t : Task) (o : Nat × Nat), AtWord s c k w 0x2B 4
    0 ∧ s.recipe? k.recipe = some r ∧ r.task? k.task = some t ∧ k.carries = [] ∧ t.outs[(touchFetch k).rx (fRs1
    w)]? = some o ∧ (touchFetch k).rx (fRs2 w) < 2 ^ 32 ∧ specRunning s k.recipe k.task = false ∧ writesOut s
    k.recipe k.task = false) ∧
    (∃ (s : State) (c : CoreId) (k : Core) (w : Nat), AtWord s c k w 0x2B 5 0 ∧ k.region = false ∧ (touchFetch
    k).rx (fRs1 w) = 0 ∧ (touchFetch k).rx (fRs2 w) = 0) ∧
    (∃ (s : State) (c : CoreId) (k : Core) (w : Nat), AtWord s c k w 0x2B 5 1 ∧ k.region = true ∧ k.carries = [] ∧
    (touchFetch k).rx (fRs1 w) = 0 ∧ (touchFetch k).rx (fRs2 w) = 0) :=
  ⟨⟨onCore (coreAt (encR 0x2B 0 0 12 10 11) ownBase 0) (pblock [(8, 8, ownBase + 0x1000), (16, 4, 64), (20, 2, 1)]), ⟨0, 0, 0⟩, coreAt (encR 0x2B 0 0 12 10 11) ownBase 0, encR 0x2B 0 0 12 10 11, scratchAt 0, atWord (by decide +kernel), by decide +kernel⟩,
   ⟨onCore (coreAt (encR 0x2B 0 0 12 0 11) 0 1) ([]), ⟨0, 0, 0⟩, coreAt (encR 0x2B 0 0 12 0 11) 0 1, encR 0x2B 0 0 12 0 11, atWord (by decide +kernel), by decide +kernel⟩,
   ⟨onCore { coreAt 0 0 0 with carries := [carry0] } [], ⟨0, 0, 0⟩, { coreAt 0 0 0 with carries := [carry0] }, 0, carry0, by decide +kernel⟩,
   ⟨onDrained, ⟨1, 0, 0⟩, { coreAt 0 0 0 with id := ⟨1, 0, 0⟩, carries := [carry0] }, 0, carry0, by decide +kernel⟩,
   ⟨onCore (coreAt (encR 0x2B 1 0 12 10 11) 0 1) ([]), ⟨0, 0, 0⟩, coreAt (encR 0x2B 1 0 12 10 11) 0 1, encR 0x2B 1 0 12 10 11, running 1 [] rcp, atWord (by decide +kernel), by decide +kernel⟩,
   ⟨onCore (coreAt (encR 0x2B 2 0 12 10 11) 63 1) ([]), ⟨0, 0, 0⟩, coreAt (encR 0x2B 2 0 12 10 11) 63 1, encR 0x2B 2 0 12 10 11, running 1 [] rcp, atWord (by decide +kernel), by decide +kernel⟩,
   ⟨onCore { coreAt 0 0 0 with wait := .tumbler 0 0 12 0 } [], ⟨0, 0, 0⟩, { coreAt 0 0 0 with wait := .tumbler 0 0 12 0 }, running 1 [] rcp, 0, 0, 12, 0, by decide +kernel⟩,
   ⟨onCore (coreAt (encR 0x2B 3 0 12 10 11) 63 1) ([]), ⟨0, 0, 0⟩, coreAt (encR 0x2B 3 0 12 10 11) 63 1, encR 0x2B 3 0 12 10 11, 63, running 1 [] rcp, atWord (by decide +kernel), by decide +kernel⟩,
   ⟨onCore (coreAt (encR 0x2B 4 0 12 10 11) 0 1) ([]), ⟨0, 0, 0⟩, coreAt (encR 0x2B 4 0 12 10 11) 0 1, encR 0x2B 4 0 12 10 11, running 1 [] rcp, { task0 with cls := 1 }, (0, 1), atWord (by decide +kernel), by decide +kernel⟩,
   ⟨onCore (coreAt (encR 0x2B 5 0 12 10 11) 0 0) ([]), ⟨0, 0, 0⟩, coreAt (encR 0x2B 5 0 12 10 11) 0 0, encR 0x2B 5 0 12 10 11, atWord (by decide +kernel), by decide +kernel⟩,
   ⟨onCore { coreAt (encR 0x2B 5 1 12 10 11) 0 0 with region := true } ([]), ⟨0, 0, 0⟩, { coreAt (encR 0x2B 5 1 12 10 11) 0 0 with region := true }, encR 0x2B 5 1 12 10 11, atWord (by decide +kernel), by decide +kernel⟩⟩

theorem wit_VatDescriptorsAnswer :
    (∃ (s : State) (d : DescRef) (v : VatDesc) (u : State) (m : MacRead), VatReady s d 1 v ∧ (bankOfDesc (beginDesc
    v s) v).1 + kOf v.ws ≤ 2 ^ 24 ∧ (bankOfDesc (beginDesc v s) v).2 = 0 ∧ u = starve v (beginDesc v s) ∧ v.spec =
    false ∧ m = macRead u v.h v.t v.ws ∧ m.malformed = none ∧ m.bad = none ∧ macRecordBad u v = none) ∧
    (∃ (s : State) (d : DescRef) (v : VatDesc) (u : State), VatReady s d 1 v ∧ u = beginDesc v s ∧ (bankOfDesc u
    v).2 = 0 ∧ 2 ^ 24 < (bankOfDesc u v).1 + kOf v.ws) ∧
    (∃ (s : State) (d : DescRef) (v : VatDesc) (u : State) (m : MacRead), VatReady s d 2 v ∧ u = starve v
    (beginDesc v s) ∧ v.spec = false ∧ m = macRead u v.h v.t v.ws ∧ m.malformed = none ∧ m.bad = none ∧
    macRecordBad u v = none) ∧
    (∃ (s : State) (d : DescRef) (v : VatDesc), VatReady s d 3 v ∧ drainFaults s v = false ∧ (preOpen v.h v.t
    (drainPuts s v) s).2 = false) ∧
    (∃ (s : State) (d : DescRef) (v : VatDesc) (u : State), VatReady s d 4 v ∧ u = beginDesc v s ∧ (loadRead u v).2
    = none) ∧
    (∃ (s : State) (d : DescRef) (v : VatDesc) (u : State), VatReady s d 5 v ∧ v.spec = false ∧ (preOpen v.h v.t
    (transposePlan v (loadRead s v).1).1 s).2 = false ∧ u = beginDesc v (preOpen v.h v.t (transposePlan v (loadRead
    s v).1).1 s).1 ∧ (loadRead u v).2 = none ∧ recordBad (onBank v (BankRec.replaced 0 0 0) (loadApply v (loadRead
    u v).1 u)) v.h (wd v.ws 13) = none) ∧
    (∃ (s : State) (d : DescRef) (v : VatDesc), VatReady s d 6 v) ∧
    (∃ (s : State) (d : DescRef) (r : Recipe) (k : Task) (x : TaskRun) (e : DescRun), s.recipe? d.recipe = some r ∧
    r.task? d.task = some k ∧ r.run? d.task = some x ∧ x.started = true ∧ x.descs[d.idx]? = some e ∧ e.phase =
    .worked ∧ writesOut s d.recipe d.task = false) :=
  ⟨⟨onVatOf [1 + 2 ^ 32 + 2 ^ 43, 0, 0, 1], d0, vatOf (onVatOf [1 + 2 ^ 32 + 2 ^ 43, 0, 0, 1]) d0, _, _, vatReady (by decide +kernel), by decide +kernel, by decide +kernel, rfl, by decide +kernel, rfl, by decide +kernel⟩,
   ⟨(onVatOf [1 + 2 ^ 32 + 2 ^ 43, 0, 0, 1]).onVat 0 (fun v => { v with banks := [{ block := 0, odd := false, count := 2 ^ 24, poison := 0, sub := 0 }] }), d0, vatOf ((onVatOf [1 + 2 ^ 32 + 2 ^ 43, 0, 0, 1]).onVat 0 (fun v => { v with banks := [{ block := 0, odd := false, count := 2 ^ 24, poison := 0, sub := 0 }] })) d0, _, vatReady (by decide +kernel), rfl, by decide +kernel⟩,
   ⟨onVatOf [2 + 2 ^ 32 + 2 ^ 43, 0, 0, 1], d0, vatOf (onVatOf [2 + 2 ^ 32 + 2 ^ 43, 0, 0, 1]) d0, _, _, vatReady (by decide +kernel), rfl, by decide +kernel, rfl, by decide +kernel⟩,
   ⟨onVatOf [3 + 2 ^ 32 + 2 ^ 43, 0, 0, 0], d0, vatOf (onVatOf [3 + 2 ^ 32 + 2 ^ 43, 0, 0, 0]) d0, vatReady (by decide +kernel), by decide +kernel⟩,
   ⟨onVatOf [4 + 2 ^ 32 + 2 ^ 43, 0, 0, 0], d0, vatOf (onVatOf [4 + 2 ^ 32 + 2 ^ 43, 0, 0, 0]) d0, _, vatReady (by decide +kernel), rfl, by decide +kernel⟩,
   ⟨onVatOf [5 + 2 ^ 32 + 2 ^ 43, 0, 0, 0], d0, vatOf (onVatOf [5 + 2 ^ 32 + 2 ^ 43, 0, 0, 0]) d0, _, vatReady (by decide +kernel), by decide +kernel, by decide +kernel, rfl, by decide +kernel⟩,
   ⟨onVatOf [6], d0, vatOf (onVatOf [6]) d0, vatReady (by decide +kernel)⟩,
   ⟨withRcp (fun r => { running 0 [6] r with running := some (step0 [{ run0 with descs := [{ desc0 with phase := .worked }] }]) }) on, d0, { running 0 [6] rcp with running := some (step0 [{ run0 with descs := [{ desc0 with phase := .worked }] }]) }, task0, { run0 with descs := [{ desc0 with phase := .worked }] }, { desc0 with phase := .worked }, by decide +kernel⟩⟩

theorem wit_VatControlAnswers :
    (∃ (s : State) (w : Nat) (d : VatDesc), (vatDescs s w).any (fun a => a.busy) = false ∧ (s.vat w).pendingShape =
    none ∧ (s.vat w).pendingMode = false ∧ d.due = true ∧ needsArr (s.vat w) d = true ∧ vatDescs s w = [d]) ∧
    (∃ (s : State) (w : Nat), (vatDescs s w).any (fun a => a.busy) = false ∧ ((s.vat w).pendingShape.isSome = true
    ∨ (s.vat w).pendingMode = true)) ∧
    (∃ (s : State) (w : Nat), (vatDescs s w).any (fun d => d.busy || d.due) = true) ∧
    (∃ (s : State) (w : Nat), w < 8 ∧ (vatDescs s w).any (fun d => d.busy) = true) ∧
    (∃ (s : State) (w p : Nat) (_c : Bool), w < 8 ∧ p < 1040 ∧ (vatDescs s w).any (fun d => d.busy) = true) :=
  ⟨⟨onVatOf [1 + 2 ^ 12], 0, vatOf (onVatOf [1 + 2 ^ 12]) d0, by decide +kernel⟩,
   ⟨on.onVat 0 (fun v => { v with pendingMode := true }), 0, by decide +kernel⟩,
   ⟨onVatOf [1], 0, by decide +kernel⟩,
   ⟨withRcp (fun r => { running 0 [1] r with running := some (step0 [{ run0 with descs := [{ desc0 with phase := .begun }] }]) }) on, 0, by decide +kernel⟩,
   ⟨withRcp (fun r => { running 0 [1] r with running := some (step0 [{ run0 with descs := [{ desc0 with phase := .begun }] }]) }) on, 0, 1039, true, by decide +kernel⟩⟩

theorem wit_UpdateEnginesAnswer :
    (∃ (s : State) (d : DescRef) (u : UpdDesc), UpdReady s d 0 u) ∧
    (∃ (s : State) (d : DescRef) (u : UpdDesc), UpdReady s d 1 u) ∧
    (∃ (s : State) (d : DescRef) (u : UpdDesc), UpdReady s d 2 u) ∧
    (∃ (s : State) (d : DescRef) (u : UpdDesc), UpdReady s d 3 u) ∧
    (∃ (s : State) (d : DescRef) (u : UpdDesc), UpdReady s d 4 u) ∧
    (∃ (s : State) (d : DescRef) (n : Nat) (u : UpdDesc), updDesc? s d = some u ∧ u.run.phase = .begun ∧ hasPackets
    u.ws u.run = true ∧ n < uPackets u.ws ∧ n ∉ u.run.packets ∧ packetOrder s u n = true ∧ olderAtEngine s u
    (packetEngine s u.h (wd u.ws 5 + 4096 * n)) = false) ∧
    (∃ (s : State) (d : DescRef) (n i : Nat) (u : UpdDesc) (c : List Nat), updDesc? s d = some u ∧ copyRec s u.h
    u.t u.ws n = .ok c ∧ u.run.phase = .begun ∧ uRatio u.ws = false ∧ n < uNcopy u.ws ∧ i < unitCount u.ws c ∧ (n,
    i) ∉ u.run.units ∧ supplied u (unitRect u.ws c i) = true ∧ olderAtEngine s u (unitEngine s i) = false) ∧
    (∃ (s : State) (d : DescRef) (u : UpdDesc) (t : Nat), updDesc? s d = some u ∧ u.run.rindWait = some t ∧ t + 10
    ^ 6 < s.now ∧ u.run.rindPosted = false) :=
  ⟨⟨onUpdOf [0 * 2 ^ 57, 1 + 2 ^ 24], d0, updOf (onUpdOf [0 * 2 ^ 57, 1 + 2 ^ 24]) d0, updReady (by decide +kernel)⟩,
   ⟨onUpdOf [1 * 2 ^ 57, 1 + 2 ^ 24], d0, updOf (onUpdOf [1 * 2 ^ 57, 1 + 2 ^ 24]) d0, updReady (by decide +kernel)⟩,
   ⟨onUpdOf [2 * 2 ^ 57, 1 + 2 ^ 24], d0, updOf (onUpdOf [2 * 2 ^ 57, 1 + 2 ^ 24]) d0, updReady (by decide +kernel)⟩,
   ⟨onUpdOf [3 * 2 ^ 57, 1 + 2 ^ 24], d0, updOf (onUpdOf [3 * 2 ^ 57, 1 + 2 ^ 24]) d0, updReady (by decide +kernel)⟩,
   ⟨onUpdOf [4 * 2 ^ 57, 1 + 2 ^ 24], d0, updOf (onUpdOf [4 * 2 ^ 57, 1 + 2 ^ 24]) d0, updReady (by decide +kernel)⟩,
   ⟨withRcp (fun r => { running 2 [2 ^ 51, 1 + 2 ^ 24] r with running := some (step0 [{ run0 with descs := [{ desc0 with phase := .begun }] }]) }) on, d0, 0, updOf (withRcp (fun r => { running 2 [2 ^ 51, 1 + 2 ^ 24] r with running := some (step0 [{ run0 with descs := [{ desc0 with phase := .begun }] }]) }) on) d0, by decide +kernel⟩,
   ⟨withRcp (fun r => { running 2 [2 ^ 51, 1 + 2 ^ 24] r with running := some (step0 [{ run0 with descs := [{ desc0 with phase := .begun, packets := [0] }] }]) }) on, d0, 0, 0, updOf (withRcp (fun r => { running 2 [2 ^ 51, 1 + 2 ^ 24] r with running := some (step0 [{ run0 with descs := [{ desc0 with phase := .begun, packets := [0] }] }]) }) on) d0, _, by decide +kernel, okOf (d := []) (by decide +kernel), by decide +kernel⟩,
   ⟨withRcp (fun r => { running 2 [2 ^ 51, 1 + 2 ^ 24] r with running := some (step0 [{ run0 with descs := [{ desc0 with phase := .begun, rindWait := some 0 }] }]) }) on, d0, updOf (withRcp (fun r => { running 2 [2 ^ 51, 1 + 2 ^ 24] r with running := some (step0 [{ run0 with descs := [{ desc0 with phase := .begun, rindWait := some 0 }] }]) }) on) d0, 0, by decide +kernel⟩⟩

theorem wit_HingeDescriptorsAnswer :
    (∃ (s : State) (d : DescRef) (e : HDesc), HingeReady s d e ∧ opOf e.ws = 1) ∧
    (∃ (s : State) (d : DescRef) (e : HDesc), HingeReady s d e ∧ opOf e.ws = 2 ∧ eDmode e.ws = 0) ∧
    (∃ (s : State) (d : DescRef) (e : HDesc), HingeReady s d e ∧ opOf e.ws = 2 ∧ eDmode e.ws = 1) ∧
    (∃ (s : State) (d : DescRef) (e : HDesc), HingeReady s d e ∧ opOf e.ws = 2 ∧ eDmode e.ws = 2) ∧
    (∃ (s : State) (d : DescRef) (e : HDesc), HingeReady s d e ∧ opOf e.ws = 3) ∧
    (∃ (s : State) (d : DescRef) (e : HDesc), HingeReady s d e ∧ opOf e.ws = 4) ∧
    (∃ (s : State) (d : DescRef) (e : HDesc), HingeReady s d e ∧ opOf e.ws = 5 ∧ e.alive (combineReturns e
    (beginHinge e s)) = true) ∧
    (∃ (s : State) (d : DescRef) (e : HDesc), HingeReady s d e) ∧
    (∃ (s : State) (d : DescRef) (e : HDesc) (p : Nat × State) (u : State), HingeReady s d e ∧ opOf e.ws = 9 ∧ p =
    takeTag (beginHinge e s) ∧ spanLost p.2 e.job p.1 = none ∧ u = spanAll e.h e.job p.1 (bitsOf (wd e.ws 3) 15 0)
    (bitsOf (wd e.ws 3) 47 16) e.unit (p.2.onDesc e.h e.t e.i (fun x => { x with awaiting := x.awaiting ++ [p.1]
    }))) ∧
    (∃ (s : State) (d : DescRef) (e : HDesc) (p : Nat × State) (k : Nat), HingeReady s d e ∧ opOf e.ws = 9 ∧ p =
    takeTag (beginHinge e s) ∧ spanLost p.2 e.job p.1 = some k) ∧
    (∃ (e : HDesc) (u : State), e.runs u = true ∧ u.hinge.ports.all (fun q => q.waiting.isEmpty) = true) :=
  ⟨⟨onHingeOf [1], d0, hOf (onHingeOf [1]) d0, hingeReady (by decide +kernel), by decide +kernel⟩,
   ⟨onHingeOf [2], d0, hOf (onHingeOf [2]) d0, hingeReady (by decide +kernel), by decide +kernel⟩,
   ⟨onHingeOf [2 + 2 ^ 43], d0, hOf (onHingeOf [2 + 2 ^ 43]) d0, hingeReady (by decide +kernel), by decide +kernel⟩,
   ⟨onHingeOf [2 + 2 ^ 44], d0, hOf (onHingeOf [2 + 2 ^ 44]) d0, hingeReady (by decide +kernel), by decide +kernel⟩,
   ⟨onHingeOf [3], d0, hOf (onHingeOf [3]) d0, hingeReady (by decide +kernel), by decide +kernel⟩,
   ⟨onHingeOf [4], d0, hOf (onHingeOf [4]) d0, hingeReady (by decide +kernel), by decide +kernel⟩,
   ⟨onHingeOf [5], d0, hOf (onHingeOf [5]) d0, hingeReady (by decide +kernel), by decide +kernel⟩,
   ⟨onHingeOf [6], d0, hOf (onHingeOf [6]) d0, hingeReady (by decide +kernel)⟩,
   ⟨withRcp (fun r => { running 3 [9] r with job := some job0, tumblers := [{ Tumbler.plain 0 with kind := 2 }] }) onLink, d0, hOf (withRcp (fun r => { running 3 [9] r with job := some job0, tumblers := [{ Tumbler.plain 0 with kind := 2 }] }) onLink) d0, _, _, hingeReady (by decide +kernel), by decide +kernel, rfl, by decide +kernel, rfl⟩,
   ⟨(withRcp (fun r => { running 3 [9] r with job := some job0, tumblers := [{ Tumbler.plain 0 with kind := 2 }] }) onLink).onStored (fun x => { x with routes := [] }), d0, hOf ((withRcp (fun r => { running 3 [9] r with job := some job0, tumblers := [{ Tumbler.plain 0 with kind := 2 }] }) onLink).onStored (fun x => { x with routes := [] })) d0, _, 1, hingeReady (by decide +kernel), by decide +kernel, rfl, by decide +kernel⟩,
   ⟨hOf (withRcp (fun r => { running 3 [9] r with job := some job0, running := some (step0 [{ run0 with descs := [{ desc0 with phase := .begun }] }]) }) onLink) d0, withRcp (fun r => { running 3 [9] r with job := some job0, running := some (step0 [{ run0 with descs := [{ desc0 with phase := .begun }] }]) }) onLink, by decide +kernel⟩⟩

theorem wit_FlitsAnswer :
    (∃ (s : State) (p : Nat) (f : List Byte), p < 32 ∧ (s.port p).up = true ∧ flitGood f = true ∧ fType f = 0 ∧
    protoBad f = false ∧ fReplay f = false) ∧
    (∃ (s : State) (p : Nat) (f : List Byte), p < 32 ∧ (s.port p).up = true ∧ ((flitGood f = false ∨ outOfOrder
    (s.port p) f = true)) ∧ asksReplay (s.port p) f = true) ∧
    (∃ (s : State) (p : Nat) (f : List Byte), p < 32 ∧ (s.port p).up = true ∧ ((flitGood f = false ∨ outOfOrder
    (s.port p) f = true)) ∧ asksReplay (s.port p) f = false) ∧
    (∃ (s : State) (p : Nat) (f : List Byte), p < 32 ∧ flitGood f = true ∧ fType f = 1 ∧ (s.port p).state =
    .retraining ∧ protoBad f = false ∧ leAt (fPay f) 11 1 = 1 ∧ ((s.port p).peerId = 0xFFF ∨ (s.port p).peerId =
    leAt (fPay f) 0 2)) ∧
    (∃ (s : State) (p : Nat) (f : List Byte), p < 32 ∧ flitGood f = true ∧ fType f = 1 ∧ (s.port p).up = true ∧
    protoBad f = false ∧ leAt (fPay f) 11 1 = 1) ∧
    (∃ (s : State) (p : Nat) (f : List Byte), p < 32 ∧ flitGood f = true ∧ fType f = 1 ∧ (s.port p).up = true ∧
    ((protoBad f = true ∨ leAt (fPay f) 11 1 ≠ 1))) ∧
    (∃ (s : State) (p : Nat) (f : List Byte) (r : Recipe), FlitTaken s p 0x02 f ∧ jobRecipe (accept p f s) (leAt
    (fPay f) 6 4) = some r) ∧
    (∃ (s : State) (p k : Nat) (f : List Byte) (r : Recipe) (j : Job), FlitTaken s p 0x03 f ∧ jobRecipe (accept p f
    s) (leAt (fPay f) 19 4) = some r ∧ r.job = some j ∧ j.members.findIdx? (· == fSrc f) = some k) ∧
    (∃ (s : State) (p : Nat) (f : List Byte) (r : Recipe), FlitTaken s p 0x04 f ∧ jobRecipe (accept p f s) (leAt
    (fPay f) 3 4) = some r) ∧
    (∃ (s u : State) (p k : Nat) (f bs : List Byte) (r : Recipe), FlitTaken s p 0x10 f ∧ jobRecipe (accept p f s)
    (leAt (fPay f) 20 4) = some r ∧ getRead r (leAt (fPay f) 0 8) (leAt (fPay f) 8 4) (accept p f s) = (u, .ok bs)
    ∧ routePort u (fSrc f) (fTag f) = some k) ∧
    (∃ (s : State) (p : Nat) (f : List Byte) (x : Xfer), FlitTaken s p 0x21 f ∧ xferOf (accept p f s) f = some x ∧
    x.kind = .getRequest ∧ fLast f = true) ∧
    (∃ (s : State) (p : Nat) (f : List Byte), FlitTaken s p 0x20 f) ∧
    (∃ (s : State) (p : Nat) (f : List Byte), FlitTaken s p 0x22 f) ∧
    (∃ (s : State) (p : Nat) (f : List Byte), FlitTaken s p 0x23 f) ∧
    (∃ (s : State) (p : Nat) (f : List Byte), FlitTaken s p 0x30 f ∧ putHeaderBad f = false ∧ rxOf (accept p f s) f
    = none ∧ fFirst f = true) ∧
    (∃ (s : State) (p : Nat) (f : List Byte) (x : RxXfer), FlitTaken s p 0x30 f ∧ putHeaderBad f = false ∧ rxOf
    (accept p f s) f = some x ∧ fFirst f = false) :=
  ⟨⟨onLink, 0, flit 0 0 0 [], by decide +kernel, by decide +kernel, seal_good (by decide +kernel), by decide +kernel⟩,
   ⟨onLink, 0, [], by decide +kernel⟩,
   ⟨onLink.onPort 0 (fun q => { q with replayWanted := true, rxSeq := 5 }), 0, [], by decide +kernel⟩,
   ⟨retrainingPort.onPort 31 (fun q => { q with peerId := 0xFFF }), 31, flit 1 0 0 (zeros 11 ++ [1#8]), by decide +kernel, seal_good (by decide +kernel), by decide +kernel⟩,
   ⟨onLink, 0, flit 1 0 0 (zeros 11 ++ [1#8]), by decide +kernel, seal_good (by decide +kernel), by decide +kernel⟩,
   ⟨onLink, 0, flit 1 0 0 (zeros 12), by decide +kernel, seal_good (by decide +kernel), by decide +kernel⟩,
   ⟨onLink, 0, flit 2 0 0 (zeros 6 ++ leBytes 4 1), { rcp with job := some job0 }, flitTaken (by decide +kernel) (by decide +kernel), by decide +kernel⟩,
   ⟨onLink, 0, 1, flit 3 0 0 (zeros 19 ++ leBytes 4 1), { rcp with job := some job0 }, job0, flitTaken (by decide +kernel) (by decide +kernel), by decide +kernel⟩,
   ⟨onLink, 0, flit 4 0 0 (zeros 3 ++ leBytes 4 1), { rcp with job := some job0 }, flitTaken (by decide +kernel) (by decide +kernel), by decide +kernel⟩,
   ⟨onLink, _, 0, 0, flit 0x10 1 0 (leBytes 8 nearBase ++ leBytes 4 4 ++ zeros 8 ++ leBytes 4 1), zeros 4, { rcp with job := some job0 }, flitTaken (by decide +kernel) (by decide +kernel), by decide +kernel, Prod.ext rfl (okOf (d := []) (by decide +kernel)), by decide +kernel⟩,
   ⟨{ onLink with hinge := { onLink.hinge with xfers := [xfer0 .getRequest] } }, 0, flit 0x21 2 2 (zeros 4), xfer0 .getRequest, flitTaken (by decide +kernel) (by decide +kernel), by decide +kernel⟩,
   ⟨onLink, 0, flit 0x20 2 0 [], flitTaken (by decide +kernel) (by decide +kernel)⟩,
   ⟨onLink, 0, flit 0x22 2 0 [], flitTaken (by decide +kernel) (by decide +kernel)⟩,
   ⟨onLink, 0, flit 0x23 2 0 [], flitTaken (by decide +kernel) (by decide +kernel)⟩,
   ⟨onLink, 0, flit 0x30 3 1 (zeros 32), flitTaken (by decide +kernel) (by decide +kernel), by decide +kernel⟩,
   ⟨{ onLink with hinge := { onLink.hinge with rx := [rx0] } }, 0, flit 0x30 3 0 (zeros 240), rx0, flitTaken (by decide +kernel) (by decide +kernel), by decide +kernel⟩⟩

theorem wit_HingePortsAnswer :
    (∃ (s : State) (p : Nat) (c : RetrainCause), p < 32 ∧ (s.port p).up = true ∧ c ≠ .protocolError) ∧
    (∃ (s : State) (p : Nat), p < 32 ∧ (s.port p).up = true) ∧
    (∃ (s : State) (p : Nat) (x : HingeTrain) (w : PortState), p < 32 ∧ (s.port p).state = .retraining ∧ underQual
    s p = false ∧ x.trained = true ∧ retrainLate s p = false ∧ x.peerId = (s.port p).peerId ∧ widthOf x.localMask
    x.peerMask = some w ∧ w = (s.port p).before) ∧
    (∃ (s : State) (p : Nat) (x : HingeTrain), p < 32 ∧ (s.port p).state = .retraining ∧ underQual s p = false ∧
    (x.trained = false ∨ (s.port p).retrainStart + 250000000 < s.now)) ∧
    (∃ (s : State) (p : Nat), p < 32 ∧ (s.port p).state = .retraining ∧ underQual s p = false ∧ (s.port
    p).retrainStart + 250000000 < s.now) ∧
    (∃ (s : State) (p _n : Nat) (b : Rat), p < 32 ∧ (s.port p).up = true ∧ b ≤ 24 / 100000) :=
  ⟨⟨onLink, 0, .replayLimit, by decide +kernel⟩,
   ⟨onLink, 0, by decide +kernel⟩,
   ⟨retrainingPort, 31, train0, .up4, by decide +kernel⟩,
   ⟨retrainingPort, 31, { train0 with trained := false }, by decide +kernel⟩,
   ⟨retrainingPort.onPort 31 (fun q => { q with retrainStart := 0 }), 31, by decide +kernel⟩,
   ⟨onLink, 0, 0, 24 / 100000, by decide +kernel⟩⟩

theorem wit_CaveAnswers :
    (∃ (s : State) (t : TaskRef) (a p : Nat) (r : Recipe) (k : Task) (x : TaskRun), s.recipe? t.recipe = some r ∧
    r.task? t.task = some k ∧ r.run? t.task = some x ∧ x.started = true ∧ translate s r a false = .ok (.cave p) ∧ 0
    < r.cave.mib) ∧
    (∃ (s : State) (h g : Nat) (r : Recipe), s.recipe? h = some r ∧ r.cave.segments.any (fun x => x.seg == g &&
    x.filling) = true) ∧
    (∃ (s : State) (h g _k : Nat) (r : Recipe), s.recipe? h = some r ∧ r.cave.segments.any (fun x => x.seg == g &&
    x.filling) = true) ∧
    (∃ (s : State) (h i : Nat) (r : Recipe) (t : Tracker), s.recipe? h = some r ∧ r.cave.trackers[i]? = some t ∧
    t.used + 10 ^ 6 ≤ s.now ∧ t.risen = false) ∧
    (∃ (s : State) (p _a i : Nat), (cavePorts s).findIdx? (· == p) = some i) ∧
    (∃ (s : State) (p _a i : Nat), (cavePorts s).findIdx? (· == p) = some i) :=
  ⟨⟨withRcp (fun r => { running 0 [] r with cave := { r.cave with mib := 64 } }) on, t0, caveBase, 0, { running 0 [] rcp with cave := { rcp.cave with mib := 64 } }, task0, run0, by decide +kernel, by decide +kernel, by decide +kernel, by decide +kernel, okOf (d := .cave 0) (by decide +kernel), by decide +kernel⟩,
   ⟨filling, 1, 0, { rcp with cave := { rcp.cave with mib := 64, segments := [{ seg := 0, filling := true, prefetched := false, dirty := false, poisoned := false, used := 0 }] } }, by decide +kernel⟩,
   ⟨filling, 1, 0, 15, { rcp with cave := { rcp.cave with mib := 64, segments := [{ seg := 0, filling := true, prefetched := false, dirty := false, poisoned := false, used := 0 }] } }, by decide +kernel⟩,
   ⟨withRcp (fun r => { r with cave := { r.cave with trackers := [tracker0] } }) on, 1, 0, { rcp with cave := { rcp.cave with trackers := [tracker0] } }, tracker0, by decide +kernel⟩,
   ⟨on.onFar 3 (fun f => { f with state := .usable }), 3, 0, 0, by decide +kernel⟩,
   ⟨on.onFar 3 (fun f => { f with state := .usable }), 3, 0, 0, by decide +kernel⟩⟩

theorem wit_MemoryAnswers :
    (∃ (s : State) (r : ReqId) (a n : Nat) (b : BankId) (_e : Ecc), bankOf s a = some b ∧ oneGranule a n = true ∧
    s.tiers.requests.find? (fun q => q.bank == b) = none ∧ slotFree s r b = true ∧ Reaches s r b) ∧
    (∃ (s : State) (r : ReqId) (a n : Nat) (b : BankId), bankOf s a = some b ∧ oneGranule a n = true ∧
    s.tiers.requests.find? (fun q => q.bank == b) = none ∧ slotFree s r b = true ∧ Reaches s r b) ∧
    (∃ (s : State) (r : ReqId) (a : Nat) (bs : List Byte) (b : BankId) (_e : Ecc), bankOf s a = some b ∧ oneGranule
    a bs.length = true ∧ s.tiers.requests.find? (fun q => q.bank == b) = none ∧ slotFree s r b = true ∧ Reaches s r
    b) ∧
    (∃ (s : State) (r : ReqId) (a n : Nat) (b : BankId) (_v : Serve), bankOf s a = some b ∧ oneGranule a n = true ∧
    ((∀ x ∈ s.tiers.requests, x.id ≠ r)) ∧ issuerDrains s r = false ∧ bankDrains s b = true) ∧
    (∃ (s : State) (r : ReqId) (a : Nat) (bs : List Byte) (b : BankId) (_v : Serve), bankOf s a = some b ∧
    oneGranule a bs.length = true ∧ ((∀ x ∈ s.tiers.requests, x.id ≠ r)) ∧ issuerDrains s r = false ∧ bankDrains s
    b = true) ∧
    (∃ (s : State) (a : Nat) (_v : Word32), atomicOk s a 4 = true) ∧
    (∃ (s : State) (a : Nat) (_v : Word), atomicOk s a 8 = true) ∧
    (∃ (s : State) (a : Nat) (_x _y : Word) (w : CasWidth), atomicOk s a (casBytes w) = true) ∧
    (∃ (s : State) (b : BankId) (q : MemReq), s.tiers.requests = [q] ∧ q.bank = b ∧ q.held = false ∧ slotRoom s
    q.id b = true ∧ issuerDrains s q.id = false) ∧
    (∃ (s : State) (a : Nat), s.tiers.placed = true ∧ (nearPlace s a).isSome = true) ∧
    (∃ (s : State) (w k : Nat), 0 < heldAt s (.curd w k) ∧ stallGoesOn s (.curd w k) = false) ∧
    (∃ (s : State) (c g : Nat), 0 < heldAt s (.near c g) ∧ stallGoesOn s (.near c g) = false) ∧
    (∃ (s : State) (b : BankId), 0 < heldAt s b ∧ stallGoesOn s b = true) ∧
    (∃ (s : State) (w k : Nat), w < s.wheels.length ∧ 0 < heldAt s (.curd w k)) ∧
    (∃ (s : State) (c : Nat), c ∈ s.tiers.channels) :=
  ⟨⟨onMem, ⟨0, 1, 0, 0, false⟩, 0xFF, 1, .curd 0 0, .clean, by decide +kernel, by decide +kernel, by decide +kernel, by decide +kernel, .inr (by decide +kernel)⟩,
   ⟨onMem, ⟨0, 1, 0, 0, true⟩, 0, 256, .curd 0 0, by decide +kernel, by decide +kernel, by decide +kernel, by decide +kernel, .inr (by decide +kernel)⟩,
   ⟨onMem, ⟨0, 1, 0, 0, false⟩, 0, zeros 256, .curd 0 0, .clean, by decide +kernel, by decide +kernel, by decide +kernel, by decide +kernel, .inr (by decide +kernel)⟩,
   ⟨onMem.onGate (fun g => { g with drains := [drain0 (.wheel 0) false] }), ⟨1, 1, 0, 0, false⟩, 0xFF, 1, .curd 0 0, .stalled, by decide +kernel⟩,
   ⟨onMem.onGate (fun g => { g with drains := [drain0 (.wheel 0) false] }), ⟨7, 1, 0, 0, false⟩, 0, zeros 256, .curd 0 0, .done .clean, by decide +kernel⟩,
   ⟨on, 4, 5#32, by decide +kernel⟩,
   ⟨on, 8, 5#64, by decide +kernel⟩,
   ⟨on, 1, 5#64, 6#64, .w8, by decide +kernel⟩,
   ⟨onMem.onTiers (fun t => { t with requests := [req0 false (.curd 0 0)] }), .curd 0 0, req0 false (.curd 0 0), by decide +kernel⟩,
   ⟨on, 0, by decide +kernel⟩,
   ⟨holding (.curd 7 263), 7, 263, by decide +kernel⟩,
   ⟨holding (.near 639 15), 639, 15, by decide +kernel⟩,
   ⟨(holding (.curd 7 263)).onTiers (fun t => { t with stalls := [(.curd 7 263, none)] }), .curd 7 263, by decide +kernel⟩,
   ⟨holding (.curd 7 263), 7, 263, by decide +kernel⟩,
   ⟨on, 511, by decide +kernel⟩⟩

theorem wit_ViewUpdatesAnswer :
    ∃ (s : State) (u : ViewUpdate) (us : List ViewUpdate), s.gate.pending = u :: us :=
  ⟨on.onGate (fun g => { g with pending := [update0] }), update0, [], by decide +kernel⟩

theorem wit_PowerLoopAnswers :
    (∃ (s : State) (_l : List Nat), s.power.rails = true ∧ s.warden.up = true) ∧
    (∃ s : State, s.power.rails = true ∧ s.power.paceLost = false ∧ s.power.lastRefresh + 20000000 ≤ s.now) ∧
    (∃ (s : State) (_v w : Rat), s.power.aux = true ∧ s.power.input = true ∧ s.power.nSamples ≠ 999 ∧ s.power.gain =
    1 ∧ nextGain 1 w s.power.unscaled ≠ 8 / 10 ∧ nextGain 1 w s.power.unscaled ≠ 125 / 100) ∧
    (∃ (s : State) (j : Rat), s.power.rails = true ∧ 0 ≤ j) ∧
    (∃ (s : State) (d : Nat), s.power.rails = true ∧ governed s d = true ∧ d ∉ s.power.droop ∧ s.power.droopCount =
    []) ∧
    (∃ (s : State) (d : Nat), d ∈ s.power.droop) ∧
    (∃ (s : State) (d t : Nat) (v : Int), s.power.deferred = [(d, v, t)] ∧ d ≠ 25 ∧ droopHolds s d = false ∧
    s.power.paceLost = false ∧ s.now ≤ t + 5000000) :=
  ⟨⟨on, [], by decide +kernel⟩,
   ⟨on, by decide +kernel⟩,
   ⟨on.onPower (fun p => { p with estimate := 0 }), 380, 500, by decide +kernel⟩,
   ⟨on, 0, by decide +kernel⟩,
   ⟨on, 15, by decide +kernel⟩,
   ⟨on.onPower (fun p => { p with droop := [3] }), 3, by decide +kernel⟩,
   ⟨on.onPower (fun p => { p with deferred := [(0, 5, 10 ^ 12)] }), 0, 10 ^ 12, 5, by decide +kernel⟩⟩

theorem wit_CoolingAnswers :
    (∃ (s : State) (d : Nat) (h _m : Rat), d < 34 ∧ s.power.aux = true ∧ s.power.rails = true ∧ governed s d = true
    ∧ (s.warden.stored.softLimit : Rat) < h) ∧
    (∃ (s : State) (d : Nat) (h _m : Rat), d < 34 ∧ s.power.aux = true ∧ d ∉ s.power.hot ∧ h ≤
    (s.warden.stored.softLimit : Rat)) ∧
    (∃ (s : State) (x y a b : Nat), s.power.rails = true ∧ a = min x y ∧ b = max x y ∧ isPair .temperature a b =
    true ∧ (PullKind.temperature, a, b) ∉ s.power.pulled ∧ 20 < pairDiff s .temperature a b) ∧
    (∃ (s : State) (c o : Rat) (u : State), s.power.aux = true ∧ s.warden.up = true ∧ u = s.onPower (fun p => { p
    with inletSamples := (c :: p.inletSamples).take 10, outlet := o }) ∧ inletMoved (inletT u) u = false) ∧
    (∃ (s : State) (t : Nat), s.power.inletHot = true ∧ s.power.coolSince = some t ∧ t + 60000000000 ≤ s.now) ∧
    (∃ s : State, s.power.flowOk = true ∧ s.power.aux = true) ∧
    (∃ (s : State) (d : Nat), s.power.aux = true ∧ d < 34) ∧
    (∃ (s : State) (_c : HaltCause), s.power.rails = true) ∧
    (∃ (s : State) (_c : HaltCause), s.power.rails = false ∧ s.power.haltInjected = false) ∧
    (∃ s : State, s.power.aux = true ∧ s.power.flowOk = false) :=
  ⟨⟨on, 0, 106, 104, by decide +kernel⟩,
   ⟨on, 33, 105, 104, by decide +kernel⟩,
   ⟨on.onPower (fun p => { p with junction := [(0, 90, 90), (1, 60, 60)] }), 1, 0, 0, 1, by decide +kernel⟩,
   ⟨on.onPower (fun p => { p with inletApplied := some 30, inletSamples := List.replicate 9 30 }), 30, 40, _, by decide +kernel, by decide +kernel, rfl, by decide +kernel⟩,
   ⟨on.onPower (fun p => { p with inletHot := true, coolSince := some 0 }), 0, by decide +kernel⟩,
   ⟨on, by decide +kernel⟩,
   ⟨on, 33, by decide +kernel⟩,
   ⟨on, .flowLost, by decide +kernel⟩,
   ⟨on.onPower (fun p => { p with rails := false }), .junctionTrip, by decide +kernel⟩,
   ⟨on.onPower (fun p => { p with flowOk := false }), by decide +kernel⟩⟩

theorem wit_InputAnswers :
    (∃ (s : State) (v : Rat), s.power.input = false ∧ s.power.aux = false ∧ 0 < v) ∧
    (∃ s : State, s.power.input = true ∧ s.power.hotSwap = false ∧ s.power.aux = false) ∧
    (∃ s : State, s.power.input = true) ∧
    (∃ (s : State) (v : Rat), s.power.input = true ∧ 420 < v) ∧
    (∃ (s : State) (v : Rat), s.power.lost = true ∧ 260 ≤ v ∧ v ≤ 410 ∧ ((s.power.volts < 250 → 265 < v)) ∧ ((420 <
    s.power.volts → v < 410)) ∧ s.life.state = .haltedCoolant) ∧
    (∃ (s : State) (v : Rat), s.power.lost = true ∧ 260 ≤ v ∧ v ≤ 410 ∧ ((s.power.volts < 250 → 265 < v)) ∧ ((420 <
    s.power.volts → v < 410)) ∧ s.life.state = .off ∧ s.life.romFailed = false ∧ s.life.stage = none) ∧
    (∃ (s : State) (_n : Nat), s.power.aux = true ∧ s.power.input = true ∧ s.warden.up = true) ∧
    (∃ (s : State) (n : Nat), s.power.aux = true ∧ 90 ≤ n ∧ n ≤ 100) ∧
    (∃ s : State, s.power.aux = true ∧ s.power.seated = false ∧ s.power.seatWait = false) ∧
    (∃ s : State, s.power.aux = true ∧ s.power.seated = true ∧ s.power.rails = false ∧ anyRail s = false ∧
    restartWaits s = false) ∧
    (∃ (s : State) (_b : Bool), s.power.aux = true) ∧
    (∃ s : State, s.power.aux = true) :=
  ⟨⟨State.reset, 400, by decide +kernel⟩,
   ⟨on.onPower (fun p => { p with aux := false }), by decide +kernel⟩,
   ⟨on, by decide +kernel⟩,
   ⟨on, 421, by decide +kernel⟩,
   ⟨(on.onPower (fun p => { p with lost := true, volts := 249 })).onLife (fun l => { l with state := .haltedCoolant }), 266, by decide +kernel⟩,
   ⟨(on.onPower (fun p => { p with lost := true, volts := 421 })).onLife (fun l => { l with state := .off }), 409, by decide +kernel⟩,
   ⟨on, 50, by decide +kernel⟩,
   ⟨on, 90, by decide +kernel⟩,
   ⟨on.onPower (fun p => { p with seated := false }), by decide +kernel⟩,
   ⟨on.onPower (fun p => { p with rails := false }), by decide +kernel⟩,
   ⟨on, true, by decide +kernel⟩,
   ⟨on, by decide +kernel⟩⟩

theorem wit_MarginsAnswer :
    (∃ (s : State) (d : Nat) (m : Rat), s.power.rails = true ∧ s.warden.up = true ∧ governed s d = true ∧ 4 ≤ m) ∧
    (∃ (s : State) (d : Nat) (m : Rat), s.power.rails = true ∧ s.warden.up = true ∧ governed s d = true ∧ m < 4 ∧
    850 ≤ floorOf s d) ∧
    (∃ (s : State) (d : Nat) (m : Rat), s.power.rails = true ∧ s.warden.up = true ∧ governed s d = true ∧ m < 4 ∧
    floorOf s d < 850 ∧ d < s.ageing.plans.length) ∧
    (∃ (s : State) (w n : Nat) (_x : WheelScan), w < 8 ∧ s.power.rails = true ∧ s.serving = true ∧ s.warden.up =
    true ∧ w ∉ s.power.wheelsOff ∧ nth s.gate.view.wheels w .fenced = .usable ∧ replanDue s w = some n ∧ wheelBusy
    s w = false ∧ (s.wheel w).idleSince + 1000000000 ≤ s.now ∧ startSubmitted s w = false) ∧
    (∃ (s : State) (w n : Nat) (_x : WheelScan), w < 8 ∧ s.power.rails = true ∧ s.serving = true ∧ s.warden.up =
    true ∧ w ∉ s.power.wheelsOff ∧ nth s.gate.view.wheels w .fenced = .usable ∧ replanDue s w = some n ∧ wheelBusy
    s w = false ∧ (s.wheel w).idleSince + 1000000000 ≤ s.now ∧ startSubmitted s w = true) ∧
    (∃ (s : State) (w n : Nat), w < 8 ∧ s.warden.up = true ∧ nth s.ageing.overduePosted w false = false ∧ replanDue
    s w = some n ∧ n + 168 ≤ poweredHours s) :=
  ⟨⟨on, 15, 4, by decide +kernel⟩,
   ⟨{ on with ageing := { on.ageing with plans := List.replicate 16 { Plan.reset with floor := 850 } } }, 0, 3, by decide +kernel⟩,
   ⟨on, 15, 3, by decide +kernel⟩,
   ⟨{ on with ageing := { on.ageing with dueSince := List.replicate 8 (some 0) } }, 7, 0, scan0, by decide +kernel⟩,
   ⟨{ withEntry (entry 2 0 1 []) (withRcp id on) with ageing := { on.ageing with dueSince := List.replicate 8 (some 0) } }, 0, 0, scan0, by decide +kernel⟩,
   ⟨{ on with ageing := { on.ageing with dueSince := List.replicate 8 (some 0), poweredNs := 168 * 3600 * 10 ^ 9 } }, 7, 0, by decide +kernel⟩⟩

theorem wit_BringupStagesAnswer :
    (∃ (s : State) (_ok _r : Bool) (_m _i : Nat), s.life.stage = some 0 ∧ s.power.aux = true) ∧
    (∃ (s : State) (_a _b : SlotCheck), s.life.stage = some 1 ∧ s.power.aux = true ∧ s.life.stageStart ≤ s.now) ∧
    (∃ (s : State) (_r : Stage2Result), s.life.stage = some 2 ∧ stage2Missing s = []) ∧
    (∃ (s : State) (_r : Stage2Result), s.life.stage = some 2 ∧ stage2Missing s ≠ []) ∧
    (∃ s : State, s.life.stage = some 3 ∧ s.power.rails = true) ∧
    (∃ (s : State) (_r : Stage4Result), s.life.stage = some 4 ∧ s.power.rails = true) ∧
    (∃ (s : State) (_r : Stage5Result), s.life.stage = some 5 ∧ s.power.rails = true) ∧
    (∃ (s : State) (_r : Stage6Result), s.life.stage = some 6 ∧ s.power.rails = true ∧ (hostQualified s = true ∨
    s.life.hostWaitExpired = true)) ∧
    (∃ (s : State) (l : List (Nat × WheelScan)), s.life.stage = some 7 ∧ s.power.rails = true ∧ (plannedWheels
    s).all (fun w => l.any (fun p => p.1 == w)) = true) ∧
    (∃ s : State, s.life.stage = some 8) ∧
    (∃ s : State, s.life.stage = some 6 ∧ hostQualified s = false ∧ s.life.hostWaitExpired = false ∧
    s.life.stageStart + s.warden.stored.hostWait * 1000000000 ≤ s.now) ∧
    (∃ (s : State) (n : Nat), s.life.stage = some n ∧ s.power.aux = true ∧ n ≠ 2 ∧ stageClock s + stageMax s n *
    1000000 < s.now) :=
  ⟨⟨atStage 0, true, true, 0, 0, by decide +kernel⟩,
   ⟨atStage 1, ⟨[]⟩, ⟨[]⟩, by decide +kernel⟩,
   ⟨atStage 2, rails0, by decide +kernel⟩,
   ⟨(atStage 2).onPower (fun p => { p with flowOk := false }), rails0, by decide +kernel⟩,
   ⟨atStage 3, by decide +kernel⟩,
   ⟨atStage 4, ⟨[], []⟩, by decide +kernel⟩,
   ⟨atStage 5, tests0, by decide +kernel⟩,
   ⟨atStage 6, links0, by decide +kernel⟩,
   ⟨atStage 7, (List.range 8).map (fun w => (w, scan0)), by decide +kernel⟩,
   ⟨atStage 8, by decide +kernel⟩,
   ⟨(atStage 6).onHost (fun h => { h with linkUp := false }), by decide +kernel⟩,
   ⟨atStage 8, 8, by decide +kernel⟩⟩

theorem wit_HostLinkAnswers :
    (∃ (s : State) (_w _r : Nat) (_q : Bool), s.host.linkUp = false ∧ pcieOn s = true ∧ s.life.state = .off) ∧
    (∃ (s : State) (w r : Nat), s.host.linkUp = false ∧ pcieOn s = true ∧ (linkTrained w r true s).life = s.life ∧
    s.life.state = .failed) ∧
    (∃ s : State, s.host.linkUp = true) ∧
    (∃ (s : State) (c : HostResetCause), s.host.linkUp = true ∧ c ≠ .flr) ∧
    (∃ s : State, s.host.linkUp = true) ∧
    (∃ s : State, s.host.linkUp = true) :=
  ⟨⟨(on.onHost (fun h => { h with linkUp := false })).onLife (fun l => { l with state := .off }), 16, 64, true, by decide +kernel⟩,
   ⟨(on.onHost (fun h => { h with linkUp := false })).onLife (fun l => { l with state := .failed }), 8, 32, by decide +kernel⟩,
   ⟨on, by decide +kernel⟩,
   ⟨on, .perst, by decide +kernel⟩,
   ⟨on, by decide +kernel⟩,
   ⟨on, by decide +kernel⟩⟩

theorem wit_DrainsAnswer :
    (∃ (s : State) (d : Drain), s.gate.drains = [d] ∧ d.absorbing = false ∧ d.begun = true ∧ inFlight s d.scope =
    false) ∧
    (∃ (s : State) (d : Drain), s.gate.drains = [d] ∧ d.absorbing = false ∧ d.begun = true ∧ d.began + d.deadline *
    1000 ≤ s.now) ∧
    (∃ (s : State) (k : Nat) (d : Drain), s.gate.drains[k]? = some d ∧ d.absorbing = true) ∧
    (∃ (s : State) (k h : Nat) (d : Drain), s.gate.drains[k]? = some d ∧ d.scope = .recipe h ∧ d.begun = true ∧
    d.began + d.deadline * 1000 + 1000000 ≤ s.now) ∧
    (∃ (s : State) (k w : Nat) (d : Drain), s.gate.drains[k]? = some d ∧ d.scope = .wheel w ∧ d.begun = true ∧
    d.began + d.deadline * 1000 + 1000000 ≤ s.now) ∧
    (∃ (s u : State) (w : Nat) (r : Stage5Result), w < 8 ∧ (s.wheel w).resetTest = true ∧ u = (postSubstitutions s
    (respare s w (enterParts ((stage5Parts r).filter (fun p => bitsOf p.1 15 13 == w)) s))).onWheel w (fun x => { x
    with resetTest := false })) :=
  ⟨⟨draining (.wheel 0) false, drain0 (.wheel 0) false, by decide +kernel⟩,
   ⟨draining (.wheel 0) false, drain0 (.wheel 0) false, by decide +kernel⟩,
   ⟨draining (.wheel 0) true, 0, drain0 (.wheel 0) true, by decide +kernel⟩,
   ⟨draining (.recipe 1) false, 0, 1, drain0 (.recipe 1) false, by decide +kernel⟩,
   ⟨draining (.wheel 7) false, 0, 7, drain0 (.wheel 7) false, by decide +kernel⟩,
   ⟨on.onWheel 7 (fun w => { w with resetTest := true }), _, 7, tests0, by decide +kernel, by decide +kernel, rfl⟩⟩

theorem wit_WardenRestartsAnswer :
    (∃ s : State, s.power.aux = true ∧ s.warden.up = true) ∧
    (∃ (s : State) (d : Nat), s.warden.restartDet = some d ∧ s.power.aux = true ∧ s.warden.up = false ∧
    s.life.stage = none) :=
  ⟨⟨on, by decide +kernel⟩,
   ⟨on.onWarden (fun w => { w with up := false, restartDet := some 0xA00 }), 0xA00, by decide +kernel⟩⟩

theorem wit_RindAnswers :
    (∃ (s : State) (h i : Nat) (r : Recipe) (c : Capture) (e : CaptEntry) (bs : List Byte), s.recipe? h = some r ∧
    nextCapture s r = some (c, i) ∧ r.capt[i]? = some e ∧ readSection s r e = some bs ∧ s.warden.stored.rindEnable
    = true) ∧
    (∃ (s : State) (h i : Nat) (r : Recipe) (c : Capture) (e : CaptEntry), s.recipe? h = some r ∧ nextCapture s r =
    some (c, i) ∧ r.capt[i]? = some e ∧ s.warden.stored.rindEnable = true) ∧
    (∃ (s : State) (h : Nat) (r : Recipe) (c : Capture) (l : List Capture) (i : Image), s.recipe? h = some r ∧
    capturesOf s h = c :: l ∧ s.image? c.image = some i ∧ c.done.length = r.capt.length ∧ imageClosed s h i.step =
    true ∧ s.warden.stored.rindEnable = true) :=
  ⟨⟨capturing [] [0], 1, 0, { rcp with rindPending := [0] }, { recipe := 1, image := 4, done := [], firstPending := 0 }, { tensor := 5, mode := 1, rows := 1, cols := 4, master := nearBase, m := 0, ms := 0, v := 0, vs := 0 }, _, by decide +kernel, by decide +kernel, by decide +kernel, someOf (d := []) (by decide +kernel), by decide +kernel⟩,
   ⟨capturing [] [0], 1, 0, { rcp with rindPending := [0] }, { recipe := 1, image := 4, done := [], firstPending := 0 }, { tensor := 5, mode := 1, rows := 1, cols := 4, master := nearBase, m := 0, ms := 0, v := 0, vs := 0 }, by decide +kernel⟩,
   ⟨capturing [0] [], 1, { rcp with rindPending := [] }, { recipe := 1, image := 4, done := [0], firstPending := 0 }, [], img0, by decide +kernel⟩⟩

theorem wit_InjectionTicksAnswer :
    (∃ (s : State) (d : Nat) (p : InjPoint), s.events.points = [(d, p)] ∧ s.warden.up = true ∧ s.events.permit =
    true ∧ p.mode = 1 ∧ d ≠ 0x100 ∧ d ≠ 0x101) ∧
    (∃ (s : State) (d : Nat) (p : InjPoint), s.events.points = [(d, p)] ∧ s.warden.up = true ∧ s.events.permit =
    true ∧ p.mode = 3 ∧ d ≠ 0x100 ∧ d ≠ 0x101) ∧
    (∃ (s : State) (_d : Nat), s.events.permit = false) :=
  ⟨⟨injecting 1, 0x540, point0 1, by decide +kernel⟩,
   ⟨injecting 3, 0x540, point0 3, by decide +kernel⟩,
   ⟨on, 0x540, by decide +kernel⟩⟩

theorem wit_EveryCommandAnswersANextState :
    ∃ (_c : Instr) (s : State), Inv s :=
  ⟨.read .mailbox, on, on_inv⟩

theorem wit_QueueConfigurationIsChecked :
    ∃ (s : State) (q : Nat) (_v : Word), s.host.linkUp = true ∧ s.host.hostPower = .d0 ∧ q < 16 ∧
    s.host.queues.length = 16 :=
  ⟨on, 15, 0#64, by decide +kernel⟩

theorem wit_StandbySenseIsOnlyReported :
    ∃ (s : State) (_b : Bool), s.power.aux = true :=
  ⟨on, true, by decide +kernel⟩

theorem wit_SeveritiesAreFixed :
    (∃ d ∈ [0x012, 0x100, 0x101], True) ∧
    (∃ d ∈ [0x041, 0x111, 0x201, 0x232, 0x233, 0x234, 0x241, 0x301, 0x311, 0x313, 0x321, 0x403, 0x404, 0x405,
    0x406, 0x408, 0x409, 0x422, 0x424, 0x425, 0x510, 0x550, 0xA00, 0xA01, 0xA11, 0xB02, 0xB11, 0xB20], True) ∧
    (∃ d ∈ [0x322, 0x407, 0x521, 0x522, 0x523, 0x530, 0x531, 0x540, 0x543, 0x544, 0x609, 0x710, 0x722, 0x920,
    0xA10], True) ∧
    (∃ d, 0x7E0 ≤ d ∧ d ≤ 0x7E9) ∧
    (∃ d, 0x800 ≤ d ∧ d ≤ 0x820) ∧
    (∃ d ∈ [0x000, 0x001, 0x010, 0x011, 0x020, 0x030, 0x031, 0x040, 0x102, 0x110, 0x120, 0x121, 0x200, 0x210,
    0x211, 0x240, 0x242, 0x400, 0x401, 0x420, 0x520, 0x541, 0x542, 0x545, 0x546, 0x552, 0x60A, 0x720, 0x900, 0x930,
    0x931, 0xA20, 0xB01, 0xB30], True) ∧
    (∃ d, 0x600 ≤ d ∧ d ≤ 0x607) ∧
    (∃ d ∈ [0x002, 0x112, 0x220, 0x230, 0x231, 0x300, 0x310, 0x312, 0x320, 0x402, 0x421, 0x423, 0x551, 0x721,
    0x901, 0x921, 0xA21, 0xA30, 0xB00, 0xB10, 0xB21], True) :=
  ⟨⟨0x101, by decide +kernel⟩,
   ⟨0xB20, by decide +kernel⟩,
   ⟨0xA10, by decide +kernel⟩,
   ⟨0x7E9, by decide +kernel⟩,
   ⟨0x820, by decide +kernel⟩,
   ⟨0xB30, by decide +kernel⟩,
   ⟨0x607, by decide +kernel⟩,
   ⟨0xB21, by decide +kernel⟩⟩

theorem wit_NarrowCodesAreRead :
    (∃ c < 8, True) ∧
    (∃ cs : List Nat, ((∀ c ∈ cs, c < 4))) ∧
    (∃ (r : Rounding) (_sc : Scale) (_x : Val), ((∀ u, r = .stochastic u → u < 2 ^ 24))) :=
  ⟨⟨7, by decide +kernel⟩,
   ⟨[0, 1, 2, 3], by decide +kernel⟩,
   ⟨.nearest, { byte := 0, exp := 0, raw := 0 }, .zero, by intro u h; cases h⟩⟩

theorem wit_AccumulatorValuesAreExact :
    (∃ w : BitVec 48, bitsOf w.toNat 46 37 = 1023 ∧ bitsOf w.toNat 36 0 ≠ 0) ∧
    (∃ w : BitVec 48, (bitsOf w.toNat 46 37 ≠ 0 ∨ bitsOf w.toNat 36 0 = 0) ∧ (bitsOf w.toNat 46 37 ≠ 1023 ∨ bitsOf
    w.toNat 36 0 = 0)) ∧
    (∃ (w : BitVec 48) (_v : Val), w48Val w = .nan) ∧
    (∃ (w : BitVec 48) (b : Bool), w48Val w = .inf b) :=
  ⟨⟨0x7FE000000001#48, by decide +kernel⟩,
   ⟨0x000000000000#48, by decide +kernel⟩,
   ⟨0x7FF000000000#48, .zero, by decide +kernel⟩,
   ⟨0x7FE000000000#48, false, by decide +kernel⟩⟩

theorem wit_CompletionsGoToTheRing :
    ∃ (s : State) (q : Nat) (e : List Byte), q < s.host.queues.length ∧ e.length = 64 ∧ s.host.bar0.wf = true :=
  ⟨on, 15, zeros 64, by decide +kernel⟩

theorem wit_TumblerAddsAreExact :
    ∃ (s : State) (h _tumb _n : Nat) (_iss : Issuer) (r : Recipe), s.recipe? h = some r :=
  ⟨withRcp id on, 1, 0, 1, Issuer.ofTask 0 0 false, rcp, by decide +kernel⟩

theorem wit_RegisterWritesLeaveTheRest :
    ∃ (i : Instr) (s t : State), (((∃ q v, i = .submissionDoorbell q v) ∨ (∃ q v, i = .cqHeadWrite q v) ∨ (∃ q v, i
    = .qcfgWrite q v) ∨ (∃ v, i = .bar2BaseWrite v) ∨ (∃ b a bs, i = .genericRegisterWrite b a bs) ∨ (∃ v, i =
    .mailboxDoorbell v) ∨ (∃ v, i = .rspHeadWrite v) ∨ (∃ q, i = .completionRingStall q) ∨ (∃ r, i =
    .interruptDelayExpiry r))) ∧ exec i s = .next t :=
  ⟨.submissionDoorbell 0 3, on, _, Or.inl ⟨_, _, rfl⟩, rfl⟩

theorem wit_ReadsLeaveTheDevice :
    ∃ (i : Instr) (s t : State), (((∃ p, i = .read p) ∨ (∃ p b, i = .probe p b) ∨ (∃ p, i = .alertClearingRead p) ∨
    (∃ p, i = .subscribe p) ∨ (∃ k, i = .notificationPeriod k) ∨ (∃ k, i = .subscriptionExpiry k) ∨ (∃ p, i =
    .frameDiscard p))) ∧ exec i s = .next t :=
  ⟨.notificationPeriod 0, on, _, Or.inr (Or.inr (Or.inr (Or.inr (Or.inl ⟨_, rfl⟩)))), rfl⟩

theorem wit_EventsReachTheRing :
    ∃ (s : State) (r : EventRec) (rs : List EventRec), s.events.transit = r :: rs ∧ s.events.en = true ∧ s.near.wf
    = true :=
  ⟨on.onEvents (fun e => { e with transit := [ev0], en := true, cfg := 0x0000000800000001#64 }), ev0, [], by decide +kernel⟩

theorem wit_ViewUpdatesNumberTheView :
    ∃ (s : State) (u : ViewUpdate) (us : List ViewUpdate), s.gate.pending = u :: us ∧ s.gate.gen + 1 < 2 ^ 64 :=
  ⟨on.onGate (fun g => { g with pending := [update0] }), update0, [], by decide +kernel⟩

theorem wit_HostFunctionResetClears :
    ∃ (s : State) (_c : HostResetCause), s.host.linkUp = true ∧ s.recipes = [] :=
  ⟨on, .perst, by decide +kernel⟩

theorem wit_AtomicsTouchTheirOperand :
    ∃ (s : State) (_a : Nat), s.near.wf = true :=
  ⟨on, 0, by decide +kernel⟩

theorem wit_StoresReachScratchOnly :
    (∃ (c : Core) (a n v : Nat) (s t : State), s.dev.wf = true ∧ storeScalar c a n v s = .ok t) ∧
    (∃ (_c : Core) (a n _v : Nat) (_s : State), a % n ≠ 0) ∧
    (∃ (c : Core) (a n _v : Nat) (_s : State), a % n = 0 ∧ (¬ (ownBase ≤ a ∧ a + n ≤ ownBase + (if c.priv = .user
    then userScratch else 65536))) ∧ (¬ (scratchBase ≤ a ∧ a < scratchEnd))) ∧
    (∃ (c : Core) (a n l : Nat) (s : State), ownBase ≤ a ∧ a + n ≤ ownBase + userScratch ∧ a % n = 0 ∧ logicalOf s
    c.id = some l) ∧
    (∃ (c : Core) (a n _v : Nat) (s : State) (id : CoreId), c.priv = .user ∧ scratchBase ≤ a ∧ a < scratchEnd ∧ a %
    n = 0 ∧ coreOfLogical s ((a - scratchBase) / 65536) = some id ∧ isMate s c id = false) :=
  ⟨⟨coreAt 0 0 0, ownBase, 8, 5, onCore (coreAt 0 0 0) [], okOr on (storeScalar (coreAt 0 0 0) ownBase 8 5 (onCore (coreAt 0 0 0) [])), by decide +kernel, okOf (d := on) (by decide +kernel)⟩,
   ⟨coreAt 0 0 0, ownBase + 1, 8, 5, on, by decide +kernel⟩,
   ⟨coreAt 0 0 0, 0x8000, 8, 5, on, by decide +kernel⟩,
   ⟨coreAt 0 0 0, ownBase + userScratch - 8, 8, 0, on, by decide +kernel⟩,
   ⟨coreAt 0 0 0, scratchAt 5, 8, 5, on, ⟨0, 0, 5⟩, by decide +kernel⟩⟩

theorem wit_HostRegistersAfterReset :
    ∃ q < 16, True :=
  ⟨15, by decide +kernel⟩

theorem wit_IntegerAddsWriteTheirDestination :
    (∃ (s : State) (c : CoreId) (k : Core) (rd rs1 rs2 : Nat), rd < 32 ∧ rs1 < 32 ∧ rs2 < 32 ∧ s.core? c = some k ∧
    executing s k = true ∧ fetch k = .word (encR 0x33 0 0 rd rs1 rs2) 4) ∧
    (∃ (s : State) (c : CoreId) (k : Core) (rd rs1 imm : Nat), rd < 32 ∧ rs1 < 32 ∧ imm < 4096 ∧ s.core? c = some k
    ∧ executing s k = true ∧ fetch k = .word (encI 0x13 0 rd rs1 imm) 4) ∧
    (∃ (k : Core) (i _j v : Nat), 0 < i ∧ i < k.x.length ∧ v < 2 ^ 64) :=
  ⟨⟨onCore (coreAt (encR 0x33 0 0 31 31 31) 0 0) [], ⟨0, 0, 0⟩, coreAt (encR 0x33 0 0 31 31 31) 0 0, 31, 31, 31, by decide +kernel⟩,
   ⟨onCore (coreAt (encI 0x13 0 31 31 4095) 0 0) [], ⟨0, 0, 0⟩, coreAt (encI 0x13 0 31 31 4095) 0 0, 31, 31, 4095, by decide +kernel⟩,
   ⟨coreAt 0 0 0, 31, 0, 2 ^ 64 - 1, by decide +kernel⟩⟩

/-- The clauses of RequestsAreCheckedBeforeTheirEffect: a full queue, a cached response, a repeat of the operation that
runs, a failed check. -/
theorem wit_RequestsAreChecked_clauses :
    (∃ (s : State) (src : OapSrc) (p : Peer) (b : List Byte), frameOf s src = some (p, b) ∧ awake s = true ∧
      frameBad b = false ∧ rowOf s (parseFrame p b) = .read ∧ s.life.romFailed = false ∧ 32 ≤ waitingAt src) ∧
    (∃ (s : State) (src : OapSrc) (p : Peer) (b : List Byte), frameOf s src = some (p, b) ∧ awake s = true ∧
      frameBad b = false ∧ rowOf s (parseFrame p b) = .read ∧ s.life.romFailed = false ∧ waitingAt src < 32 ∧
      repeatsRunning (takeFrame src s) (parseFrame p b) = false ∧
      (cachedFor (takeFrame src s) (parseFrame p b)).isSome = true) ∧
    (∃ (s : State) (src : OapSrc) (p : Peer) (b : List Byte), frameOf s src = some (p, b) ∧ awake s = true ∧
      frameBad b = false ∧ rowOf s (parseFrame p b) = .read ∧ s.life.romFailed = false ∧ waitingAt src < 32 ∧
      repeatsRunning (takeFrame src s) (parseFrame p b) = true) ∧
    (∃ (s : State) (src : OapSrc) (r : Req) (t : State), FrameTaken s src .read r t ∧ isOk (precheck t r) = false) :=
  let b := frame 1 (od 0 4 0) []
  let r := freq 1 (od 0 4 0) []
  ⟨⟨on, .field 1 2 32 b, _, b, rfl, by decide +kernel⟩,
   ⟨on.onWarden (fun w => { w with cache := [{ peer := r.peer, seq := r.seq, time := 970 * 10 ^ 9, frame := [] }] }),
    .field 1 2 31 b, _, b, rfl, by decide +kernel⟩,
   ⟨on.onWarden (fun w => { w with run := some { runOp0 with peer := r.peer, seq := r.seq } }),
    .field 1 2 0 b, _, b, rfl, by decide +kernel⟩,
   ⟨on, _, _, _, frameTaken (s := on) (op := 1) (obj := od 0 0xFFF 0) (pay := []) (by decide +kernel), by decide +kernel⟩⟩


/-! ### Well-formedness: one ill-formed command for each check, refused -/

theorem test_wf_refuses_queue : Instr.wf (.submissionDoorbell 16 0) = false := by decide
theorem test_wf_refuses_ring_index : Instr.wf (.cqHeadWrite 0 4096) = false := by decide
theorem test_wf_refuses_bar2_offset : Instr.wf (.bar2Access (2 ^ 36) (.read 1)) = false := by decide
theorem test_wf_refuses_bar_offset : Instr.wf (.genericRegisterWrite .bar0 (2 ^ 26) []) = false := by decide
theorem test_wf_refuses_handle : Instr.wf (.stepComplete (2 ^ 32)) = false := by decide
theorem test_wf_refuses_wheel : Instr.wf (.vatChangeApply 8) = false := by decide
theorem test_wf_refuses_hoop : Instr.wf (.hoopPick 0 80) = false := by decide
theorem test_wf_refuses_slot : Instr.wf (.riscvInstruction ⟨0, 0, 17⟩) = false := by decide
theorem test_wf_refuses_carry : Instr.wf (.carryComplete ⟨0, 0, 0⟩ 8 .done) = false := by decide
theorem test_wf_refuses_task : Instr.wf (.taskStart ⟨1, 2 ^ 32⟩) = false := by decide
theorem test_wf_refuses_descriptor : Instr.wf (.mac ⟨2 ^ 32, 0, 0⟩) = false := by decide
theorem test_wf_refuses_port : Instr.wf (.portRetrain 32 .codewords) = false := by decide
theorem test_wf_refuses_flit : Instr.wf (.nullFlit 0 []) = false := by decide
theorem test_wf_refuses_far_port : Instr.wf (.caveDeviceErrorReport 4 false 0) = false := by decide
theorem test_wf_refuses_link : Instr.wf (.qualificationDwellEnd (.far 4) .pass) = false := by decide
theorem test_wf_refuses_source : Instr.wf (.read (.field (2 ^ 128) 0 0 [])) = false := by decide
theorem test_wf_refuses_object : Instr.wf (.blockSessionTimeout (2 ^ 32)) = false := by decide
theorem test_wf_refuses_width : Instr.wf (.hostLinkTraining 17 64 true) = false := by decide
theorem test_wf_refuses_detector : Instr.wf (.injectionTick 4096) = false := by decide
theorem test_wf_refuses_training : Instr.wf (.retrainComplete 0 { train0 with localMask := 16 }) = false := by decide
theorem test_wf_refuses_ber : Instr.wf (.preFecBerWindow 0 (-1) 0 0) = false := by decide +kernel
theorem test_wf_refuses_bank : Instr.wf (.bankFailed (.curd 0 264)) = false := by decide
theorem test_wf_refuses_channel : Instr.wf (.channelSymbolRateExceeded 640) = false := by decide
theorem test_wf_refuses_atomic : Instr.wf (.adds32 2 0) = false ∧ Instr.wf (.add64 4 0) = false := by decide
theorem test_wf_refuses_activity : Instr.wf (.paceLineRefresh []) = false := by decide
theorem test_wf_refuses_watts : Instr.wf (.shuntSample 380 (-1)) = false := by decide +kernel
theorem test_wf_refuses_domain : Instr.wf (.junctionTrip 34) = false := by decide
theorem test_wf_refuses_volts : Instr.wf (.powerUp (-1)) = false := by decide +kernel
theorem test_wf_refuses_sweep : Instr.wf (.idleWindowReplan 0 { scan0 with vat := List.replicate 15 [] }) = false := by
  decide +kernel
theorem test_wf_refuses_slot_id : Instr.wf (.auxPowerUp true 0 true 64) = false := by decide
theorem test_wf_refuses_stack : Instr.wf (.stage4Hbm ⟨[20], []⟩) = false := by decide
theorem test_wf_refuses_tests : Instr.wf (.stage5Tests { tests0 with badRows := [(0, 1040)] }) = false := by decide
theorem test_wf_refuses_links : Instr.wf (.stage6Links { links0 with far := [] }) = false := by decide
theorem test_wf_refuses_charge : Instr.wf (.holdUpChargeThreshold 101) = false := by decide

/-! ### Single steps and encodings, with results worked out from the spec -/

/-- The worked example of R124: bank and row of 0x0000_8044_6100 with 256 and with 255 banks. -/
theorem test_curd_bank :
    curdPlace (on.onWheel 2 (fun w => { w with bankList := List.range 256 })) 0x80446100 = some (2, 165, 68) ∧
    curdPlace (on.onWheel 2 (fun w => { w with bankList := List.range 255 })) 0x80446100 = some (2, 233, 68) := by
  decide +kernel

/-- The worked example of R131: channel and offset of 0x0000_0012_3456_7000, whole and with index 103 mapped out. -/
theorem test_near_channel :
    nearPlace (on.onTiers (fun t => { t with channels := List.range 640 })) 0x1234567000 = some (501, 122167296) ∧
    (nearPlace (on.onTiers (fun t => { t with channels := (List.range 640).filter (· != 103) })) 0x1234567000).map (·.1) =
      some 367 := by decide +kernel

/-- The worked example of R59: one E2M1 block, largest magnitude 13.0, under rule 0 and rule 1. -/
theorem test_narrow_block :
    let xs := [some (Val.fin false 13 0), some (.fin true 5 0), some (f32.decode 0x3E4CCCCD)] ++
      List.replicate 29 (some Val.zero)
    (narrowBlock 6 0 (allNearest 32) xs).1 = 0x80 ∧ (narrowBlock 6 0 (allNearest 32) xs).2.1.take 3 = [7, 12, 0] ∧
    (narrowBlock 6 0 (allNearest 32) xs).2.2 = { flush := 1 } ∧
    (narrowBlock 6 1 (allNearest 32) xs).1 = 0x81 ∧ (narrowBlock 6 1 (allNearest 32) xs).2.1.take 1 = [5] := by
  decide +kernel

/-- The fields of the worked MAC_CLEAR descriptor (W0 to W3). -/
theorem test_mac_fields :
    let ws := [0x1020040000000002, 0x0000000000034040, 0x0101000000014041, 0x0000000A10000800]
    opOf ws = 2 ∧ rowsOf ws = 1024 ∧ colsOf ws = 1024 ∧ arrOf ws = 0 ∧ paneOf ws = 0 ∧ waitId ws = 0x4040 ∧ waitVal ws = 3 ∧
      tagOf ws = 0x0101 ∧ sigId ws = 0x4041 ∧ sigInc ws = 1 ∧ kOf ws = 2048 ∧ fmtA ws = 8 ∧ fmtB ws = 8 ∧ eyeA ws = true ∧
      eyeB ws = false := by decide +kernel

/-- The fields of the worked DRAIN descriptor (W3). -/
theorem test_drain_fields :
    let ws := [0x1020040000000003, 0, 0, 0x00000000100D8021]
    opOf ws = 3 ∧ orient ws = 1 ∧ fmtO0 ws = 8 ∧ biasOn ws = true ∧ fnOf ws = 1 ∧ slotOf ws = 3 ∧ stashOn ws = true ∧
      fmtSt ws = 0 := by decide +kernel

/-- kz.quant a0, a1, a2 encodes as 0x00C5_850B (R213). -/
theorem test_kz_quant_word : encR 0x0B 0 0 10 11 12 = 0x00C5850B := by decide +kernel

/-- The objects of the worked injection example (R471). -/
theorem test_object_numbers : od 0x60 0 0 = 0x60000000 ∧ od 0x61 0x311 0 = 0x61311000 ∧ od 0x60 4 785 = 0x60004311 := by
  decide +kernel

/-- The worked event record: bytes 8 to 15 of record 0 (R476). -/
theorem test_record_bytes :
    slice (recordBytes { ev0 with det := 0x405, unit := 0x8000D, sev := 4, warden := true }) 8 8 =
      [0x0D#8, 0x00#8, 0x58#8, 0x40#8, 0x00#8, 0x00#8, 0x24#8, 0x00#8] := by decide +kernel

/-- The worked windows of R180: 29 discards of 64 halve c from 16 to 8, and 2,048 task slots then give 256. -/
theorem test_throttle :
    let s := throttle 1 false (withRcp (fun r => { r with
      winVerdicts := 63, winDiscards := 28, specShare := 16, taskSlots := List.replicate 8 2048 }) on)
    (s.recipe? 1).map (fun r => (r.throttle, specPool r 3 r.throttle)) = some (8, 256) := by decide +kernel

/-- The parts of the worked T_bound of R192: 38.0 ms and 1,800 x 4 us. -/
theorem test_t_bound : tBound { rcp with cpt := 38000, d := 1800 } = 45200000 := by decide +kernel

/-- CRC-32C of the ASCII digits 1 to 9 is 0xE306_9283. -/
theorem test_crc : crc32c [0x31#8, 0x32#8, 0x33#8, 0x34#8, 0x35#8, 0x36#8, 0x37#8, 0x38#8, 0x39#8] = 0xE3069283 := by
  decide +kernel

/-- A doorbell while RDY is clear is dropped and counted (R352). -/
theorem test_doorbell_dropped :
    (outOr on (exec (.submissionDoorbell 0 3) (on.onHost (fun h => { h with rdy := false })))).host.droppedDb = 1 := by
  decide +kernel

/-- COPY of eight bytes of host memory (R358, R359). -/
theorem test_copy :
    memRead (outOr on (exec (.copy none) (withEntry (entry 4 0 0 (copyOps 8))
      { on with hostMem := memWrite [] 0 [1#8, 2#8, 3#8] }))).hostMem 4096 4 = [1#8, 2#8, 3#8, 0#8] := by decide +kernel

/-- ADDS32 saturates at 2^32 - 1 (R138). -/
theorem test_adds32_saturates :
    memLe (outOr on (exec (.adds32 0 2) { on with near := memWrite [] 0 (leBytes 4 0xFFFFFFFF) })).near 0 8 = 0xFFFFFFFF := by
  decide +kernel

/-- An injection point without the permit is refused with 0x0506 (R471). -/
theorem test_injection_refused :
    (outOr on (exec (.injectionPointWrite (fsrc 2 (od 0x61 0x311 0) [0#8, 0#8, 0#8, 1#8])) on)).warden.fieldOut.map
      (fun p => (beAt p.2.2 3 1, beAt p.2.2 14 2)) = [(2, 0x0506)] := by decide +kernel

/-- ADDI x1, x0, 5 writes 5 and moves the pc by 4 (R196). -/
theorem test_addi :
    ((outOr on (exec (.riscvInstruction ⟨0, 0, 0⟩) (onCore (coreAt (encI 0x13 0 1 0 5) 0 0) []))).core? ⟨0, 0, 0⟩).map
      (fun k => (k.rx 1, k.pc.toNat)) = some (5, nearBase + 4) := by decide +kernel

/-- A MAC_CLEAR of one row, one column and K = 1 in BF16: 2.0 times 3.0 leaves 6.0 (R44, R76). -/
theorem test_mac_clear :
    let s := onVatOf [2 + 2 ^ 32 + 2 ^ 43, 0, 0, 1, 0, 0, 0, 0, 256]
    let m := memWrite (memWrite [] 0 (leBytes 2 0x4000)) 256 (leBytes 2 0x4040)
    ((outOr on (exec (.macClear d0) { s with dev := m })).vat 0).cells.map (fun c => (w48Val c.2).eqv (.ofInt 6)) = [true] := by decide +kernel

/-- A DRAIN of that cell to BF16 stores 0x40C0 (R110, R119). -/
theorem test_drain :
    let s := onVatOf [3 + 2 ^ 32 + 2 ^ 43, 0, 0, 0, 512]
    memLe (outOr on (exec (.drain d0) (s.onVat 0 (fun v => { v with
      cells := [((false, 0, 0), (w48Round (.ofInt 6)).1)],
      banks := [{ block := 0, odd := false, count := 1, poison := 0, sub := 0 }] })))).dev 512 2 = 0x40C0 := by
  decide +kernel

/-- A span add of 3 to a span tumbler (R163, R169). -/
theorem test_span_add :
    let s := withRcp (fun r => { r with job := some job0, tumblers := [{ Tumbler.plain 0 with kind := 2 }] }) onLink
    ((spanAddLocal 1 0 3 0 s).recipe? 1).map (·.value 0) = some 3 := by
  decide +kernel

/-- R398: at a junction of 60 °C and a limit of 105 °C a margin loses 0.04% × 45 = 1.8%. -/
theorem test_margin_allowance : allowed 105 60 (98 / 10) = 8 := by decide +kernel

/-- R398: tap 0 reaches 8% at 0.665 V, tap 1 at 0.66 V and tap 2 at 0.60 V: the lowest tap at or below 0.66 V is 1. -/
theorem test_choosePlan_takes_lowest_tap :
    choosePlan [List.replicate 13 7 ++ List.replicate 38 8, List.replicate 12 7 ++ List.replicate 39 8,
      List.replicate 51 8] = some (1, 660) := by decide +kernel

/-- R382: the first two CRIT domains in the order of admission and wheel number are privileged, also where a later recipe
names the first again. -/
theorem test_critical_domains_order :
    critDomains { on with recipes := [{ rcp with crit := [0, 1, 1, 1, 0, 0, 0, 0] }, { rcp with crit := [0, 1, 0, 0, 0, 0, 0, 0] }] }
      = [1, 2] := by decide +kernel

end Sys2Proof.Machine.Tests
end

section
/-! SUPPORT and PROOFS. The machine as a whole: the state after reset meets the invariant of Safety.lean, every command
answers a next state that keeps it (with the factory data, the queue and the device time base), and every step keeps
the invariant. -/

namespace Sys2Proof.Machine

/-! ### Reset -/

/-- The fixed numbers of units at reset. -/
theorem reset_unitsWhole : UnitsWhole State.reset :=
  ⟨List.length_replicate, List.length_replicate, List.length_replicate, List.length_replicate⟩

/-- The Warden's lists are empty at reset. -/
theorem reset_listsBounded : ListsBounded State.reset :=
  ⟨Nat.zero_le _, Nat.zero_le _, Nat.zero_le _⟩

/-- Settles O2: the stores are empty but for the MSI-X table, which is in canonical form, every kind of unit has its
number, and the lists are empty. -/
theorem resetMeetsTheInvariant : Obligations.ResetMeetsTheInvariant :=
  ⟨reset_storesCanonical, reset_unitsWhole, reset_listsBounded⟩

/-! ### Commands -/

section
variable {F : Fixed} {s : State}

/-- Every command answers a next state that meets the invariant and has the same fixed part: the law of its own meaning,
in the order and the families of the opcode table. -/
theorem exec_kept (i : Instr) (h : Kept F s) : KeptO F (exec i s) :=
  match i with
  -- Host link, queues and admission
  | .submissionDoorbell q tail => execSubmissionDoorbell_kept q tail h
  | .cqHeadWrite q index => execCqHeadWrite_kept q index h
  | .qcfgWrite q v => execQcfgWrite_kept q v h
  | .bar2BaseWrite v => execBar2BaseWrite_kept v h
  | .bar2Access off op => execBar2Access_kept off op h
  | .genericRegisterWrite bar off bytes => execGenericRegisterWrite_kept bar off bytes h
  | .invalidSubmissionEntry => execInvalidSubmissionEntry_kept h
  | .admitRecipe => execAdmitRecipe_kept h
  | .startStep => execStartStep_kept h
  | .startStepHeldBegin recipe => execStartStepHeldBegin_kept recipe h
  | .retireRecipe => execRetireRecipe_kept h
  | .copy busError => execCopy_kept busError h
  | .copyQueuedBegin busError => execCopyQueuedBegin_kept busError h
  | .snapshotNow => execSnapshotNow_kept h
  | .restore nand => execRestore_kept nand h
  | .restoreBodyWritten recipe => execRestoreBodyWritten_kept recipe h
  | .queryCapacity => execQueryCapacity_kept h
  | .fenceQueue => execFenceQueue_kept h
  | .etCfgWrite v => execEtCfgWrite_kept v h
  | .etHeadWrite v => execEtHeadWrite_kept v h
  | .eventCollectorWrite k => execEventCollectorWrite_kept k h
  | .interruptDelayExpiry ring => execInterruptDelayExpiry_kept ring h
  | .hostFunctionReset cause => execHostFunctionReset_kept cause h
  | .hostLinkTraining width rate qualified => execHostLinkTraining_kept width rate qualified h
  -- Warden and Object Access Protocol
  | .mailboxDoorbell v => execMailboxDoorbell_kept v h
  | .rspHeadWrite v => execRspHeadWrite_kept v h
  | .read src => execRead_kept src h
  | .alertClearingRead src => execAlertClearingRead_kept src h
  | .write src => execWrite_kept src h
  | .execute src => execExecute_kept src h
  | .probe src allNodes => execProbe_kept src allNodes h
  | .abort src => execAbort_kept src h
  | .subscribe src => execSubscribe_kept src h
  | .blockBegin src => execBlockBegin_kept src h
  | .blockData src => execBlockData_kept src h
  | .blockEnd src => execBlockEnd_kept src h
  | .frameDiscard src => execFrameDiscard_kept src h
  | .notificationPeriod k => execNotificationPeriod_kept k h
  | .subscriptionExpiry k => execSubscriptionExpiry_kept k h
  | .blockSessionTimeout obj => execBlockSessionTimeout_kept obj h
  | .capWrite src => execCapWrite_kept src h
  | .windowWrite src => execWindowWrite_kept src h
  | .deviceEnable src => execDeviceEnable_kept src h
  | .deviceDisable src => execDeviceDisable_kept src h
  | .wheelEnable src scan => execWheelEnable_kept src scan h
  | .wheelDisable src => execWheelDisable_kept src h
  | .farPortEnable src found => execFarPortEnable_kept src found h
  | .farPortDisable src => execFarPortDisable_kept src h
  | .hingePortEnable src train => execHingePortEnable_kept src train h
  | .hingePortDisable src => execHingePortDisable_kept src h
  | .rindEnable src => execRindEnable_kept src h
  | .rindDisable src => execRindDisable_kept src h
  | .maintenanceRequest src => execMaintenanceRequest_kept src h
  | .maintenanceEntry => execMaintenanceEntry_kept h
  | .maintenanceExit src => execMaintenanceExit_kept src h
  | .caveFlushComplete portError => execCaveFlushComplete_kept portError h
  | .ownerLockWrite src => execOwnerLockWrite_kept src h
  | .ownerLockLockoutEnd => execOwnerLockLockoutEnd_kept h
  | .injectionPermitWrite src => execInjectionPermitWrite_kept src h
  | .injectionPointWrite src => execInjectionPointWrite_kept src h
  | .injectionTick det => execInjectionTick_kept det h
  | .detectorConfigWrite src => execDetectorConfigWrite_kept src h
  | .routeEntryWrite src => execRouteEntryWrite_kept src h
  | .regionSizeWrite src => execRegionSizeWrite_kept src h
  | .vatModeOverrideWrite src => execVatModeOverrideWrite_kept src h
  | .commandEnd => execCommandEnd_kept h
  | .activateFirmware src => execActivateFirmware_kept src h
  | .replanMargins src scans => execReplanMargins_kept src scans h
  | .restoreRindImage src nand => execRestoreRindImage_kept src nand h
  | .reconcileDefectMap src passed => execReconcileDefectMap_kept src passed h
  | .qualifyLinks src => execQualifyLinks_kept src h
  | .confirmFirmware src => execConfirmFirmware_kept src h
  | .enterRecovery src => execEnterRecovery_kept src h
  | .flushCaveCache src => execFlushCaveCache_kept src h
  | .deviceReset src => execDeviceReset_kept src h
  | .wheelReset src => execWheelReset_kept src h
  -- Recipes, tasks and tumblers
  | .taskLoad recipe wheel spec => execTaskLoad_kept recipe wheel spec h
  | .taskStart t => execTaskStart_kept t h
  | .taskRetire t => execTaskRetire_kept t h
  | .pageReturn recipe page => execPageReturn_kept recipe page h
  | .stepComplete recipe => execStepComplete_kept recipe h
  | .stepWatchdogExpiry recipe => execStepWatchdogExpiry_kept recipe h
  | .spanPatienceExpiry recipe => execSpanPatienceExpiry_kept recipe h
  | .completionRingStall q => execCompletionRingStall_kept q h
  -- Helper cores and hoops
  | .hoopPick wheel hoop => execHoopPick_kept wheel hoop h
  | .riscvInstruction c => execRiscvInstruction_kept c h
  | .icacheMissFill c => execIcacheMissFill_kept c h
  | .ecallExit c => execEcallExit_kept c h
  | .budgetExceeded c => execBudgetExceeded_kept c h
  | .kzQuant c => execKzQuant_kept c h
  | .kzDequant c => execKzDequant_kept c h
  | .kzEyepickAccumulate c => execKzEyepickAccumulate_kept c h
  | .kzEyepickSelect c => execKzEyepickSelect_kept c h
  | .kzTopk c => execKzTopk_kept c h
  | .kzHist c => execKzHist_kept c h
  | .kzCarry c => execKzCarry_kept c h
  | .carryComplete c k e => execCarryComplete_kept c k e h
  | .kzTadd c => execKzTadd_kept c h
  | .chainAction k => execChainAction_kept k h
  | .kzTwait c => execKzTwait_kept c h
  | .twaitWake c => execTwaitWake_kept c h
  | .kzTarm c => execKzTarm_kept c h
  | .kzPost c => execKzPost_kept c h
  | .kzSpecBegin c => execKzSpecBegin_kept c h
  | .kzSpecEnd c => execKzSpecEnd_kept c h
  -- Vats and drains
  | .mac d => execMac_kept d h
  | .macClear d => execMacClear_kept d h
  | .drain d => execDrain_kept d h
  | .loadAcc d => execLoadAcc_kept d h
  | .transpose d => execTranspose_kept d h
  | .fence d => execFence_kept d h
  | .descriptorSignal d => execDescriptorSignal_kept d h
  | .arrangementReconfigure vat => execArrangementReconfigure_kept vat h
  | .vatChangeApply vat => execVatChangeApply_kept vat h
  | .recomputeOpenGrant recipe entry => execRecomputeOpenGrant_kept recipe entry h
  | .recomputeOpenWaitTimeout recipe entry => execRecomputeOpenWaitTimeout_kept recipe entry h
  | .feederStarvationTimeout vat => execFeederStarvationTimeout_kept vat h
  | .vatHandshakeStall vat suspect => execVatHandshakeStall_kept vat suspect h
  -- Update engines
  | .updateNativeApply d => execUpdateNativeApply_kept d h
  | .updateMh4Apply d => execUpdateMh4Apply_kept d h
  | .updateCopiesOnly d => execUpdateCopiesOnly_kept d h
  | .ratioPassNative d => execRatioPassNative_kept d h
  | .ratioPassMh4 d => execRatioPassMh4_kept d h
  | .updatePacket d packet => execUpdatePacket_kept d packet h
  | .emissionUnit d record unit => execEmissionUnit_kept d record unit h
  | .versionWaitTimeout t wait => execVersionWaitTimeout_kept t wait h
  | .rindWaitTimeout d => execRindWaitTimeout_kept d h
  -- Hinge engines and the Tyandarn link
  | .hingePut d => execHingePut_kept d h
  | .dispatchOrdinary d => execDispatchOrdinary_kept d h
  | .dispatchSpeculative d => execDispatchSpeculative_kept d h
  | .dispatchResend d => execDispatchResend_kept d h
  | .verify d => execVerify_kept d h
  | .unpack d => execUnpack_kept d h
  | .combine d => execCombine_kept d h
  | .allReduce d => execAllReduce_kept d h
  | .reduceScatter d => execReduceScatter_kept d h
  | .allGather d => execAllGather_kept d h
  | .span d => execSpan_kept d h
  | .nullFlit port flit => execNullFlit_kept port flit h
  | .flitCrcFailure port flit => execFlitCrcFailure_kept port flit h
  | .linkInit port flit => execLinkInit_kept port flit h
  | .spanAdd port flit => execSpanAdd_kept port flit h
  | .guard port flit => execGuard_kept port flit h
  | .notice port flit => execNotice_kept port flit h
  | .get port flit => execGet_kept port flit h
  | .getData port flit => execGetData_kept port flit h
  | .put port flit => execPut_kept port flit h
  | .putAck port flit => execPutAck_kept port flit h
  | .nack port flit => execNack_kept port flit h
  | .guardAck port flit => execGuardAck_kept port flit h
  | .portRetrain port cause => execPortRetrain_kept port cause h
  | .retrainComplete port train => execRetrainComplete_kept port train h
  | .qualificationDwellEnd link r => execQualificationDwellEnd_kept link r h
  | .preFecBerWindow port ber corrected uncorrectable => execPreFecBerWindow_kept port ber corrected uncorrectable h
  -- Memory tiers
  | .caveDemandRead t addr => execCaveDemandRead_kept t addr h
  | .caveFillComplete recipe segment poisoned => execCaveFillComplete_kept recipe segment poisoned h
  | .trackerClose recipe k => execTrackerClose_kept recipe k h
  | .memoryRead r addr len sv => execMemoryRead_kept r addr len sv h
  | .memoryWrite r addr bytes sv => execMemoryWrite_kept r addr bytes sv h
  | .adds32 addr operand => execAdds32_kept addr operand h
  | .add64 addr operand => execAdd64_kept addr operand h
  | .maxf32 addr operand => execMaxf32_kept addr operand h
  | .cas width addr expected new => execCas_kept width addr expected new h
  | .bankCapWaitEnd b => execBankCapWaitEnd_kept b h
  | .patrolScrub addr e => execPatrolScrub_kept addr e h
  | .bankNoProgress b => execBankNoProgress_kept b h
  | .bankFailed b => execBankFailed_kept b h
  | .channelSymbolRateExceeded channel => execChannelSymbolRateExceeded_kept channel h
  -- Planes, power and cooling
  | .viewUpdate => execViewUpdate_kept h
  | .paceLineRefresh activity => execPaceLineRefresh_kept activity h
  | .paceLineKeepaliveLoss => execPaceLineKeepaliveLoss_kept h
  | .shuntSample volts watts => execShuntSample_kept volts watts h
  | .powerExcursion joules longerThan10ms => execPowerExcursion_kept joules longerThan10ms h
  | .droopBegin d => execDroopBegin_kept d h
  | .droopClear d => execDroopClear_kept d h
  | .deferredRateStep d => execDeferredRateStep_kept d h
  | .junctionSample d hottest mean => execJunctionSample_kept d hottest mean h
  | .regionalPullStep k a b => execRegionalPullStep_kept k a b h
  | .inletSample celsius outlet => execInletSample_kept celsius outlet h
  | .inletRecoveryTimer => execInletRecoveryTimer_kept h
  | .flowLoss => execFlowLoss_kept h
  | .junctionTrip d => execJunctionTrip_kept d h
  | .trayFlowOkAssert => execTrayFlowOkAssert_kept h
  | .inputLoss => execInputLoss_kept h
  | .inputOvervoltage volts => execInputOvervoltage_kept volts h
  | .inputReturn volts => execInputReturn_kept volts h
  | .powerUp volts => execPowerUp_kept volts h
  | .prechargeComplete => execPrechargeComplete_kept h
  | .holdupMeasurement ms => execHoldupMeasurement_kept ms h
  -- Ageing and spares
  | .monitorSample d margin => execMonitorSample_kept d margin h
  | .idleWindowReplan wheel scan => execIdleWindowReplan_kept wheel scan h
  | .replanOverdue wheel => execReplanOverdue_kept wheel h
  -- Bring-up and resets
  | .auxPowerUp romOk holdupMs recoveryReq slotId => execAuxPowerUp_kept romOk holdupMs recoveryReq slotId h
  | .stage1Firmware slotA slotB => execStage1Firmware_kept slotA slotB h
  | .stage2Rails r => execStage2Rails_kept r h
  | .stage3Spares => execStage3Spares_kept h
  | .stage4Hbm r => execStage4Hbm_kept r h
  | .stage5Tests r => execStage5Tests_kept r h
  | .stage6Links r => execStage6Links_kept r h
  | .stage7Plan scans => execStage7Plan_kept scans h
  | .stage8Decision => execStage8Decision_kept h
  | .stageTimeout => execStageTimeout_kept h
  | .hostLinkWaitExpiry => execHostLinkWaitExpiry_kept h
  | .coreStallDetect c => execCoreStallDetect_kept c h
  | .coreStopTimeout c => execCoreStopTimeout_kept c h
  | .hoopPickStall wheel hoop => execHoopPickStall_kept wheel hoop h
  | .drainEnd k => execDrainEnd_kept k h
  | .drainDeadline k => execDrainDeadline_kept k h
  | .absorptionComplete k => execAbsorptionComplete_kept k h
  | .resetEscalation k => execResetEscalation_kept k h
  | .wheelUsableAgain wheel r => execWheelUsableAgain_kept wheel r h
  | .lockstepMismatch => execLockstepMismatch_kept h
  | .wardenWatchdogExpiry => execWardenWatchdogExpiry_kept h
  | .wardenRestartComplete => execWardenRestartComplete_kept h
  | .plcaBeaconLoss => execPlcaBeaconLoss_kept h
  -- Rind store, tray and errors
  | .captureEntry recipe n => execCaptureEntry_kept recipe n h
  | .imageDurable recipe => execImageDurable_kept recipe h
  | .seatLatchedSet => execSeatLatchedSet_kept h
  | .seatLatchedClear => execSeatLatchedClear_kept h
  | .stby12SenseChange level => execStby12SenseChange_kept level h
  | .auxiliarySupplyLoss => execAuxiliarySupplyLoss_kept h
  | .holdUpChargeThreshold percent => execHoldUpChargeThreshold_kept percent h
  | .hostLinkError correctable => execHostLinkError_kept correctable h
  | .caveDeviceErrorReport port uncorrected addr => execCaveDeviceErrorReport_kept port uncorrected addr h
  | .retrainTimeout port => execRetrainTimeout_kept port h

/-! ### Steps -/

/-- A kept outcome answers one next state only, so the state it is known to answer is kept. -/
theorem KeptO.kept_of_next {o : Host.Outcome State Fault Refusal} {t : State} (h : KeptO F o) (ho : o = .next t) :
    Kept F t := by
  obtain ⟨u, hu, hk⟩ := h
  obtain rfl : u = t := Host.Outcome.next.inj (hu.symm.trans ho)
  exact hk

/-- The invariant reads neither the queue nor the device time base. -/
theorem Inv.with_pending_now (h : Inv s) (cs : List Instr) (n : Nat) : Inv { s with pending := cs, now := n } := by
  obtain ⟨⟨near, dev, cave, hostMem, bar0, bar4⟩, ⟨wheels, farPorts, hingePorts, queues⟩, ⟨log, backlog, cache⟩⟩ := h
  exact ⟨⟨near, dev, cave, hostMem, bar0, bar4⟩, ⟨wheels, farPorts, hingePorts, queues⟩, ⟨log, backlog, cache⟩⟩

/-- A step changes the queue or the device time base, and all else that is fixed stays as it was: the factory data is
that of the state it starts from. -/
theorem step_kept (h : Inv s) : ∃ cs n, KeptO { factory := s.factory, pending := cs, now := n } (step s) := by
  unfold step
  split
  case h_1 _ => exact ⟨_, _, next_keptO ⟨h.with_pending_now s.pending _, rfl⟩⟩
  case h_2 c cs _ => exact ⟨cs, s.now, exec_kept c ⟨h.with_pending_now cs s.now, rfl⟩⟩

end

/-- Settles O3: the front command is taken from the queue, which the invariant does not read, and the command's own law
gives the invariant of the next state; an idle step changes the device time base alone. -/
theorem stepKeepsTheInvariant : Obligations.StepKeepsTheInvariant := by
  intro s t hs hstep
  obtain ⟨cs, n, hkept⟩ := step_kept hs
  exact (hkept.kept_of_next hstep).inv

end Sys2Proof.Machine
end

section
/-! SUPPORT and PROOFS. Planes and a training step: the step of the block (R20), the view of the Admission Gate (R18),
the life of a task and of a step, and the power loop. -/

namespace Sys2Proof.Machine

/-! ### Steps and commands -/

/-- Settles O1: the two branches of a step. -/
theorem stepRunsTheFrontCommand : Obligations.StepRunsTheFrontCommand := by
  refine ⟨fun c cs s hqueue => ?_, fun s hqueue => ?_⟩
  · simp only [step, hqueue]
  · simp only [step, hqueue, idle]

/-- A kept outcome, with the three facts it holds of its next state: the invariant, the queue and the time base. -/
theorem KeptO.exists_next {F : Fixed} {o : Host.Outcome State Fault Refusal} (h : KeptO F o) :
    ∃ t, o = .next t ∧ Inv t ∧ t.pending = F.pending ∧ t.now = F.now := by
  obtain ⟨t, hnext, hinv, hfixed⟩ := h
  exact ⟨t, hnext, hinv, congrArg Fixed.pending hfixed, congrArg Fixed.now hfixed⟩

/-- Settles O43: every command keeps the invariant and the fixed part of the state it starts from. -/
theorem everyCommandAnswersANextState : Obligations.EveryCommandAnswersANextState :=
  fun c _ hinv => (exec_kept c ⟨hinv, rfl⟩).exists_next

/-- A command whose condition holds answers its effect, whatever form the condition has. -/
theorem occurs_of_true {c : Bool} (hc : c = true) (f : State → State) (s : State) : occurs c f s = .next (f s) := by
  rw [hc, occurs_true]

/-! ### The view of the Gate (R18) -/

section
variable {s : State}

/-- What the Gate numbers its view by and what waits to change it: the generation and the updates, oldest first. -/
def Gate.numbering (g : Gate) : Nat × List ViewUpdate := (g.gen, g.pending)

/-- A loop leaves unchanged what each of its turns leaves unchanged. -/
theorem forEach_unchanged {α β : Type} (p : State → β) (f : α → State → State) (hf : ∀ a t, p (f a t) = p t) (l : List α)
    (s : State) : p (forEach l f s) = p s := by
  unfold forEach
  induction l generalizing s with
  | nil => rfl
  | cons a l ih => exact (ih (f a s)).trans (hf a s)

/-- An optional part of an update acts where it stands and does nothing where it does not. -/
def whenSome {α : Type} (f : α → State → State) (o : Option α) (s : State) : State :=
  match o with
  | some a => f a s
  | none => s

/-- An optional part leaves unchanged what it leaves unchanged where it stands. -/
theorem whenSome_unchanged {α β : Type} (p : State → β) (f : α → State → State) (hf : ∀ a t, p (f a t) = p t)
    (o : Option α) (s : State) : p (whenSome f o s) = p s := by
  cases o with
  | none => rfl
  | some a => exact hf a s

/-- What an update does, in its order: changes, bar, drain, event, and the degraded state (R19, R426). -/
theorem takeUpdate_eq (u : ViewUpdate) (s : State) :
    takeUpdate u s = degrade (whenSome updatePost u.post (whenSome startDrain u.drain (whenSome barRecipes u.bar
      (forEach u.changes applyChange s)))) := by
  rcases u with ⟨_ | _, _, _ | _, _ | _⟩ <;> rfl

@[simp] theorem Gate.numbering_with_view (g : Gate) (v : View) : { g with view := v }.numbering = g.numbering := rfl

@[simp] theorem startDrain_numbering (x : Scope) (s : State) :
    (startDrain x s).gate.numbering = s.gate.numbering := rfl

@[simp] theorem setPort_gate (p : Nat) (st : PortState) (s : State) : (setPort p st s).gate = s.gate := rfl

@[simp] theorem onHoop_gate (w h : Nat) (f : Hoop → Hoop) (s : State) : (onHoop w h f s).gate = s.gate := rfl

@[simp] theorem barRecipes_gate (x : Res) (s : State) : (barRecipes x s).gate = s.gate := rfl

@[simp] theorem takeShape_numbering (w : Nat) (s : State) : (takeShape w s).gate.numbering = s.gate.numbering := by
  unfold takeShape
  split <;> simp

/-- A change acts on the view, on a vat, a hoop, a wheel or a port; never on the numbering. -/
@[simp] theorem applyChange_numbering (c : ViewChange) (s : State) :
    (applyChange c s).gate.numbering = s.gate.numbering := by
  cases c with
  | vatShape w rows cols =>
    simp only [applyChange]
    split_ifs <;> simp
  | port p st =>
    simp only [applyChange]
    split_ifs <;> simp
  | _ => simp [applyChange]

@[simp] theorem updatePost_gate (p : Nat × Nat × List Byte) (s : State) : (updatePost p s).gate = s.gate := by
  unfold updatePost
  split_ifs <;> simp

@[simp] theorem degrade_gate (s : State) : (degrade s).gate = s.gate := by
  unfold degrade
  dsimp only
  split_ifs <;> simp

/-- Taking an update queues no other and raises no generation: its changes, its bar, its drain, its event and the
degraded state leave the numbering as it is. -/
@[simp] theorem takeUpdate_numbering (u : ViewUpdate) (s : State) :
    (takeUpdate u s).gate.numbering = s.gate.numbering := by
  calc (takeUpdate u s).gate.numbering
      = (whenSome updatePost u.post (whenSome startDrain u.drain (whenSome barRecipes u.bar
          (forEach u.changes applyChange s)))).gate.numbering := by rw [takeUpdate_eq, degrade_gate]
    _ = (whenSome startDrain u.drain (whenSome barRecipes u.bar
          (forEach u.changes applyChange s))).gate.numbering :=
        whenSome_unchanged (·.gate.numbering) updatePost (fun p t => by rw [updatePost_gate]) u.post _
    _ = (whenSome barRecipes u.bar (forEach u.changes applyChange s)).gate.numbering :=
        whenSome_unchanged (·.gate.numbering) startDrain startDrain_numbering u.drain _
    _ = (forEach u.changes applyChange s).gate.numbering :=
        whenSome_unchanged (·.gate.numbering) barRecipes (fun x t => by rw [barRecipes_gate]) u.bar _
    _ = s.gate.numbering := forEach_unchanged (·.gate.numbering) applyChange applyChange_numbering u.changes s

/-- An applied update raises the generation by one (modulo 2^64) and leaves the updates that wait. -/
theorem applyUpdate_numbering (u : ViewUpdate) (s : State) :
    (applyUpdate u s).gate.numbering = ((s.gate.gen + 1) % 2 ^ 64, s.gate.pending) :=
  takeUpdate_numbering u _

/-- VIEW_UPDATE with an update that waits. -/
theorem execViewUpdate_of_pending {u : ViewUpdate} {us : List ViewUpdate} (h : s.gate.pending = u :: us) :
    execViewUpdate s = .next (applyUpdate u (s.onGate (fun g => { g with pending := us }))) := by
  simp only [execViewUpdate, h]

end

/-- Settles O32: the update at the front of those that wait is the oldest. -/
theorem viewUpdatesAnswer : Obligations.ViewUpdatesAnswer :=
  fun _ _ _ hpending => execViewUpdate_of_pending hpending

/-- Settles O55: the numbering after the applied update, below the wrap of the 64-bit generation. -/
theorem viewUpdatesNumberTheView : Obligations.ViewUpdatesNumberTheView := by
  intro s u us hpending hgen
  have hnum := applyUpdate_numbering u (s.onGate (fun g => { g with pending := us }))
  obtain ⟨hraised, hwait⟩ := Prod.mk.inj hnum
  exact ⟨_, execViewUpdate_of_pending hpending, hraised.trans (Nat.mod_eq_of_lt hgen), hwait⟩

/-! ### Tasks and steps -/

section
variable {s : State} {r : Recipe}

/-- TASK_LOAD where the pool has room (R174). -/
theorem execTaskLoad_of_room {h w t : Nat} {spec : Bool} (hr : s.recipe? h = some r)
    (hnext : nextToLoad r w spec = some t) (hstep : r.stepping = true)
    (hroom : poolUse r w spec < if spec then specPool r w r.throttle else ordinaryPool r w) :
    execTaskLoad h w spec s = .next (settle h (loadTask h t s)) := by
  simp only [execTaskLoad, hr, hnext]
  exact occurs_of_true (by simpa [hstep] using hroom) _ s

/-- TASK_START of a task that nothing holds: neither shadow pages (R181) nor the loss bound (R327). -/
theorem execTaskStart_of_free {t : TaskRef} {k : Task} {x : TaskRun} (hr : s.recipe? t.recipe = some r)
    (hk : r.task? t.task = some k) (hx : r.run? t.task = some x) (hmay : mayStart s r k x = true)
    (hshadows : ¬ (runsSpec k x = true ∧ r.shadowFree.length < k.npages)) (hloss : lossHeld s r k = false) :
    execTaskStart t s = .next (settle t.recipe (startTask t.recipe t.task r k x s)) := by
  simp only [execTaskStart, hr, hk, hx]
  rw [occurs_of_true hmay, if_neg hshadows, hloss, if_neg Bool.false_ne_true]

/-- TASK_RETIRE of an ordinary task whose work is done (R176). -/
theorem execTaskRetire_of_done {t : TaskRef} {k : Task} {x : TaskRun} (hr : s.recipe? t.recipe = some r)
    (hk : r.task? t.task = some k) (hx : r.run? t.task = some x) (hstarted : x.started = true)
    (hdone : workDone s t.recipe k x = true) (hspec : x.specRun = false) :
    execTaskRetire t s = .next (settle t.recipe (closeTask t.recipe t.task 0 (addOutputs t.recipe t.task s))) := by
  simp only [execTaskRetire, hr, hk, hx]
  exact occurs_of_true (by simp [hstarted, hdone, hspec]) _ s

/-- PAGE_RETURN of a shadow page (R185). -/
theorem execPageReturn_shadow {h p : Nat} (hr : s.recipe? h = some r) (hp : p ∈ r.shadowReturning)
    (hbusy : pageBusy s p = false) :
    execPageReturn h p s = .next (settle h (s.onRecipe h (fun r => { r with
      shadowReturning := r.shadowReturning.erase p, shadowFree := r.shadowFree ++ [p] }))) := by
  simp only [execPageReturn, hr, hbusy]
  rw [if_neg Bool.false_ne_true, if_pos hp]

/-- PAGE_RETURN of a stash page (R239). -/
theorem execPageReturn_stash {h p : Nat} (hr : s.recipe? h = some r) (hshadow : p ∉ r.shadowReturning)
    (hp : p ∈ r.stash.returning) (hbusy : pageBusy s p = false) :
    execPageReturn h p s = .next (settle h (s.onRecipe h (fun r => { r with stash := { r.stash with
      returning := r.stash.returning.erase p, freePages := r.stash.freePages ++ [p] } }))) := by
  simp only [execPageReturn, hr, hbusy]
  rw [if_neg Bool.false_ne_true, if_neg hshadow, if_pos hp]

/-- STEP_COMPLETE of a running step that is done (R26). -/
theorem execStepComplete_of_done {h : Nat} {u : StepRun} (hr : s.recipe? h = some r) (hu : r.running = some u)
    (hdone : stepDone s r u = true) :
    execStepComplete h s = .next (replanReady (completeStep h r u s)) := by
  simp only [execStepComplete, hr, hu]
  exact occurs_of_true hdone _ s

/-- The time counted of a step whose watchdog does not pause (R192). -/
theorem countedNs_of_running {u : StepRun} (hpause : u.pausedSince = none) :
    countedNs s u = s.now - u.start - u.pausedNs := by
  simp only [countedNs, hpause, Nat.sub_zero]

/-- STEP_WATCHDOG_EXPIRY of a step that runs past k × T_bound (R192): task and unit of its fault are free values. -/
theorem execStepWatchdogExpiry_of_late {h : Nat} {u : StepRun} (hr : s.recipe? h = some r) (hu : r.running = some u)
    (hfault : u.fault = none) (hpause : u.pausedSince = none)
    (hlate : u.start + u.pausedNs + (if r.wdogK = 0 then 2 else r.wdogK) * tBound r < s.now) :
    execStepWatchdogExpiry h s =
      .next (stepFault h (outsideFault (post 0x540 0 0 [] s) 0x13) (post 0x540 0 0 [] s).drawn.drawn) := by
  have hcount : (if r.wdogK = 0 then 2 else r.wdogK) * tBound r < countedNs s u := by
    rw [countedNs_of_running hpause]
    omega
  simp only [execStepWatchdogExpiry, hr, hu]
  exact occurs_of_true (by rw [hfault, decide_eq_true hcount]; rfl) _ s

/-- The late span wait of a step of one task that is loaded (R192). -/
theorem spanLate_of_loaded {n : Nat} {u : StepRun} {k : Task} {x : TaskRun} (hu : r.running = some u)
    (hruns : u.runs = [x]) (hk : r.task? x.idx = some k) (hphase : x.phase = .loaded) (hsince : x.spanSince = some n)
    (hpatience : r.patience ≠ 0) (hlate : n + r.patience * 10 ^ 6 < s.now) :
    spanLate s r = some (k, x) := by
  have hwaits : spanWaits s r k x = [n] := by simp only [spanWaits, hphase, hsince, Option.toList_some]
  have hpast : n + patienceNs r < s.now := by simpa only [patienceNs, if_neg hpatience] using hlate
  simp [spanLate, hu, hruns, hk, hwaits, hpast]

/-- SPAN_PATIENCE_EXPIRY of a late span wait (R192). -/
theorem execSpanPatienceExpiry_of_late {h : Nat} {k : Task} {x : TaskRun} (hr : s.recipe? h = some r)
    (hlate : spanLate s r = some (k, x)) (hstep : r.stepping = true) :
    execSpanPatienceExpiry h s = .next (taskFault h x.idx (taskUnit s h x.idx k) 0x13 0
      (post 0x543 (taskUnit s h x.idx k) 0 [] s)) := by
  simp only [execSpanPatienceExpiry, hr, hlate]
  exact occurs_of_true hstep _ s

/-- The stash entry that a recompute command names. -/
theorem stashEntry_of_recipe {h i : Nat} {e : StashEntry} (hr : s.recipe? h = some r)
    (he : r.stash.entries[i]? = some e) : (s.recipe? h).bind (fun r => r.stash.entries[i]?) = some e := by
  rw [hr, Option.bind_some, he]

/-- RECOMPUTE_OPEN_GRANT of an open that waits (R233). -/
theorem execRecomputeOpenGrant_of_waits {h i : Nat} {e : StashEntry} (hr : s.recipe? h = some r)
    (he : r.stash.entries[i]? = some e) (hwaits : e.waits true = true) :
    execRecomputeOpenGrant h i s = .next (recomputeOpen h i s).1 := by
  simp only [execRecomputeOpenGrant, stashEntry_of_recipe hr he]
  exact occurs_of_true hwaits _ s

/-- RECOMPUTE_OPEN_WAIT_TIMEOUT of an open that waits (R233). -/
theorem execRecomputeOpenWaitTimeout_of_waits {h i : Nat} {e : StashEntry} (hr : s.recipe? h = some r)
    (he : r.stash.entries[i]? = some e) (hwaits : e.waits true = true) :
    execRecomputeOpenWaitTimeout h i s = .next (openWaitPost h i s) := by
  simp only [execRecomputeOpenWaitTimeout, stashEntry_of_recipe hr he]
  exact occurs_of_true hwaits _ s

/-- VERSION_WAIT_TIMEOUT of the one wait of a task, past its threshold and not yet posted (R271). -/
theorem execVersionWaitTimeout_of_late {t : TaskRef} {w n : Nat} {k : Task} {x : TaskRun}
    (hr : s.recipe? t.recipe = some r) (hk : r.task? t.task = some k) (hx : r.run? t.task = some x)
    (hwait : x.versionWait = [(w, n)]) (hposted : w ∉ x.versionPosted) (hlate : n + versionThreshold r k w < s.now) :
    ∃ d, execVersionWaitTimeout t w s = .next (post 0x545 (updReadUnit s) 0 d
      (s.onTask t.recipe t.task (fun x => { x with versionPosted := x.versionPosted ++ [w] }))) := by
  have hfind : x.versionWait.find? (fun v => v.1 == w) = some (w, n) := by simp [hwait]
  simp only [execVersionWaitTimeout, hr, hk, hx, hfind]
  exact ⟨_, occurs_of_true (by simp [hposted, hlate]) _ s⟩

/-- CHAIN_ACTION on a tumbler of the device (R165, R166): an add without a task's access. -/
theorem execChainAction_of_tumbler {c : Chain} {cs : List Chain} (hc : s.chains = c :: cs) (hspan : c.span = false) :
    execChainAction 0 s = .next (settle c.recipe (tAdd c.recipe c.handle c.inc
      { task := c.task, blame := c.blame, unit := c.unit, span := false, version := false, op := 3, level := c.level, exempt := false }
      { s with chains := cs })) := by
  simp only [execChainAction, hc, List.getElem?_cons_zero, List.eraseIdx_cons_zero, applyChain, hspan]
  rw [if_neg Bool.false_ne_true]

end

/-- Settles O20: each clause is the law of its command. -/
theorem tasksAnswer : Obligations.TasksAnswer := by
  refine ⟨?load, ?loadSpec, ?start, ?retire, ?shadow, ?stash, ?complete, ?watchdog, ?patience, ?opens, ?version, ?chain⟩
  case load =>
    intro s h w r t hr hnext hstep hroom
    exact execTaskLoad_of_room hr hnext hstep hroom
  case loadSpec =>
    intro s h w r t hr hnext hstep hroom
    exact execTaskLoad_of_room hr hnext hstep hroom
  case start =>
    intro s t r k x hr hk hx hmay hshadows hloss
    exact execTaskStart_of_free hr hk hx hmay (of_eq_false hshadows) hloss
  case retire =>
    intro s t r k x hr hk hx hstarted hdone hspec
    exact execTaskRetire_of_done hr hk hx hstarted hdone hspec
  case shadow =>
    intro s h p r hr hp hbusy
    exact execPageReturn_shadow hr hp hbusy
  case stash =>
    intro s h p r hr hshadow hp hbusy
    exact execPageReturn_stash hr hshadow hp hbusy
  case complete =>
    intro s h r u hr hu hdone
    exact execStepComplete_of_done hr hu hdone
  case watchdog =>
    intro s h r u hr hu hfault hpause hlate
    exact ⟨_, rfl, rfl, execStepWatchdogExpiry_of_late hr hu hfault hpause hlate⟩
  case patience =>
    intro s h n r u k x hr hu hstep hruns hk hphase hsince hpatience hlate
    exact ⟨_, execSpanPatienceExpiry_of_late hr (spanLate_of_loaded hu hruns hk hphase hsince hpatience hlate) hstep⟩
  case opens =>
    intro s h i r e hr he hwaits
    exact ⟨execRecomputeOpenGrant_of_waits hr he hwaits, execRecomputeOpenWaitTimeout_of_waits hr he hwaits⟩
  case version =>
    intro s t w n r k x hr hk hx hwait hposted hlate
    exact execVersionWaitTimeout_of_late hr hk hx hwait hposted hlate
  case chain =>
    intro s c cs hc hspan
    exact execChainAction_of_tumbler hc hspan

/-! ### The power loop -/

section
variable {s : State}

/-- PACE_LINE_REFRESH with rails and Warden up (R23, R375 to R382): the state whose period is allocated holds the
activity, the estimate and the credit. -/
theorem execPaceLineRefresh_of_up {l : List Nat} (hrails : s.power.rails = true) (hup : s.warden.up = true) :
    ∃ u, execPaceLineRefresh l s = .next (creditEpisode (allocate l (totalEstimate s l) u)) ∧
      u.power.activity = l ∧ u.power.estimate = totalEstimate s l ∧ u.power.unscaled = unscaledEstimate s l ∧
      u.power.credit = (creditStep s (totalEstimate s l)).1 ∧ u.power.paceLost = false ∧
      u.power.lastRefresh = s.now :=
  ⟨_, occurs_of_true (by rw [hrails, hup]; rfl) _ s, rfl, rfl, rfl, rfl, rfl, rfl⟩

/-- PACE_LINE_KEEPALIVE_LOSS 20 ms after the last refresh (R24): the loss is kept, and no domain loses its duty entry. -/
theorem execPaceLineKeepaliveLoss_of_late (hrails : s.power.rails = true) (hlost : s.power.paceLost = false)
    (hlate : s.power.lastRefresh + 20000000 ≤ s.now) :
    ∃ u, execPaceLineKeepaliveLoss s = .next (post 0x510 0 0 [] u) ∧ u.power.paceLost = true ∧
      u.power.duty.length = s.power.duty.length :=
  ⟨_, occurs_of_true (by simpa [hrails, hlost] using hlate) _ s, rfl, List.length_mapIdx⟩

/-- What a voltage sample does (R369): it is kept, and one that leaves the range posts 0x011. -/
theorem voltsSeen_eq (v : Rat) (s : State) :
    voltsSeen v s = (if inRange s.power.volts = true ∧ inRange v = false then
      wpost 0x011 0 0 [] (s.onPower (fun p => { p with volts := v })) else s.onPower (fun p => { p with volts := v })) := by
  simp only [voltsSeen, Bool.and_eq_true, Bool.not_eq_true']

@[simp] theorem voltsSeen_power (v : Rat) (s : State) : (voltsSeen v s).power = { s.power with volts := v } := by
  rw [voltsSeen_eq]
  split_ifs <;> simp

@[simp] theorem voltsSeen_now (v : Rat) (s : State) : (voltsSeen v s).now = s.now := by
  rw [voltsSeen_eq]
  split_ifs <;> simp

/-- SHUNT_SAMPLE at gain 1, where the corrected gain meets neither end of its range and the second is not full (R380). -/
theorem execShuntSample_of_unclamped {v w : Rat} (haux : s.power.aux = true) (hinput : s.power.input = true)
    (hcount : s.power.nSamples ≠ 999) (hgain : s.power.gain = 1) (hlow : nextGain 1 w s.power.unscaled ≠ 8 / 10)
    (hhigh : nextGain 1 w s.power.unscaled ≠ 125 / 100) :
    execShuntSample v w s = .next ((voltsSeen v s).onPower (fun p => { p with
      measured := w, measHist := (s.now, w) :: p.measHist.filter (fun e => decide (s.now < e.1 + 10 ^ 8)),
      gain := nextGain 1 w s.power.unscaled, sumMeasured := p.sumMeasured + w,
      sumEstimate := p.sumEstimate + p.estimate, nSamples := p.nSamples + 1 })) := by
  have hfull : s.power.nSamples + 1 ≠ 1000 := by omega
  unfold execShuntSample
  rw [occurs_of_true (by rw [haux, hinput]; rfl)]
  simp [hgain, hlow, hhigh, hfull]

/-- POWER_EXCURSION with rails up (R378). -/
theorem execPowerExcursion_of_rails {j : Rat} (long : Bool) (hrails : s.power.rails = true) (hj : 0 ≤ j) :
    execPowerExcursion j long s = .next
      (if long then wpost 0x001 0 0 [] (s.onPower (fun p => { p with
          credit := p.credit - j, excursions := p.excursions + 1 }))
        else s.onPower (fun p => { p with credit := p.credit - j, excursions := p.excursions + 1 })) :=
  occurs_of_true (by simp [hrails, hj]) _ s

/-- DROOP_BEGIN of a domain, the first episode that is counted (R387). -/
theorem execDroopBegin_first {d : Nat} (hrails : s.power.rails = true) (hgov : governed s d = true)
    (hdroop : d ∉ s.power.droop) (hcount : s.power.droopCount = []) :
    execDroopBegin d s = .next (s.onPower (fun p => { p with
      droop := p.droop ++ [d], droopCount := [(d, s.now / 10 ^ 9, 1, 0)] })) := by
  unfold execDroopBegin
  rw [occurs_of_true (by simp [hrails, hgov, hdroop])]
  simp [hcount, look, put, State.onPower]

/-- DROOP_CLEAR of a domain in droop (R387). -/
theorem execDroopClear_of_droop {d : Nat} (hd : d ∈ s.power.droop) :
    execDroopClear d s = .next (s.onPower (fun p => { p with
      droop := p.droop.filter (· != d), droopClear := put p.droopClear d s.now })) :=
  occurs_of_true (List.contains_iff_mem.mpr hd) _ s

/-- DEFERRED_RATE_STEP of a rail whose one step nothing holds, within 5 ms (R388). -/
theorem execDeferredRateStep_of_free {d t : Nat} {v : Int} (hdeferred : s.power.deferred = [(d, v, t)]) (hrail : d ≠ 25)
    (hdroop : droopHolds s d = false) (hlost : s.power.paceLost = false) (hsoon : s.now ≤ t + 5000000) :
    execDeferredRateStep d s = .next (applyStep d v (s.onPower (fun p => { p with deferred := [] }))) := by
  have hfind : s.power.deferred.find? (fun q => q.1 == d) = some (d, v, t) := by simp [hdeferred]
  have herase : s.power.deferred.erase (d, v, t) = [] := by simp [hdeferred]
  have hintime : ¬ t + 5 * 10 ^ 6 < s.now := by omega
  simp only [execDeferredRateStep, hfind]
  rw [occurs_of_true (by simp [hrail, hdroop, hlost]), if_neg hrail, if_neg hintime]
  simp only [State.onPower, herase]

end

/-- Settles O33: each clause is the law of its command. -/
theorem powerLoopAnswers : Obligations.PowerLoopAnswers := by
  refine ⟨?refresh, ?loss, ?shunt, ?excursion, ?droopBegin, ?droopClear, ?deferred⟩
  case refresh =>
    intro s l hrails hup
    exact execPaceLineRefresh_of_up hrails hup
  case loss =>
    intro s hrails hlost hlate
    exact execPaceLineKeepaliveLoss_of_late hrails hlost hlate
  case shunt =>
    intro s v w haux hinput hcount hgain hlow hhigh
    exact ⟨execShuntSample_of_unclamped haux hinput hcount hgain hlow hhigh, voltsSeen_eq v s⟩
  case excursion =>
    intro s j hrails hj
    exact ⟨execPowerExcursion_of_rails false hrails hj, execPowerExcursion_of_rails true hrails hj⟩
  case droopBegin =>
    intro s d hrails hgov hdroop hcount
    exact execDroopBegin_first hrails hgov hdroop hcount
  case droopClear =>
    intro s d hd
    exact execDroopClear_of_droop hd
  case deferred =>
    intro s d t v hdeferred hrail hdroop hlost hsoon
    exact execDeferredRateStep_of_free hdeferred hrail hdroop hlost hsoon

end Sys2Proof.Machine
end

section
/-! SUPPORT and PROOFS. Number formats: the codes of O3 and O2 and what rounding to them writes (R38, R39, R59), the
patterns of W48 and its rounding (R50, R53, R55), and the test vector of the stochastic-rounding word (R70). -/

namespace Sys2Proof.Machine

/-! ### The narrow codes O3 and O2 (R38, R39) -/

/-- A sign over an O3 magnitude is no negative zero: a zero magnitude drops its sign (R38). -/
theorem signCode_o3_valid {neg : Bool} {mag : Nat} (hmag : mag < 4) :
    signCode 9 neg mag ≠ 4 ∧ signCode 9 neg mag < 8 := by
  by_cases hzero : mag = 0
  · simp [signCode, hzero]
  · cases neg <;> simp [signCode, bit, hzero] <;> omega

/-- The O2 codes that are written are 0b00, 0b01 and 0b11, whatever the magnitude (R39). -/
theorem signCode_o2_valid (neg : Bool) (mag : Nat) : signCode 10 neg mag ≠ 2 ∧ signCode 10 neg mag < 4 := by
  by_cases hzero : mag = 0
  · simp [signCode, hzero]
  · cases neg <;> simp [signCode, hzero]

/-- Stochastic rounding writes no magnitude above the largest of its grid (R67). -/
theorem Grid.stochastic_le_maxCode (g : Grid) (u : Nat) (y : Val) : g.stochastic u y ≤ g.maxCode := by
  cases y with
  | nan => exact Nat.zero_le _
  | inf s => exact Nat.zero_le _
  | fin s m e =>
    simp only [Grid.stochastic]
    split_ifs <;> omega

/-- The intervals of O3 have the magnitudes 0 to 3 (R59). -/
theorem o3Round_le_three (y : Val) : o3Round y ≤ 3 := by
  simp only [o3Round]
  split_ifs <;> omega

theorem roundMag_o3_lt_four (r : Rounding) (y : Val) : roundMag 9 r y < 4 := by
  cases r with
  | nearest => exact Nat.lt_succ_of_le (o3Round_le_three y)
  | stochastic u => exact Nat.lt_succ_of_le (Grid.stochastic_le_maxCode gO3 u y)

/-- No rounding writes the negative zero of O3 (R38). -/
theorem narrowElem_o3_valid (r : Rounding) (sc : Scale) (x : Val) :
    (narrowElem 9 r sc x).1 ≠ 4 ∧ (narrowElem 9 r sc x).1 < 8 := by
  cases x with
  | nan => simp [narrowElem]
  | inf s => exact signCode_o3_valid (mag := gO3.maxCode) (by decide)
  | fin s m e => exact signCode_o3_valid (roundMag_o3_lt_four r _)

/-- No rounding writes the invalid code of O2 (R39). -/
theorem narrowElem_o2_valid (r : Rounding) (sc : Scale) (x : Val) :
    (narrowElem 10 r sc x).1 ≠ 2 ∧ (narrowElem 10 r sc x).1 < 4 := by
  cases x with
  | nan => simp [narrowElem]
  | inf s => exact signCode_o2_valid s gO2.maxCode
  | fin s m e => exact signCode_o2_valid s _

/-- The invalid codes of an O2 block are its codes 0b10 (R39). -/
theorem invalidCodes_o2 (cs : List Nat) : invalidCodes 10 cs = cs.count 2 :=
  List.countP_eq_length_filter.symm

/-- Settles O48: the codes are read one by one, and a rounded code is a sign over a magnitude of its grid. -/
theorem narrowCodesAreRead : Obligations.NarrowCodesAreRead := by
  refine ⟨?o3Codes, ?o2Codes, ?o2Invalid, ?written⟩
  case o3Codes => decide
  case o2Codes => decide
  case o2Invalid =>
    intro cs _
    exact invalidCodes_o2 cs
  case written =>
    intro r sc x _
    obtain ⟨ho3, ho3lt⟩ := narrowElem_o3_valid r sc x
    exact ⟨ho3, ho3lt, narrowElem_o2_valid r sc x⟩

/-! ### Rounding a magnitude that lies on its grid -/

/-- A magnitude in its own unit has no rest. -/
theorem units_self (m : Nat) (e : Int) : units m e e = (m, 0) := by
  simp [units]

/-- Without a rest no rounding mode moves the integer part. -/
theorem roundUnits_of_rest_zero (rm : Nat) (neg : Bool) (n : Nat) : roundUnits rm neg n 0 = n := by
  rcases rm with _ | _ | _ | _ | rm <;> simp [roundUnits]

/-- The leading bit of a W48 significand is bit 37 (R50). -/
theorem log2_significand {f : Nat} (hf : f < 2 ^ 37) : Nat.log2 (2 ^ 37 + f) = 37 :=
  (Nat.log2_eq_iff (by omega)).mpr ⟨by omega, by omega⟩

/-! ### The accumulator W48 (R50, R53, R55) -/

/-- A W48 pattern is its sign, exponent field and fraction (R50). -/
theorem w48_eq_fields (w : BitVec 48) :
    BitVec.ofNat 48 (bit (bitOf w.toNat 47) * 2 ^ 47 + bitsOf w.toNat 46 37 * 2 ^ 37 + bitsOf w.toNat 36 0) = w := by
  have hsign : bit (bitOf w.toNat 47) = w.toNat / 2 ^ 47 := by
    have hw := w.isLt
    simp only [bit, bitOf, beq_iff_eq]
    split_ifs <;> omega
  apply BitVec.eq_of_toNat_eq
  rw [hsign, BitVec.toNat_ofNat]
  simp only [bitsOf]
  have hw := w.isLt
  omega

section
variable {w : BitVec 48}

/-- The exponent field 0 is a zero (R50). -/
theorem w48Val_of_exp_zero (he : bitsOf w.toNat 46 37 = 0) : w48Val w = .fin (bitOf w.toNat 47) 0 0 := by
  simp [w48Val, he]

/-- The exponent field 1,023 with fraction 0 is an infinity (R50). -/
theorem w48Val_of_inf (he : bitsOf w.toNat 46 37 = 1023) (hf : bitsOf w.toNat 36 0 = 0) :
    w48Val w = .inf (bitOf w.toNat 47) := by
  simp [w48Val, he, hf]

/-- The exponent field 1,023 with another fraction is NaN (R50). -/
theorem w48Val_of_nan (he : bitsOf w.toNat 46 37 = 1023) (hf : bitsOf w.toNat 36 0 ≠ 0) : w48Val w = .nan := by
  simp [w48Val, he, hf]

/-- Every other exponent field is a number with 38 significand bits (R50). -/
theorem w48Val_of_normal (hzero : bitsOf w.toNat 46 37 ≠ 0) (hmax : bitsOf w.toNat 46 37 ≠ 1023) :
    w48Val w = .fin (bitOf w.toNat 47) (2 ^ 37 + bitsOf w.toNat 36 0) ((bitsOf w.toNat 46 37 : Int) - 511 - 37) := by
  simp only [w48Val, if_neg hzero, if_neg hmax]

end

/-- A number of 38 significand bits with an exponent in range is rounded to its own fields (R53). -/
theorem w48Round_normal (s : Bool) {e f : Nat} (hf : f < 2 ^ 37) (hlow : 1 ≤ e) (hhigh : e ≤ 1022) :
    w48Round (.fin s (2 ^ 37 + f) ((e : Int) - 511 - 37)) =
      (BitVec.ofNat 48 (bit s * 2 ^ 47 + e * 2 ^ 37 + f), {}) := by
  have hm : 2 ^ 37 + f ≠ 0 := by omega
  have hunit : ((37 : Nat) : Int) + ((e : Int) - 511 - 37) - 37 = (e : Int) - 511 - 37 := by omega
  have hcarry : ¬ 2 ^ 37 + f = 2 ^ 38 := by omega
  have hexp : (e : Int) - 511 - 37 + 37 + 511 = e := by omega
  have hflush : ¬ (e : Int) < 1 := by omega
  have hsat : ¬ 1022 < (e : Int) := by omega
  simp only [w48Round, if_neg hm, log2_significand hf, hunit, units_self, roundUnits_of_rest_zero, if_neg hcarry, hexp,
    if_neg hflush, if_neg hsat, Int.toNat_natCast, Nat.add_sub_cancel_left]

/-- A pattern that R50 allows, NaN apart, is the rounding of its own value, with neither count. -/
theorem w48Round_w48Val {w : BitVec 48} (hzero : bitsOf w.toNat 46 37 ≠ 0 ∨ bitsOf w.toNat 36 0 = 0)
    (hmax : bitsOf w.toNat 46 37 ≠ 1023 ∨ bitsOf w.toNat 36 0 = 0) : w48Round (w48Val w) = (w, {}) := by
  have hfields := w48_eq_fields w
  by_cases he : bitsOf w.toNat 46 37 = 0
  · have hf : bitsOf w.toNat 36 0 = 0 := hzero.resolve_left (not_not_intro he)
    rw [he, hf] at hfields
    simpa [w48Val_of_exp_zero he, w48Round] using hfields
  by_cases he' : bitsOf w.toNat 46 37 = 1023
  · have hf : bitsOf w.toNat 36 0 = 0 := hmax.resolve_left (not_not_intro he')
    rw [he', hf] at hfields
    simpa [w48Val_of_inf he' hf, w48Round] using hfields
  · have hflt : bitsOf w.toNat 36 0 < 2 ^ 37 := Nat.mod_lt _ (by decide)
    have helt : bitsOf w.toNat 46 37 < 2 ^ 10 := Nat.mod_lt _ (by decide)
    rw [w48Val_of_normal he he', w48Round_normal _ hflt (by omega) (by omega), hfields]

/-- A NaN accumulator stays NaN whatever is added (R55). -/
theorem Val.nan_add (v : Val) : Val.add .nan v = .nan := rfl

/-- The sum of opposite infinities is NaN (R55). -/
theorem Val.inf_add_inf_not (b : Bool) : Val.add (.inf b) (.inf (!b)) = .nan := by
  cases b <;> rfl

/-- NaN is rounded to the canonical NaN of W48 (R50). -/
theorem w48Round_nan : w48Round .nan = (0x7FF000000000#48, {}) := rfl

/-- A rounding that saturates is above the range and one that flushes is below it, so none does both (R53). -/
theorem w48Round_counts_one (v : Val) : (w48Round v).2.sat = 0 ∨ (w48Round v).2.flush = 0 := by
  cases v with
  | nan => exact .inl rfl
  | inf s => exact .inl rfl
  | fin s m e =>
    simp only [w48Round]
    split_ifs <;> simp

/-- Settles O49: the classes of R50, each rounded to its own pattern. -/
theorem accumulatorValuesAreExact : Obligations.AccumulatorValuesAreExact := by
  refine ⟨?canonicalNan, ?exact, ?nanStays, ?opposite, w48Round_counts_one⟩
  case canonicalNan =>
    intro w he hf
    rw [w48Val_of_nan he hf, w48Round_nan]
  case exact =>
    intro w hzero hmax
    exact w48Round_w48Val hzero hmax
  case nanStays =>
    intro w v hnan
    rw [w48Add, hnan, Val.nan_add, w48Round_nan]
  case opposite =>
    intro w b hinf
    rw [w48Add, hinf, Val.inf_add_inf_not, w48Round_nan]

/-! ### The stochastic-rounding word (R68, R70) -/

/-- Settles O46: the four rounds of R68, evaluated. -/
theorem stochasticWordVector : Obligations.StochasticWordVector := by
  unfold Obligations.StochasticWordVector
  decide

end Sys2Proof.Machine
end

section
/-! SUPPORT and PROOFS. The vats: writes of settings (R441, R451), the descriptors of a vat (R98 to R121), and the vat
control (R80, R82, R88, R405). -/

namespace Sys2Proof.Machine

/-! ### Requests that pass the checks -/

section
variable {s t u : State} {src : OapSrc} {row : Row} {r : Req} {f : Info} {act : Act} {a : Ans}

/-- A request that no earlier rule answers and that passes its checks is answered as its object's act says (R441,
R442). -/
theorem answerReq_of_checked (hroom : waitingAt src < 32) (hrepeat : repeatsRunning t r = false)
    (hcache : cachedFor t r = none) (hok : precheck t r = .ok f) (hact : act r f t = (u, some a)) :
    answerReq src r act t = reply r a u := by
  simp only [answerReq, if_neg (Nat.not_le.mpr hroom), hrepeat, Bool.false_eq_true, if_false, hcache, hok, hact, reply]

/-- A command whose request is accepted answers with what its act gives. -/
theorem serve_of_accepted (h : Accepted s src row r f t) (hact : act r f t = (u, some a)) :
    serve src row act s = .next (reply r a u) := by
  obtain ⟨⟨p, b, hframe, rfl, rfl, hawake, hgood, hrow, hrom, hroom, hrepeat, hcache⟩, hok⟩ := h
  simp only [serve, hframe]
  rw [occurs_of_true (by simp [hawake, hgood, hrow, hrom]), answerReq_of_checked hroom hrepeat hcache hok hact]

end

/-! ### Association lists -/

/-- A key that was removed has the default value. -/
theorem look_unput_self {κ α : Type} [DecidableEq κ] (l : List (κ × α)) (k : κ) (d : α) : look (unput l k) k d = d := by
  induction l with
  | nil => rfl
  | cons e l ih =>
    by_cases hk : e.1 = k
    · simpa [unput, hk] using ih
    · simpa [unput, look, hk] using ih

/-- A key that was set has its value. -/
theorem look_put_self {κ α : Type} [DecidableEq κ] (l : List (κ × α)) (k : κ) (v d : α) : look (put l k v) k d = v :=
  if_pos rfl

/-- A list that leaves default values out gives back the value that was written. -/
theorem look_put_unless_default {κ α : Type} [DecidableEq κ] [DecidableEq α] (l : List (κ × α)) (k : κ) (v d : α) :
    look (if v = d then unput l k else put l k v) k d = v := by
  split_ifs with hv
  · rw [look_unput_self, hv]
  · exact look_put_self l k v d

/-! ### Writes of settings -/

section
variable {s t : State} {src : OapSrc} {r : Req} {f : Info}

/-- WRITE of the soft limit (R394, R441). -/
theorem execWrite_of_softLimit (h : Accepted s src .write r f t) (hgroup : groupOf r.obj = 0x11) :
    execWrite src s = .next (reply r okAns (t.onStored (fun x => { x with softLimit := r.val }))) :=
  serve_of_accepted h (by simp only [writeAct, hgroup, stored, Req.val])

/-- CAP_WRITE within the range of R376: the ceiling follows. -/
theorem execCapWrite_of_inRange (h : Accepted s src .cap r f t) (hlow : 4000 ≤ r.val) (hhigh : r.val ≤ 9000) :
    execCapWrite src s = .next (reply r okAns (setCeiling (t.onStored (fun x => { x with cap := r.val })))) :=
  serve_of_accepted h (if_neg (by omega))

/-- CAP_WRITE outside the range of R376. -/
theorem execCapWrite_of_outOfRange (h : Accepted s src .cap r f t) (hout : r.val < 4000 ∨ 9000 < r.val) :
    execCapWrite src s = .next (reply r (refusedAns 0x0101) t) :=
  serve_of_accepted h (if_pos hout)

/-- WINDOW_WRITE within 1 to 10. -/
theorem execWindowWrite_of_inRange (h : Accepted s src .window r f t) (hlow : 1 ≤ r.val) (hhigh : r.val ≤ 10) :
    execWindowWrite src s = .next (reply r okAns (t.onStored (fun x => { x with window := r.val }))) :=
  serve_of_accepted h (if_neg (by omega))

/-- INJECTION_PERMIT_WRITE that sets the permit (R471). -/
theorem execInjectionPermitWrite_of_set (h : Accepted s src .permit r f t) (hset : r.val = 1) :
    execInjectionPermitWrite src s = .next (reply r okAns (t.onEvents (fun e => { e with permit := true }))) :=
  serve_of_accepted h (by simp [hset])

/-- INJECTION_PERMIT_WRITE that clears the permit clears every point with it (R471). -/
theorem execInjectionPermitWrite_of_clear (h : Accepted s src .permit r f t) (hclear : r.val = 0) :
    execInjectionPermitWrite src s =
      .next (reply r okAns (t.onEvents (fun e => { e with permit := false, points := [] }))) :=
  serve_of_accepted h (by simp [hclear])

/-- INJECTION_POINT_WRITE of a point under the permit: its ticks and its sequence start anew (R485). -/
theorem execInjectionPointWrite_of_permit (h : Accepted s src .point r f t) (hval : r.val ≠ 0)
    (hpermit : t.events.permit = true) :
    execInjectionPointWrite src s = .next (reply r okAns (t.onEvents (fun e => { e with
      points := put e.points (itemOf r.obj) { mode := r.val % 4, n := r.val / 256, ticks := 0, seq := 0 } }))) :=
  serve_of_accepted h (by simp [hval, hpermit, State.onEvents])

/-- INJECTION_POINT_WRITE without the permit (R471). -/
theorem execInjectionPointWrite_of_noPermit (h : Accepted s src .point r f t) (hval : r.val ≠ 0)
    (hpermit : t.events.permit = false) :
    execInjectionPointWrite src s = .next (reply r (refusedAns 0x0506) t) :=
  serve_of_accepted h (if_pos ⟨hval, by simp [hpermit]⟩)

/-- The settings of the detectors after one is written: a value equal to its default is not listed (R470). -/
def detCfgWith (l : List (Nat × Nat)) (d v : Nat) : List (Nat × Nat) :=
  if v = (if severity d = 5 then 3 else 1) then unput l d else put l d v

/-- DETECTOR_CONFIG_WRITE (R470). -/
theorem execDetectorConfigWrite_of_accepted (h : Accepted s src .detCfg r f t) :
    execDetectorConfigWrite src s = .next (reply r okAns (t.onEvents (fun e => { e with
      detCfg := detCfgWith t.events.detCfg (indexOf r.obj) r.val }))) :=
  serve_of_accepted h rfl

/-- ROUTE_ENTRY_WRITE while the hinge is in use (R291). -/
theorem execRouteEntryWrite_of_inUse (h : Accepted s src .route r f t) (huse : hingeInUse t = true) :
    execRouteEntryWrite src s = .next (reply r (refusedAns 0x0303) t) :=
  serve_of_accepted h (if_pos huse)

/-- ROUTE_ENTRY_WRITE of a table that passes R292. -/
theorem execRouteEntryWrite_of_routesOk (h : Accepted s src .route r f t) (huse : hingeInUse t = false)
    (hok : routesOk t none (putRoute t.warden.stored.routes (indexOf r.obj) (routeBits r.val)) = true) :
    execRouteEntryWrite src s = .next (reply r okAns (t.onStored (fun x => { x with
      routes := putRoute x.routes (indexOf r.obj) (routeBits r.val) }))) :=
  serve_of_accepted h (by simp only [huse, hok, Bool.false_eq_true, not_true_eq_false, if_false]; rfl)

/-- REGION_SIZE_WRITE of the cave region where nothing placed lies in its way (R464). -/
theorem execRegionSizeWrite_of_caveFree (h : Accepted s src .region r f t) (hitem : itemOf r.obj = 0x030)
    (hfree : regionsReach t r.val t.warden.stored.devGiB = false) :
    execRegionSizeWrite src s = .next (reply r okAns (t.onStored (fun x => { x with caveGiB := r.val }))) :=
  serve_of_accepted h (by simp only [hitem, hfree, Bool.false_eq_true, if_true, if_false, stored])

/-- REGION_SIZE_WRITE of the device region into what is placed (R451). -/
theorem execRegionSizeWrite_of_devReach (h : Accepted s src .region r f t) (hitem : itemOf r.obj = 0x031)
    (hreach : regionsReach t t.warden.stored.caveGiB r.val = true) :
    execRegionSizeWrite src s = .next (reply r (refusedAns 0x0203) t) :=
  serve_of_accepted h (by simp [hitem, hreach, refusedAct])

/-- The wheel of OD 20.1w2. -/
theorem wheel_of_vatModeItem {i w : Nat} (hitem : i = 0x102 + 0x10 * w) : (i - 0x100) / 16 = w := by omega

/-- VAT_MODE_OVERRIDE_WRITE of a wheel's vat: its mode is stored, and a change of mode waits on the vat (R79, R80). -/
theorem execVatModeOverrideWrite_of_wheel {w : Nat} (h : Accepted s src .vatMode r f t)
    (hitem : itemOf r.obj = 0x102 + 0x10 * w) :
    ∃ g, execVatModeOverrideWrite src s = .next (reply r okAns
      ((t.onStored (fun x => { x with vatMode := x.vatMode.set w r.val })).onVat w g)) := by
  obtain rfl := wheel_of_vatModeItem hitem
  exact ⟨_, serve_of_accepted h rfl⟩

end

/-- The values of the BOOL payloads. -/
theorem val_of_true {r : Req} (hpay : r.pay = [1#8]) : r.val = 1 := by rw [Req.val, hpay]; rfl

theorem val_of_false {r : Req} (hpay : r.pay = [0#8]) : r.val = 0 := by rw [Req.val, hpay]; rfl

/-- Settles O15: each write is accepted, and its act stores the value or refuses it. -/
theorem settingsAnswer : Obligations.SettingsAnswer := by
  refine ⟨?softLimit, ?cap, ?capOut, ?window, ?permitSet, ?permitClear, ?point, ?pointRefused, ?detector, ?routeInUse,
    ?route, ?cave, ?dev, ?vatMode⟩
  case softLimit =>
    intro s src r f t h hgroup
    exact execWrite_of_softLimit h hgroup
  case cap =>
    intro s src r f t h hlow hhigh
    exact execCapWrite_of_inRange h hlow hhigh
  case capOut =>
    intro s src r f t h hout
    exact execCapWrite_of_outOfRange h hout
  case window =>
    intro s src r f t h hlow hhigh
    exact execWindowWrite_of_inRange h hlow hhigh
  case permitSet =>
    intro s src r f t h hpay
    exact execInjectionPermitWrite_of_set h (val_of_true hpay)
  case permitClear =>
    intro s src r f t h hpay
    exact execInjectionPermitWrite_of_clear h (val_of_false hpay)
  case point =>
    intro s src r f t h hval hpermit
    exact execInjectionPointWrite_of_permit h hval hpermit
  case pointRefused =>
    intro s src r f t h hval hpermit
    exact execInjectionPointWrite_of_noPermit h hval hpermit
  case detector =>
    intro s src r f t h
    exact ⟨_, execDetectorConfigWrite_of_accepted h, look_put_unless_default _ _ _ _⟩
  case routeInUse =>
    intro s src r f t h huse
    exact execRouteEntryWrite_of_inUse h huse
  case route =>
    intro s src r f t h huse hok
    exact execRouteEntryWrite_of_routesOk h huse hok
  case cave =>
    intro s src r f t h hitem hfree
    exact execRegionSizeWrite_of_caveFree h hitem hfree
  case dev =>
    intro s src r f t h hitem hreach
    exact execRegionSizeWrite_of_devReach h hitem hreach
  case vatMode =>
    intro s src r f t w h _ hitem
    obtain ⟨g, hnext⟩ := execVatModeOverrideWrite_of_wheel h hitem
    exact ⟨_, hnext, rfl⟩

/-! ### The descriptors of a vat -/

section
variable {s s0 u : State} {d : DescRef} {v : VatDesc} {m : MacRead} {clear : Bool}

/-- A descriptor command whose descriptor is ready has its effect. -/
theorem vatCommand_of_ready {op : Nat} {g : VatDesc → State → State} (h : VatReady s d op v) (hg : g v s = u) :
    vatCommand d op g s = .next (settle v.h u) := by
  obtain ⟨hdesc, hop, hbegin⟩ := h
  simp only [vatCommand, hdesc, ← hg]
  exact occurs_of_true (by simp [hop, hbegin]) _ s

/-- A MAC whose bank is neither poisoned nor too full, or a MAC_CLEAR, does its work where what it reads and the records
it counts into are good (R102, R119). -/
theorem runMac_of_good (hbank : clear = false → (bankOfDesc s0 v).2 = 0 ∧ (bankOfDesc s0 v).1 + kOf v.ws ≤ 2 ^ 24)
    (hu : u = starve v s0) (hspec : v.spec = false) (hm : m = macRead u v.h v.t v.ws) (hformed : m.malformed = none)
    (hread : m.bad = none) (hrecord : macRecordBad u v = none) :
    runMac v clear s0 = setPhase v.h v.t v.i .worked
      (onBank v (if clear then BankRec.replaced (kOf v.ws) 0 0 else BankRec.grown (kOf v.ws))
        (macCounts v m (macApply v clear m u))) := by
  have hpoison : ¬ (¬ clear = true ∧ (bankOfDesc s0 v).2 ≠ 0) := fun ⟨hc, hp⟩ => hp (hbank (by simpa using hc)).1
  have hcount : ¬ (¬ clear = true ∧ 2 ^ 24 < (bankOfDesc s0 v).1 + kOf v.ws) := fun ⟨hc, hover⟩ =>
    Nat.not_lt.mpr (hbank (by simpa using hc)).2 hover
  simp only [runMac, if_neg hpoison, if_neg hcount, ← hu, ← hm, hformed, hspec, Bool.false_eq_true, if_false, hread,
    hrecord]

/-- A MAC whose products would pass the count of its bank faults before its work (R118). -/
theorem runMac_of_overflow (hpoison : (bankOfDesc s0 v).2 = 0) (hover : 2 ^ 24 < (bankOfDesc s0 v).1 + kOf v.ws) :
    runMac v false s0 = descFault v 0x20 3 (kOf v.ws) 0 s0 := by
  have hwhole : ¬ (¬ false = true ∧ (bankOfDesc s0 v).2 ≠ 0) := fun ⟨_, hp⟩ => hp hpoison
  simp only [runMac, if_neg hwhole, if_pos (And.intro Bool.false_ne_true hover)]

/-- A load phase whose source is read whole replaces the bank and goes on (R93). -/
theorem runLoad_of_read (k : State → State) (hread : (loadRead s v).2 = none) :
    runLoad v k s = k (onBank v (BankRec.replaced 0 0 0) (loadApply v (loadRead s v).1 s)) := by
  simp only [runLoad, hread]

/-- DRAIN whose bank is whole and whose stash opens need no wait (R91, R233). -/
theorem execDrain_of_open (h : VatReady s d 3 v) (hwhole : drainFaults s v = false)
    (hopen : (preOpen v.h v.t (drainPuts s v) s).2 = false) :
    execDrain d s = .next (settle v.h (runDrain v (beginDesc v (preOpen v.h v.t (drainPuts s v) s).1))) :=
  vatCommand_of_ready h (by simp only [hwhole, hopen, Bool.false_eq_true, if_false])

/-- TRANSPOSE whose stash opens need no wait and whose source is read whole (R93, R233). -/
theorem execTranspose_of_open (h : VatReady s d 5 v)
    (hopen : (preOpen v.h v.t (transposePlan v (loadRead s v).1).1 s).2 = false)
    (hu : u = beginDesc v (preOpen v.h v.t (transposePlan v (loadRead s v).1).1 s).1)
    (hread : (loadRead u v).2 = none) :
    execTranspose d s = .next (settle v.h (drainOut v (transposePlan v (loadRead s v).1).1
      (transposePlan v (loadRead s v).1).2 true
      (onBank v (BankRec.replaced 0 0 0) (loadApply v (loadRead u v).1 u)))) :=
  vatCommand_of_ready h (by simp only [hopen, Bool.false_eq_true, if_false, ← hu, runLoad_of_read _ hread])

end

/-- DESCRIPTOR_SIGNAL of a descriptor whose work is done and whose task's writes are visible: SG_INC, where it is not 0,
is added to the signal tumbler (R104, R165). -/
theorem execDescriptorSignal_of_worked {s : State} {d : DescRef} {r : Recipe} {k : Task} {x : TaskRun} {e : DescRun}
    (hr : s.recipe? d.recipe = some r) (hk : r.task? d.task = some k) (hx : r.run? d.task = some x)
    (he : x.descs[d.idx]? = some e) (hworked : e.phase = .worked) (hvisible : writesOut s d.recipe d.task = false) :
    execDescriptorSignal d s = .next (settle d.recipe
      (if sigInc (descHead r k d.idx) = 0 then setPhase d.recipe d.task d.idx .signalled s
       else taskAdd d.recipe d.task (taskUnit s d.recipe d.task k) (k.cls == 2) (sigId (descHead r k d.idx))
         (sigInc (descHead r k d.idx)) (setPhase d.recipe d.task d.idx .signalled s))) := by
  simp only [execDescriptorSignal, hr, hk, hx, he, Option.bind_some, Option.map_some]
  exact occurs_of_true (by rw [hvisible, hworked]; rfl) _ s

/-- Settles O24: each descriptor is ready, and no fault of R118 to R120 ends its work but the one that is stated. -/
theorem vatDescriptorsAnswer : Obligations.VatDescriptorsAnswer := by
  refine ⟨?mac, ?macOverflow, ?macClear, ?drain, ?load, ?transpose, ?fence, ?signal⟩
  case mac =>
    intro s d v u m h hcount hpoison hu hspec hm hformed hread hrecord
    exact vatCommand_of_ready h (runMac_of_good (fun _ => ⟨hpoison, hcount⟩) hu hspec hm hformed hread hrecord)
  case macOverflow =>
    intro s d v u h hu hpoison hover
    subst hu
    exact vatCommand_of_ready h (runMac_of_overflow hpoison hover)
  case macClear =>
    intro s d v u m h hu hspec hm hformed hread hrecord
    exact vatCommand_of_ready h (runMac_of_good (clear := true) (by simp) hu hspec hm hformed hread hrecord)
  case drain =>
    intro s d v h hwhole hopen
    exact execDrain_of_open h hwhole hopen
  case load =>
    intro s d v u h hu hread
    subst hu
    exact vatCommand_of_ready h (runLoad_of_read _ hread)
  case transpose =>
    intro s d v u h _ hopen hu hread _
    exact execTranspose_of_open h hopen hu hread
  case fence =>
    intro s d v h
    exact vatCommand_of_ready h rfl
  case signal =>
    intro s d r k x e hr hk hx _ he hworked hvisible
    exact execDescriptorSignal_of_worked hr hk hx he hworked hvisible

/-! ### The vat control -/

section
variable {s : State} {w : Nat}

/-- No descriptor is older than itself. -/
theorem older_self (d : VatDesc) : older d d = false := by simp [older]

/-- ARRANGEMENT_RECONFIGURE where the vat's one descriptor is ready and waits for another arrangement (R88). -/
theorem execArrangementReconfigure_of_due {d : VatDesc} (hidle : (vatDescs s w).any (fun a => a.busy) = false)
    (hshape : (s.vat w).pendingShape = none) (hmode : (s.vat w).pendingMode = false) (hdue : d.due = true)
    (hneeds : needsArr (s.vat w) d = true) (hdescs : vatDescs s w = [d]) :
    execArrangementReconfigure w s = .next (s.onVat w (fun v => { v with arr := arrOf d.ws })) := by
  have hfirst : (vatDescs s w).find? (fun d => d.due && needsArr (s.vat w) d &&
      !(vatDescs s w).any (fun a => older a d && !a.wide)) = some d := by
    simp [hdescs, hdue, hneeds, older_self]
  simp only [execArrangementReconfigure, hfirst]
  exact occurs_of_true (by simp [hidle, hshape, hmode]) _ s

/-- VAT_CHANGE_APPLY of a change that waits, with no descriptor in progress (R80). -/
theorem execVatChangeApply_of_pending (hidle : (vatDescs s w).any (fun a => a.busy) = false)
    (hpending : (s.vat w).pendingShape.isSome = true ∨ (s.vat w).pendingMode = true) :
    execVatChangeApply w s = .next ((takeShape w s).onVat w (fun v => { v with
      broadcast := wantsBroadcast s w, pendingShape := none, pendingMode := false })) := by
  rw [execVatChangeApply]
  exact occurs_of_true (by simpa [hidle] using hpending) _ s

/-- FEEDER_STARVATION_TIMEOUT of a vat with a descriptor to feed: the episode is counted and 0x520 posts (R82). -/
theorem execFeederStarvationTimeout_of_feeds (hfeeds : (vatDescs s w).any (fun d => d.busy || d.due) = true) :
    execFeederStarvationTimeout w s = .next (post 0x520 (vatUnit w) 0 []
      (s.onVat w (fun v => { v with starvation := satAdd 64 v.starvation 1 }))) := by
  rw [execFeederStarvationTimeout]
  exact occurs_of_true hfeeds _ s

/-- VAT_HANDSHAKE_STALL of a vat in work: 0x521 posts, and a stall that names a line is noted on it (R82, R405). -/
theorem execVatHandshakeStall_of_busy (hw : w < 8) (hbusy : (vatDescs s w).any (fun d => d.busy) = true) :
    execVatHandshakeStall w none s = .next (post 0x521 (vatUnit w) 0 [] s) ∧
    ∀ (c : Bool) (p : Nat), p < 1040 → execVatHandshakeStall w (some (c, p)) s =
      .next (noteStall (vatUnit w) (linePart c p) (post 0x521 (vatUnit w) 0 [] s)) := by
  have hmay : (decide (w < 8) && (vatDescs s w).any (fun d => d.busy)) = true := by simp [hw, hbusy]
  refine ⟨occurs_of_true hmay _ s, fun c p hp => ?_⟩
  simp only [execVatHandshakeStall, if_pos hp]
  exact occurs_of_true hmay _ s

end

/-- Settles O25: each clause is the law of its command. -/
theorem vatControlAnswers : Obligations.VatControlAnswers := by
  refine ⟨?reconfigure, ?change, ?starvation, ?stall, ?stallLine⟩
  case reconfigure =>
    intro s w d hidle hshape hmode hdue hneeds hdescs
    exact execArrangementReconfigure_of_due hidle hshape hmode hdue hneeds hdescs
  case change =>
    intro s w hidle hpending
    exact execVatChangeApply_of_pending hidle hpending
  case starvation =>
    intro s w hfeeds
    exact execFeederStarvationTimeout_of_feeds hfeeds
  case stall =>
    intro s w hw hbusy
    exact (execVatHandshakeStall_of_busy hw hbusy).1
  case stallLine =>
    intro s w p c hw hp hbusy
    exact (execVatHandshakeStall_of_busy hw hbusy).2 c p hp

end Sys2Proof.Machine
end

section
/-! SUPPORT and PROOFS. The memory tiers: the atomics and their operands (R138), the cave tier (R135, R146 to R156), and
the requests, the scrub and the watchdogs of the curd store and the near tier (R126 to R159, R426). -/

namespace Sys2Proof.Machine

/-! ### Little-endian numbers in a store (R8) -/

@[simp] theorem length_leBytes (n v : Nat) : (leBytes n v).length = n := by
  induction n generalizing v with
  | zero => rfl
  | succ n ih => simp only [leBytes, List.length_cons, ih]

/-- A little-endian number has no bits beyond its bytes. -/
theorem ofLe_lt (bs : List Byte) : ofLe bs < 256 ^ bs.length := by
  induction bs with
  | nil => exact Nat.one_pos
  | cons b bs ih =>
    have hb := b.isLt
    rw [ofLe, List.length_cons, Nat.pow_succ]
    omega

/-- A number in a store has no bits beyond its bytes. -/
theorem memLe_lt (m : Memory) (a n : Nat) : memLe m a n < 256 ^ n := by
  simpa [memLe] using ofLe_lt (memRead m a n)

/-- A number that was written is read back, cut to its bytes. -/
theorem memLe_memWrite_leBytes {m : Memory} (hwf : m.wf = true) (a n v : Nat) :
    memLe (memWrite m a (leBytes n v)) a n = v % 256 ^ n := by
  have hread := memRead_memWrite_same (leBytes n v) m a hwf
  rw [length_leBytes] at hread
  rw [memLe, hread, ofLe_leBytes]

/-! ### Atomics (R138) -/

@[simp] theorem clearPoison_near (l : Loc) (n : Nat) (s : State) : (clearPoison l n s).near = s.near := by
  cases l <;> rfl

@[simp] theorem locWrite_near_near (a : Nat) (bs : List Byte) (s : State) :
    (locWrite (.near a) bs s).near = memWrite s.near a bs :=
  clearPoison_near _ _ _

@[simp] theorem atomic_near (n : Nat) (f : Nat → Nat) (a : Nat) (s : State) :
    (atomic n f a s).near = memWrite s.near a (leBytes n (f (memLe s.near a n))) :=
  locWrite_near_near _ _ _

@[simp] theorem atomic_lastAtomic (n : Nat) (f : Nat → Nat) (a : Nat) (s : State) :
    (atomic n f a s).tiers.lastAtomic = memLe s.near a n := rfl

section
variable {s : State} {n a : Nat} {f : Nat → Nat}

/-- An atomic on an aligned operand of host space that is not poisoned is applied. -/
theorem atomicStep_of_ok (hok : atomicOk s a n = true) : atomicStep n f a s = .next (atomic n f a s) :=
  congrArg Host.Outcome.next (if_pos hok)

/-- An atomic whose result fits the operand writes it there, returns the old value and changes no other byte. -/
theorem atomicStep_touches_operand (hwf : s.near.wf = true) (hok : atomicOk s a n = true)
    (hfits : f (memLe s.near a n) < 256 ^ n) :
    ∃ t : State, atomicStep n f a s = .next t ∧ memLe t.near a n = f (memLe s.near a n) ∧
      t.tiers.lastAtomic = memLe s.near a n ∧ ∀ x, x < a ∨ a + n ≤ x → memGet t.near x = memGet s.near x := by
  refine ⟨_, atomicStep_of_ok hok, ?value, rfl, fun x hx => ?other⟩
  case value => rw [atomic_near, memLe_memWrite_leBytes hwf, Nat.mod_eq_of_lt hfits]
  case other =>
    rw [atomic_near]
    exact memGet_memWrite_outside _ _ _ _ hwf (by rwa [length_leBytes])

end

/-- What CAS writes fits its operand. -/
theorem cas_fits (n x y o : Nat) (ho : o < 256 ^ n) :
    (if o = x % 2 ^ (8 * n) then y % 2 ^ (8 * n) else o) < 256 ^ n := by
  have hpow : 2 ^ (8 * n) = 256 ^ n := Nat.pow_mul 2 8 n
  split_ifs
  · exact hpow ▸ Nat.mod_lt _ (Nat.two_pow_pos _)
  · exact ho

/-- Settles O57: the result of each atomic fits its operand. -/
theorem atomicsTouchTheirOperand : Obligations.AtomicsTouchTheirOperand := by
  intro s a hwf
  refine ⟨?adds32, ?add64, ?cas⟩
  case adds32 =>
    intro v hok
    exact atomicStep_touches_operand (f := fun o => satAdd 32 o v.toNat) hwf hok
      (Nat.lt_of_le_of_lt (Nat.min_le_right _ _) (by decide))
  case add64 =>
    intro v hok
    exact atomicStep_touches_operand (f := fun o => (o + v.toNat) % 2 ^ 64) hwf hok (Nat.mod_lt _ (by decide))
  case cas =>
    intro w x y hok
    exact atomicStep_touches_operand hwf hok (cas_fits _ _ _ _ (memLe_lt _ _ _))

/-! ### The cave tier -/

section
variable {s : State}

/-- CAVE_DEMAND_READ by a started task of a recipe with a share (R154). -/
theorem execCaveDemandRead_of_started {t : TaskRef} {a p : Nat} {r : Recipe} {k : Task} {x : TaskRun}
    (hr : s.recipe? t.recipe = some r) (hk : r.task? t.task = some k) (hx : r.run? t.task = some x)
    (hstarted : x.started = true) (ha : translate s r a false = .ok (.cave p)) (hshare : 0 < r.cave.mib) :
    execCaveDemandRead t a s = .next (onShare t.recipe (demandRead r k.layer (p / 65536) s.now) s) := by
  simp only [execCaveDemandRead, hr, hk, hx, ha]
  exact occurs_of_true (by simp [hstarted, hshare]) _ s

/-- The share after the fill of a segment: it is no longer filling, and what waits for a way is tried again (R153). -/
def CaveShare.filled (g : Nat) (bad : Bool) (c : CaveShare) : CaveShare :=
  ({ c with
    segments := modFirst (fun x => x.seg == g) (fun x => { x with filling := false, poisoned := bad })
      c.segments } : CaveShare).retry

/-- A fill that arrives: the carries that demanded it and the share. -/
def fillArrives (h g : Nat) (bad : Bool) (s : State) : State :=
  onShare h (CaveShare.filled g bad) (deliverFill h g bad s)

@[simp] theorem fillArrives_tiers (h g : Nat) (bad : Bool) (s : State) : (fillArrives h g bad s).tiers = s.tiers := rfl

@[simp] theorem fillArrives_recipes (h g : Nat) (bad : Bool) (s : State) :
    (fillArrives h g bad s).recipes = (s.onRecipe h (fun y => { y with cave := y.cave.filled g bad })).recipes := rfl

/-- The poison of a segment goes where no share holds it poisoned any more (R135). -/
def clearCavePoison (g : Nat) (s : State) : State :=
  if s.recipes.any (fun y => y.cave.segments.any (fun x => x.seg == g && x.poisoned)) then s
  else s.onTiers (fun t => { t with poisonCave := t.poisonCave.filter (· != g) })

@[simp] theorem clearCavePoison_recipes (g : Nat) (s : State) : (clearCavePoison g s).recipes = s.recipes := by
  unfold clearCavePoison
  split_ifs <;> rfl

/-- The poisoned cave segments after it. -/
theorem clearCavePoison_poisonCave (g : Nat) (s : State) :
    (clearCavePoison g s).tiers.poisonCave =
      if s.recipes.any (fun y => y.cave.segments.any (fun x => x.seg == g && x.poisoned)) then s.tiers.poisonCave
      else s.tiers.poisonCave.filter (· != g) := by
  unfold clearCavePoison
  split_ifs <;> rfl

/-- CAVE_FILL_COMPLETE with good data (R153). -/
theorem execCaveFillComplete_good {h g : Nat} {r : Recipe} (hr : s.recipe? h = some r)
    (hfilling : r.cave.segments.any (fun x => x.seg == g && x.filling) = true) :
    execCaveFillComplete h g none s = .next (clearCavePoison g (fillArrives h g false s)) := by
  simp only [execCaveFillComplete, hr]
  exact occurs_of_true hfilling _ s

/-- CAVE_FILL_COMPLETE with bad data: the segment is poisoned and 0x321 posts for the port (R135, R146). -/
theorem execCaveFillComplete_bad {h g k : Nat} {r : Recipe} (hr : s.recipe? h = some r)
    (hfilling : r.cave.segments.any (fun x => x.seg == g && x.filling) = true) :
    execCaveFillComplete h g (some k) s =
      .next (post 0x321 (unitId 0xA 0 ((cavePlace s (g * 65536 + k % 16 * 4096)).elim 0 (fun p => p.1))) 0 []
        ((fillArrives h g true s).onTiers (fun t => { t with poisonCave := insertNew t.poisonCave g }))) := by
  simp only [execCaveFillComplete, hr]
  exact occurs_of_true hfilling _ s

/-- A tracker of whose layer no late wait has risen saves its final lead (R154). -/
theorem savedLead_of_not_risen (c : CaveShare) {t : Tracker} (hrisen : t.risen = false) :
    savedLead c t = { page := t.firstPage, lead := t.lead, cap := leadMax c c.trackers.length, layer := t.layer,
                      step := t.step } := by
  simp [savedLead, hrisen]

/-- TRACKER_CLOSE of a tracker that is idle for 1 ms (R154). -/
theorem execTrackerClose_of_idle {h i : Nat} {r : Recipe} {t : Tracker} (hr : s.recipe? h = some r)
    (ht : r.cave.trackers[i]? = some t) (hidle : t.used + 10 ^ 6 ≤ s.now) :
    execTrackerClose h i s = .next (onShare h (fun c => c.close t) s) := by
  have hfind : (s.recipe? h).bind (fun r => r.cave.trackers[i]?) = some t := by rw [hr, Option.bind_some, ht]
  simp only [execTrackerClose, hfind]
  exact occurs_of_true (decide_eq_true hidle) _ s

/-- The cave address of an offset of a port of the interleave (R148). -/
theorem caveAddr_of_port {p i : Nat} (off : Nat) (hp : (cavePorts s).findIdx? (· == p) = some i) :
    caveAddr s p off = some ((off / 4096 * (cavePorts s).length + i) * 4096 + off % 4096) := by
  simp only [caveAddr, hp, Option.map_some]

/-- The unit of a far port (R477). -/
theorem unitId_farPort (p : Nat) : unitId 0xA 0 p = 0xA0000 + p % 2 ^ 13 := rfl

/-- CAVE_DEVICE_ERROR_REPORT of a port of the interleave (R146, R162). -/
theorem execCaveDeviceErrorReport_of_port {p i : Nat} (uncorrected : Bool) (a : Nat)
    (hp : (cavePorts s).findIdx? (· == p) = some i) :
    execCaveDeviceErrorReport p uncorrected a s = .next (if uncorrected then
        post 0x321 (0xA0000 + p % 2 ^ 13) 0 []
          (poisonSegment (((a / 4096 * (cavePorts s).length + i) * 4096 + a % 4096) / 65536) s)
      else postAbove false 1000 (3600 * 10 ^ 9) 1 0x320 (0xA0000 + p % 2 ^ 13) 0 [] s) := by
  simp only [execCaveDeviceErrorReport, caveAddr_of_port a hp, unitId_farPort]

end

/-- Settles O30: each clause is the law of its command. -/
theorem caveAnswers : Obligations.CaveAnswers := by
  refine ⟨?demand, ?fill, ?badFill, ?close, ?uncorrected, ?corrected⟩
  case demand =>
    intro s t a p r k x hr hk hx hstarted ha hshare
    exact execCaveDemandRead_of_started hr hk hx hstarted ha hshare
  case fill =>
    intro s h g r hr hfilling
    have hrecipes := clearCavePoison_recipes g (fillArrives h g false s)
    refine ⟨_, execCaveFillComplete_good hr hfilling, ?_, hrecipes.trans (fillArrives_recipes h g false s)⟩
    rw [clearCavePoison_poisonCave, hrecipes, fillArrives_tiers]
  case badFill =>
    intro s h g k r hr hfilling
    exact ⟨_, _, execCaveFillComplete_bad hr hfilling, rfl⟩
  case close =>
    intro s h i r t hr ht hidle hrisen
    rw [exec_trackerClose, execTrackerClose_of_idle hr ht hidle]
    simp only [onShare, CaveShare.close, savedLead_of_not_risen _ hrisen]
  case uncorrected =>
    intro s p a i hp
    exact execCaveDeviceErrorReport_of_port true a hp
  case corrected =>
    intro s p a i hp
    exact execCaveDeviceErrorReport_of_port false a hp

/-! ### Requests to banks and channels (R126, R127, R158, R426) -/

section
variable {s : State} {r : ReqId} {a n : Nat} {b : BankId} {data : Option (List Byte)} {e : Ecc} {v : Serve}

@[simp] theorem afterWrite_none (h : Nat) (s : State) : afterWrite h none s = s := rfl

@[simp] theorem afterWrite_some (h : Nat) (bs : List Byte) (s : State) : afterWrite h (some bs) s = settle h s := rfl

/-- A request that no drain keeps from its bank takes its step there; what waited for a write goes on. -/
theorem reachBank_of_reaches (h : Reaches s r b) :
    reachBank r b a n data v s = afterWrite r.recipe data (requestStep r b a n data v s) := by
  rcases h with ⟨x, hx, hid⟩ | ⟨hissuer, hbank⟩
  · have hout : s.tiers.requests.any (fun x => x.id == r) = true :=
      List.any_eq_true.mpr ⟨x, hx, beq_iff_eq.mpr hid⟩
    rw [reachBank, if_pos hout]
  · rw [reachBank, hissuer, hbank, if_neg Bool.false_ne_true, if_neg Bool.false_ne_true, ite_self]

/-- A new request from outside that reaches a draining slice ends its task ABSORBED (R426). -/
theorem reachBank_of_draining (hnew : ∀ x ∈ s.tiers.requests, x.id ≠ r) (hissuer : issuerDrains s r = false)
    (hbank : bankDrains s b = true) : reachBank r b a n data v s = absorbIssuer r.recipe r.task s := by
  have hout : ¬ s.tiers.requests.any (fun x => x.id == r) = true := fun hany => by
    obtain ⟨x, hx, hid⟩ := List.any_eq_true.mp hany
    exact hnew x hx (beq_iff_eq.mp hid)
  rw [reachBank, if_neg hout, hissuer, if_neg Bool.false_ne_true, if_pos hbank]

/-- A request at a bank with no older one and a free slot is served now. -/
theorem requestStep_of_served (hfirst : s.tiers.requests.find? (fun q => q.bank == b) = none)
    (hslot : slotFree s r b = true) : requestStep r b a n data (.done e) s = serveReq b e a n data s := by
  simp only [requestStep, hfirst, hslot, Bool.not_true, Bool.false_eq_true, if_false]

/-- A request that the bank does not complete now holds its slot. -/
theorem requestStep_of_stalled (hfirst : s.tiers.requests.find? (fun q => q.bank == b) = none)
    (hslot : slotFree s r b = true) : requestStep r b a n data .stalled s = enqueueReq r b a n data true s := by
  simp only [requestStep, hfirst, hslot, Bool.not_true, Bool.false_eq_true, if_false]

/-- MEMORY_READ within one granule of a bank. -/
theorem execMemoryRead_of_bank (hb : bankOf s a = some b) (hgranule : oneGranule a n = true) :
    execMemoryRead r a n v s = .next (reachBank r b a n none v s) := by
  simp only [execMemoryRead, hb]
  exact occurs_of_true hgranule _ s

/-- MEMORY_WRITE within one granule of a bank. -/
theorem execMemoryWrite_of_bank {bs : List Byte} (hb : bankOf s a = some b) (hgranule : oneGranule a bs.length = true) :
    execMemoryWrite r a bs v s = .next (reachBank r b a bs.length (some bs) v s) := by
  simp only [execMemoryWrite, hb]
  exact occurs_of_true hgranule _ s

/-- BANK_CAP_WAIT_END of the one request, which waits at its source. -/
theorem execBankCapWaitEnd_of_waits {q : MemReq} (hone : s.tiers.requests = [q]) (hbank : q.bank = b)
    (hwaits : q.held = false) (hroom : slotRoom s q.id b = true) (hissuer : issuerDrains s q.id = false) :
    execBankCapWaitEnd b s = .next (s.onTiers (fun t => { t with requests := [{ q with held := true }] })) := by
  have hfind : s.tiers.requests.find? (fun q => q.bank == b && !q.held) = some q := by simp [hone, hbank, hwaits]
  simp only [execBankCapWaitEnd, hfind]
  rw [occurs_of_true (by rw [hroom, hissuer]; rfl)]
  simp [State.onTiers, hone, modFirst]

end

/-! ### The scrub, the watchdogs and the channels (R134, R136, R159, R162) -/

section
variable {s : State}

/-- PATROL_SCRUB of a sector of the placed near tier (R134). -/
theorem execPatrolScrub_of_placed {a : Nat} (e : Ecc) (hplaced : s.tiers.placed = true)
    (ha : (nearPlace s a).isSome = true) :
    execPatrolScrub a e s = .next ((eccEffect e (nearBase + a) 32 s).onTiers (fun t => { t with
      scrub := a / 32 * 32 + 32 })) :=
  occurs_of_true (by rw [hplaced, ha]; rfl) _ s

/-- BANK_NO_PROGRESS of a bank with outstanding requests: its detector posts once per episode and is counted always
(R159, R484). -/
theorem execBankNoProgress_of_held {b : BankId} (hheld : 0 < heldAt s b) :
    execBankNoProgress b s = .next ((if stallGoesOn s b then countDet (stallDet b).1 s
      else post (stallDet b).1 (stallDet b).2 0 [] s).onTiers (fun t => { t with stalls := put t.stalls b none })) :=
  occurs_of_true (decide_eq_true hheld) _ s

/-- BANK_NO_PROGRESS that begins an episode. -/
theorem execBankNoProgress_of_new {b : BankId} (hheld : 0 < heldAt s b) (hnew : stallGoesOn s b = false) :
    execBankNoProgress b s = .next ((post (stallDet b).1 (stallDet b).2 0 [] s).onTiers (fun t =>
      { t with stalls := put t.stalls b none })) := by
  rw [execBankNoProgress_of_held hheld, hnew, if_neg Bool.false_ne_true]

/-- BANK_NO_PROGRESS within an episode. -/
theorem execBankNoProgress_of_same {b : BankId} (hheld : 0 < heldAt s b) (hsame : stallGoesOn s b = true) :
    execBankNoProgress b s = .next ((countDet (stallDet b).1 s).onTiers (fun t =>
      { t with stalls := put t.stalls b none })) := by
  rw [execBankNoProgress_of_held hheld, if_pos hsame]

/-- The state in which a curd bank has failed: its requests are complete, poisoned, and it is to be spared (R159). -/
def curdBankFailed (w k : Nat) (s : State) : State :=
  (progress (.curd w k) ((forEach (s.tiers.requests.filter (fun q => q.bank == .curd w k)) completePoisoned s).onTiers
    (fun t => { t with requests := t.requests.filter (fun q => q.bank != .curd w k) }))).onWheel w (fun x =>
      { x with failedBanks := insertNew x.failedBanks k })

/-- No request of a failed bank stays outstanding. -/
theorem curdBankFailed_requests (w k : Nat) (s : State) :
    (curdBankFailed w k s).tiers.requests.any (fun q => q.bank == .curd w k) = false := by
  simp [curdBankFailed, progress]

/-- BANK_FAILED of a curd bank with outstanding requests (R159): what waited for the writes goes on. -/
theorem execBankFailed_curd {w k : Nat} (hheld : 0 < heldAt s (.curd w k)) :
    execBankFailed (.curd w k) s = .next (forEach ((s.tiers.requests.filter (fun q =>
      q.bank == .curd w k)).map (fun q => q.id.recipe)).dedup settle (curdBankFailed w k s)) :=
  occurs_of_true (decide_eq_true hheld) _ s

/-- CHANNEL_SYMBOL_RATE_EXCEEDED of a channel in use (R136). -/
theorem execChannelSymbolRateExceeded_of_channel {c : Nat} (hc : c ∈ s.tiers.channels) :
    execChannelSymbolRateExceeded c s = .next (scheduleMapOut c s) :=
  occurs_of_true (List.contains_iff_mem.mpr hc) _ s

end

/-- Settles O31: each clause is the law of its command. -/
theorem memoryAnswers : Obligations.MemoryAnswers := by
  refine ⟨?read, ?readStalled, ?write, ?readAbsorbed, ?writeAbsorbed, ?four, ?add64, ?cas, ?capWait, ?scrub, ?curdStall,
    ?nearStall, ?sameStall, ?failed, ?channel⟩
  case read =>
    intro s r a n b e hb hgranule hfirst hslot hreaches
    rw [exec_memoryRead, execMemoryRead_of_bank hb hgranule, reachBank_of_reaches hreaches,
      requestStep_of_served hfirst hslot, afterWrite_none]
  case readStalled =>
    intro s r a n b hb hgranule hfirst hslot hreaches
    rw [exec_memoryRead, execMemoryRead_of_bank hb hgranule, reachBank_of_reaches hreaches,
      requestStep_of_stalled hfirst hslot, afterWrite_none]
  case write =>
    intro s r a bs b e hb hgranule hfirst hslot hreaches
    rw [exec_memoryWrite, execMemoryWrite_of_bank hb hgranule, reachBank_of_reaches hreaches,
      requestStep_of_served hfirst hslot, afterWrite_some]
  case readAbsorbed =>
    intro s r a n b v hb hgranule hnew hissuer hbank
    rw [exec_memoryRead, execMemoryRead_of_bank hb hgranule, reachBank_of_draining hnew hissuer hbank]
  case writeAbsorbed =>
    intro s r a bs b v hb hgranule hnew hissuer hbank
    rw [exec_memoryWrite, execMemoryWrite_of_bank hb hgranule, reachBank_of_draining hnew hissuer hbank]
  case four =>
    intro s a v hok
    exact ⟨atomicStep_of_ok hok, atomicStep_of_ok hok⟩
  case add64 =>
    intro s a v hok
    exact atomicStep_of_ok hok
  case cas =>
    intro s a x y w hok
    exact atomicStep_of_ok hok
  case capWait =>
    intro s b q hone hbank hwaits hroom hissuer
    exact execBankCapWaitEnd_of_waits hone hbank hwaits hroom hissuer
  case scrub =>
    intro s a hplaced ha
    exact ⟨_, execPatrolScrub_of_placed .clean hplaced ha, rfl⟩
  case curdStall =>
    intro s w k hheld hnew
    exact execBankNoProgress_of_new hheld hnew
  case nearStall =>
    intro s c g hheld hnew
    exact execBankNoProgress_of_new hheld hnew
  case sameStall =>
    intro s b hheld hsame
    exact execBankNoProgress_of_same hheld hsame
  case failed =>
    intro s w k _ hheld
    exact ⟨_, execBankFailed_curd hheld, curdBankFailed_requests w k s⟩
  case channel =>
    intro s c hc
    exact execChannelSymbolRateExceeded_of_channel hc

end Sys2Proof.Machine
end

section
/-! SUPPORT and PROOFS. The Warden's writes that begin work: enables and disables (R428, R451), and MAINTENANCE with the
flush of the cave cache (R151, R424). -/

namespace Sys2Proof.Machine

/-! ### Requests whose work is answered later (R447) -/

section
variable {s t u : State} {src : OapSrc} {row : Row} {r : Req} {f : Info} {act : Act}

/-- A request that no earlier rule answers and that passes its checks, and whose act leaves the answer to its end. -/
theorem answerReq_of_unanswered (hroom : waitingAt src < 32) (hrepeat : repeatsRunning t r = false)
    (hcache : cachedFor t r = none) (hok : precheck t r = .ok f) (hact : act r f t = (u, none)) :
    answerReq src r act t = u := by
  simp only [answerReq, if_neg (Nat.not_le.mpr hroom), hrepeat, Bool.false_eq_true, if_false, hcache, hok, hact]

/-- A command whose request is accepted and whose work runs on: the answer comes with its end (R447). -/
theorem serve_of_unanswered (h : Accepted s src row r f t) (hact : act r f t = (u, none)) :
    serve src row act s = .next u := by
  obtain ⟨⟨p, b, hframe, rfl, rfl, hawake, hgood, hrow, hrom, hroom, hrepeat, hcache⟩, hok⟩ := h
  simp only [serve, hframe]
  rw [occurs_of_true (by simp [hawake, hgood, hrow, hrom]),
    answerReq_of_unanswered hroom hrepeat hcache hok hact]

end

/-! ### Enables and disables -/

section
variable {s t : State} {src : OapSrc} {r : Req} {f : Info}

/-- DEVICE_ENABLE whose checks pass: bring-up runs from Stage 2 (R392, R428). -/
theorem execDeviceEnable_of_checked (h : Accepted s src .devOn r f t) (hoff : t.warden.stored.devEnable = false)
    (hchecks : deviceRefusal t = none) :
    execDeviceEnable src s =
      .next (enterStage 2 t.now (startRun r false (t.onStored (fun x => { x with devEnable := true })))) :=
  serve_of_unanswered h (by simp only [hoff, hchecks, Bool.false_eq_true, if_false, runsOn])

/-- DEVICE_DISABLE in STAGING with the rails off: bring-up ends in OFF, and there is nothing to drain. -/
theorem execDeviceDisable_of_staging (h : Accepted s src .devOff r f t) (hrails : t.power.rails = false)
    (hstaging : t.life.state = .staging) :
    execDeviceDisable src s = .next (reply r okAns
      (((t.onStored (fun x => { x with devEnable := false })).onLife (fun l => { l with stage := none })).enter .off)) :=
  serve_of_accepted h (by simp only [hrails, hstaging, Bool.false_eq_true, if_false, if_true])

/-- WHEEL_ENABLE of a wheel that is enabled. -/
theorem execWheelEnable_of_enabled (x : WheelScan) (h : Accepted s src .wheelOn r f t)
    (hon : nth t.warden.stored.wheelEnable (wheelOf r.obj) true = true) :
    execWheelEnable src x s = .next (reply r okAns t) :=
  serve_of_accepted h (if_pos hon)

/-- WHEEL_ENABLE in service of a wheel that is under no reset and is not fenced: it comes up (R428, R429). -/
theorem execWheelEnable_of_serving (x : WheelScan) (h : Accepted s src .wheelOn r f t)
    (hoff : nth t.warden.stored.wheelEnable (wheelOf r.obj) true = false) (hserving : t.serving = true)
    (hreset : underReset t (wheelOf r.obj) = false) (hfence : t.life.fencedWheels.contains (wheelOf r.obj) = false) :
    execWheelEnable src x s = .next (finishRun 0 0 [] (startRun r false (wheelComesUp (wheelOf r.obj) x
      (t.onStored (fun y => { y with wheelEnable := y.wheelEnable.set (wheelOf r.obj) true }))))) :=
  serve_of_unanswered h (by
    simp only [hoff, hserving, hreset, hfence, Bool.false_eq_true, not_true_eq_false, or_self, if_false, operationDone])

/-- WHEEL_DISABLE with the main rails off: there is nothing to drain. -/
theorem execWheelDisable_of_railsOff (h : Accepted s src .wheelOff r f t) (hrails : t.power.rails = false) :
    execWheelDisable src s = .next (reply r okAns
      (t.onStored (fun y => { y with wheelEnable := y.wheelEnable.set (wheelOf r.obj) false }))) :=
  serve_of_accepted h (if_pos (.inl (by simp [hrails])))

/-- FAR_PORT_ENABLE that fails a check is refused with its code (R451). -/
theorem execFarPortEnable_of_refused (x : FarFound) {code : Nat} (h : Accepted s src .farOn r f t)
    (hchecks : farRefusal t (r.val % 4) x = some code) :
    execFarPortEnable src x s = .next (reply r (refusedAns code) t) :=
  serve_of_accepted h (by simp only [hchecks, refusedAct])

/-- FAR_PORT_ENABLE of a usable device with the rails on: the port trains and joins the cave (R149, R419). -/
theorem execFarPortEnable_of_usable (x : FarFound) (h : Accepted s src .farOn r f t)
    (hchecks : farRefusal t (r.val % 4) x = none) (hrails : t.power.rails = true) (hmode : r.val % 4 ≠ 0)
    (husable : (farUsable (r.val % 4) x).isSome = true) :
    execFarPortEnable src x s = .next (farComesUp (farOf r.obj) (r.val % 4) x (startRun r false
      (t.onStored (fun y => { y with
        farMode := y.farMode.set (farOf r.obj) (r.val % 4), farEnable := y.farEnable.set (farOf r.obj) true })))) :=
  serve_of_unanswered h (by
    simp only [hchecks, hrails, hmode, husable, not_true_eq_false, or_self, if_false, if_true, runsOn])

/-- FAR_PORT_DISABLE of a port that is not usable: no cave stands on it. -/
theorem execFarPortDisable_of_unusable (h : Accepted s src .farOff r f t)
    (hunusable : (usableFar t).contains (farOf r.obj) = false) :
    execFarPortDisable src s = .next (reply r okAns (queueUpdate (viewChange [.far (farOf r.obj) .off])
      (t.onStored (fun y => { y with farEnable := y.farEnable.set (farOf r.obj) false })))) :=
  serve_of_accepted h (by simp only [hunusable, Bool.false_eq_true, if_false])

/-- HINGE_PORT_ENABLE that fails a check is refused with its code (R451). -/
theorem execHingePortEnable_of_refused (x : HingeTrain) {code : Nat} (h : Accepted s src .portOn r f t)
    (hoff : nth t.warden.stored.portEnable (hingeOf r.obj) false = false)
    (hchecks : hingeRefusal t (hingeOf r.obj) = some code) :
    execHingePortEnable src x s = .next (reply r (refusedAns code) t) :=
  serve_of_accepted h (by simp only [hoff, hchecks, Bool.false_eq_true, if_false, refusedAct])

/-- HINGE_PORT_ENABLE before Stage 6 or with the rails off: the value is stored. -/
theorem execHingePortEnable_of_untrained (x : HingeTrain) (h : Accepted s src .portOn r f t)
    (hoff : nth t.warden.stored.portEnable (hingeOf r.obj) false = false)
    (hchecks : hingeRefusal t (hingeOf r.obj) = none) (hlinks : linksTrain t = false) :
    execHingePortEnable src x s = .next (reply r okAns
      (t.onStored (fun y => { y with portEnable := y.portEnable.set (hingeOf r.obj) true }))) :=
  serve_of_accepted h (by
    simp only [hoff, hchecks, hlinks, Bool.false_eq_true, not_false_eq_true, if_false, if_true])

/-- HINGE_PORT_DISABLE of a port that is down. -/
theorem execHingePortDisable_of_down (h : Accepted s src .portOff r f t)
    (hdown : (t.port (hingeOf r.obj)).state = .down) :
    execHingePortDisable src s = .next (reply r okAns
      (t.onStored (fun y => { y with portEnable := y.portEnable.set (hingeOf r.obj) false }))) :=
  serve_of_accepted h (if_pos (.inl hdown))

/-- RIND_ENABLE whose checks pass: it is stored, and the loss bound of every recipe starts anew (R325, R327). -/
theorem execRindEnable_of_checked (h : Accepted s src .rindOn r f t) (hoff : t.warden.stored.rindEnable = false)
    (hchecks : rindRefusal t = none) :
    execRindEnable src s =
      .next (reply r okAns ((restartBound t).onStored (fun x => { x with rindEnable := true }))) :=
  serve_of_accepted h (by simp only [hoff, hchecks, Bool.false_eq_true, if_false, stored])

/-- RIND_DISABLE where snapshots are off. -/
theorem execRindDisable_of_disabled (h : Accepted s src .rindOff r f t) (hoff : t.warden.stored.rindEnable = false) :
    execRindDisable src s = .next (reply r okAns t) :=
  serve_of_accepted h (if_pos (by simp [hoff]))

/-- RIND_DISABLE: the tasks that wait start, and the capture in progress stops (R325). -/
theorem execRindDisable_of_enabled (h : Accepted s src .rindOff r f t) (hon : t.warden.stored.rindEnable = true) :
    execRindDisable src s = .next (beginDisable .capture none [] (endAllWaits (startRun r false
      (t.onStored (fun y => { y with rindEnable := false }))))) :=
  serve_of_unanswered h (if_neg (not_not_intro hon))

end

/-- Settles O17: each WRITE is accepted, and its act stores the value, begins its work or refuses it. -/
theorem enablesAnswer : Obligations.EnablesAnswer := by
  refine ⟨?devOn, ?devOff, ?wheelEnabled, ?wheelOn, ?wheelOff, ?farRefused, ?farOn, ?farOff, ?portRefused, ?portOn,
    ?portOff, ?rindOn, ?rindDisabled, ?rindOff⟩
  case devOn =>
    intro s src r f t h hoff hchecks
    exact execDeviceEnable_of_checked h hoff hchecks
  case devOff =>
    intro s src r f t h hrails hstaging
    exact ⟨_, execDeviceDisable_of_staging h hrails hstaging, rfl, rfl, rfl⟩
  case wheelEnabled =>
    intro s src r f t x h hon
    exact execWheelEnable_of_enabled x h hon
  case wheelOn =>
    intro s src r f t x h hoff hserving hreset hfence
    exact execWheelEnable_of_serving x h hoff hserving hreset hfence
  case wheelOff =>
    intro s src r f t h hrails
    exact execWheelDisable_of_railsOff h hrails
  case farRefused =>
    intro s src r f t x code h hchecks
    exact execFarPortEnable_of_refused x h hchecks
  case farOn =>
    intro s src r f t x h hchecks hrails hmode husable
    exact execFarPortEnable_of_usable x h hchecks hrails hmode husable
  case farOff =>
    intro s src r f t h hunusable
    exact execFarPortDisable_of_unusable h hunusable
  case portRefused =>
    intro s src r f t x code h hoff hchecks
    exact execHingePortEnable_of_refused x h hoff hchecks
  case portOn =>
    intro s src r f t x h hoff hchecks hlinks
    exact execHingePortEnable_of_untrained x h hoff hchecks hlinks
  case portOff =>
    intro s src r f t h hdown
    exact execHingePortDisable_of_down h hdown
  case rindOn =>
    intro s src r f t h hoff hchecks
    exact ⟨_, execRindEnable_of_checked h hoff hchecks, rfl⟩
  case rindDisabled =>
    intro s src r f t h hoff
    exact execRindDisable_of_disabled h hoff
  case rindOff =>
    intro s src r f t h hon
    exact execRindDisable_of_enabled h hon

/-! ### MAINTENANCE (R151, R424) -/

section
variable {s t : State} {src : OapSrc} {r : Req} {f : Info}

/-- MAINTENANCE_REQUEST from READY: the entry waits for running steps. -/
theorem execMaintenanceRequest_of_ready (h : Accepted s src .maintOn r f t) (hready : t.life.state = .ready) :
    execMaintenanceRequest src s = .next (reply r okAns
      ((t.onLife (fun l => { l with maintenanceWaiting := true })).onStored (fun x => { x with target := 1 }))) :=
  serve_of_accepted h (by simp [hready, stored])

/-- MAINTENANCE_ENTRY that waits in service with no running step. -/
theorem execMaintenanceEntry_of_idle (hwaits : s.life.maintenanceWaiting = true) (hserving : s.serving = true)
    (hidle : stepRunning s = false) :
    execMaintenanceEntry s = .next ((s.onLife (fun l => { l with maintenanceWaiting := false })).enter .maintenance) :=
  occurs_of_true (by rw [hwaits, hserving, hidle]; rfl) _ s

/-- MAINTENANCE_EXIT in MAINTENANCE begins the flush of the cave cache. -/
theorem execMaintenanceExit_of_maintenance (h : Accepted s src .maintOff r f t) (hstate : t.life.state = .maintenance) :
    execMaintenanceExit src s = .next { startRun r false t with flushing := some t.now } :=
  serve_of_unanswered h (if_pos hstate)

/-- MAINTENANCE_EXIT in another state takes the request back. -/
theorem execMaintenanceExit_of_other (h : Accepted s src .maintOff r f t) (hstate : t.life.state ≠ .maintenance) :
    execMaintenanceExit src s = .next (reply r okAns
      ((t.onLife (fun l => { l with maintenanceWaiting := false })).onStored (fun x => { x with target := 0 }))) :=
  serve_of_accepted h (by simp only [if_neg hstate, stored])

/-- CAVE_FLUSH_COMPLETE without a port error writes every dirty segment back; then FLUSH_CAVE_CACHE has its result, and
a flush of MAINTENANCE_EXIT leaves the state. -/
theorem execCaveFlushComplete_of_flushing {n : Nat} (hflush : s.flushing = some n) :
    execCaveFlushComplete none s = .next (if flushOf s = od 0x7F 8 0 then
        finishRun 0 0 (flushDetail (dirtyCount s) 0) (writeBack (dirtyCount s) { s with flushing := none })
      else finishRun 0 0 [] (leaveMaintenance (writeBack (dirtyCount s) { s with flushing := none }))) := by
  rw [execCaveFlushComplete, occurs_of_true (by rw [hflush]; rfl)]
  simp only [beq_iff_eq]

end

/-- Settles O18: each clause is the law of its command. -/
theorem maintenanceAnswers : Obligations.MaintenanceAnswers := by
  refine ⟨?request, ?entry, ?exit, ?takenBack, ?flushCommand, ?flushExit⟩
  case request =>
    intro s src r f t h hready
    exact execMaintenanceRequest_of_ready h hready
  case entry =>
    intro s hwaits hserving hidle
    exact execMaintenanceEntry_of_idle hwaits hserving hidle
  case exit =>
    intro s src r f t h hstate
    exact ⟨_, execMaintenanceExit_of_maintenance h hstate, rfl, hstate⟩
  case takenBack =>
    intro s src r f t h hstate
    exact execMaintenanceExit_of_other h hstate
  case flushCommand =>
    intro s n hflush hcmd
    exact (execCaveFlushComplete_of_flushing hflush).trans (by rw [if_pos hcmd])
  case flushExit =>
    intro s n hflush hcmd
    exact (execCaveFlushComplete_of_flushing hflush).trans (by rw [if_neg hcmd])

end Sys2Proof.Machine
end

section
/-! SUPPORT and PROOFS. The queue commands that begin a step, a restore or a retirement (R169, R177, R341, R344, R355,
R365). -/

namespace Sys2Proof.Machine

/-! ### Taken entries (R355) -/

/-- A queue command whose entry is taken has its effect. -/
theorem onEntry_of_taken {s t : State} {opc : Nat} {c : HostCmd} (f : HostCmd → State → State) (h : Taken s opc c t) :
    onEntry opc f s = .next (f c t) := by
  obtain ⟨q, hnext, hopc, htake⟩ := h
  have hcode : nextOpc s = some opc := by rw [nextOpc, hnext, Option.map_some, hopc]
  simp only [onEntry, hnext, if_pos hcode, htake]

/-! ### START_STEP (R169, R177, R179, R358) -/

section
variable {s t : State} {c : HostCmd} {r : Recipe}

/-- A step that is not refused begins at the recipe's next ordinal, or at the halted one again. -/
theorem startNow_of_begins (hr : s.recipe? c.recipe = some r)
    (hrefusal : startRefusal s r (bitOf (leAt c.entry 1 1) 0) = none) :
    startNow c s = beginStep r.handle (nextBegun r) (leAt c.entry 8 8) (leAt c.entry 16 8) (.command c.q c.cid)
      (beginCmd c s) := by
  simp only [startNow, hr, hrefusal]

/-- A step that is refused. -/
theorem startNow_of_refused {code : Nat} (hr : s.recipe? c.recipe = some r)
    (hrefusal : startRefusal s r (bitOf (leAt c.entry 1 1) 0) = some code) : startNow c s = refuse c code s := by
  simp only [startNow, hr, hrefusal]

/-- A recipe that is not halted begins the step of its next ordinal. -/
theorem nextBegun_of_not_halted (hhalt : r.halted = none) : nextBegun r = nextOrd r := by
  simp only [nextBegun, hhalt]

/-- A START_STEP that is not refused repeats a halted step only where no update of it was visible (R179). -/
theorem updated_false_of_not_refused {again : Bool} {o : Nat × Bool} (hhalt : r.halted = some o)
    (hrefusal : startRefusal s r again = none) : o.2 = false := by
  obtain ⟨ord, updated⟩ := o
  cases updated with
  | false => rfl
  | true => cases again <;> simp [startRefusal, hhalt, repeatBad, ite_eq_iff] at hrefusal

/-- A halted step that may be repeated is begun again (R179). -/
theorem nextBegun_of_halted {again : Bool} {o : Nat × Bool} (hhalt : r.halted = some o)
    (hrefusal : startRefusal s r again = none) : nextBegun r = o.1 := by
  obtain ⟨ord, updated⟩ := o
  obtain rfl : updated = false := updated_false_of_not_refused hhalt hrefusal
  simp only [nextBegun, hhalt]

/-- START_STEP outside the serving states (R364). -/
theorem execStartStep_of_notServing (h : Taken s 2 c t) (hserving : t.serving = false) :
    execStartStep s = .next (refuse c 0x616 t) := by
  rw [execStartStep, onEntry_of_taken _ h, if_pos (by simp [hserving])]

/-- START_STEP of a handle that names no recipe (R358). -/
theorem execStartStep_of_unknown (h : Taken s 2 c t) (hserving : t.serving = true) (hr : t.recipe? c.recipe = none) :
    execStartStep s = .next (refuse c 0x614 t) := by
  rw [execStartStep, onEntry_of_taken _ h, if_neg (not_not_intro hserving)]
  simp only [hr]

/-- START_STEP of a recipe that is being retired (R365). -/
theorem execStartStep_of_retiring (h : Taken s 2 c t) (hserving : t.serving = true) (hr : t.recipe? c.recipe = some r)
    (hretiring : retiring t c.recipe = true) : execStartStep s = .next (refuse c 0x614 t) := by
  rw [execStartStep, onEntry_of_taken _ h, if_neg (not_not_intro hserving)]
  simp only [hr, hretiring, if_true]

/-- START_STEP of a recipe that can run: it is held, or begins or is refused now (R177, R355). -/
theorem execStartStep_of_recipe (h : Taken s 2 c t) (hserving : t.serving = true) (hr : t.recipe? c.recipe = some r)
    (hretiring : retiring t c.recipe = false) :
    execStartStep s = .next (if startHeld t r c then holdCmd c t else startNow c t) := by
  rw [execStartStep, onEntry_of_taken _ h, if_neg (not_not_intro hserving)]
  simp only [hr, hretiring, Bool.false_eq_true, if_false]

/-- START_STEP that is not held. -/
theorem execStartStep_of_free (h : Taken s 2 c t) (hserving : t.serving = true) (hr : t.recipe? c.recipe = some r)
    (hretiring : retiring t c.recipe = false) (hheld : startHeld t r c = false) :
    execStartStep s = .next (startNow c t) := by
  rw [execStartStep_of_recipe h hserving hr hretiring, hheld, if_neg Bool.false_ne_true]

/-- A START_STEP is held behind the running step of its recipe. -/
theorem startHeld_of_running (hrunning : r.running.isSome = true) : startHeld t r c = true := by
  simp [startHeld, hrunning]

/-- START_STEP_HELD_BEGIN of the oldest held command of a recipe that nothing holds any more. -/
theorem execStartStepHeldBegin_of_free {h : Nat}
    (hc : s.host.cmds.find? (fun d => d.opc == 2 && d.recipe == h && !d.begun) = some c) (hr : s.recipe? h = some r)
    (hheld : startHeld s r c = false) : execStartStepHeldBegin h s = .next (startNow c s) := by
  simp only [execStartStepHeldBegin, hc, hr]
  exact occurs_of_true (by rw [hheld]; rfl) _ s

/-! ### RETIRE_RECIPE and RESTORE -/

/-- RETIRE_RECIPE, the only one of its recipe (R365). -/
theorem execRetireRecipe_of_first (h : Taken s 3 c t) (hr : t.recipe? c.recipe = some r)
    (hfirst : t.host.cmds.any (fun d => d.opc == 3 && d.recipe == c.recipe && d.order != c.order) = false) :
    execRetireRecipe s = .next (retire c.recipe t) := by
  rw [execRetireRecipe, onEntry_of_taken _ h]
  simp only [hr, hfirst, Option.isNone_some, Bool.false_eq_true, or_self, if_false]

/-- RETIRE_RECIPE of a handle that names no recipe. -/
theorem execRetireRecipe_of_unknown (h : Taken s 3 c t) (hr : t.recipe? c.recipe = none) :
    execRetireRecipe s = .next (refuse c 0x614 t) := by
  rw [execRetireRecipe, onEntry_of_taken _ h]
  simp only [hr, Option.isNone_none, true_or, if_true]

/-- RESTORE of an image that can be restored begins, and the recipe's running work is abandoned (R341). -/
theorem execRestore_of_starts {x : RestoreRun} {n : Nand} (h : Taken s 6 c t) (hserving : t.serving = true)
    (hr : t.recipe? c.recipe = some r) (hretiring : retiring t c.recipe = false)
    (hrind : t.warden.stored.rindEnable = true) (hcapt : r.capt ≠ [])
    (hstart : restoreStart t r (leAt c.entry 8 8) (.command c.q c.cid) (n == .uncorrectable) = .ok x) :
    execRestore n s = .next (abandonRecipe c.recipe (nandEvent n (t.onRecipe c.recipe (fun r => { r with
      restoring := some x })))) := by
  rw [execRestore, onEntry_of_taken _ h, if_neg (not_not_intro hserving)]
  simp only [hr, hretiring, hrind, hstart, List.isEmpty_iff, hcapt, Bool.false_eq_true, not_true_eq_false, or_self,
    if_false]

/-- What a step answers that replays after a RESTORE (R344). -/
def replayOrigin : StepOrigin → StepOrigin
  | .command q cid => .restore q cid
  | o => o

/-- The state in which a replay begins (R344): the body is written, the recorded tumblers and the ordinal stand as in the
image, no stash entry is demoted, and a restore of the Warden can no longer be aborted. -/
def replayStart (h : Nat) (r : Recipe) (x : RestoreRun) (i : Image) (s : State) : State :=
  resetDemotions h (((writeBody h r i false s).onRecipe h (fun r => { r with
    tumblers := restoredTumblers r i, nextOrdinal := some (i.step + 1), completed := i.step + 1,
    restoring := some { x with replaying := true } })).onWarden (fun w => { w with run := w.run.map (fun o =>
      if x.origin = .wardenRestore then { o with committed := true } else o) }))

/-- RESTORE_BODY_WRITTEN of an image that was read whole: the step after the image's begins with the seeds of the
journal (R344). -/
theorem execRestoreBodyWritten_of_replay {h : Nat} {x : RestoreRun} {i : Image} {j : JournalRec}
    (hr : s.recipe? h = some r) (hx : r.restoring = some x) (hi : s.image? x.image = some i)
    (hreplaying : x.replaying = false) (hrunning : r.running = none) (hreplan : replanWaits s r = false)
    (hnand : x.nandBad = false)
    (hj : journalOf (writeBody h r i false s) i.crc i.stamp (i.step + 1) = some j) :
    execRestoreBodyWritten h s = .next (beginStep h (i.step + 1) j.seed j.dataSeed (replayOrigin x.origin)
      (replayStart h r x i s)) := by
  simp only [execRestoreBodyWritten, hr, hx, hi]
  rw [occurs_of_true (by rw [hreplaying, hrunning, hreplan]; rfl)]
  simp only [replayStart, hnand, Bool.false_eq_true, if_false, hj]
  rfl

end

/-- Settles O11: each entry is taken, and its command begins, waits or is refused. -/
theorem stepCommandsAnswer : Obligations.StepCommandsAnswer := by
  refine ⟨?begins, ?held, ?notServing, ?unknown, ?refused, ?retiring, ?again, ?heldBegins, ?retire, ?retireUnknown,
    ?restore, ?replay⟩
  case begins =>
    intro s c t r h hserving hr hretiring hheld hrefusal hhalt
    rw [exec_startStep, execStartStep_of_free h hserving hr hretiring hheld, startNow_of_begins hr hrefusal,
      nextBegun_of_not_halted hhalt]
  case held =>
    intro s c t r h hserving hr hretiring hrunning
    exact (execStartStep_of_recipe h hserving hr hretiring).trans
      (congrArg _ (if_pos (startHeld_of_running hrunning)))
  case notServing =>
    intro s c t h hserving
    exact execStartStep_of_notServing h hserving
  case unknown =>
    intro s c t h hserving hr
    exact execStartStep_of_unknown h hserving hr
  case refused =>
    intro s c t r code h hserving hr hretiring hheld hrefusal
    exact (execStartStep_of_free h hserving hr hretiring hheld).trans (congrArg _ (startNow_of_refused hr hrefusal))
  case retiring =>
    intro s c t r h hserving hr hretiring
    exact execStartStep_of_retiring h hserving hr hretiring
  case again =>
    intro s c t r o h hserving hr hretiring hheld hrefusal hhalt
    rw [exec_startStep, execStartStep_of_free h hserving hr hretiring hheld, startNow_of_begins hr hrefusal,
      nextBegun_of_halted hhalt hrefusal]
  case heldBegins =>
    intro s c h r _ hc hhandle hr hheld hrefusal hhalt
    subst hhandle
    rw [exec_startStepHeldBegin, execStartStepHeldBegin_of_free hc hr hheld, startNow_of_begins hr hrefusal,
      nextBegun_of_not_halted hhalt]
  case retire =>
    intro s c t r h hr hfirst
    exact execRetireRecipe_of_first h hr hfirst
  case retireUnknown =>
    intro s c t h hr
    exact execRetireRecipe_of_unknown h hr
  case restore =>
    intro s c t r x n h hserving hr hretiring hrind hcapt hstart
    exact execRestore_of_starts h hserving hr hretiring hrind hcapt hstart
  case replay =>
    intro s h r x i j hr hx hi hreplaying hrunning hreplan hnand hj
    exact ⟨_, _, execRestoreBodyWritten_of_replay hr hx hi hreplaying hrunning hreplan hnand hj,
      fun q cid horigin => by rw [horigin, replayOrigin]⟩

end Sys2Proof.Machine
end

section
/-! SUPPORT and PROOFS. The tumblers (R163 to R170): the changes of the state that an ADD can bring about besides its own
leave them as they are, and the ADD itself raises one VALUE. -/

namespace Sys2Proof.Machine

/-! ### The tumblers of a recipe -/

section
variable {α β : Type} (p : α → Bool) (f : α → α)

/-- A change of one element that keeps an observation keeps it of the whole list. -/
theorem map_modFirst_unchanged (g : α → β) (hf : ∀ a, g (f a) = g a) (l : List α) :
    (modFirst p f l).map g = l.map g := by
  induction l with
  | nil => rfl
  | cons a l ih =>
    cases hp : p a with
    | true => simp [modFirst, hp, hf]
    | false => simp [modFirst, hp, ih]

/-- The first element that satisfies a test, after that element was changed into one that satisfies it too. -/
theorem find?_modFirst_same (hf : ∀ a, p a = true → p (f a) = true) (l : List α) :
    (modFirst p f l).find? p = (l.find? p).map f := by
  induction l with
  | nil => rfl
  | cons a l ih =>
    cases hp : p a with
    | true => simp [modFirst, hp, hf]
    | false => simp [modFirst, hp, ih]

/-- A test that neither the changed element nor what it becomes satisfies finds what it found. -/
theorem find?_modFirst_other (q : α → Bool) (hq : ∀ a, p a = true → q a = false ∧ q (f a) = false)
    (l : List α) :
    (modFirst p f l).find? q = l.find? q := by
  induction l with
  | nil => rfl
  | cons a l ih =>
    cases hp : p a with
    | true => simp [modFirst, hp, hq a hp]
    | false => simp [modFirst, hp, List.find?_cons, ih]

end

section
variable {r u : Recipe} {h : Nat}

/-- The tumbler of a handle bears that handle, named by a record or plain. -/
@[simp] theorem Recipe.tumbler_handle (r : Recipe) (h : Nat) : (r.tumbler h).handle = h := by
  unfold Recipe.tumbler
  split
  case h_1 t hfind => simpa using List.find?_some hfind
  case h_2 => rfl

/-- The tumbler that was set. -/
theorem Recipe.tumbler_setTumbler_same (r : Recipe) (t : Tumbler) : (r.setTumbler t).tumbler t.handle = t := by
  have hfind : (r.setTumbler t).tumblers.find? (fun x => x.handle == t.handle) = some t := by
    unfold Recipe.setTumbler
    split_ifs with hany
    · have hsome : (r.tumblers.find? (fun x => x.handle == t.handle)).isSome = true := by simpa using hany
      obtain ⟨x, hx⟩ := Option.isSome_iff_exists.mp hsome
      simp [find?_modFirst_same, hx]
    · have hnone : r.tumblers.find? (fun x => x.handle == t.handle) = none := by simpa using hany
      simp [hnone]
  simp only [Recipe.tumbler, hfind]

/-- Every other tumbler stays as it was. -/
theorem Recipe.tumbler_setTumbler_other (r : Recipe) (t : Tumbler) (hne : h ≠ t.handle) :
    (r.setTumbler t).tumbler h = r.tumbler h := by
  have hother : (t.handle == h) = false := by simpa using hne.symm
  have hfind : (r.setTumbler t).tumblers.find? (fun x => x.handle == h) =
      r.tumblers.find? (fun x => x.handle == h) := by
    unfold Recipe.setTumbler
    split_ifs
    · refine find?_modFirst_other _ _ _ (fun x hx => ?_) _
      have hx : x.handle = t.handle := by simpa using hx
      exact ⟨by rw [hx, hother], hother⟩
    · simp [List.find?_append, hother]
  simp only [Recipe.tumbler, hfind]


/-- VALUE is read of the tumblers alone. -/
theorem Recipe.value_of_tumblers_eq (heq : u.tumblers = r.tumblers) (x : Nat) : u.value x = r.value x := by
  simp only [Recipe.value, Recipe.tumbler, heq]

end

/-! ### What keeps the tumblers of every recipe -/

/-- The admitted recipes' handles, each with its recipe's tumblers. -/
def State.tumblers (s : State) : List (Nat × List Tumbler) := s.recipes.map (fun r => (r.handle, r.tumblers))

section
variable {s t : State} {r : Recipe} {h : Nat}

/-- The tumblers are a part of the recipes. -/
theorem State.tumblers_of_recipes_eq (heq : t.recipes = s.recipes) : t.tumblers = s.tumblers :=
  congrArg (List.map _) heq

/-- A recipe is found again, with its tumblers, wherever they are kept. -/
theorem State.recipe?_of_tumblers_eq (heq : t.tumblers = s.tumblers) (hr : s.recipe? h = some r) :
    ∃ u, t.recipe? h = some u ∧ u.tumblers = r.tumblers := by
  have hfind (x : State) : (x.recipe? h).map (fun r => (r.handle, r.tumblers)) =
      x.tumblers.find? (fun e => e.1 == h) := by
    rw [State.tumblers, List.find?_map]
    rfl
  have hmap : (t.recipe? h).map (fun r => (r.handle, r.tumblers)) = some (r.handle, r.tumblers) := by
    rw [hfind, heq, ← hfind, hr, Option.map_some]
  obtain ⟨u, hu, hparts⟩ := Option.map_eq_some_iff.mp hmap
  exact ⟨u, hu, (Prod.mk.inj hparts).2⟩

/-- The recipe of a handle after a change of it that keeps the handle. -/
theorem State.recipe?_onRecipe {f : Recipe → Recipe} (hf : ∀ r, (f r).handle = r.handle) :
    (s.onRecipe h f).recipe? h = (s.recipe? h).map f :=
  find?_modFirst_same _ f (fun r hr => by rwa [hf]) s.recipes

end

/-- A change of a recipe that names neither its handle nor its tumblers. -/
theorem onRecipe_tumblers (h : Nat) (f : Recipe → Recipe) (s : State)
    (hf : ∀ r, ((f r).handle, (f r).tumblers) = (r.handle, r.tumblers)) : (s.onRecipe h f).tumblers = s.tumblers :=
  map_modFirst_unchanged _ f _ hf s.recipes

@[simp] theorem onStep_tumblers (h : Nat) (f : StepRun → StepRun) (s : State) :
    (s.onStep h f).tumblers = s.tumblers :=
  onRecipe_tumblers h _ s (fun _ => rfl)

@[simp] theorem onTask_tumblers (h t : Nat) (f : TaskRun → TaskRun) (s : State) :
    (s.onTask h t f).tumblers = s.tumblers :=
  onStep_tumblers h _ s

@[simp] theorem post_tumblers (det unit code : Nat) (detail : List Byte) (s : State) :
    (post det unit code detail s).tumblers = s.tumblers :=
  State.tumblers_of_recipes_eq (post_recipes det unit code detail s)

@[simp] theorem beginDrain_tumblers (scope : Scope) (kind : DrainKind) (after : List ViewUpdate) (s : State) :
    (beginDrain scope kind after s).tumblers = s.tumblers := rfl

@[simp] theorem stopCores_tumblers (h t : Nat) (s : State) : (stopCores h t s).tumblers = s.tumblers := rfl

@[simp] theorem endTask_tumblers (h t status : Nat) (s : State) : (endTask h t status s).tumblers = s.tumblers :=
  onTask_tumblers h t _ s

/-- A chain action that sets out (R165). -/
@[simp] theorem sendChain_tumblers (c : Chain) (s : State) :
    State.tumblers { s with chains := s.chains ++ [c] } = s.tumblers := rfl

/-- The fault of a step changes its run and begins a drain. -/
@[simp] theorem stepFault_tumblers (h : Nat) (i : FaultInfo) (s : State) : (stepFault h i s).tumblers = s.tumblers := by
  unfold stepFault
  split
  · rfl
  · split <;> simp

@[simp] theorem taskFault_tumblers (h t unit status ufault : Nat) (s : State) :
    (taskFault h t unit status ufault s).tumblers = s.tumblers := by
  simp [taskFault]

/-- Misuse is not applied: it posts and faults the task, or the step (R170). -/
@[simp] theorem misuse_tumblers (h det tumb : Nat) (iss : Issuer) (s : State) :
    (misuse h det tumb iss s).tumblers = s.tumblers := by
  cases htask : iss.task <;> simp [misuse, htask]

/-- The throttle counts verdicts (R188). -/
@[simp] theorem throttle_tumblers (h : Nat) (commit : Bool) (s : State) :
    (throttle h commit s).tumblers = s.tumblers := by
  unfold throttle
  split
  case h_1 => rfl
  case h_2 =>
    dsimp only
    split_ifs <;> simp [onRecipe_tumblers]

@[simp] theorem giveVerdict_tumblers (h t : Nat) (spec commit : Bool) (s : State) :
    (giveVerdict h t spec commit s).tumblers = s.tumblers := by
  cases spec <;> simp [giveVerdict]

/-- A verdict goes to the recipe's list and to tasks of its step (R183). -/
@[simp] theorem resolveGuard_tumblers (h tumb g : Nat) (commit : Bool) (s : State) :
    (resolveGuard h tumb g commit s).tumblers = s.tumblers := by
  unfold resolveGuard
  split
  case h_1 => rfl
  case h_2 =>
    split_ifs
    · rfl
    · refine (forEach_unchanged State.tumblers _ (fun x t => ?_) _ _).trans (onRecipe_tumblers h _ s fun _ => rfl)
      split
      · split_ifs <;> simp
      · rfl

@[simp] theorem resolveGuards_tumblers (h tumb old new : Nat) (s : State) :
    (resolveGuards h tumb old new s).tumblers = s.tumblers := by
  unfold resolveGuards
  split
  case h_1 => rfl
  case h_2 =>
    refine forEach_unchanged State.tumblers _ (fun g t => ?_) _ _
    split_ifs <;> simp

@[simp] theorem breach_tumblers (h t unit : Nat) (s : State) : (breach h t unit s).tumblers = s.tumblers := by
  simp [breach, deferFault]

@[simp] theorem breachFault_tumblers (h t unit : Nat) (s : State) :
    (breachFault h t unit s).tumblers = s.tumblers := by
  simp [breachFault]

/-- An operation under R182 keeps the tumblers where the operation itself does. -/
theorem underR182_tumblers (h t unit tumb : Nat) (f : State → State) (s : State) (hf : (f s).tumblers = s.tumblers) :
    (underR182 h t unit tumb f s).tumblers = s.tumblers := by
  unfold underR182
  split
  case h_1 => exact hf
  case h_2 => exact breach_tumblers h t unit s
  case h_3 => exact breachFault_tumblers h t unit s

/-- What a tumbler fires goes on its way, is a breach, or is misuse; it adds nothing yet (R165, R166). -/
@[simp] theorem fire_tumblers (h : Nat) (t : Tumbler) (iss : Issuer) (s : State) :
    (fire h t iss s).tumblers = s.tumblers := by
  unfold fire
  dsimp only
  cases iss.task with
  | none => split_ifs <;> simp
  | some k =>
    have hsend (c : Chain) := underR182_tumblers h k iss.unit t.chain
      (fun s => { s with chains := s.chains ++ [c] }) s rfl
    split_ifs <;> simp [hsend]

/-! ### ADD (R165, R170) -/

/-- The tumbler that an ADD leaves: VALUE is raised, and the arming is gone where it has fired (R165). -/
def Tumbler.raised (t : Tumbler) (n : Nat) : Tumbler :=
  { t with value := t.value + n, armed := t.armed && !(t.armed && decide (t.target ≤ t.value + n)) }

@[simp] theorem Tumbler.raised_handle (t : Tumbler) (n : Nat) : (t.raised n).handle = t.handle := rfl
@[simp] theorem Tumbler.raised_value (t : Tumbler) (n : Nat) : (t.raised n).value = t.value + n := rfl

section
variable {s : State} {r : Recipe} {h tumb n : Nat} {iss : Issuer}

/-- An ADD that is misuse keeps the tumblers. -/
theorem tAdd_tumblers_of_misuse (hr : s.recipe? h = some r) (hbad : addMisuse r tumb n iss ≠ none) :
    (tAdd h tumb n iss s).tumblers = s.tumblers := by
  obtain ⟨d, hd⟩ := Option.ne_none_iff_exists'.mp hbad
  simp only [tAdd, hr, hd, misuse_tumblers]

/-- An ADD that is no misuse sets its tumbler to the raised one, and no other. -/
theorem tAdd_tumblers_of_good (hr : s.recipe? h = some r) (hgood : addMisuse r tumb n iss = none) :
    (tAdd h tumb n iss s).tumblers =
      (s.onRecipe h (fun u => u.setTumbler ((r.tumbler tumb).raised n))).tumblers := by
  simp only [tAdd, hr, hgood, addGood]
  split_ifs
  · exact (fire_tumblers _ _ _ _).trans (resolveGuards_tumblers _ _ _ _ _)
  · exact resolveGuards_tumblers _ _ _ _ _

@[simp] theorem Recipe.setTumbler_handle (r : Recipe) (t : Tumbler) : (r.setTumbler t).handle = r.handle := by
  unfold Recipe.setTumbler
  split_ifs <;> rfl

/-- The VALUEs after an ADD that is misuse. -/
theorem tAdd_values_of_misuse (hr : s.recipe? h = some r) (hbad : addMisuse r tumb n iss ≠ none) :
    ∃ u, (tAdd h tumb n iss s).recipe? h = some u ∧ ∀ x, u.value x = r.value x := by
  obtain ⟨u, hu, htumblers⟩ := State.recipe?_of_tumblers_eq (tAdd_tumblers_of_misuse hr hbad) hr
  exact ⟨u, hu, Recipe.value_of_tumblers_eq htumblers⟩

/-- The VALUEs after an ADD that is no misuse. -/
theorem tAdd_values_of_good (hr : s.recipe? h = some r) (hgood : addMisuse r tumb n iss = none) :
    ∃ u, (tAdd h tumb n iss s).recipe? h = some u ∧ u.value tumb = r.value tumb + n ∧
      ∀ x, x ≠ tumb → u.value x = r.value x := by
  have hset : (s.onRecipe h (fun u => u.setTumbler ((r.tumbler tumb).raised n))).recipe? h =
      some (r.setTumbler ((r.tumbler tumb).raised n)) := by
    rw [State.recipe?_onRecipe (fun u => u.setTumbler_handle _), hr, Option.map_some]
  obtain ⟨u, hu, heq⟩ := State.recipe?_of_tumblers_eq (tAdd_tumblers_of_good hr hgood) hset
  have hhandle : ((r.tumbler tumb).raised n).handle = tumb := by simp
  have hsame := r.tumbler_setTumbler_same ((r.tumbler tumb).raised n)
  rw [hhandle] at hsame
  refine ⟨u, hu, ?_, fun x hx => ?_⟩
  · rw [Recipe.value_of_tumblers_eq heq, Recipe.value, hsame, Tumbler.raised_value, Recipe.value]
  · rw [Recipe.value_of_tumblers_eq heq, Recipe.value,
      Recipe.tumbler_setTumbler_other r _ (by rwa [hhandle]), Recipe.value]

/-- A handle outside the reservation is misused (R164, R170). -/
theorem addMisuse_of_outside (n : Nat) (iss : Issuer) (hout : handleOk r tumb = false) :
    addMisuse r tumb n iss = some 0x820 := by
  simp [addMisuse, accessMisuse, hout]

/-- A tumbler within the reservation that belongs to no one task is open to every issuer's access (R167). -/
theorem accessMisuse_of_open (iss : Issuer) (hok : handleOk r tumb = true) (hopen : (r.tumbler tumb).priv = false) :
    accessMisuse r tumb iss = none := by
  simp [accessMisuse, hok, hopen]

/-- A span tumbler is misused by any add that no hinge control message makes (R167). -/
theorem addMisuse_of_span (n : Nat) (hok : handleOk r tumb = true) (hopen : (r.tumbler tumb).priv = false)
    (hkind : (r.tumbler tumb).kind = 2) (hspan : iss.span = false) : addMisuse r tumb n iss = some 0x811 := by
  simp [addMisuse, accessMisuse_of_open iss hok hopen, hkind, hspan]

/-- A count tumbler takes every add but a hinge control message's up to the largest VALUE of 64 bits (R165, R167). -/
theorem addMisuse_of_count (n : Nat) (hok : handleOk r tumb = true) (hopen : (r.tumbler tumb).priv = false)
    (hkind : (r.tumbler tumb).kind = 0) (hspan : iss.span = false) :
    addMisuse r tumb n iss = some 0x800 ↔ 2 ^ 64 ≤ r.value tumb + n := by
  simp [addMisuse, accessMisuse_of_open iss hok hopen, hkind, hspan, Recipe.value]

end

/-- Settles O51: the recipe is found again after the add, with the VALUEs of a good add or of a misused one. -/
theorem tumblerAddsAreExact : Obligations.TumblerAddsAreExact := by
  refine ⟨fun s h tumb n iss r hr => ?values, fun r tumb n iss => ⟨?outside, ?span, ?count⟩⟩
  case values =>
    by_cases hgood : addMisuse r tumb n iss = none
    · obtain ⟨u, hu, hsame, hother⟩ := tAdd_values_of_good hr hgood
      exact ⟨u, hu, fun _ => ⟨hsame, hother⟩, fun hbad => absurd hgood hbad⟩
    · obtain ⟨u, hu, hall⟩ := tAdd_values_of_misuse hr hgood
      exact ⟨u, hu, fun hnone => absurd hnone hgood, fun _ => hall⟩
  case outside => exact addMisuse_of_outside n iss
  case span => exact addMisuse_of_span n
  case count => exact addMisuse_of_count n

end Sys2Proof.Machine
end

section
/-! SUPPORT and PROOFS. The custom-1 instructions of a helper core (R213, R222 to R226): carries, tumbler operations and
write regions, each where its checks pass. -/

namespace Sys2Proof.Machine

/-! ### The fetched instruction -/

/-- A fetch touches lines of the instruction cache. -/
theorem touchFetch_eq (k : Core) : ∃ l, touchFetch k = { k with icache := l } := by
  have htouch (k : Core) (line : Nat) : ∃ l, k.touch line = { k with icache := l } := by
    unfold Core.touch
    split
    · exact ⟨_, rfl⟩
    · exact ⟨k.icache, rfl⟩
  have htwice (a b : Nat) : ∃ l, (k.touch a).touch b = { k with icache := l } := by
    obtain ⟨l, hl⟩ := htouch k a
    obtain ⟨m, hm⟩ := htouch { k with icache := l } b
    exact ⟨m, by rw [hl, hm]⟩
  unfold touchFetch
  dsimp only
  split
  · split_ifs
    · exact htwice _ _
    · exact htouch k _
  · exact htouch k _

@[simp] theorem touchFetch_recipe (k : Core) : (touchFetch k).recipe = k.recipe := by
  obtain ⟨l, hl⟩ := touchFetch_eq k
  rw [hl]

@[simp] theorem touchFetch_task (k : Core) : (touchFetch k).task = k.task := by
  obtain ⟨l, hl⟩ := touchFetch_eq k
  rw [hl]

@[simp] theorem touchFetch_carries (k : Core) : (touchFetch k).carries = k.carries := by
  obtain ⟨l, hl⟩ := touchFetch_eq k
  rw [hl]

@[simp] theorem touchFetch_region (k : Core) : (touchFetch k).region = k.region := by
  obtain ⟨l, hl⟩ := touchFetch_eq k
  rw [hl]

section
variable {s : State} {c : CoreId} {k : Core} {w : Nat} {r : Recipe}

/-- The core that is about to execute a word. -/
theorem core?_of_atWord {op f3 f7 : Nat} (h : AtWord s c k w op f3 f7) : s.core? c = some k := h.1

/-- The word that it is about to execute. -/
theorem kzWord_of_atWord {op f3 f7 : Nat} (h : AtWord s c k w op f3 f7) : kzWord s k op f3 f7 = some w := by
  obtain ⟨-, hexec, hfetch, hop, hf3, hf7⟩ := h
  simp [kzWord, hexec, hfetch, hop, hf3, hf7]

/-! ### Carries (R222 to R224, R426) -/

/-- KZ_CARRY of a record that passes its checks, with no wait asked and room in the queue. -/
theorem execKzCarry_of_room {a : Nat} (h : AtWord s c k w 0x2B 0 0) (hrs1 : fRs1 w ≠ 0)
    (halign : (touchFetch k).rx (fRs1 w) % 32 = 0)
    (hplace : ownPlace s (touchFetch k) ((touchFetch k).rx (fRs1 w)) 32 = some a)
    (hflag : bitOf ((touchFetch k).rx (fRs2 w)) 0 = false)
    (hchecks : kzChecks (carryChecks s (touchFetch k) ((touchFetch k).rx (fRs2 w)) (memRead s.dev a 32)
      (carryOf (memRead s.dev a 32) none k.region)) = none) (hroom : k.carries.length < 8) :
    execKzCarry c s = .next (kzDone { touchFetch k with
      carries := k.carries ++ [carryOf (memRead s.dev a 32) none k.region] } (fRd w) (k.carries.length + 1) 4 s) := by
  simp [execKzCarry, core?_of_atWord h, kzWord_of_atWord h, hrs1, halign, hplace, hflag, hchecks, Nat.not_le.mpr hroom]

/-- KZ_CARRY with rs1 = x0 and no carry outstanding: there is nothing to wait for. -/
theorem execKzCarry_of_idle (h : AtWord s c k w 0x2B 0 0) (hrs1 : fRs1 w = 0)
    (hflags : (touchFetch k).rx (fRs2 w) ≤ 1) (hcarries : k.carries = []) :
    execKzCarry c s = .next (kzDone (touchFetch k) (fRd w) 0 4 s) := by
  simp [execKzCarry, core?_of_atWord h, kzWord_of_atWord h, hrs1, Nat.not_lt.mpr hflags, hcarries]

/-- CARRY_COMPLETE with request slots: the carry moves, or reaches a draining slice and its task is absorbed. -/
theorem execCarryComplete_of_room {n : Nat} {y : Carry} (hcore : s.core? c = some k) (hy : k.carries[n]? = some y)
    (hgates : s.power.gatesClosed = false) (hroom : carryRoom s k y = true) :
    execCarryComplete c n .done s = .next (if carryMeetsDrain s k y then
      settle k.recipe (taskFault k.recipe k.task (coreUnit c) 0x12 0 s) else carryMove k n y s) := by
  simp only [execCarryComplete, hcore, hy]
  rw [occurs_of_true (by rw [hgates, hroom]; rfl)]
  split_ifs <;> rfl

/-! ### Tumbler operations (R225) -/

/-- R182 lets the operation be carried out. -/
theorem underR182_of_allowed {h t unit tumb : Nat} {f : State → State} (hrule : addRule s h t tumb = .allowed) :
    underR182 h t unit tumb f s = f s := by
  simp only [underR182, hrule]

/-- A core's adds are made when its carries have completed and its writes are visible (R139, R224). -/
theorem writesVisible_of_quiet (hcarries : k.carries = []) (hwrites : writesOut s k.recipe k.task = false) :
    ((touchFetch k).carries.isEmpty && !writesOut s (touchFetch k).recipe (touchFetch k).task) = true := by
  simp [hcarries, hwrites]

/-- KZ_TADD of an amount that is not 0, under R182. -/
theorem execKzTadd_of_allowed (h : AtWord s c k w 0x2B 1 0) (hr : s.recipe? k.recipe = some r)
    (hcarries : k.carries = []) (hhandle : (touchFetch k).rx (fRs1 w) < 65536) (hn : (touchFetch k).rx (fRs2 w) ≠ 0)
    (hrule : addRule s k.recipe k.task ((touchFetch k).rx (fRs1 w)) = .allowed)
    (hwrites : writesOut s k.recipe k.task = false) :
    execKzTadd c s = .next (kzAfter (touchFetch k) (fRd w) (r.value ((touchFetch k).rx (fRs1 w))) 2
      (tAdd k.recipe ((touchFetch k).rx (fRs1 w)) ((touchFetch k).rx (fRs2 w))
        (Issuer.ofTask k.task (coreUnit c) false) s)) := by
  simp only [execKzTadd, core?_of_atWord h, Option.bind_some, hr, kzWord_of_atWord h]
  rw [occurs_of_true (writesVisible_of_quiet hcarries hwrites)]
  simp [Nat.not_le.mpr hhandle, hn, hrule, underR182_of_allowed]

/-- KZ_TWAIT of a handle whose access is no misuse: it returns at once, or waits. -/
theorem execKzTwait_of_access (h : AtWord s c k w 0x2B 2 0) (hr : s.recipe? k.recipe = some r)
    (hhandle : (touchFetch k).rx (fRs1 w) < 65536)
    (haccess : accessMisuse r ((touchFetch k).rx (fRs1 w))
      { Issuer.ofTask k.task (coreUnit c) false with op := 2 } = none) :
    execKzTwait c s = .next (if r.reached ((touchFetch k).rx (fRs1 w)) ((touchFetch k).rx (fRs2 w)) then
        kzDone (touchFetch k) (fRd w) (r.value ((touchFetch k).rx (fRs1 w))) 2 s
      else trackWatchdog k.recipe (putCore { touchFetch k with
        wait := .tumbler ((touchFetch k).rx (fRs1 w)) ((touchFetch k).rx (fRs2 w)) (fRd w) s.now } s)) := by
  simp only [execKzTwait, core?_of_atWord h, Option.bind_some, hr, kzWord_of_atWord h,
    if_neg (Nat.not_le.mpr hhandle), touchFetch_task, haccess, touchFetch_recipe]

/-- TWAIT_WAKE of a core whose tumbler has reached the threshold; the beats that it was suspended are free (R196). -/
theorem execTwaitWake_of_reached {h v rd t : Nat} (hcore : s.core? c = some k) (hr : s.recipe? k.recipe = some r)
    (hwait : k.wait = .tumbler h v rd t) (hreached : r.reached h v = true) :
    ∃ l, execTwaitWake c s = .next (trackWatchdog k.recipe
      (kzDone { k with wait := .none, hpm := l } rd (r.value h) 2 s).drawn) := by
  simp only [execTwaitWake, hcore, Option.bind_some, hr, hwait]
  exact ⟨_, occurs_of_true hreached _ s⟩

/-- KZ_TARM with its reserved bits clear and an action that exists, under R182. -/
theorem execKzTarm_of_allowed {x : Nat} (h : AtWord s c k w 0x2B 3 0) (hr : s.recipe? k.recipe = some r)
    (hcarries : k.carries = []) (hx : x = (touchFetch k).rx (fRs1 w)) (hreserved : bitsOf x 31 18 = 0)
    (haction : bitsOf x 17 16 ≠ 3) (hrule : addRule s k.recipe k.task (x % 65536) = .allowed)
    (hwrites : writesOut s k.recipe k.task = false) :
    execKzTarm c s = .next (kzAfter (touchFetch k) (fRd w) (r.value (x % 65536)) 2
      (tArm k.recipe (x % 65536) ((touchFetch k).rx (fRs2 w)) (bitsOf x 17 16) (bitsOf x 47 32) (bitsOf x 63 48)
        (Issuer.ofTask k.task (coreUnit c) false) s)) := by
  simp only [execKzTarm, core?_of_atWord h, Option.bind_some, hr, kzWord_of_atWord h]
  rw [occurs_of_true (writesVisible_of_quiet hcarries hwrites), ← hx]
  simp [hreserved, haction, hrule, underR182_of_allowed]

/-- KZ_POST to an output of a task that does not run speculatively. -/
theorem execKzPost_of_output {t : Task} {o : Nat × Nat} (h : AtWord s c k w 0x2B 4 0)
    (hr : s.recipe? k.recipe = some r) (ht : r.task? k.task = some t) (hcarries : k.carries = [])
    (ho : t.outs[(touchFetch k).rx (fRs1 w)]? = some o)
    (hn : (touchFetch k).rx (fRs2 w) < 2 ^ 32) (hspec : specRunning s k.recipe k.task = false)
    (hwrites : writesOut s k.recipe k.task = false) :
    execKzPost c s = .next (kzAfter (touchFetch k) (fRd w) (r.value o.2) 2
      (tAdd k.recipe o.2 ((touchFetch k).rx (fRs2 w)) (Issuer.ofTask k.task (coreUnit c) t.vread) s)) := by
  simp only [execKzPost, core?_of_atWord h, Option.bind_some, hr, ht, Option.map_some, kzWord_of_atWord h]
  rw [occurs_of_true (writesVisible_of_quiet hcarries hwrites)]
  simp only [ho, if_neg (Nat.not_le.mpr hn), touchFetch_recipe, touchFetch_task, hspec, Bool.false_eq_true, if_false]

/-! ### Write regions (R226) -/

/-- KZ_SPEC_BEGIN outside a region. -/
theorem execKzSpecBegin_of_closed (h : AtWord s c k w 0x2B 5 0) (hregion : k.region = false)
    (hrs1 : (touchFetch k).rx (fRs1 w) = 0) (hrs2 : (touchFetch k).rx (fRs2 w) = 0) :
    execKzSpecBegin c s = .next (kzDone { touchFetch k with region := true } (fRd w)
      (if specRunning s k.recipe k.task then 1 else 0) 1 s) := by
  simp [execKzSpecBegin, core?_of_atWord h, kzWord_of_atWord h, hrs1, hrs2, hregion, bit]

/-- KZ_SPEC_END of a region that no carry is outstanding for. -/
theorem execKzSpecEnd_of_open (h : AtWord s c k w 0x2B 5 1) (hregion : k.region = true) (hcarries : k.carries = [])
    (hrs1 : (touchFetch k).rx (fRs1 w) = 0) (hrs2 : (touchFetch k).rx (fRs2 w) = 0) :
    execKzSpecEnd c s = .next (kzDone { touchFetch k with region := false } (fRd w)
      (specEndValue s (touchFetch k)) 4 s) := by
  simp [execKzSpecEnd, core?_of_atWord h, kzWord_of_atWord h, hrs1, hrs2, hregion, hcarries]

end

/-- Settles O23: each clause is the law of its command. -/
theorem kzControlAnswer : Obligations.KzControlAnswer := by
  refine ⟨?carry, ?carryIdle, ?moves, ?absorbed, ?tadd, ?twait, ?wake, ?tarm, ?posts, ?specBegin, ?specEnd⟩
  case carry =>
    intro s c k w a h hrs1 halign hplace hflag hchecks hroom
    exact execKzCarry_of_room h hrs1 halign hplace hflag hchecks hroom
  case carryIdle =>
    intro s c k w h hrs1 hflags hcarries
    exact execKzCarry_of_idle h hrs1 hflags hcarries
  case moves =>
    intro s c k n y hcore hy hgates hroom hdrain
    exact (execCarryComplete_of_room hcore hy hgates hroom).trans (by rw [hdrain, if_neg Bool.false_ne_true])
  case absorbed =>
    intro s c k n y hcore hy hgates hroom hdrain
    exact (execCarryComplete_of_room hcore hy hgates hroom).trans (by rw [if_pos hdrain])
  case tadd =>
    intro s c k w r h hr hcarries hhandle hn hrule hwrites
    exact execKzTadd_of_allowed h hr hcarries hhandle hn hrule hwrites
  case twait =>
    intro s c k w r h hr hhandle haccess
    exact execKzTwait_of_access h hr hhandle haccess
  case wake =>
    intro s c k r h v rd t hcore hr hwait hreached
    exact execTwaitWake_of_reached hcore hr hwait hreached
  case tarm =>
    intro s c k w x r h hr hcarries hx hreserved haction hrule hwrites
    exact execKzTarm_of_allowed h hr hcarries hx hreserved haction hrule hwrites
  case posts =>
    intro s c k w r t o h hr ht hcarries ho hn hspec hwrites
    exact execKzPost_of_output h hr ht hcarries ho hn hspec hwrites
  case specBegin =>
    intro s c k w h hregion hrs1 hrs2
    exact execKzSpecBegin_of_closed h hregion hrs1 hrs2
  case specEnd =>
    intro s c k w h hregion hcarries hrs1 hrs2
    exact ⟨_, execKzSpecEnd_of_open h hregion hcarries hrs1 hrs2⟩

end Sys2Proof.Machine
end

section
/-! SUPPORT and PROOFS. The life of a helper core (R196, R203 to R212, R425): the pick of a hoop, a fetched instruction
(the integer adds worked out: log entry 15), a cache miss and its fill, the end of a core's part, the stall detectors. -/

namespace Sys2Proof.Machine

/-! ### Registers (R196) -/

section
variable (k : Core)

@[simp] theorem Core.rx_zero : k.rx 0 = 0 := rfl

@[simp] theorem Core.wx_zero (v : Nat) : k.wx 0 v = k := rfl

variable {k} {i j : Nat}

/-- A register that is not x0 holds the value last written to it. -/
theorem Core.rx_wx_same {v : Nat} (hpos : 0 < i) (hlen : i < k.x.length) (hv : v < 2 ^ 64) : (k.wx i v).rx i = v := by
  simpa [Core.rx, Core.wx, hpos.ne', nth, hlen] using hv

/-- A write leaves every other register as it was. -/
theorem Core.rx_wx_other (v : Nat) (hne : j ≠ i) : (k.wx i v).rx j = k.rx j := by
  by_cases hi : i = 0
  · rw [hi, wx_zero]
  · simp only [Core.rx, Core.wx, if_neg hi, nth, List.getElem?_set_ne hne.symm]

/-- A register holds 64 bits, so a write of a value and of its residue modulo 2^64 are the same. -/
@[simp] theorem Core.wx_m64 (v : Nat) : k.wx i (m64 v) = k.wx i v := by
  have hres : BitVec.ofNat 64 (m64 v) = BitVec.ofNat 64 v := BitVec.eq_of_toNat_eq (by simp [m64])
  simp only [Core.wx, hres]

end

@[simp] theorem touchFetch_rx (k : Core) (i : Nat) : (touchFetch k).rx i = k.rx i := by
  obtain ⟨l, hl⟩ := touchFetch_eq k
  rw [hl]
  rfl

@[simp] theorem touchFetch_pc (k : Core) : (touchFetch k).pc = k.pc := by
  obtain ⟨l, hl⟩ := touchFetch_eq k
  rw [hl]

/-! ### The fields of an encoded instruction -/

section
variable {op f3 f7 rd rs1 rs2 imm : Nat}

/-- The fields of a register-register encoding are what it was built from. -/
theorem fields_encR (hop : op < 128) (hf3 : f3 < 8) (hf7 : f7 < 128) (hrd : rd < 32) (hrs1 : rs1 < 32)
    (hrs2 : rs2 < 32) :
    fOp (encR op f3 f7 rd rs1 rs2) = op ∧ fF3 (encR op f3 f7 rd rs1 rs2) = f3 ∧
      fF7 (encR op f3 f7 rd rs1 rs2) = f7 ∧ fRd (encR op f3 f7 rd rs1 rs2) = rd ∧
      fRs1 (encR op f3 f7 rd rs1 rs2) = rs1 ∧ fRs2 (encR op f3 f7 rd rs1 rs2) = rs2 := by
  simp only [fOp, fF3, fF7, fRd, fRs1, fRs2, bitsOf, encR]
  omega

/-- The fields of a register-immediate encoding are what it was built from, with the immediate sign extended. -/
theorem fields_encI (hop : op < 128) (hf3 : f3 < 8) (hrd : rd < 32) (hrs1 : rs1 < 32) (himm : imm < 4096) :
    fOp (encI op f3 rd rs1 imm) = op ∧ fF3 (encI op f3 rd rs1 imm) = f3 ∧ fRd (encI op f3 rd rs1 imm) = rd ∧
      fRs1 (encI op f3 rd rs1 imm) = rs1 ∧ immI (encI op f3 rd rs1 imm) = sx 12 imm := by
  have hbits : bitsOf (encI op f3 rd rs1 imm) 31 20 = imm := by
    simp only [bitsOf, encI]
    omega
  rw [immI, hbits]
  simp only [fOp, fF3, fRd, fRs1, bitsOf, encI, and_true]
  omega

end

/-! ### Instructions (R196, R203) -/

section
variable {s : State} {c : CoreId} {k : Core} {w : Nat}

/-- RISCV_INSTRUCTION of a standard instruction that raises no exception. -/
theorem execRiscvInstruction_of_next {n b : Nat} {k1 : Core} {s1 : State} (hcore : s.core? c = some k)
    (hexec : executing s k = true) (hfetch : fetch k = .word w n) (hkz : isKz w = false) (hecall : w ≠ ecallWord)
    (hstd : stdInstr (touchFetch k) s w n = .next k1 s1 b) :
    execRiscvInstruction c s = .next (retireInstr k1 b s1) := by
  simp only [execRiscvInstruction, hcore]
  rw [occurs_of_true hexec]
  simp [hfetch, hkz, hecall, hstd, applyIRes]

/-- RISCV_INSTRUCTION whose fetch meets a line that the core's cache does not hold. -/
theorem execRiscvInstruction_of_miss {line : Nat} (hcore : s.core? c = some k) (hexec : executing s k = true)
    (hfetch : fetch k = .miss line) : execRiscvInstruction c s = .next (beginMiss k line s) := by
  simp only [execRiscvInstruction, hcore]
  rw [occurs_of_true hexec, hfetch]

/-- A word whose opcode is none of the custom ones (R213) and not that of ecall is RISCV_INSTRUCTION's to execute. -/
theorem standard_of_op (h0 : fOp w ≠ 0x0B) (h1 : fOp w ≠ 0x2B) (hsystem : fOp w ≠ 0x73) :
    isKz w = false ∧ w ≠ ecallWord := by
  refine ⟨by simp [isKz, h0, h1], ?_⟩
  rintro rfl
  exact hsystem rfl

/-- An instruction of 32 bits that is an integer instruction. -/
theorem stdInstr_of_execInt {r : IRes} (h : execInt k s w 4 = some r) : stdInstr k s w 4 = r := by
  simp [stdInstr, h]

/-- RISCV_INSTRUCTION of a 32-bit integer instruction that writes `v` to rd. -/
theorem execRiscvInstruction_of_wrote {v : Nat} (hcore : s.core? c = some k) (hexec : executing s k = true)
    (hfetch : fetch k = .word w 4) (hkz : isKz w = false) (hecall : w ≠ ecallWord)
    (hint : execInt (touchFetch k) s w 4 = some (wrote (touchFetch k) s 4 (fRd w) v)) :
    execRiscvInstruction c s = .next (retireInstr
      (((touchFetch k).wx (fRd w) (m64 v)).jump (k.pc.toNat + 4)) 1 s) := by
  rw [Core.wx_m64, ← touchFetch_pc k]
  exact execRiscvInstruction_of_next hcore hexec hfetch hkz hecall (stdInstr_of_execInt hint)

/-- ADD: the sum of the two source registers. -/
theorem execInt_add {len : Nat} (hop : fOp w = 0x33) (hf3 : fF3 w = 0) (hf7 : fF7 w = 0) :
    execInt k s w len = some (wrote k s len (fRd w) (k.rx (fRs1 w) + k.rx (fRs2 w))) := by
  simp [execInt, hop, hf3, hf7, opReg]

/-- ADDI: the sum of the source register and the immediate. -/
theorem execInt_addi {len : Nat} (hop : fOp w = 0x13) (hf3 : fF3 w = 0) :
    execInt k s w len = some (wrote k s len (fRd w) (k.rx (fRs1 w) + immI w)) := by
  simp [execInt, hop, hf3, opImm]

/-- RISCV_INSTRUCTION of ADD. -/
theorem execRiscvInstruction_add {rd rs1 rs2 : Nat} (hrd : rd < 32) (hrs1 : rs1 < 32) (hrs2 : rs2 < 32)
    (hcore : s.core? c = some k) (hexec : executing s k = true)
    (hfetch : fetch k = .word (encR 0x33 0 0 rd rs1 rs2) 4) :
    execRiscvInstruction c s = .next (retireInstr
      (((touchFetch k).wx rd (m64 (k.rx rs1 + k.rx rs2))).jump (k.pc.toNat + 4)) 1 s) := by
  obtain ⟨hop, hf3, hf7, hd, h1, h2⟩ :=
    fields_encR (op := 0x33) (f3 := 0) (f7 := 0) (by omega) (by omega) (by omega) hrd hrs1 hrs2
  obtain ⟨hkz, hecall⟩ := standard_of_op (by rw [hop]; decide) (by rw [hop]; decide) (by rw [hop]; decide)
  have hrun := execRiscvInstruction_of_wrote hcore hexec hfetch hkz hecall (execInt_add hop hf3 hf7)
  rwa [hd, h1, h2, touchFetch_rx, touchFetch_rx] at hrun

/-- RISCV_INSTRUCTION of ADDI. -/
theorem execRiscvInstruction_addi {rd rs1 imm : Nat} (hrd : rd < 32) (hrs1 : rs1 < 32) (himm : imm < 4096)
    (hcore : s.core? c = some k) (hexec : executing s k = true)
    (hfetch : fetch k = .word (encI 0x13 0 rd rs1 imm) 4) :
    execRiscvInstruction c s = .next (retireInstr
      (((touchFetch k).wx rd (m64 (k.rx rs1 + sx 12 imm))).jump (k.pc.toNat + 4)) 1 s) := by
  obtain ⟨hop, hf3, hd, h1, hi⟩ :=
    fields_encI (op := 0x13) (f3 := 0) (by omega) (by omega) hrd hrs1 himm
  obtain ⟨hkz, hecall⟩ := standard_of_op (by rw [hop]; decide) (by rw [hop]; decide) (by rw [hop]; decide)
  have hrun := execRiscvInstruction_of_wrote hcore hexec hfetch hkz hecall (execInt_addi hop hf3)
  rwa [hd, h1, hi, touchFetch_rx] at hrun

end

/-- Settles O60: the two adds are the law of RISCV_INSTRUCTION for their encodings, and the rest says what a register
holds after a write. -/
theorem integerAddsWriteTheirDestination : Obligations.IntegerAddsWriteTheirDestination := by
  refine ⟨?add, ?addi, ?zero, ?writes⟩
  case add =>
    intro s c k rd rs1 rs2 hrd hrs1 hrs2 hcore hexec hfetch
    exact execRiscvInstruction_add hrd hrs1 hrs2 hcore hexec hfetch
  case addi =>
    intro s c k rd rs1 imm hrd hrs1 himm hcore hexec hfetch
    exact execRiscvInstruction_addi hrd hrs1 himm hcore hexec hfetch
  case zero => exact fun k v => ⟨k.wx_zero v, k.rx_zero⟩
  case writes => exact fun k i j v hpos hlen hv => ⟨Core.rx_wx_same hpos hlen hv, Core.rx_wx_other v⟩

/-! ### Launches and the end of a core's part (R203, R205, R210, R211) -/

section
variable {s : State} {c : CoreId} {k : Core} {w h : Nat}

/-- HOOP_PICK of a hoop in service that has an idle core. -/
theorem execHoopPick_of_idle (hw : w < 8) (hh : h < 80) (hout : hoopOut s w h = false)
    (hidle : idleSlots s w h ≠ []) : execHoopPick w h s = .next (pick w h s) :=
  occurs_of_true (by simp [hw, hh, hout, hidle]) _ s

/-- A recipe found by its handle has that handle. -/
theorem handle_of_recipe? {r : Recipe} (hr : s.recipe? h = some r) : r.handle = h := by
  simpa using List.find?_some hr

/-- ICACHE_MISS_FILL of a mapped line that is not poisoned: the line reaches every core of the hoop that waits for it. -/
theorem execIcacheMissFill_of_mapped {line : Nat} {r : Recipe} {l : Loc} (hcore : s.core? c = some k)
    (hwait : k.wait = .icache line) (hr : s.recipe? k.recipe = some r) (hl : translate s r line false = .ok l)
    (hpoison : poisoned s l 64 = false) :
    execIcacheMissFill c s = .next (fillLine c r.handle line (locRead s l 64) s) := by
  simp [execIcacheMissFill, hcore, hwait, hr, hl, hpoison, handle_of_recipe? hr]

/-- ECALL_EXIT with exit code 0 and no region open. -/
theorem execEcallExit_of_good (hcore : s.core? c = some k) (hexec : executing s k = true)
    (hfetch : fetch k = .word ecallWord 4) (ha7 : k.rx 17 = 0) (hregion : k.region = false) (ha0 : k.rx 10 = 0) :
    execEcallExit c s =
      .next (recordEnd k.recipe k.task (retireInstr { touchFetch k with exited := true } 1 s)) := by
  simp only [execEcallExit, hcore]
  rw [occurs_of_true (by simp [hexec, hfetch])]
  simp [ha7, hregion, ha0]

/-- BUDGET_EXCEEDED of a core that has executed more beats than its budget. -/
theorem execBudgetExceeded_of_late (hcore : s.core? c = some k) (hlive : k.exited = false) (hbudget : k.budget ≠ 0)
    (hlate : k.budget < k.beats) : execBudgetExceeded c s = .next (coreFault k 8 0 0 s) := by
  simp only [execBudgetExceeded, hcore]
  exact occurs_of_true (by simp [hlive, hbudget, hlate]) _ s

/-! ### The stall detectors (R212, R425) -/

/-- CORE_STALL_DETECT of a core that waits for nothing and that no reset covers. -/
theorem execCoreStallDetect_of_live (hcore : s.core? c = some k) (hlive : k.exited = false) (hwait : k.wait = .none)
    (hfree : coveredBy s (.core c) = false) :
    execCoreStallDetect c s =
      .next (beginReset (.core c) (noteStall (coreUnit c) 0 (post 0x522 (coreUnit c) 0 [] s))) := by
  simp only [execCoreStallDetect, hcore]
  exact occurs_of_true (by simp [hlive, hwait, hfree]) _ s

/-- CORE_STOP_TIMEOUT of a core whose recipe's step ends on a fault. -/
theorem execCoreStopTimeout_of_fault {r : Recipe} {u : StepRun} {i : FaultInfo} (hcore : s.core? c = some k)
    (hr : s.recipe? k.recipe = some r) (hu : r.running = some u) (hfault : u.fault = some i) :
    execCoreStopTimeout c s = .next (beginReset (.core c) s) := by
  simp only [execCoreStopTimeout, hcore]
  exact occurs_of_true (by simp [hr, hu, hfault]) _ s

/-- HOOP_PICK_STALL of a hoop in service that a task waits for and that no reset covers. -/
theorem execHoopPickStall_of_waits (hw : w < 8) (hh : h < 80) (hup : s.warden.up = true)
    (hwaits : hoopWaits s w h = true) (hout : hoopOut s w h = false) (hfree : coveredBy s (.hoop w h) = false) :
    execHoopPickStall w h s = .next (beginReset (.hoop w h) (wpost 0x523 (hoopUnit w h) 0 [] s)) :=
  occurs_of_true (by simp [hw, hh, hup, hwaits, hout, hfree]) _ s

end

/-- Settles O21: each clause is the law of its command. -/
theorem coresAnswer : Obligations.CoresAnswer := by
  refine ⟨?pick, ?instruction, ?miss, ?fill, ?exits, ?budget, ?stall, ?stop, ?pickStall⟩
  case pick =>
    intro s w h hw hh hout hidle
    exact execHoopPick_of_idle hw hh hout hidle
  case instruction =>
    intro s c k w n k1 s1 b hcore hexec hfetch hkz hecall hstd
    exact execRiscvInstruction_of_next hcore hexec hfetch hkz hecall hstd
  case miss =>
    intro s c k line hcore hexec hfetch
    exact execRiscvInstruction_of_miss hcore hexec hfetch
  case fill =>
    intro s c k line r l hcore hwait hr hl hpoison
    exact execIcacheMissFill_of_mapped hcore hwait hr hl hpoison
  case exits =>
    intro s c k hcore hexec hfetch ha7 hregion ha0
    exact execEcallExit_of_good hcore hexec hfetch ha7 hregion ha0
  case budget =>
    intro s c k hcore hlive hbudget hlate
    exact execBudgetExceeded_of_late hcore hlive hbudget hlate
  case stall =>
    intro s c k hcore hlive hwait hfree
    exact execCoreStallDetect_of_live hcore hlive hwait hfree
  case stop =>
    intro s c k r u i hcore hr hu hfault
    exact execCoreStopTimeout_of_fault hcore hr hu hfault
  case pickStall =>
    intro s w h hw hh hup hwaits hout hfree
    exact execHoopPickStall_of_waits hw hh hup hwaits hout hfree

end Sys2Proof.Machine
end

section
/-! SUPPORT and PROOFS. The custom-0 instructions of a helper core (R213, R215 to R221): kz.quant, kz.dequant,
kz.eyepick, kz.topk and kz.hist, each with a parameter block that passes its checks. -/

namespace Sys2Proof.Machine

section
variable {s : State} {c : CoreId} {k : Core} {w : Nat} {b : List Byte}

/-! ### kz.quant and kz.dequant (R216, R217) -/

/-- KZ_QUANT of operands that pass their checks. -/
theorem execKzQuant_of_checked {q : QOps} {eyes : List Byte} {r : QResult} (h : AtWord s c k w 0x0B 0 0)
    (hblock : paramBlock s (touchFetch k) ((touchFetch k).rx (fRs1 w)) = .ok b)
    (hq : q = qOps true ((touchFetch k).rx (fRs2 w)) b) (heyes : eyes = qEyes s (touchFetch k) q)
    (hr : r = quantLine q eyes ((List.range q.len).map
      (vecVal q.vfmt (operand s (touchFetch k) q.src (q.len * vecBytes q.vfmt)))))
    (hchecks : kzChecks (qChecks s (touchFetch k) q) = none) :
    execKzQuant c s = .next (kzDone (touchFetch k) (fRd w) (packCounts r.counts) (quantBeats q eyes r.sampled)
      (countTask k.recipe k.task (coreUnit c) q.crec r.counts (store (touchFetch k) q.eyeRec r.recs
        (store (touchFetch k) q.scale r.scales (store (touchFetch k) q.dst r.blocks s))))) := by
  subst hr heyes hq
  simp only [execKzQuant, core?_of_atWord h, kzWord_of_atWord h, hblock, hchecks, touchFetch_recipe, touchFetch_task]

/-- KZ_DEQUANT of operands that pass their checks. -/
theorem execKzDequant_of_checked {q : QOps} {eyes : List Byte} {es : List (Nat × Counts)}
    (h : AtWord s c k w 0x0B 1 0) (hblock : paramBlock s (touchFetch k) ((touchFetch k).rx (fRs1 w)) = .ok b)
    (hq : q = qOps false ((touchFetch k).rx (fRs2 w)) b) (heyes : eyes = qEyes s (touchFetch k) q)
    (hes : es = (dequantVals q eyes (operand s (touchFetch k) q.src (q.nb * kzUnit q.fmt))
      (if isBlocked q.fmt then operand s (touchFetch k) q.scale q.nb else [])
      (if q.eyeMap = 0 then [] else operand s (touchFetch k) q.eyeRec (eyeBytes q eyes))).map
        (narrowPlain q.vfmt .nearest))
    (hchecks : kzChecks (qChecks s (touchFetch k) q) = none) :
    ∃ v n, execKzDequant c s = .next (kzDone (touchFetch k) (fRd w) (packCounts v) n
      (countTask k.recipe k.task (coreUnit c) q.crec v
        (store (touchFetch k) q.dst ((es.map (fun e => leBytes (vecBytes q.vfmt) e.1)).flatten) s))) := by
  subst hes heyes hq
  simp only [execKzDequant, core?_of_atWord h, kzWord_of_atWord h, hblock, hchecks, touchFetch_recipe, touchFetch_task]
  exact ⟨_, _, rfl⟩

/-! ### kz.eyepick (R218, R219) -/

/-- KZ_EYEPICK_ACCUMULATE of lines that pass their checks. -/
theorem execKzEyepickAccumulate_of_checked (h : AtWord s c k w 0x0B 2 0)
    (hblock : paramBlock s (touchFetch k) ((touchFetch k).rx (fRs1 w)) = .ok b) (hmode : leAt b 29 1 = 0)
    (hchecks : kzChecks (accChecks s (touchFetch k) w b) = none) :
    execKzEyepickAccumulate c s = .next (kzDone (touchFetch k) (fRd w) 0
      (8 + (if leAt b 28 1 = 0 then 32 else 64) * leAt b 24 4) (store (touchFetch k) (leAt b 8 8)
        (((accMaxima (leAt b 28 1) (leAt b 24 4)
          (operand s (touchFetch k) (leAt b 0 8) (leAt b 24 4 * 1024 * vecBytes (leAt b 28 1)))
          (operand s (touchFetch k) (leAt b 8 8) 4096)).map (leBytes 4)).flatten) s)) := by
  simp only [execKzEyepickAccumulate, core?_of_atWord h, kzWord_of_atWord h, hblock]
  rw [occurs_of_true (by rw [hmode]; rfl)]
  simp only [hchecks]

/-- KZ_EYEPICK_SELECT of maxima that pass their checks. -/
theorem execKzEyepickSelect_of_checked {r : List Nat × Nat} (h : AtWord s c k w 0x0B 2 0)
    (hblock : paramBlock s (touchFetch k) ((touchFetch k).rx (fRs1 w)) = .ok b) (hmode : leAt b 29 1 = 1)
    (hr : r = selPick b (operand s (touchFetch k) (leAt b 8 8) 4096))
    (hchecks : kzChecks (selChecks s (touchFetch k) w b) = none) :
    ∃ n, execKzEyepickSelect c s = .next (kzDone (touchFetch k) (fRd w) r.1.length n
      (store (touchFetch k) (leAt b 16 8) (bitmapOf r.1) s)) := by
  subst hr
  simp only [execKzEyepickSelect, core?_of_atWord h, kzWord_of_atWord h, hblock]
  rw [occurs_of_true (by rw [hmode]; rfl)]
  simp only [hchecks]
  exact ⟨_, rfl⟩

/-! ### kz.topk and kz.hist (R220, R221) -/

/-- KZ_TOPK of scores that pass their checks, where the block names no place for values. -/
theorem execKzTopk_of_checked {rows : List (List Nat)} (h : AtWord s c k w 0x0B 3 0)
    (hblock : paramBlock s (touchFetch k) ((touchFetch k).rx (fRs1 w)) = .ok b)
    (hrows : rows = topkRows b (operand s (touchFetch k) (leAt b 0 8)
      (leAt b 24 4 * (leAt b 28 2 * vecBytes (leAt b 31 1)))))
    (hchecks : kzChecks (topkChecks s (touchFetch k) w b) = none) (hvals : leAt b 16 8 = 0) :
    ∃ n, execKzTopk c s = .next (kzDone (touchFetch k) (fRd w)
      (sumNat (rows.map (fun r => (r.filter isNan32).length))) n (store (touchFetch k) (leAt b 8 8)
        ((((rows.map (fun r => topRow (leAt b 30 1) r
          (fun e => !bitOf (ofLe (topkMask s (touchFetch k) b)) e))).flatten).map (fun p => leBytes 2 p.1)).flatten)
        s)) := by
  subst hrows
  simp only [execKzTopk, core?_of_atWord h, kzWord_of_atWord h, hblock, hchecks, if_pos hvals]
  exact ⟨_, rfl⟩

/-- KZ_HIST of inputs that pass their checks. -/
theorem execKzHist_of_checked {x : List Nat × Nat} (h : AtWord s c k w 0x0B 4 0)
    (hblock : paramBlock s (touchFetch k) ((touchFetch k).rx (fRs1 w)) = .ok b)
    (hx : x = histCounts b (operand s (touchFetch k) (leAt b 0 8) (histBytes b)) ((List.range (leAt b 20 2)).map
      (fun i => leAt (operand s (touchFetch k) (leAt b 8 8) (4 * leAt b 20 2)) (4 * i) 4)))
    (hchecks : kzChecks (histChecks s (touchFetch k) w b) = none) :
    ∃ n, execKzHist c s = .next (kzDone (touchFetch k) (fRd w) x.2 n
      (store (touchFetch k) (leAt b 8 8) ((x.1.map (leBytes 4)).flatten) s)) := by
  subst hx
  simp only [execKzHist, core?_of_atWord h, kzWord_of_atWord h, hblock, hchecks]
  exact ⟨_, rfl⟩

end

/-- Settles O22: each clause is the law of its command, with the operands that its parameter block names. -/
theorem kzDataAnswer : Obligations.KzDataAnswer := by
  refine ⟨?quant, ?dequant, ?accumulate, ?select, ?topk, ?hist⟩
  case quant =>
    intro s c k w b h hblock hchecks
    exact ⟨_, _, _, _, rfl, rfl, rfl, rfl, execKzQuant_of_checked h hblock rfl rfl rfl hchecks⟩
  case dequant =>
    intro s c k w b h hblock hchecks
    obtain ⟨v, n, hrun⟩ := execKzDequant_of_checked h hblock rfl rfl rfl hchecks
    exact ⟨_, _, _, v, n, rfl, rfl, rfl, hrun⟩
  case accumulate =>
    intro s c k w b h hblock hmode hchecks
    exact execKzEyepickAccumulate_of_checked h hblock hmode hchecks
  case select =>
    intro s c k w b h hblock hmode hchecks
    exact execKzEyepickSelect_of_checked h hblock hmode rfl hchecks
  case topk =>
    intro s c k w b h hblock hchecks hvals
    obtain ⟨n, hrun⟩ := execKzTopk_of_checked h hblock rfl hchecks hvals
    exact ⟨_, n, rfl, hrun⟩
  case hist =>
    intro s c k w b h hblock hchecks
    obtain ⟨n, hrun⟩ := execKzHist_of_checked h hblock rfl hchecks
    exact ⟨_, n, rfl, hrun⟩

end Sys2Proof.Machine
end

section
/-! SUPPORT and PROOFS. The update engines (R257 to R278): the begin commands, the packets, the emission units and the
wait for the rind. -/

namespace Sys2Proof.Machine

/-! ### When an engine may take a descriptor, a packet or a unit (R252, R257) -/

section
variable {s : State} {d : DescRef} {u : UpdDesc}

/-- A begin command of a descriptor of its mode that may begin: the descriptor begins, and it is complete at once where
it has nothing to do (R257, R261). -/
theorem updBegin_of_ready {mode : Nat} (h : UpdReady s d mode u) :
    updBegin d mode s = .next (settle u.h (updComplete u (runUpdBegin u s))) := by
  obtain ⟨hdesc, hissue, hmode, hwaiting, hbefore⟩ := h
  simp only [updBegin, hdesc]
  exact occurs_of_true (by simp only [hissue, hmode, hwaiting, hbefore, beq_self_eq_true, Bool.and_true]) _ s

/-- A packet of a descriptor that has begun may be taken when it is not done and its turn has come. -/
theorem packetDue_of_turn {n : Nat} (hbegun : u.run.phase = .begun) (hpackets : hasPackets u.ws u.run = true)
    (hn : n < uPackets u.ws) (hleft : n ∉ u.run.packets) (hturn : packetOrder s u n = true) :
    packetDue s u n = true := by
  simp [packetDue, hbegun, hpackets, hn, hleft, hturn]

/-- An emission unit of a descriptor that has begun may be taken when it is not done and its masters are there. -/
theorem unitDue_of_supplied {n i : Nat} {c : List Nat} (hbegun : u.run.phase = .begun) (happly : uRatio u.ws = false)
    (hn : n < uNcopy u.ws) (hi : i < unitCount u.ws c) (hleft : (n, i) ∉ u.run.units)
    (hsupplied : supplied u (unitRect u.ws c i) = true) : unitDue u n i c = true := by
  simp [unitDue, hbegun, happly, hn, hi, hleft, hsupplied]

/-! ### The packets (R266, R278) -/

/-- UPDATE_PACKET of a packet that may be taken, with no older one at its engine: it waits for the rind or is applied. -/
theorem execUpdatePacket_of_due {n : Nat} (hdesc : updDesc? s d = some u) (hdue : packetDue s u n = true)
    (hfirst : olderAtEngine s u (packetEngine s u.h (wd u.ws 5 + 4096 * n)) = false) :
    execUpdatePacket d n s = .next (if rindHeld u then
        trackWatchdog u.h (s.onDesc u.h u.t u.i (fun x => { x with rindWait := some (x.rindWait.getD s.now) }))
      else settle u.h (runPacket u n (endRindWait u s))) := by
  simp only [execUpdatePacket, hdesc]
  exact occurs_of_true (by simp only [hdue, hfirst, Bool.not_false, Bool.and_true]) _ s

/-! ### The emission units (R259) -/

/-- EMISSION_UNIT of a unit that may be taken, with no older work at its engine: it is written. -/
theorem execEmissionUnit_of_due {n i : Nat} {c : List Nat} (hdesc : updDesc? s d = some u)
    (hrecord : copyRec s u.h u.t u.ws n = .ok c) (hdue : unitDue u n i c = true)
    (hfirst : olderAtEngine s u (unitEngine s i) = false) :
    execEmissionUnit d n i s = .next (settle u.h (runUnit u n i c s)) := by
  simp only [execEmissionUnit, hdesc, hrecord]
  exact occurs_of_true (by simp only [hdue, hfirst, Bool.not_false, Bool.and_true]) _ s

/-! ### The wait for the rind (R278) -/

/-- RIND_WAIT_TIMEOUT of a wait of more than 1 ms that has not been told: 0x546 posts. -/
theorem execRindWaitTimeout_of_late {t : Nat} (hdesc : updDesc? s d = some u) (hwait : u.run.rindWait = some t)
    (hlate : t + 10 ^ 6 < s.now) (hnew : u.run.rindPosted = false) :
    execRindWaitTimeout d s = .next (post 0x546 (updReadUnit s) 0 []
      (s.onDesc u.h u.t u.i (fun x => { x with rindPosted := true }))) := by
  simp only [execRindWaitTimeout, hdesc, hwait]
  exact occurs_of_true (by simp only [hlate, hnew, decide_true, Bool.not_false, Bool.and_true]) _ s

end

/-- Settles O26: each clause is the law of its command. -/
theorem updateEnginesAnswer : Obligations.UpdateEnginesAnswer := by
  refine ⟨?native, ?mh4, ?copies, ?ratioNative, ?ratioMh4, ?packet, ?emission, ?rind⟩
  case native =>
    intro s d u hready
    exact updBegin_of_ready hready
  case mh4 =>
    intro s d u hready
    exact updBegin_of_ready hready
  case copies =>
    intro s d u hready
    exact updBegin_of_ready hready
  case ratioNative =>
    intro s d u hready
    exact updBegin_of_ready hready
  case ratioMh4 =>
    intro s d u hready
    exact updBegin_of_ready hready
  case packet =>
    intro s d n u hdesc hbegun hpackets hn hleft hturn hfirst
    have htaken := execUpdatePacket_of_due hdesc (packetDue_of_turn hbegun hpackets hn hleft hturn) hfirst
    refine ⟨fun hfree => ?applied, fun hheld => ?waits⟩
    case applied => simpa [hfree] using htaken
    case waits => simpa [hheld] using htaken
  case emission =>
    intro s d n i u c hdesc hrecord hbegun happly hn hi hleft hsupplied hfirst
    exact execEmissionUnit_of_due hdesc hrecord (unitDue_of_supplied hbegun happly hn hi hleft hsupplied) hfirst
  case rind =>
    intro s d u t hdesc hwait hlate hnew
    exact execRindWaitTimeout_of_late hdesc hwait hlate hnew

end Sys2Proof.Machine
end

section
/-! SUPPORT and PROOFS. The hinge engines (R302 to R320): the begin of each descriptor, and the end of a span's work. -/

namespace Sys2Proof.Machine

section
variable {s : State} {d : DescRef} {e : HDesc}

/-! ### The begin of a descriptor (R302) -/

/-- A hinge command of a ready descriptor of its operation: the descriptor has begun when the operation starts. -/
theorem hingeCommand_of_ready {test : HDesc → Bool} (start next : HDesc → State → State) (h : HingeReady s d e)
    (htest : test e = true) :
    hingeCommand d test start next s = .next (settle e.h (start e (beginHinge e s))) := by
  obtain ⟨hdesc, halive, hissue, hwaiting, hready⟩ := h
  simp only [hingeCommand, hdesc, if_pos htest]
  rw [if_neg (by simp [halive, hissue]), if_pos ⟨hwaiting, hready⟩]

/-! ### DISPATCH and COMBINE (R312, R315) -/

/-- The test of a DISPATCH command holds of a descriptor of its mode. -/
theorem dispatchTest_of_mode {m : Nat} (hop : opOf e.ws = 2) (hmode : eDmode e.ws = m) :
    (opOf e.ws == 2 && eDmode e.ws == m) = true := by
  rw [hop, hmode, beq_self_eq_true, beq_self_eq_true, Bool.and_self]

/-- COMBINE that begins, and whose task still runs once its returns are sent, sums what has arrived. -/
theorem execCombine_of_alive (h : HingeReady s d e) (hop : opOf e.ws = 5)
    (halive : e.alive (combineReturns e (beginHinge e s)) = true) :
    execCombine d s = .next (settle e.h (combineSum e.begun (combineReturns e (beginHinge e s)))) := by
  rw [execCombine, hingeCommand_of_ready (test := fun e => opOf e.ws == 5) _ _ h (beq_of_eq hop)]
  simp only [if_pos halive]

/-! ### Spans (R306, R309) -/

/-- SPAN that begins, with a route to every member under its tag: its adds are sent. -/
theorem execSpan_of_reached (h : HingeReady s d e) (hop : opOf e.ws = 9) {p : Nat × State}
    (hp : p = takeTag (beginHinge e s)) (hreached : spanLost p.2 e.job p.1 = none) :
    execSpan d s = .next (settle e.h (finishSpan e (spanAll e.h e.job p.1 (bitsOf (wd e.ws 3) 15 0)
      (bitsOf (wd e.ws 3) 47 16) e.unit
      (p.2.onDesc e.h e.t e.i (fun x => { x with awaiting := x.awaiting ++ [p.1] }))))) := by
  subst hp
  rw [execSpan, hingeCommand_of_ready (test := fun e => opOf e.ws == 9) _ _ h (beq_of_eq hop)]
  simp only [hreached]

/-- SPAN that begins, with a member that no route reaches under its tag: fault 0x41, before any message (R293). -/
theorem execSpan_of_lost (h : HingeReady s d e) (hop : opOf e.ws = 9) {p : Nat × State} {k : Nat}
    (hp : p = takeTag (beginHinge e s)) (hlost : spanLost p.2 e.job p.1 = some k) :
    execSpan d s = .next (settle e.h (hingeFault e.h e.t e.i e.unit 0x406 0x41 0 k
      (nth e.job.members k 0xFFF) 0 p.2)) := by
  subst hp
  rw [execSpan, hingeCommand_of_ready (test := fun e => opOf e.ws == 9) _ _ h (beq_of_eq hop)]
  simp only [hlost]

/-- A running span with no flit waiting at any port has done its work. -/
theorem finishSpan_of_sent {u : State} (hruns : e.runs u = true)
    (hsent : u.hinge.ports.all (fun q => q.waiting.isEmpty) = true) :
    finishSpan e u = e.worked (u.onDesc e.h e.t e.i (fun x => { x with awaiting := [] })) := by
  have hnone : ∀ test : List Byte → Bool, u.hinge.ports.any (fun q => q.waiting.any test) = false := by
    intro test
    rw [List.any_eq_false]
    intro q hq
    have hempty : q.waiting = [] := List.isEmpty_iff.mp (List.all_eq_true.mp hsent q hq)
    simp [hempty]
  exact if_pos (by rw [hruns, hnone]; rfl)

end

/-- Settles O27: each clause is the begin of its command's descriptor, and the last is the end of a span. That a span
with an unreached member faults before any message, and when its work is done, are the model's choices (log entries 66
and 45). -/
theorem hingeDescriptorsAnswer : Obligations.HingeDescriptorsAnswer := by
  refine ⟨?put, ?ordinary, ?speculative, ?resend, ?verify, ?unpack, ?combine, ?collectives, ?span, ?spanLost, ?sent⟩
  case put =>
    intro s d e hready hop
    exact hingeCommand_of_ready _ _ hready (beq_of_eq hop)
  case ordinary =>
    intro s d e hready hop hmode
    exact hingeCommand_of_ready _ _ hready (dispatchTest_of_mode hop hmode)
  case speculative =>
    intro s d e hready hop hmode
    exact hingeCommand_of_ready _ _ hready (dispatchTest_of_mode hop hmode)
  case resend =>
    intro s d e hready hop hmode
    exact hingeCommand_of_ready _ _ hready (dispatchTest_of_mode hop hmode)
  case verify =>
    intro s d e hready hop
    exact hingeCommand_of_ready _ _ hready (beq_of_eq hop)
  case unpack =>
    intro s d e hready hop
    exact hingeCommand_of_ready _ _ hready (beq_of_eq hop)
  case combine =>
    intro s d e hready hop halive
    exact execCombine_of_alive hready hop halive
  case collectives =>
    intro s d e hready
    refine ⟨fun hop => ?allReduce, fun hop => ?reduceScatter, fun hop => ?allGather⟩
    case allReduce => exact hingeCommand_of_ready _ _ hready (beq_of_eq hop)
    case reduceScatter => exact hingeCommand_of_ready _ _ hready (beq_of_eq hop)
    case allGather => exact hingeCommand_of_ready _ _ hready (beq_of_eq hop)
  case span =>
    intro s d e p u hready hop hp hreached hu
    subst hu
    exact execSpan_of_reached hready hop hp hreached
  case spanLost =>
    intro s d e p k hready hop hp hlost
    exact execSpan_of_lost hready hop hp hlost
  case sent =>
    intro e u hruns hsent
    exact finishSpan_of_sent hruns hsent

end Sys2Proof.Machine
end

section
/-! SUPPORT and PROOFS. The hinge ports (R285 to R299, R306, R309, R317 to R319, R324): the flits that arrive on a port,
and the retraining of a port in service. -/

namespace Sys2Proof.Machine

section
variable {s : State} {p : Nat} {f : List Byte}

/-! ### The state of a port (R295) -/

/-- A port that carries traffic is neither down nor in training. -/
theorem HingePort.state_of_up {q : HingePort} (hup : q.up = true) : q.state ≠ .retraining ∧ q.state ≠ .down := by
  simp only [HingePort.up, Bool.or_eq_true, beq_iff_eq] at hup
  rcases hup with h | h <;> simp [h]

/-- A protocol error on a port that carries traffic: 0x407 posts and the port retrains (R285). -/
theorem protocolError_of_up (hup : (s.port p).up = true) :
    protocolError p s = startRetrain p (post 0x407 (portUnit p) 0 [] s) :=
  if_pos hup

/-! ### Flits outside the sequence (R285, R288, R296) -/

/-- NULL_FLIT of a good NULL flit that asks for no replay: its link fields are taken. -/
theorem execNullFlit_of_good (hp : p < 32) (hup : (s.port p).up = true) (hgood : flitGood f = true)
    (htype : fType f = 0) (hproto : protoBad f = false) (hreplay : fReplay f = false) :
    execNullFlit p f s = .next (linkFields p f s) := by
  rw [execNullFlit, occurs_of_true (by simp [hp, hup, hgood, htype])]
  simp only [hproto, hreplay, Bool.false_eq_true, if_false]

/-- FLIT_CRC_FAILURE of a flit that is dropped: a replay is requested where the flit asks for one. -/
theorem execFlitCrcFailure_of_dropped (hp : p < 32) (hup : (s.port p).up = true)
    (hdropped : flitGood f = false ∨ outOfOrder (s.port p) f = true) :
    execFlitCrcFailure p f s = .next (if asksReplay (s.port p) f then
      sendNull p 0x10 (s.onPort p (fun q => { q with replayWanted := true })) else s) :=
  occurs_of_true (by simpa [hp, hup] using hdropped) _ s

/-- What a LINK_INIT in training sets, where no other peer has been recorded (R296, R298). -/
theorem linkInitTakes_of_samePeer {pay : List Byte}
    (hpeer : (s.port p).peerId = 0xFFF ∨ (s.port p).peerId = leAt pay 0 2) :
    linkInitTakes p pay s = s.onPort p (fun q => { q with
      peerId := leAt pay 0 2, peerMask := leAt pay 2 1 % 16,
      advertised := (List.range 4).map (fun v => leAt pay (3 + 2 * v) 2) }) :=
  if_neg fun hother => hpeer.elim hother.1 hother.2

/-- LINK_INIT that keeps R285 is taken by a port that retrains. -/
theorem execLinkInit_of_retraining (hp : p < 32) (hgood : flitGood f = true) (htype : fType f = 1)
    (hstate : (s.port p).state = .retraining) (hproto : protoBad f = false) (hversion : leAt (fPay f) 11 1 = 1) :
    execLinkInit p f s = .next (linkInitTakes p (fPay f) s) := by
  rw [execLinkInit, occurs_of_true (by simp [hp, hgood, htype, hstate])]
  simp [hproto, hversion, hstate]

/-- LINK_INIT on a port that carries traffic: a protocol error where it breaks R285, else nothing. -/
theorem execLinkInit_of_up (hp : p < 32) (hgood : flitGood f = true) (htype : fType f = 1)
    (hup : (s.port p).up = true) :
    execLinkInit p f s = .next (if protoBad f || leAt (fPay f) 11 1 != 1 then
      startRetrain p (post 0x407 (portUnit p) 0 [] s) else s) := by
  obtain ⟨hretraining, hdown⟩ := HingePort.state_of_up hup
  rw [execLinkInit, occurs_of_true (by simp [hp, hgood, htype, hup])]
  simp [hretraining, hdown, protocolError_of_up hup]

/-! ### Flits taken in order (R288) -/

/-- The condition on which a message of a type comes about holds of a flit that is taken. -/
theorem arrives_of_taken {ty : Nat} (h : FlitTaken s p ty f) :
    (decide (p < 32) && (s.port p).up && flitGood f && fType f == ty && fLseq f == (s.port p).rxSeq) = true := by
  obtain ⟨hp, hup, hgood, htype, hseq, -⟩ := h
  simp [hp, hup, hgood, htype, hseq]

/-- A flit that is taken breaks no rule of R285. -/
theorem protoBad_of_taken {ty : Nat} (h : FlitTaken s p ty f) : protoBad f = false := by
  obtain ⟨-, -, -, -, -, hproto⟩ := h
  exact hproto

/-- A message that arrives in order and breaks no rule is accepted, has its effect, and returns its credit. -/
theorem message_of_taken {ty : Nat} (effect : State → State) (h : FlitTaken s p ty f) :
    message p ty f effect s = .next (returnCredits p (effect (accept p f s))) := by
  rw [message, occurs_of_true (arrives_of_taken h), protoBad_of_taken h, if_neg Bool.false_ne_true]

/-- SPAN_ADD for a recipe of this module. -/
theorem execSpanAdd_of_taken {r : Recipe} (h : FlitTaken s p 0x02 f)
    (hjob : jobRecipe (accept p f s) (leAt (fPay f) 6 4) = some r) :
    execSpanAdd p f s = .next (returnCredits p (settle r.handle (spanAddLocal r.handle (leAt (fPay f) 0 2)
      (leAt (fPay f) 2 4) (heUnit (p / 4)) (accept p f s)))) := by
  rw [execSpanAdd, message_of_taken _ h]
  simp only [hjob]

/-- GUARD of a member of a recipe's job: its slot is committed or discarded, and GUARD_ACK returns. -/
theorem execGuard_of_taken {k : Nat} {r : Recipe} {j : Job} (h : FlitTaken s p 0x03 f)
    (hrecipe : jobRecipe (accept p f s) (leAt (fPay f) 19 4) = some r) (hjob : r.job = some j)
    (hrank : j.members.findIdx? (· == fSrc f) = some k) :
    execGuard p f s = .next (returnCredits p (sendTo 0x23 (fSrc f) (fTag f) 3 []
      (settle r.handle (applyGuard r.handle (leAt (fPay f) 1 8 + k * leAt (fPay f) 15 4) (leAt (fPay f) 0 1)
        (leAt (fPay f) 9 2) (leAt (fPay f) 13 2) j.n (heUnit (p / 4)) (accept p f s))))) := by
  rw [execGuard, message_of_taken _ h]
  simp only [hrecipe, hjob, hrank, Option.getD_some]

/-- NOTICE for a recipe of this module. -/
theorem execNotice_of_taken {r : Recipe} (h : FlitTaken s p 0x04 f)
    (hjob : jobRecipe (accept p f s) (leAt (fPay f) 3 4) = some r) :
    execNotice p f s = .next (returnCredits p (settle r.handle
      (noticeFaults r (fSrc f) (leAt (fPay f) 1 2) (accept p f s)))) := by
  rw [execNotice, message_of_taken _ h]
  simp only [hjob]

/-- GET of bytes that can be read, from a module that a route reaches, is answered with GET_DATA. -/
theorem execGet_of_taken {u : State} {k : Nat} {bs : List Byte} {r : Recipe} (h : FlitTaken s p 0x10 f)
    (hjob : jobRecipe (accept p f s) (leAt (fPay f) 20 4) = some r)
    (hread : getRead r (leAt (fPay f) 0 8) (leAt (fPay f) 8 4) (accept p f s) = (u, .ok bs))
    (hroute : routePort u (fSrc f) (fTag f) = some k) :
    execGet p f s = .next (returnCredits p (sendFlits k
      (getFlits (myId u) (fSrc f) (fTag f) (bs.length / 240 + 1) true bs) u)) := by
  rw [execGet, message_of_taken _ h]
  simp only [hjob, hread, hroute]

/-- The last GET_DATA of a request lands its data and ends the request. -/
theorem execGetData_of_last {x : Xfer} (h : FlitTaken s p 0x21 f) (hx : xferOf (accept p f s) f = some x)
    (hkind : x.kind = .getRequest) (hlast : fLast f = true) :
    execGetData p f s = .next (returnCredits p (dropXfer x
      (landData x.recipe 0 0 (x.addr + x.got) (fPay f) (accept p f s)).1)) := by
  rw [execGetData, message_of_taken _ h]
  simp only [hx, if_pos hkind, if_pos hlast]

/-! ### PUT (R289, R290) -/

/-- The first PUT flit of a transfer that is not being received: the transfer starts. -/
theorem execPut_of_first (h : FlitTaken s p 0x30 f) (hheader : putHeaderBad f = false)
    (hnew : rxOf (accept p f s) f = none) (hfirst : fFirst f = true) :
    execPut p f s = .next (returnCredits p (rxStart p f (fPay f) (accept p f s))) := by
  rw [execPut, occurs_of_true (arrives_of_taken h), protoBad_of_taken h, hheader]
  simp only [Bool.or_self, Bool.false_eq_true, if_false, hnew, if_pos hfirst]

/-- A further PUT flit of a transfer that is being received: its data is taken. -/
theorem execPut_of_further {x : RxXfer} (h : FlitTaken s p 0x30 f) (hheader : putHeaderBad f = false)
    (hrx : rxOf (accept p f s) f = some x) (hfurther : fFirst f = false) :
    execPut p f s = .next (returnCredits p (rxData x (fPay f) (fPoison f) (fLast f) p (accept p f s))) := by
  rw [execPut, occurs_of_true (arrives_of_taken h), protoBad_of_taken h, hheader]
  simp only [Bool.or_self, Bool.false_eq_true, if_false, hrx, hfurther]

/-! ### Retraining (R297, R298) -/

/-- PORT_RETRAIN of a port in service, by any cause but a protocol error. -/
theorem execPortRetrain_of_up {c : RetrainCause} (hp : p < 32) (hup : (s.port p).up = true)
    (hcause : c ≠ .protocolError) : execPortRetrain p c s = .next (startRetrain p s) := by
  rw [execPortRetrain, occurs_of_true (by simp [hp, hup])]
  cases c with
  | protocolError => exact absurd rfl hcause
  | replayLimit | codewords | alignment => rfl

/-- PORT_RETRAIN of a port in service by a protocol error: 0x407 posts first (R285). -/
theorem execPortRetrain_of_protocolError (hp : p < 32) (hup : (s.port p).up = true) :
    execPortRetrain p .protocolError s = .next (startRetrain p (post 0x407 (portUnit p) 0 [] s)) := by
  rw [execPortRetrain, occurs_of_true (by simp [hp, hup])]
  exact congrArg _ (protocolError_of_up hup)

/-- RETRAIN_COMPLETE in time, with the same peer and the width before: the port returns with a fresh link. -/
theorem execRetrainComplete_of_sameWidth {x : HingeTrain} {w : PortState} (hp : p < 32)
    (hstate : (s.port p).state = .retraining) (hfree : underQual s p = false) (htrained : x.trained = true)
    (hintime : retrainLate s p = false) (hpeer : x.peerId = (s.port p).peerId)
    (hwidth : widthOf x.localMask x.peerMask = some w) (hsame : w = (s.port p).before) :
    execRetrainComplete p x s = .next (setPort p w ((sendLinkInit p x.localMask (s.onPort p freshLink)).onPort p
      (fun q => { q with localMask := x.localMask, peerMask := x.peerMask }))) := by
  subst hsame
  rw [execRetrainComplete, occurs_of_true (by simp [hp, hstate, hfree]), if_neg (by simp [htrained, hintime]),
    if_neg (not_not_intro hpeer)]
  simp only [hwidth, true_or, if_true]

/-- RETRAIN_COMPLETE of a training that failed or is late: the port is withdrawn. -/
theorem execRetrainComplete_of_failed {x : HingeTrain} (hp : p < 32) (hstate : (s.port p).state = .retraining)
    (hfree : underQual s p = false) (hfailed : x.trained = false ∨ retrainLate s p = true) :
    execRetrainComplete p x s = .next (retrainFailed p s) := by
  rw [execRetrainComplete, occurs_of_true (by simp [hp, hstate, hfree]), if_pos (by simpa using hfailed)]

/-- RETRAIN_TIMEOUT of a training that is late: the port is withdrawn. -/
theorem execRetrainTimeout_of_late (hp : p < 32) (hstate : (s.port p).state = .retraining)
    (hfree : underQual s p = false) (hlate : retrainLate s p = true) :
    execRetrainTimeout p s = .next (retrainFailed p s) :=
  occurs_of_true (by simp [hp, hstate, hfree, hlate]) _ s

/-! ### The error windows (R297, R324) -/

/-- PRE_FEC_BER_WINDOW below the limit and with no uncorrectable codeword: the port keeps the counts. -/
theorem execPreFecBerWindow_of_clean {n : Nat} {b : Rat} (hp : p < 32) (hup : (s.port p).up = true)
    (hb : b ≤ 24 / 100000) :
    execPreFecBerWindow p b n 0 s = .next (s.onPort p (fun q => { q with
      ber := b, corrected := satAdd 64 q.corrected n, uncorrectable := satAdd 64 q.uncorrectable 0 })) := by
  rw [execPreFecBerWindow, occurs_of_true (by simp [hp, hup])]
  simp only [if_neg (not_lt.mpr hb), if_true, if_neg (Nat.not_lt_zero 10)]

end

/-- Settles O28: each clause is the law of its command; the answers to this module's transfers are messages with no
further case. Which dropped flits ask for a replay, the places of a message's fields, and what a broken LINK_INIT does
to a port in service are the model's choices (log entries 45 and 66). -/
theorem flitsAnswer : Obligations.FlitsAnswer := by
  refine ⟨?null, ?asks, ?dropped, ?training, ?inService, ?broken, ?spanAdd, ?guard, ?notice, ?get, ?getData, ?putAck,
    ?nack, ?guardAck, ?putFirst, ?putFurther⟩
  case null =>
    intro s p f hp hup hgood htype hproto hreplay
    exact execNullFlit_of_good hp hup hgood htype hproto hreplay
  case asks =>
    intro s p f hp hup hdropped hasks
    exact (execFlitCrcFailure_of_dropped hp hup hdropped).trans (by rw [if_pos hasks])
  case dropped =>
    intro s p f hp hup hdropped hasks
    exact (execFlitCrcFailure_of_dropped hp hup hdropped).trans (by rw [hasks, if_neg Bool.false_ne_true])
  case training =>
    intro s p f hp hgood htype hstate hproto hversion hpeer
    exact (execLinkInit_of_retraining hp hgood htype hstate hproto hversion).trans
      (by rw [linkInitTakes_of_samePeer hpeer])
  case inService =>
    intro s p f hp hgood htype hup hproto hversion
    exact (execLinkInit_of_up hp hgood htype hup).trans (by rw [if_neg (by simp [hproto, hversion])])
  case broken =>
    intro s p f hp hgood htype hup hbroken
    exact (execLinkInit_of_up hp hgood htype hup).trans (by rw [if_pos (by simpa using hbroken)])
  case spanAdd =>
    intro s p f r htaken hjob
    exact execSpanAdd_of_taken htaken hjob
  case guard =>
    intro s p k f r j htaken hrecipe hjob hrank
    exact execGuard_of_taken htaken hrecipe hjob hrank
  case notice =>
    intro s p f r htaken hjob
    exact execNotice_of_taken htaken hjob
  case get =>
    intro s u p k f bs r htaken hjob hread hroute
    exact execGet_of_taken htaken hjob hread hroute
  case getData =>
    intro s p f x htaken hx hkind hlast
    exact execGetData_of_last htaken hx hkind hlast
  case putAck =>
    intro s p f htaken
    exact message_of_taken _ htaken
  case nack =>
    intro s p f htaken
    exact message_of_taken _ htaken
  case guardAck =>
    intro s p f htaken
    exact message_of_taken _ htaken
  case putFirst =>
    intro s p f htaken hheader hnew hfirst
    exact execPut_of_first htaken hheader hnew hfirst
  case putFurther =>
    intro s p f x htaken hheader hrx hfurther
    exact execPut_of_further htaken hheader hrx hfurther

/-- Settles O29: each clause is the law of its command. That a protocol error posts 0x407 and retrains the port is the
model's choice (log entry 45). -/
theorem hingePortsAnswer : Obligations.HingePortsAnswer := by
  refine ⟨?retrain, ?protocol, ?returns, ?fails, ?timeout, ?window⟩
  case retrain =>
    intro s p c hp hup hcause
    exact execPortRetrain_of_up hp hup hcause
  case protocol =>
    intro s p hp hup
    exact execPortRetrain_of_protocolError hp hup
  case returns =>
    intro s p x w hp hstate hfree htrained hintime hpeer hwidth hsame
    exact execRetrainComplete_of_sameWidth hp hstate hfree htrained hintime hpeer hwidth hsame
  case fails =>
    intro s p x hp hstate hfree hfailed
    exact execRetrainComplete_of_failed hp hstate hfree (hfailed.imp_right (decide_eq_true ·))
  case timeout =>
    intro s p hp hstate hfree hlate
    exact execRetrainTimeout_of_late hp hstate hfree (decide_eq_true hlate)
  case window =>
    intro s p n b hp hup hb
    exact execPreFecBerWindow_of_clean hp hup hb

end Sys2Proof.Machine
end

section
/-! SUPPORT and PROOFS. The long operations of the Warden (R341, R402, R409, R421, R425, R447 to R450, R473, R494, R496,
R500): how each EXECUTE begins or is refused, ABORT, and the end of the operation. -/

namespace Sys2Proof.Machine

/-! ### EXECUTE (R447, R473) -/

section
variable {s t : State} {src : OapSrc} {r : Req} {f : Info}

/-- ACTIVATE_FIRMWARE that nothing refuses: the verification and the commit come with COMMAND_END (R494). -/
theorem execActivateFirmware_of_checked (h : Accepted s src .activate r f t) (hchecks : activateRefusal t = none) :
    execActivateFirmware src s = .next (reply r (statusAns 8) (startRun r false t)) :=
  serve_of_accepted h (by simp only [hchecks, startedAns])

/-- ACTIVATE_FIRMWARE that fails a check before it starts (R473). -/
theorem execActivateFirmware_of_refused {code : Nat} (h : Accepted s src .activate r f t)
    (hchecks : activateRefusal t = some code) :
    execActivateFirmware src s = .next (reply r (refusedAns code) t) :=
  serve_of_accepted h (by simp only [hchecks, refusedAct])

/-- The state in which REPLAN_MARGINS is answered (R402): the operation runs with every planned wheel to do, and the
wheels with no step running are replanned; with no planned wheel it is complete. -/
def replanBegun (r : Req) (x : List (Nat × WheelScan)) (t : State) : State :=
  let u := onRun (fun o => { o with todo := plannedWheels t, scans := x }) (startRun r false t)
  if (plannedWheels t).isEmpty then finishRun 0 0 (leBytes 1 0 ++ leBytes 1 0 ++ zeros 4) u else replanReady u

/-- REPLAN_MARGINS in service (R402). -/
theorem execReplanMargins_of_serving (x : List (Nat × WheelScan)) (h : Accepted s src .replan r f t)
    (hserving : t.serving = true) :
    execReplanMargins src x s = .next (reply r (statusAns 8) (replanBegun r x t)) :=
  serve_of_accepted h (if_neg (not_not_intro hserving))

/-- RESTORE_RIND_IMAGE that fails a check before it starts (R473). -/
theorem execRestoreRindImage_of_refused (n : Nand) {code : Nat} (h : Accepted s src .restore r f t)
    (hchecks : restoreRefusal t (beAt r.pay 0 4) = some code) :
    execRestoreRindImage src n s = .next (reply r (refusedAns code) t) :=
  serve_of_accepted h (by simp only [hchecks, refusedAct])

/-- RESTORE_RIND_IMAGE of an image that can be restored: the body is to be written, and the recipe's captures are
abandoned (R341). -/
theorem execRestoreRindImage_of_starts (n : Nand) {x : Recipe} {y : RestoreRun} (h : Accepted s src .restore r f t)
    (hchecks : restoreRefusal t (beAt r.pay 0 4) = none) (hx : t.recipe? (beAt r.pay 0 4) = some x)
    (hstart : restoreStart t x (beAt r.pay 4 8) .wardenRestore (n == .uncorrectable) = .ok y) :
    execRestoreRindImage src n s = .next (reply r (statusAns 8) (abandonRecipe (beAt r.pay 0 4)
      (nandEvent n ((startRun r false t).onRecipe (beAt r.pay 0 4) (fun x => { x with restoring := some y }))))) :=
  serve_of_accepted h (by simp only [hchecks, hx, hstart, startedAns])

/-- RECONCILE_DEFECT_MAP in MAINTENANCE: the entries that pass wait for the flash write (R409). -/
theorem execReconcileDefectMap_of_maintenance (x : List Nat) (h : Accepted s src .reconcile r f t)
    (hstate : t.life.state = .maintenance) :
    execReconcileDefectMap src x s =
      .next (reply r (statusAns 8) (onRun (fun o => { o with todo := x }) (startRun r false t))) :=
  serve_of_accepted h (if_neg (not_not_intro hstate))

/-- The operation of QUALIFY_LINKS as it begins: the enabled links that do not qualify are skipped (R421). -/
def qualifyOp (r : Req) (t : State) : RunOp :=
  { obj := r.obj, exec := true, peer := r.peer, seq := r.seq, start := t.now, progress := 0, committed := false,
    aborting := none, ending := none, todo := [], done := [], scans := [],
    tally := (enabledLinks t).filter (fun k => !qualifies t k) }

/-- The state in which QUALIFY_LINKS is answered (R421): the links that qualify are to do, and their hinge ports go
through RETRAINING; with none the operation is complete. -/
def qualifyBegun (r : Req) (t : State) : State :=
  let ks := (enabledLinks t).filter (qualifies t)
  let u := forEach ks beginQualify
    (onRun (fun o => { o with todo := ks, tally := (qualifyOp r t).tally }) (startRun r false t))
  if ks.isEmpty then finishRun 0 0 (qualDetail (qualifyOp r t)) u else u

/-- QUALIFY_LINKS in service (R421). -/
theorem execQualifyLinks_of_serving (h : Accepted s src .qualify r f t) (hserving : t.serving = true) :
    execQualifyLinks src s = .next (reply r (statusAns 8) (qualifyBegun r t)) :=
  serve_of_accepted h (if_neg (not_not_intro hserving))

/-- CONFIRM_FIRMWARE of a set on trial (R496). -/
theorem execConfirmFirmware_of_onTrial (h : Accepted s src .confirm r f t) (htrial : onTrial t = true) :
    execConfirmFirmware src s = .next (reply r (statusAns 8) (finishRun 0 0
      (leBytes 1 (bit t.warden.slotB)) (freeOldImages (confirmSlot (startRun r true t))))) :=
  serve_of_accepted h (if_neg (not_not_intro htrial))

/-- ENTER_RECOVERY: the device resets into RECOVERY (R500). -/
theorem execEnterRecovery_of_accepted (h : Accepted s src .recovery r f t) :
    execEnterRecovery src s = .next (reply r (statusAns 8) (beginDeviceReset
      ((startRun r true t).onLife (fun l => { l with toRecovery := true })))) :=
  serve_of_accepted h rfl

/-- FLUSH_CAVE_CACHE with dirty segments: the flush begins (R151). -/
theorem execFlushCaveCache_of_dirty (h : Accepted s src .flush r f t) (hdirty : dirtyCount t ≠ 0) :
    execFlushCaveCache src s =
      .next (reply r (statusAns 8) { startRun r false t with flushing := some t.now }) :=
  serve_of_accepted h (by simp only [if_neg hdirty, startedAns])

/-- DEVICE_RESET outside bring-up (R425, R429). -/
theorem execDeviceReset_of_noStage (h : Accepted s src .devReset r f t) (hstage : t.life.stage = none) :
    execDeviceReset src s = .next (reply r (statusAns 8) (beginDeviceReset (startRun r true t))) :=
  serve_of_accepted h (by simp only [hstage, startedAns])

/-- WHEEL_RESET in service of an enabled wheel that is under no reset (R425, R429). -/
theorem execWheelReset_of_enabled (h : Accepted s src .wheelReset r f t) (hserving : t.serving = true)
    (hon : nth t.warden.stored.wheelEnable (wheelOf r.obj) true = true)
    (hreset : underReset t (wheelOf r.obj) = false) :
    execWheelReset src s = .next (reply r (statusAns 8) (beginWheelReset (wheelOf r.obj) (startRun r true t))) :=
  serve_of_accepted h (if_neg (by simp [hserving, hon, hreset]))

/-! ### ABORT (R450) -/

/-- ABORT of a command that may be rolled back at once: its work is complete with RESULT 2, and both answers come with
its end. -/
theorem execAbort_of_granted {o : RunOp} (h : Accepted s src .abort r f t) (hrun : t.warden.run = some o)
    (hobj : o.obj = r.obj) (haborting : o.aborting = none) (hending : o.ending = none)
    (hcommitted : o.committed = false) (hexec : o.exec = true) (hlinks : o.obj ≠ od 0x7F 5 0) :
    execAbort src s = .next (finishRun 2 0
      (rollBack o (onRun (fun o => { o with aborting := some (r.peer, r.seq) }) t)).2
      (rollBack o (onRun (fun o => { o with aborting := some (r.peer, r.seq) }) t)).1) :=
  serve_of_unanswered h (by
    simp only [abortAct, hrun, if_neg (not_not_intro hobj), haborting, hending, hcommitted, hexec, if_neg hlinks,
      Option.isSome_none, Bool.false_eq_true, not_true_eq_false, or_self, if_false])

/-- ABORT with no operation running: NOT_RUNNING. -/
theorem execAbort_of_idle (h : Accepted s src .abort r f t) (hrun : t.warden.run = none) :
    execAbort src s = .next (reply r (statusAns 0x0C) t) :=
  serve_of_accepted h (by simp only [abortAct, hrun])

end

/-! ### COMMAND_END and the end of a dwell (R409, R418, R419, R447, R449) -/

section
variable {s : State} {o : RunOp}

/-- COMMAND_END with no operation running. -/
theorem execCommandEnd_of_idle (hrun : s.warden.run = none) : execCommandEnd s = .next s := by
  simp only [execCommandEnd, hrun]

/-- COMMAND_END of an operation whose work is complete closes it with its result. -/
theorem execCommandEnd_of_ending {e : Nat × Nat × List Byte} (hrun : s.warden.run = some o)
    (hending : o.ending = some e) (hup : s.warden.up = true) : execCommandEnd s = .next (closeRun o e s) := by
  simp only [execCommandEnd, hrun, hending]
  exact occurs_of_true hup _ s

/-- COMMAND_END of RECONCILE_DEFECT_MAP: the flash write begins, which is the commit point, and the next one completes
it (R409). -/
theorem execCommandEnd_of_reconcile (hrun : s.warden.run = some o) (hending : o.ending = none) (hexec : o.exec = true)
    (hup : s.warden.up = true) (hobj : o.obj = od 0x7F 4 0) :
    execCommandEnd s = .next
      (if o.committed then commitReconcile o.todo s else onRun (fun o => { o with committed := true }) s) := by
  simp only [execCommandEnd, hrun, hending]
  rw [occurs_of_true (by rw [hup, hexec]; rfl), if_pos hobj]

/-- QUALIFICATION_DWELL_END of a hinge port that is still to do: the dwell's outcome settles the link or leaves it to do
(R419). -/
theorem execQualificationDwellEnd_of_hinge {p : Nat} (x : DwellResult) (hrun : s.warden.run = some o)
    (hobj : o.obj = od 0x7F 5 0) (hending : o.ending = none) (htodo : o.todo.contains (linkKey (.hinge p)) = true) :
    execQualificationDwellEnd (.hinge p) x s =
      .next (linkSettled (linkKey (.hinge p)) (hingeDwell p x s).2.1 (hingeDwell p x s).2.2 (hingeDwell p x s).1) := by
  simp only [execQualificationDwellEnd, hrun]
  exact occurs_of_true (by rw [hobj, hending, htodo]; rfl) _ s

end

/-- Settles O19: each clause is the law of its command. That 7F.006 and 7F.007 answer STARTED, that the two ends of
7F.004 are COMMAND_ENDs of their own and that an abort is granted at once is the model's choice (log entry 27). -/
theorem operationsAnswer : Obligations.OperationsAnswer := by
  refine ⟨?activate, ?activateRefused, ?replan, ?restoreRefused, ?restore, ?reconcile, ?qualify, ?confirm, ?recovery,
    ?flush, ?deviceReset, ?wheelReset, ?abort, ?abortIdle, ?ends, ?flashBegins, ?flashEnds, ?idle, ?dwell⟩
  case activate =>
    intro s src r f t h hchecks
    exact execActivateFirmware_of_checked h hchecks
  case activateRefused =>
    intro s src r f t code h hchecks
    exact execActivateFirmware_of_refused h hchecks
  case replan =>
    intro s src r f t x h hserving
    exact ⟨_, execReplanMargins_of_serving x h hserving⟩
  case restoreRefused =>
    intro s src r f t n code h hchecks
    exact execRestoreRindImage_of_refused n h hchecks
  case restore =>
    intro s src r f t n x y h hchecks hx hstart
    exact execRestoreRindImage_of_starts n h hchecks hx hstart
  case reconcile =>
    intro s src r f t x h hstate
    exact execReconcileDefectMap_of_maintenance x h hstate
  case qualify =>
    intro s src r f t h hserving
    exact ⟨_, execQualifyLinks_of_serving h hserving⟩
  case confirm =>
    intro s src r f t h htrial
    exact execConfirmFirmware_of_onTrial h htrial
  case recovery =>
    intro s src r f t h
    exact execEnterRecovery_of_accepted h
  case flush =>
    intro s src r f t h hdirty
    exact execFlushCaveCache_of_dirty h hdirty
  case deviceReset =>
    intro s src r f t h hstage
    exact execDeviceReset_of_noStage h hstage
  case wheelReset =>
    intro s src r f t h hserving hon hreset
    exact execWheelReset_of_enabled h hserving hon hreset
  case abort =>
    intro s src r f t o h hrun hobj haborting hending hcommitted hexec hlinks
    exact ⟨_, _, rfl, execAbort_of_granted h hrun hobj haborting hending hcommitted hexec hlinks⟩
  case abortIdle =>
    intro s src r f t h hrun
    exact execAbort_of_idle h hrun
  case ends =>
    intro s o e hrun hending hup
    exact execCommandEnd_of_ending hrun hending hup
  case flashBegins =>
    intro s o hrun hending hexec hup hobj hcommitted
    exact (execCommandEnd_of_reconcile hrun hending hexec hup hobj).trans (by rw [if_neg (by simp [hcommitted])])
  case flashEnds =>
    intro s o hrun hending hexec hup hobj hcommitted
    exact (execCommandEnd_of_reconcile hrun hending hexec hup hobj).trans (by rw [if_pos hcommitted])
  case idle =>
    intro s hrun
    exact execCommandEnd_of_idle hrun
  case dwell =>
    intro s o k x p hrun hobj hending hk htodo
    subst hk
    exact execQualificationDwellEnd_of_hinge x hrun hobj hending htodo

end Sys2Proof.Machine
end

section
/-! SUPPORT and PROOFS. The input and the seat of the module (R339, R369, R370, R372, R373, R392, R433, R457, R501, R509
to R511): power up, the loss of the input and its return, the hold-up store, the latch, and the loss of the auxiliary
supply with what the Warden's flash keeps over it. -/

namespace Sys2Proof.Machine

/-! ### The input (R369, R370, R372) -/

section
variable {s : State} {v : Rat}

/-- POWER_UP of a module with neither input nor auxiliary supply. -/
theorem execPowerUp_of_unpowered (hinput : s.power.input = false) (haux : s.power.aux = false) (hv : 0 < v) :
    execPowerUp v s = .next (s.onPower (fun p => { p with input := true, lost := false, volts := v })) :=
  occurs_of_true (by rw [hinput, haux, decide_eq_true hv]; rfl) _ s

/-- PRECHARGE_COMPLETE with the hot-swap switch open: the Warden starts Stage 0. -/
theorem execPrechargeComplete_of_open (hinput : s.power.input = true) (hopen : s.power.hotSwap = false)
    (haux : s.power.aux = false) :
    execPrechargeComplete s = .next (enterStage 0 s.now ((s.onPower (fun p => { p with
      hotSwap := true, aux := true })).onLife (fun l => { l with slotLatched := false, romFailed := false }))) :=
  occurs_of_true (by rw [hinput, hopen, haux]; rfl) _ s

/-- The voltage that the input falls to is drawn below 250 V (log entry 35). -/
theorem execInputLoss_of_input (hinput : s.power.input = true) :
    execInputLoss s = .next (inputLost (Config.freeNat s.free % 250 : Nat) s.drawn) :=
  occurs_of_true hinput _ s

/-- A drawn voltage is an undervoltage. -/
theorem drawnVolts_lt (n : Nat) : ((n % 250 : Nat) : Rat) < 250 := by
  exact_mod_cast Nat.mod_lt n (by omega)

/-- INPUT_OVERVOLTAGE is handled as input loss. -/
theorem execInputOvervoltage_of_input (hinput : s.power.input = true) (hv : 420 < v) :
    execInputOvervoltage v s = .next (inputLost v s) :=
  occurs_of_true (by rw [hinput, decide_eq_true hv]; rfl) _ s

/-- The input has recovered where it is within the operating range, above 265 V after an undervoltage and below 410 V
after an overvoltage (log entry 88). -/
theorem recovered_of_inRange {last : Rat} (hlow : 260 ≤ v) (hhigh : v ≤ 410) (hunder : last < 250 → 265 < v)
    (hover : 420 < last → v < 410) : recovered last v = true := by
  simp only [recovered, inRange, Bool.and_eq_true, Bool.or_eq_true, Bool.not_eq_true', decide_eq_true_eq,
    decide_eq_false_iff_not]
  exact ⟨⟨⟨hlow, hhigh⟩, imp_iff_not_or.mp hunder⟩, imp_iff_not_or.mp hover⟩

/-- The state with its input back at a voltage. -/
def inputBack (v : Rat) (s : State) : State :=
  s.onPower (fun p => { p with input := true, hotSwap := true, aux := true, lost := false, volts := v })

/-- INPUT_RETURN of a recovered input: bring-up restarts at Stage 1, but not in HALTED_COOLANT or RECOVERY, after a
failed ROM test or during Stage 0 (R369, R372, R392, R501). -/
theorem execInputReturn_of_recovered (hlost : s.power.lost = true) (hrecovered : recovered s.power.volts v = true) :
    execInputReturn v s = .next (if s.life.state = .haltedCoolant ∨ s.life.state = .recovery ∨ s.life.romFailed ∨
      s.life.stage = some 0 then inputBack v s else enterStage 1 s.now (inputBack v s)) :=
  occurs_of_true (by rw [hlost, hrecovered]; rfl) _ s

end

/-! ### The hold-up store (R339, R373) -/

section
variable {s : State} {n : Nat}

/-- HOLDUP_MEASUREMENT with the input present and the Warden up. -/
theorem execHoldupMeasurement_of_up (haux : s.power.aux = true) (hinput : s.power.input = true)
    (hup : s.warden.up = true) : execHoldupMeasurement n s = .next (measureHoldup n s) :=
  occurs_of_true (by rw [haux, hinput, hup]; rfl) _ s

/-- A charge of 90% or more: the conditions of 0xB30 and 0x040 are absent, and the rind need not commit first. -/
theorem chargeSeen_of_full (hfull : 90 ≤ n) :
    chargeSeen n s = absentEpisode 0x040 0xD0021 (absentEpisode 0xB30 rindUnit
      ((s.onPower (fun p => { p with charge := n })).onRind (fun x => { x with commitFirst := false }))) := by
  have hcommit : decide (n < 70) = false := decide_eq_false (by omega)
  simp only [chargeSeen, hcommit, if_pos (show 70 ≤ n by omega), if_neg (show ¬ n < 90 by omega)]
  rfl

/-- HOLD_UP_CHARGE_THRESHOLD with the auxiliary supply on. -/
theorem execHoldUpChargeThreshold_of_aux (haux : s.power.aux = true) (hn : n ≤ 100) :
    execHoldUpChargeThreshold n s = .next (chargeSeen n s) :=
  occurs_of_true (by rw [haux, decide_eq_true hn]; rfl) _ s

end

/-! ### The seat and the standby sense (R509 to R511) -/

section
variable {s : State}

/-- SEAT_LATCHED_SET where no bring-up waits for the latch. -/
theorem execSeatLatchedSet_of_noWait (haux : s.power.aux = true) (hseated : s.power.seated = false)
    (hwait : s.power.seatWait = false) :
    execSeatLatchedSet s =
      .next (s.onPower (fun p => { p with seated := true, seatSince := s.now, seatWait := false })) := by
  rw [execSeatLatchedSet, occurs_of_true (by rw [haux, hseated]; rfl), if_neg (by simp [hwait])]

/-- SEAT_LATCHED_CLEAR with every main rail off and no bring-up that waits for the latch. -/
theorem execSeatLatchedClear_of_noRail (haux : s.power.aux = true) (hseated : s.power.seated = true)
    (hrails : s.power.rails = false) (hnone : anyRail s = false) (hwait : restartWaits s = false) :
    execSeatLatchedClear s = .next (s.onPower (fun p => { p with seated := false })) := by
  rw [execSeatLatchedClear, occurs_of_true (by rw [haux, hseated]; rfl)]
  simp only [hrails, hnone, hwait, Bool.false_eq_true, if_false]

/-- STBY12_SENSE_CHANGE is reported only. -/
theorem execStby12SenseChange_of_aux (b : Bool) (haux : s.power.aux = true) :
    execStby12SenseChange b s = .next (s.onPower (fun p => { p with stby12 := b })) :=
  occurs_of_true haux _ s

end

/-! ### The loss of the auxiliary supply (R433, R457) -/

section
variable {s : State}

@[simp] theorem abandonCapture_warden (c : Capture) (s : State) : (abandonCapture c s).warden = s.warden := by
  simp [abandonCapture]

/-- Recipes are lost without a change of the Warden. -/
@[simp] theorem loseRecipes_warden (s : State) : (loseRecipes s).warden = s.warden :=
  forEach_unchanged State.warden _ (fun c t => abandonCapture_warden c t) _ s

@[simp] theorem loseRecipes_recipes (s : State) : (loseRecipes s).recipes = [] := rfl

@[simp] theorem bankHours_warden (s : State) : (bankHours s).warden = s.warden := by
  unfold bankHours
  split_ifs <;> rfl

@[simp] theorem bankHours_recipes (s : State) : (bankHours s).recipes = s.recipes := by
  unfold bankHours
  split_ifs <;> rfl

@[simp] theorem hostResetDone_warden (s : State) : (hostResetDone s).warden = s.warden := by
  unfold hostResetDone
  split_ifs <;> rfl

@[simp] theorem resetFunction_recipes (s : State) : (resetFunction s).recipes = s.recipes := rfl

@[simp] theorem resetFunction_stored (s : State) : (resetFunction s).warden.stored = s.warden.stored := rfl

/-- A reset of the host function with no recipe to end keeps what the Warden's flash holds. -/
theorem hostReset_stored_of_noRecipes (hnone : s.recipes = []) :
    (hostReset s).warden.stored = s.warden.stored := by
  simp [hostReset, hnone, forEach]

theorem dropLink_stored_of_noRecipes (hnone : s.recipes = []) :
    (dropLink s).warden.stored = s.warden.stored := by
  unfold dropLink
  split_ifs
  · exact hostReset_stored_of_noRecipes hnone
  · rfl

/-- The main rails go off, no recipe being left, without a change of the Warden's flash. -/
theorem railsOff_stored_of_noRecipes (hnone : s.recipes = []) :
    (railsOff s).warden.stored = s.warden.stored := by
  have hdrop : (dropLink (bankHours s)).warden.stored = (bankHours s).warden.stored :=
    dropLink_stored_of_noRecipes ((bankHours_recipes s).trans hnone)
  simpa [railsOff, darkState] using hdrop

/-- The rails go off after every recipe is lost: what the Warden's flash holds stays. -/
theorem railsOff_loseRecipes_stored (s : State) : (railsOff (loseRecipes s)).warden.stored = s.warden.stored := by
  rw [railsOff_stored_of_noRecipes (loseRecipes_recipes s), loseRecipes_warden]

/-- AUXILIARY_SUPPLY_LOSS: the device is off, its supply and the Warden are down, and what the flash holds stays. -/
theorem execAuxiliarySupplyLoss_of_aux (haux : s.power.aux = true) :
    ∃ u, execAuxiliarySupplyLoss s = .next u ∧ u.life.state = .off ∧ u.power.aux = false ∧ u.warden.up = false ∧
      u.warden.stored = s.warden.stored :=
  ⟨_, occurs_of_true haux _ s, rfl, rfl, rfl, railsOff_loseRecipes_stored s⟩

end

/-- Settles O35: each clause is the law of its command. That INPUT_RETURN leaves HALTED_COOLANT as it is and that the
voltage after a loss is free below 250 V is the model's choice (log entry 35), and so are the thresholds of recovery
(log entry 88). -/
theorem inputAnswers : Obligations.InputAnswers := by
  refine ⟨?powerUp, ?precharge, ?loss, ?overvoltage, ?returnHalted, ?returnOff, ?measurement, ?charge, ?latchSet,
    ?latchClear, ?standby, ?auxiliary⟩
  case powerUp =>
    intro s v hinput haux hv
    exact execPowerUp_of_unpowered hinput haux hv
  case precharge =>
    intro s hinput hopen haux
    exact execPrechargeComplete_of_open hinput hopen haux
  case loss =>
    intro s hinput
    exact ⟨_, execInputLoss_of_input hinput, drawnVolts_lt _⟩
  case overvoltage =>
    intro s v hinput hv
    exact execInputOvervoltage_of_input hinput hv
  case returnHalted =>
    intro s v hlost hlow hhigh hunder hover hstate
    exact (execInputReturn_of_recovered hlost (recovered_of_inRange hlow hhigh hunder hover)).trans
      (by rw [if_pos (.inl hstate), inputBack])
  case returnOff =>
    intro s v hlost hlow hhigh hunder hover hstate hrom hstage
    exact (execInputReturn_of_recovered hlost (recovered_of_inRange hlow hhigh hunder hover)).trans
      (by rw [if_neg (by simp [hstate, hrom, hstage]), inputBack])
  case measurement =>
    intro s n haux hinput hup
    exact execHoldupMeasurement_of_up haux hinput hup
  case charge =>
    intro s n haux hlow hhigh
    rw [exec_holdUpChargeThreshold, execHoldUpChargeThreshold_of_aux haux hhigh, chargeSeen_of_full hlow]
  case latchSet =>
    intro s haux hseated hwait
    exact execSeatLatchedSet_of_noWait haux hseated hwait
  case latchClear =>
    intro s haux hseated hrails hnone hwait
    exact execSeatLatchedClear_of_noRail haux hseated hrails hnone hwait
  case standby =>
    intro s b haux
    exact execStby12SenseChange_of_aux b haux
  case auxiliary =>
    intro s haux
    exact execAuxiliarySupplyLoss_of_aux haux

end Sys2Proof.Machine
end

section
/-! SUPPORT and PROOFS. The rind controller (R332, R333): the next tensor of a capture, an uncorrectable NAND error, and
the image that becomes durable. -/

namespace Sys2Proof.Machine

section
variable {s : State} {h i : Nat} {r : Recipe} {c : Capture} {e : CaptEntry}

/-- CAPTURE_ENTRY while snapshots are on: the section of the next pending entry is read and kept (R332). -/
theorem execCaptureEntry_of_read {bs : List Byte} (hr : s.recipe? h = some r) (hnext : nextCapture s r = some (c, i))
    (he : r.capt[i]? = some e) (hread : readSection s r e = some bs) (hon : s.warden.stored.rindEnable = true) :
    execCaptureEntry h .ok s = .next (settle h (captured c i e bs s)) := by
  simp only [execCaptureEntry, hr, hnext, he]
  rw [occurs_of_true hon]
  simp only [hread, nandEvent]

/-- CAPTURE_ENTRY that meets an uncorrectable NAND error abandons the capture, whatever its section holds (R333). -/
theorem execCaptureEntry_of_uncorrectable (hr : s.recipe? h = some r) (hnext : nextCapture s r = some (c, i))
    (he : r.capt[i]? = some e) (hon : s.warden.stored.rindEnable = true) :
    execCaptureEntry h .uncorrectable s = .next (abandonCapture c (post 0xB11 rindUnit 0 [] s)) := by
  simp only [execCaptureEntry, hr, hnext, he]
  exact occurs_of_true hon _ s

/-- IMAGE_DURABLE of the oldest capture of a recipe, whole and of a step whose set is closed (R333). -/
theorem execImageDurable_of_whole {l : List Capture} {x : Image} (hr : s.recipe? h = some r)
    (holdest : capturesOf s h = c :: l) (hx : s.image? c.image = some x) (hwhole : c.done.length = r.capt.length)
    (hclosed : imageClosed s h x.step = true) (hon : s.warden.stored.rindEnable = true) :
    execImageDurable h s = .next (makeDurable c r x s) := by
  simp only [execImageDurable, hr, holdest, List.head?_cons, hx]
  exact occurs_of_true (by rw [hon, hclosed, decide_eq_true hwhole]; rfl) _ s

end

/-- Settles O41: each clause is the law of its command. -/
theorem rindAnswers : Obligations.RindAnswers := by
  refine ⟨?read, ?uncorrectable, ?durable⟩
  case read =>
    intro s h i r c e bs hr hnext he hread hon
    exact execCaptureEntry_of_read hr hnext he hread hon
  case uncorrectable =>
    intro s h i r c e hr hnext he hon
    exact execCaptureEntry_of_uncorrectable hr hnext he hon
  case durable =>
    intro s h r c l x hr holdest hx hwhole hclosed hon
    exact execImageDurable_of_whole hr holdest hx hwhole hclosed hon

end Sys2Proof.Machine
end

section
/-! SUPPORT and PROOFS. The queues of the host interface (R352 to R357): what a change of one queue does to each queue,
the taking of an entry, the completion ring, the queue registers and the timers of the rings. -/

namespace Sys2Proof.Machine

/-! ### One queue among the queues -/

/-- A change of an element that exists is read back. -/
theorem nth_modAt_same {α : Type} {l : List α} {i : Nat} (hi : i < l.length) (f : α → α) (d : α) :
    nth (modAt l i f) i d = f (nth l i d) := by
  simp [nth, modAt, hi]

/-- A change of one element leaves every other alone. -/
theorem nth_modAt_other {α : Type} (l : List α) {i j : Nat} (hij : j ≠ i) (f : α → α) (d : α) :
    nth (modAt l i f) j d = nth l j d := by
  unfold nth modAt
  cases hl : l[i]? with
  | none => rfl
  | some x => rw [List.getElem?_set_ne hij.symm]

/-- Changes that agree on the element are the same change. -/
theorem modAt_congr {α : Type} {l : List α} {i : Nat} {f g : α → α} (d : α) (h : f (nth l i d) = g (nth l i d)) :
    modAt l i f = modAt l i g := by
  unfold nth at h
  unfold modAt
  cases hl : l[i]? with
  | none => rfl
  | some x =>
    simp only [hl, Option.getD_some] at h
    simp only [h]

section
variable {s : State} {q : Nat}

theorem State.queue_onQueue_same (hq : q < s.host.queues.length) (f : Queue → Queue) :
    (s.onQueue q f).queue q = f (s.queue q) :=
  nth_modAt_same hq f _

theorem State.queue_onQueue_other {p : Nat} (hpq : p ≠ q) (f : Queue → Queue) :
    (s.onQueue q f).queue p = s.queue p :=
  nth_modAt_other _ hpq f _

theorem State.onQueue_congr {f g : Queue → Queue} (h : f (s.queue q) = g (s.queue q)) :
    s.onQueue q f = s.onQueue q g := by
  simp only [State.onQueue, State.onHost, modAt_congr Queue.reset h]

@[simp] theorem State.onQueue_bar0 (f : Queue → Queue) : (s.onQueue q f).host.bar0 = s.host.bar0 := rfl

/-- A queue that is enabled is one of the queues. -/
theorem lt_length_of_en (hen : (s.queue q).en = true) : q < s.host.queues.length := by
  by_contra hq
  rw [State.queue, nth, List.getElem?_eq_none (not_lt.mp hq)] at hen
  exact Bool.false_ne_true hen

/-- The registers answer over a trained link with the function in D0 (R346). -/
theorem hostAccess_of_d0 (hlink : s.host.linkUp = true) (hd0 : s.host.hostPower = .d0) : hostAccess s = true := by
  rw [hostAccess, hlink, hd0]
  rfl

/-! ### Taking an entry (R355) -/

/-- The queue whose turn has come is one of the sixteen and holds an entry. -/
theorem hasEntry_of_nextQueue (hnext : nextQueue s = some q) : q < 16 ∧ hasEntry (s.queue q) = true := by
  unfold nextQueue at hnext
  split at hnext
  · obtain ⟨i, -, hi⟩ := List.mem_map.mp (List.mem_of_find?_eq_some hnext)
    exact ⟨hi ▸ Nat.mod_lt _ (by omega), List.find?_some (p := fun p => hasEntry (s.queue p)) hnext⟩
  · cases hnext

/-- Settles O9: a queue gives an entry only where it is enabled and holds one. -/
theorem takingAnEntry : Obligations.TakingAnEntry := by
  rintro s opc c t ⟨q, hnext, -, htake⟩
  obtain ⟨hq, hentry⟩ := hasEntry_of_nextQueue hnext
  obtain ⟨hen, hne⟩ : (s.queue q).en = true ∧ (s.queue q).sqHead ≠ (s.queue q).sqTail := by
    simpa [hasEntry] using hentry
  cases htake
  exact ⟨hq, hen, hne, rfl, rfl, rfl, rfl⟩

/-! ### The completion ring (R356, R357) -/

/-- Overwriting bytes within a list keeps its length. -/
theorem length_splice {l bs : List Byte} {off : Nat} (h : off + bs.length ≤ l.length) :
    (splice l off bs).length = l.length := by
  simp only [splice, List.length_append, List.length_take, List.length_drop]
  omega

@[simp] theorem raiseMsix_bar0 (v : Nat) (s : State) : (raiseMsix v s).host.bar0 = s.host.bar0 := by
  simp only [raiseMsix, State.onHost_host]
  split <;> rfl

@[simp] theorem raiseMsix_queue (v q : Nat) (s : State) : (raiseMsix v s).queue q = s.queue q := by
  simp only [raiseMsix, State.queue, State.onHost_host]
  split <;> rfl

/-- A completion entry as the ring of its queue holds it: with SQHEAD and the phase (R356). -/
def ringEntry (x : Queue) (e : List Byte) : List Byte :=
  splice (splice e 6 (leBytes 2 x.sqHead)) 13 [BitVec.ofNat 8 (leAt e 13 1 / 2 * 2 + bit x.phase)]

theorem length_ringEntry (x : Queue) {e : List Byte} (he : e.length = 64) : (ringEntry x e).length = 64 := by
  have hhead : (splice e 6 (leBytes 2 x.sqHead)).length = 64 :=
    (length_splice (by rw [he, length_leBytes]; omega)).trans he
  exact (length_splice (by rw [hhead]; simp)).trans hhead

/-- The bytes that a completion entry changes: those of its place in the ring. -/
theorem cqWrite_bar0 (e : List Byte) : (cqWrite q e s).host.bar0 =
    memWrite s.host.bar0 (cqBase q + 64 * (s.queue q).cqTail) (ringEntry (s.queue q) e) := by
  unfold cqWrite
  dsimp only
  split
  · rw [raiseMsix_bar0]; rfl
  · rfl

/-- CQ_TAIL and the phase after a completion entry: the phase turns where the ring begins again. -/
theorem cqWrite_queue_place (hq : q < s.host.queues.length) (e : List Byte) :
    ((cqWrite q e s).queue q).cqTail = ((s.queue q).cqTail + 1) % (s.queue q).size ∧
    ((cqWrite q e s).queue q).phase =
      if ((s.queue q).cqTail + 1) % (s.queue q).size = 0 then !(s.queue q).phase else (s.queue q).phase := by
  unfold cqWrite
  dsimp only
  rw [apply_ite (State.queue · q), raiseMsix_queue, ite_self,
    State.queue_onQueue_same (s := s.onHost _) hq]
  exact ⟨rfl, rfl⟩

/-- A completion of a queue whose ring has room and holds nothing back is written. -/
theorem cqPost_of_room {e : List Byte} (hheld : (s.queue q).held = []) (hroom : cqIsFull (s.queue q) = false) :
    cqPost q e s = cqWrite q e s := by
  simp [cqPost, hheld, hroom]

/-- A completion of a queue whose ring is full is held, and CQFULL is set. -/
theorem cqPost_of_full {e : List Byte} (hfull : cqIsFull (s.queue q) = true) :
    cqPost q e s = s.onQueue q (fun x => { x with held := x.held ++ [e], cqFull := true }) :=
  if_pos (.inr hfull)

/-- Settles O50: an entry is written at CQ_TAIL, or held. -/
theorem completionsGoToTheRing : Obligations.CompletionsGoToTheRing := by
  intro s q e hq he hwf
  refine ⟨fun hheld hroom => ?room, fun hfull => ?full⟩
  case room =>
    have hlen := length_ringEntry (s.queue q) he
    obtain ⟨htail, hphase⟩ := cqWrite_queue_place hq e
    rw [cqPost_of_room hheld hroom, cqWrite_bar0]
    refine ⟨?written, fun a ha => memGet_memWrite_outside _ _ _ _ hwf (by rwa [hlen]), htail, ?phase⟩
    case written =>
      have hread := memRead_memWrite_same (ringEntry (s.queue q) e) s.host.bar0
        (cqBase q + 64 * (s.queue q).cqTail) hwf
      rw [hlen] at hread
      exact hread
    case phase =>
      rw [hphase]
      split_ifs with hzero
      · simp [hzero]
      · simp [hzero]
  case full =>
    rw [cqPost_of_full hfull, State.queue_onQueue_same hq]
    exact ⟨rfl, rfl, rfl, rfl⟩

/-! ### SUBMISSION_DOORBELL and CQ_HEAD_WRITE (R349, R352, R357) -/

/-- A doorbell while RDY is clear is dropped and counted. -/
theorem execSubmissionDoorbell_of_notReady {tail : Nat} (haccess : hostAccess s = true) (hq : q < 16)
    (hrdy : s.host.rdy = false) : execSubmissionDoorbell q tail s =
      .next (s.onHost (fun h => { h with droppedDb := satAdd 64 h.droppedDb 1 })) := by
  rw [execSubmissionDoorbell, occurs_of_true (by simp [haccess, hq]), if_pos (by simp [hrdy])]

/-- A doorbell of an enabled queue moves SQ_TAIL. -/
theorem execSubmissionDoorbell_of_ready {tail : Nat} (haccess : hostAccess s = true) (hq : q < 16)
    (hrdy : s.host.rdy = true) (hen : (s.queue q).en = true) (htail : tail < (s.queue q).size) :
    execSubmissionDoorbell q tail s = .next (s.onQueue q (fun x => { x with sqTail := tail })) := by
  rw [execSubmissionDoorbell, occurs_of_true (by simp [haccess, hq]), if_neg (by simp [hrdy]),
    if_pos (by simp [hen, htail])]

/-- CQ_HEAD_WRITE that consumes no more entries than have been written. -/
theorem execCqHeadWrite_of_written {index : Nat} (haccess : hostAccess s = true) (hq : q < 16)
    (hen : (s.queue q).en = true) (hindex : index < (s.queue q).size)
    (hwritten : (index + (s.queue q).size - (s.queue q).cqHead) % (s.queue q).size ≤
      ((s.queue q).cqTail + (s.queue q).size - (s.queue q).cqHead) % (s.queue q).size) :
    execCqHeadWrite q index s =
      .next (drainHeld ((s.queue q).held.length + 1) q (s.onQueue q (consume index))) := by
  rw [execCqHeadWrite, occurs_of_true (by simp [haccess, hq, hen, hindex, hwritten])]

/-- With no entry held, the ring is no longer full. -/
theorem drainHeld_of_nothing_held {n : Nat} (hheld : (s.queue q).held = []) :
    drainHeld (n + 1) q s = s.onQueue q (fun x => { x with cqFull := false }) := by
  simp only [drainHeld, hheld]

@[simp] theorem consume_held (index : Nat) (x : Queue) : (consume index x).held = x.held := by
  unfold consume
  split_ifs <;> rfl

/-- A head that moves frees the ring. -/
theorem consume_of_moved {index : Nat} {x : Queue} (hmoved : index ≠ x.cqHead) :
    consume index x = { x with cqHead := index, fullSince := none, stallPosted := false } :=
  if_neg hmoved

/-! ### QCFG_WRITE (R352, R353) -/

variable {v : Word}

/-- Bit 0 of a word, by its number. -/
theorem bitOf_toNat_zero (v : Word) : bitOf v.toNat 0 = v.getLsbD 0 := by
  rw [BitVec.getLsbD, Nat.testBit_zero, bitOf, pow_zero, Nat.div_one, beq_eq_decide]

/-- A queue as an accepted enable leaves it: the fields applied, the indices zero and the phase 1 (R353). -/
def qcfgEnable (n : Nat) (x : Queue) : Queue :=
  { qcfgApply n x with
    en := true, cfgErr := false, sqHead := 0, sqTail := 0, cqHead := 0, cqTail := 0, phase := true,
    unsignalled := 0, firstUnsignalled := none, cqFull := false, fullSince := none, stallPosted := false }

/-- The check of an enable is that its fields are good. -/
theorem qcfg_check_iff (v : Word) : (bitsOf v.toNat 63 48 != 0 && ringSizeOk (bitsOf v.toNat 13 1) &&
    bitsOf v.toNat 31 22 == 0 && bitsOf v.toNat 15 14 == 0) = true ↔ qcfgGood v := by
  simp only [ringSizeOk, qcfgGood, Bool.and_eq_true, bne_iff_ne, beq_iff_eq, decide_eq_true_eq, and_assoc]

/-- The check of a disable is whether the queue holds a command or an entry. -/
theorem busy_iff_queueHolds : (s.host.cmds.any (fun c => c.q == q) || (s.queue q).sqHead != (s.queue q).sqTail ||
    !(s.queue q).held.isEmpty || (s.queue q).cqHead != (s.queue q).cqTail) = true ↔ queueHolds s q := by
  simp only [queueHolds, Bool.or_eq_true, List.any_eq_true, beq_iff_eq, bne_iff_ne, Bool.not_eq_true',
    List.isEmpty_eq_false_iff, or_assoc]

/-- QCFG_WRITE that enables a queue with good fields. -/
theorem execQcfgWrite_of_good (haccess : hostAccess s = true) (hq : q < 16) (hoff : (s.queue q).en = false)
    (hset : v.getLsbD 0 = true) (hgood : qcfgGood v) :
    execQcfgWrite q v s = .next (s.onQueue q (qcfgEnable v.toNat)) := by
  rw [execQcfgWrite, occurs_of_true (by simp [haccess, hq]), if_neg (by simp [hoff]),
    if_neg (by simp [bitOf_toNat_zero, hset]), if_pos ((qcfg_check_iff v).mpr hgood)]
  rfl

/-- QCFG_WRITE that would enable a queue with fields that are not good. -/
theorem execQcfgWrite_of_bad (haccess : hostAccess s = true) (hq : q < 16) (hoff : (s.queue q).en = false)
    (hset : v.getLsbD 0 = true) (hbad : ¬ qcfgGood v) :
    execQcfgWrite q v s = .next (s.onQueue q (fun x => { x with cfgErr := true })) := by
  rw [execQcfgWrite, occurs_of_true (by simp [haccess, hq]), if_neg (by simp [hoff]),
    if_neg (by simp [bitOf_toNat_zero, hset]), if_neg (mt (qcfg_check_iff v).mp hbad)]

/-- QCFG_WRITE that leaves a disabled queue disabled sets its fields. -/
theorem execQcfgWrite_of_off (haccess : hostAccess s = true) (hq : q < 16) (hoff : (s.queue q).en = false)
    (hclear : v.getLsbD 0 = false) : execQcfgWrite q v s = .next (s.onQueue q (qcfgApply v.toNat)) := by
  rw [execQcfgWrite, occurs_of_true (by simp [haccess, hq]), if_neg (by simp [hoff]),
    if_pos (by rw [bitOf_toNat_zero, hclear]; rfl)]

/-- QCFG_WRITE that sets EN again changes nothing, whether or not the link carries it. -/
theorem execQcfgWrite_of_set (hen : (s.queue q).en = true) (hset : v.getLsbD 0 = true) :
    execQcfgWrite q v s = .next s := by
  simp [execQcfgWrite, occurs, hen, bitOf_toNat_zero, hset]

/-- QCFG_WRITE that would disable a queue that holds a command or an entry is ignored. -/
theorem execQcfgWrite_of_holds (haccess : hostAccess s = true) (hq : q < 16) (hen : (s.queue q).en = true)
    (hholds : queueHolds s q) : execQcfgWrite q v s = .next s := by
  rw [execQcfgWrite, occurs_of_true (by simp [haccess, hq]), if_pos hen,
    if_pos (by rw [busy_iff_queueHolds.mpr hholds, Bool.or_true])]

/-- QCFG_WRITE that disables a queue that holds nothing. -/
theorem execQcfgWrite_of_idle (haccess : hostAccess s = true) (hq : q < 16) (hen : (s.queue q).en = true)
    (hclear : v.getLsbD 0 = false) (hidle : ¬ queueHolds s q) :
    execQcfgWrite q v s = .next (s.onQueue q (fun x => { x with en := false })) := by
  rw [execQcfgWrite, occurs_of_true (by simp [haccess, hq]), if_pos hen,
    if_neg (by rw [bitOf_toNat_zero, hclear, Bool.false_or]; exact mt busy_iff_queueHolds.mp hidle)]

end

/-- Settles O44: the cases of R353, by EN as it stands, EN as written, and the check that the case makes. -/
theorem queueConfigurationIsChecked : Obligations.QueueConfigurationIsChecked := by
  intro s q v hlink hd0 hq hlen
  have haccess := hostAccess_of_d0 hlink hd0
  have hlt : q < s.host.queues.length := hlen ▸ hq
  cases hen : (s.queue q).en <;> cases hbit : v.getLsbD 0
  case false.false =>
    exact ⟨_, execQcfgWrite_of_off haccess hq hen hbit, fun p hp => State.queue_onQueue_other hp _, by simp⟩
  case false.true =>
    by_cases hgood : qcfgGood v
    · refine ⟨_, execQcfgWrite_of_good haccess hq hen hbit hgood, fun p hp => State.queue_onQueue_other hp _, ?_⟩
      simp [State.queue_onQueue_same hlt, qcfgEnable, qcfgApply, hgood]
    · refine ⟨_, execQcfgWrite_of_bad haccess hq hen hbit hgood, fun p hp => State.queue_onQueue_other hp _, ?_⟩
      simp [State.queue_onQueue_same hlt, hgood, hen]
  case true.true =>
    exact ⟨s, execQcfgWrite_of_set hen hbit, fun _ _ => rfl, by simp⟩
  case true.false =>
    by_cases hholds : queueHolds s q
    · exact ⟨s, execQcfgWrite_of_holds haccess hq hen hholds, fun _ _ => rfl, by simp [hholds]⟩
    · refine ⟨_, execQcfgWrite_of_idle haccess hq hen hbit hholds, fun p hp => State.queue_onQueue_other hp _, ?_⟩
      simp [State.queue_onQueue_same hlt, hholds]

/-- Settles O5: each clause is the law of its command. -/
theorem queueRegistersAnswer : Obligations.QueueRegistersAnswer := by
  refine ⟨?dropped, ?doorbell, ?head, ?headHeld, ?enable, ?refused, ?fields, ?disable, ?again⟩
  case dropped =>
    intro s q tail hlink hd0 hq hrdy
    exact execSubmissionDoorbell_of_notReady (hostAccess_of_d0 hlink hd0) hq hrdy
  case doorbell =>
    intro s q tail hlink hd0 hq hrdy hen htail
    exact execSubmissionDoorbell_of_ready (hostAccess_of_d0 hlink hd0) hq hrdy hen htail
  case head =>
    intro s q index hlink hd0 hq hen hindex hheld hmoved hwritten
    have hnone : ((s.onQueue q (consume index)).queue q).held = [] := by
      rw [State.queue_onQueue_same (lt_length_of_en hen), consume_held, hheld]
    have hconsume : s.onQueue q (consume index) =
        s.onQueue q (fun x => { x with cqHead := index, fullSince := none, stallPosted := false }) :=
      State.onQueue_congr (consume_of_moved hmoved)
    rw [exec_cqHeadWrite, execCqHeadWrite_of_written (hostAccess_of_d0 hlink hd0) hq hen hindex hwritten,
      drainHeld_of_nothing_held hnone, hconsume]
  case headHeld =>
    intro s q index hlink hd0 hq hen hindex hwritten
    exact execCqHeadWrite_of_written (hostAccess_of_d0 hlink hd0) hq hen hindex hwritten
  case enable =>
    intro s q v hlink hd0 hq hoff hset hdrain hsize hhigh hlow
    exact execQcfgWrite_of_good (hostAccess_of_d0 hlink hd0) hq hoff hset ⟨hdrain, hsize, hhigh, hlow⟩
  case refused =>
    intro s q v hlink hd0 hq hoff hset hdrain
    exact execQcfgWrite_of_bad (hostAccess_of_d0 hlink hd0) hq hoff hset (fun hgood => hgood.1 hdrain)
  case fields =>
    intro s q v hlink hd0 hq hoff hclear
    exact execQcfgWrite_of_off (hostAccess_of_d0 hlink hd0) hq hoff hclear
  case disable =>
    intro s q v hlink hd0 hq hen hclear hcmds hheld hcq hsq
    have hidle : ¬ queueHolds s q := by
      rintro (⟨c, hc, hcq⟩ | hne | hne | hne)
      · simpa [hcq] using List.all_eq_true.mp hcmds c hc
      · exact hne hsq
      · exact hne hheld
      · exact hne hcq
    exact execQcfgWrite_of_idle (hostAccess_of_d0 hlink hd0) hq hen hclear hidle
  case again =>
    intro s q v hen hset
    exact execQcfgWrite_of_set hen hset

/-! ### The timers of the rings (R357, R480) -/

section
variable {s : State} {q t : Nat}

/-- COMPLETION_RING_STALL of a ring that has been full beyond DRAIN. -/
theorem execCompletionRingStall_of_late (hfull : (s.queue q).fullSince = some t)
    (hlate : t + (s.queue q).drain * 100000 < s.now) (hposted : (s.queue q).stallPosted = false) :
    execCompletionRingStall q s =
      .next (post 0x541 (unitId 0xB 0 0) 0 [] (s.onQueue q (fun x => { x with stallPosted := true }))) := by
  rw [execCompletionRingStall, occurs_of_true (by simp [hfull, hlate, hposted])]

/-- INTERRUPT_DELAY_EXPIRY of a completion ring, ITIME µs after its first unsignalled entry. -/
theorem execInterruptDelayExpiry_of_completion (hfirst : (s.queue q).firstUnsignalled = some t)
    (hitime : (s.queue q).itime ≠ 0) (hlate : t + (s.queue q).itime * 1000 ≤ s.now) :
    execInterruptDelayExpiry (.completion q) s = .next (raiseMsix (s.queue q).vector
      (s.onQueue q (fun x => { x with unsignalled := 0, firstUnsignalled := none }))) := by
  rw [execInterruptDelayExpiry, occurs_of_true (by simp [hfirst, hitime, hlate])]

/-- INTERRUPT_DELAY_EXPIRY of the Event Tray's ring. -/
theorem execInterruptDelayExpiry_of_tray (hen : s.events.en = true) (hfirst : s.events.firstUnsignalled = some t)
    (hitime : etItime s.events ≠ 0) (hlate : t + etItime s.events * 1000 ≤ s.now) :
    execInterruptDelayExpiry .eventTray s = .next (raiseMsix (etVector s.events)
      (s.onEvents (fun e => { e with unsignalled := 0, firstUnsignalled := none }))) := by
  rw [execInterruptDelayExpiry, occurs_of_true (by simp [hen, hfirst, hitime, hlate])]

end

/-- Settles O6: each clause is the law of its command. -/
theorem ringTimersAnswer : Obligations.RingTimersAnswer := by
  refine ⟨?stall, ?completion, ?tray⟩
  case stall =>
    intro s q t hfull hlate hposted
    exact execCompletionRingStall_of_late hfull hlate hposted
  case completion =>
    intro s q t hfirst hitime hlate
    exact execInterruptDelayExpiry_of_completion hfirst hitime hlate
  case tray =>
    intro s t hen hfirst hitime hlate
    exact execInterruptDelayExpiry_of_tray hen hfirst hitime hlate

end Sys2Proof.Machine
end

section
/-! SUPPORT and PROOFS. The registers that the host reads and writes (R348 to R350, R445, R446, R478): the frame of its
writes, the near-tier window, and what each register holds. -/

namespace Sys2Proof.Machine

/-! ### The frame of the register writes -/

/-- The state apart from the host interface, the Event Tray and what the Warden does not store: what no register write
changes. -/
def State.besidesRegisters (s : State) : State :=
  { s with host := HostIf.reset, events := Events.reset, warden := { Warden.reset with stored := s.warden.stored } }

/-- States that agree besides the registers differ in the three parts alone, and store the same. -/
theorem eq_of_besidesRegisters_eq {s t : State} (h : t.besidesRegisters = s.besidesRegisters) :
    t = { s with host := t.host, events := t.events, warden := t.warden } ∧ t.warden.stored = s.warden.stored :=
  ⟨congrArg (fun u : State => { u with host := t.host, events := t.events, warden := t.warden }) h,
    (congrArg (fun u : State => u.warden.stored) h :)⟩

/-- A command leaves unchanged what its effect does. -/
theorem occurs_unchanged {α : Type} {c : Bool} {f : State → State} {s t : State} (p : State → α)
    (hf : ∀ u, p (f u) = p u) (h : occurs c f s = .next t) : p t = p s := by
  obtain ⟨-, rfl⟩ | ⟨-, rfl⟩ := occurs_next c f s t h
  · exact hf s
  · rfl

section
variable (s : State)

@[simp] theorem besidesRegisters_onHost (f : HostIf → HostIf) :
    (s.onHost f).besidesRegisters = s.besidesRegisters := rfl

@[simp] theorem besidesRegisters_onQueue (q : Nat) (f : Queue → Queue) :
    (s.onQueue q f).besidesRegisters = s.besidesRegisters := rfl

@[simp] theorem besidesRegisters_onEvents (f : Events → Events) :
    (s.onEvents f).besidesRegisters = s.besidesRegisters := rfl

/-- A change of the Warden that leaves what it stores. -/
theorem besidesRegisters_onWarden {f : Warden → Warden} (hf : (f s.warden).stored = s.warden.stored) :
    (s.onWarden f).besidesRegisters = s.besidesRegisters := by
  simp only [State.besidesRegisters, State.onWarden, hf]

@[simp] theorem besidesRegisters_raiseMsix (v : Nat) : (raiseMsix v s).besidesRegisters = s.besidesRegisters := rfl

@[simp] theorem besidesRegisters_flushMsix : (flushMsix s).besidesRegisters = s.besidesRegisters :=
  forEach_unchanged State.besidesRegisters _ (fun v u => by split_ifs <;> rfl) _ s

@[simp] theorem besidesRegisters_post (det unit code : Nat) (detail : List Byte) :
    (post det unit code detail s).besidesRegisters = s.besidesRegisters := by
  unfold post sendRec
  split_ifs <;> rfl

@[simp] theorem besidesRegisters_cqWrite (q : Nat) (e : List Byte) :
    (cqWrite q e s).besidesRegisters = s.besidesRegisters := by
  unfold cqWrite
  dsimp only
  split
  · rw [besidesRegisters_raiseMsix, besidesRegisters_onQueue, besidesRegisters_onHost]
  · rw [besidesRegisters_onQueue, besidesRegisters_onHost]

end

/-- Held entries go to the ring of their queue. -/
@[simp] theorem besidesRegisters_drainHeld (n q : Nat) (s : State) :
    (drainHeld n q s).besidesRegisters = s.besidesRegisters := by
  induction n generalizing s with
  | zero => rfl
  | succ n ih =>
    unfold drainHeld
    split
    · rfl
    · split_ifs
      · rfl
      · rw [ih, besidesRegisters_cqWrite, besidesRegisters_onQueue]

section
variable {s t : State}

theorem execSubmissionDoorbell_frame {q tail : Nat} (h : execSubmissionDoorbell q tail s = .next t) :
    t.besidesRegisters = s.besidesRegisters :=
  occurs_unchanged _ (fun u => by split_ifs <;> rfl) h

theorem execCqHeadWrite_frame {q index : Nat} (h : execCqHeadWrite q index s = .next t) :
    t.besidesRegisters = s.besidesRegisters :=
  occurs_unchanged _ (fun u => (besidesRegisters_drainHeld _ q _).trans (besidesRegisters_onQueue u q _)) h

theorem execQcfgWrite_frame {q : Nat} {v : Word} (h : execQcfgWrite q v s = .next t) :
    t.besidesRegisters = s.besidesRegisters := by
  dsimp only [execQcfgWrite] at h
  exact occurs_unchanged _ (fun u => by split_ifs <;> rfl) h

theorem execBar2BaseWrite_frame {v : Word} (h : execBar2BaseWrite v s = .next t) :
    t.besidesRegisters = s.besidesRegisters :=
  occurs_unchanged _ (fun u => besidesRegisters_onHost u _) h

theorem besidesRegisters_writeBar0 (off : Nat) (bs : List Byte) (s : State) :
    (writeBar0 off bs s).besidesRegisters = s.besidesRegisters := by
  unfold writeBar0
  dsimp only
  split_ifs
  · rfl
  · rfl
  · exact besidesRegisters_flushMsix _
  · rfl
  · rfl

theorem besidesRegisters_writeBar4 (off : Nat) (bs : List Byte) (s : State) :
    (writeBar4 off bs s).besidesRegisters = s.besidesRegisters := by
  unfold writeBar4
  dsimp only
  split_ifs <;> rfl

theorem execGenericRegisterWrite_frame {bar : Bar} {off : Nat} {bs : List Byte}
    (h : execGenericRegisterWrite bar off bs s = .next t) : t.besidesRegisters = s.besidesRegisters := by
  cases bar with
  | bar0 => exact occurs_unchanged _ (besidesRegisters_writeBar0 off bs) h
  | bar4 => exact occurs_unchanged _ (besidesRegisters_writeBar4 off bs) h

theorem execMailboxDoorbell_frame {v : Word} (h : execMailboxDoorbell v s = .next t) :
    t.besidesRegisters = s.besidesRegisters :=
  occurs_unchanged _ (fun u => besidesRegisters_onWarden u rfl) h

theorem execRspHeadWrite_frame {v : Word} (h : execRspHeadWrite v s = .next t) :
    t.besidesRegisters = s.besidesRegisters :=
  occurs_unchanged _ (fun u => besidesRegisters_onWarden u rfl) h

theorem execCompletionRingStall_frame {q : Nat} (h : execCompletionRingStall q s = .next t) :
    t.besidesRegisters = s.besidesRegisters := by
  dsimp only [execCompletionRingStall] at h
  exact occurs_unchanged _ (fun u => (besidesRegisters_post _ _ _ _ _).trans (besidesRegisters_onQueue u q _)) h

theorem execInterruptDelayExpiry_frame {ring : RingId} (h : execInterruptDelayExpiry ring s = .next t) :
    t.besidesRegisters = s.besidesRegisters := by
  cases ring with
  | completion q =>
    dsimp only [execInterruptDelayExpiry] at h
    exact occurs_unchanged _ (fun u => (besidesRegisters_raiseMsix _ _).trans (besidesRegisters_onQueue u q _)) h
  | eventTray =>
    dsimp only [execInterruptDelayExpiry] at h
    exact occurs_unchanged _ (fun u => (besidesRegisters_raiseMsix _ _).trans (besidesRegisters_onEvents u _)) h

end

/-- Settles O52: the frame of each command. -/
theorem registerWritesLeaveTheRest : Obligations.RegisterWritesLeaveTheRest := by
  intro i s t hi h
  apply eq_of_besidesRegisters_eq
  rcases hi with ⟨q, v, rfl⟩ | ⟨q, v, rfl⟩ | ⟨q, v, rfl⟩ | ⟨v, rfl⟩ | ⟨b, a, bs, rfl⟩ | ⟨v, rfl⟩ | ⟨v, rfl⟩ | ⟨q, rfl⟩ |
    ⟨r, rfl⟩
  · exact execSubmissionDoorbell_frame h
  · exact execCqHeadWrite_frame h
  · exact execQcfgWrite_frame h
  · exact execBar2BaseWrite_frame h
  · exact execGenericRegisterWrite_frame h
  · exact execMailboxDoorbell_frame h
  · exact execRspHeadWrite_frame h
  · exact execCompletionRingStall_frame h
  · exact execInterruptDelayExpiry_frame h

/-! ### Writes of a range in pieces -/

/-- Bytes written in two parts, one behind the other. -/
theorem memWrite_append (xs ys : List Byte) (m : Memory) (a : Nat) :
    memWrite m a (xs ++ ys) = memWrite (memWrite m a xs) (a + xs.length) ys := by
  induction xs generalizing m a with
  | nil => rfl
  | cons x xs ih =>
    rw [List.cons_append, memWrite, memWrite, ih, List.length_cons, Nat.add_right_comm a 1, Nat.add_assoc]

/-- A slice in two parts. -/
theorem slice_append_slice (bs : List Byte) {off k n : Nat} (hk : k ≤ n) :
    slice bs off n = slice bs off k ++ slice bs (off + k) (n - k) := by
  obtain ⟨j, rfl⟩ := Nat.exists_eq_add_of_le hk
  rw [slice, slice, slice, List.take_add, List.drop_drop, Nat.add_sub_cancel_left]

theorem length_slice {bs : List Byte} {off n : Nat} (h : off + n ≤ bs.length) : (slice bs off n).length = n := by
  simp only [slice, List.length_take, List.length_drop]
  omega

/-- A list as a slice of itself. -/
theorem slice_zero_length (bs : List Byte) : slice bs 0 bs.length = bs := by
  simp [slice]

/-- The fuel of `piecesOf` reaches the end of its range: no piece is left out. -/
theorem piecesOf_fuel (a n : Nat) : n ≤ (n / 4096 + 2) * 4096 - a % 4096 := by
  omega

/-- Pieces of a range of the near tier, written one after another, write the whole range. -/
theorem foldl_pieces_near (bs : List Byte) (base fuel : Nat) {a n : Nat} {s : State} (hfuel : n ≤ fuel * 4096 - a % 4096)
    (hbase : base ≤ a) (hend : a - base + n ≤ bs.length) :
    ((pieces fuel a n).foldl (fun s q => locWrite (.near q.1) (slice bs (q.1 - base) q.2) s) s).near =
      memWrite s.near a (slice bs (a - base) n) := by
  induction fuel generalizing a n s with
  | zero =>
    obtain rfl : n = 0 := by omega
    simp [pieces, slice, memWrite]
  | succ fuel ih =>
    unfold pieces
    split_ifs with hn
    · simp [hn, slice, memWrite]
    · dsimp only
      generalize hk : min n (4096 - a % 4096) = k
      have hsub : a + k - base = a - base + k := by omega
      rw [List.foldl_cons, ih (by omega) (by omega) (by omega), locWrite_near_near, hsub,
        slice_append_slice bs (show k ≤ n by omega), memWrite_append, length_slice (by omega)]

/-! ### The near-tier window (R350) -/

section
variable {s : State}

/-- BAR2_BASE_WRITE within host space moves the window to a 1 GiB boundary. -/
theorem execBar2BaseWrite_of_inside {v : Word} (haccess : hostAccess s = true)
    (hinside : v.toNat / 2 ^ 30 * 2 ^ 30 + bar2Bytes ≤ hostSpace s) : execBar2BaseWrite v s =
      .next (s.onHost (fun h => { h with bar2Base := BitVec.ofNat 64 (v.toNat / 2 ^ 30 * 2 ^ 30) })) :=
  occurs_of_true (by rw [haccess, decide_eq_true hinside]; rfl) _ s

/-- BAR2_BASE_WRITE beyond host space is ignored. -/
theorem execBar2BaseWrite_of_beyond {v : Word} (hbeyond : hostSpace s < v.toNat / 2 ^ 30 * 2 ^ 30 + bar2Bytes) :
    execBar2BaseWrite v s = .next s := by
  have hout : decide (v.toNat / 2 ^ 30 * 2 ^ 30 + bar2Bytes ≤ hostSpace s) = false := by simpa using hbeyond
  simp only [execBar2BaseWrite, hout, Bool.and_false, occurs_false]

/-- An access within host space is whole. -/
theorem inside_eq {a n lim : Nat} (h : a + n ≤ lim) : min n (lim - a) = n := by
  omega

/-- A read of the window within host space returns the bytes there, and EP where one is poisoned. -/
theorem execBar2Access_read_of_inside {off n : Nat} (haccess : hostAccess s = true) (hwindow : off + n ≤ bar2Bytes)
    (hinside : s.host.bar2Base.toNat + off + n ≤ hostSpace s) : execBar2Access off (.read n) s =
      .next (s.onHost (fun h => { h with readData := memRead s.near (s.host.bar2Base.toNat + off) n,
                                         readEp := poisoned s (.near (s.host.bar2Base.toNat + off)) n })) := by
  rw [execBar2Access, occurs_of_true (by simp [haccess, hwindow])]
  simp only [inside_eq hinside, Nat.sub_self, List.replicate_zero, List.append_nil, lt_irrefl, if_false]

/-- A write of the window within host space writes its bytes to the near tier. -/
theorem execBar2Access_write_of_inside {off : Nat} {bs : List Byte} (haccess : hostAccess s = true)
    (hwindow : off + bs.length ≤ bar2Bytes) (hinside : s.host.bar2Base.toNat + off + bs.length ≤ hostSpace s) :
    ∃ t, execBar2Access off (.write bs) s = .next t ∧ t.near = memWrite s.near (s.host.bar2Base.toNat + off) bs := by
  rw [execBar2Access, occurs_of_true (by simp [haccess, hwindow])]
  refine ⟨_, rfl, ?_⟩
  simp only [inside_eq hinside, lt_irrefl, if_false]
  rw [piecesOf, foldl_pieces_near bs _ _ (piecesOf_fuel _ _) le_rfl (by omega), Nat.sub_self, slice_zero_length]

/-! ### Registers with and without a command of their own (R348, R445, R446, R478) -/

/-- A register of which all eight bytes are written holds the number written. -/
theorem spliceReg_leBytes (old v : Word) {off : Nat} (hoff : off % 8 = 0) :
    spliceReg old off (leBytes 8 v.toNat) = v := by
  have hall : splice (leBytes 8 old.toNat) 0 (leBytes 8 v.toNat) = leBytes 8 v.toNat := by simp [splice]
  have hread : ofLe (leBytes 8 v.toNat) = v.toNat := (ofLe_leBytes 8 _).trans (Nat.mod_eq_of_lt v.isLt)
  rw [spliceReg, hoff, List.take_of_length_le (by rw [length_leBytes]), hall, hread, BitVec.ofNat_toNat,
    BitVec.setWidth_eq]

/-- ET_BASE is written while the ring is not enabled. -/
theorem writeBar0_etBase (v : Word) (hoff : s.events.en = false) :
    writeBar0 0x2000 (leBytes 8 v.toNat) s = s.onEvents (fun e => { e with base := v }) := by
  simp [writeBar0, hoff, spliceReg_leBytes]

/-- The rings of the queues, and all that BAR0 holds up to them, are stored as written. -/
theorem writeBar0_rings {off : Nat} {bs : List Byte} (hlow : 0x100000 ≤ off) (hhigh : off + bs.length ≤ 0x900000) :
    writeBar0 off bs s = s.onHost (fun h => { h with bar0 := memWrite h.bar0 off bs }) := by
  unfold writeBar0
  dsimp only
  rw [if_neg (by omega), if_neg (by omega), if_pos ⟨hlow, hhigh⟩]

/-- What lies beyond the rings is reserved: a write there changes nothing, one of no bytes at the boundary included. -/
theorem writeBar0_reserved {off : Nat} (bs : List Byte) (hoff : 0x900000 ≤ off) : writeBar0 off bs s = s := by
  unfold writeBar0
  dsimp only
  rw [if_neg (by omega), if_neg (by omega)]
  split_ifs with hempty
  · obtain rfl : bs = [] := List.length_eq_zero_iff.mp (by omega)
    rfl
  · rfl

/-- GENERIC_REGISTER_WRITE in BAR0 over a link that carries it. -/
theorem execGenericRegisterWrite_bar0 (off : Nat) (bs : List Byte) (haccess : hostAccess s = true) :
    execGenericRegisterWrite .bar0 off bs s = .next (writeBar0 off bs s) :=
  occurs_of_true haccess _ s

/-- GENERIC_REGISTER_WRITE of a reserved range changes nothing, whether or not the link carries it. -/
theorem execGenericRegisterWrite_reserved {off : Nat} (bs : List Byte) (hoff : 0x900000 ≤ off) :
    execGenericRegisterWrite .bar0 off bs s = .next s := by
  simp only [execGenericRegisterWrite, occurs, writeBar0_reserved bs hoff, ite_self]

/-- The lowest six bits of a word. -/
theorem bitsOf_five_zero (n : Nat) : bitsOf n 5 0 = n % 64 := by
  simp [bitsOf]

/-- The Mailbox serves where the link is up, its EN is set, and the device has not failed or the link is qualified. -/
theorem mailboxOn_of_enabled (hlink : s.host.linkUp = true) (hen : s.warden.mbCfg.getLsbD 0 = true)
    (hstate : s.life.state ≠ .failed ∨ s.host.qualified = true) : mailboxOn s = true := by
  simpa [mailboxOn, hlink, hen] using hstate

/-- MAILBOX_DOORBELL of a Mailbox that serves: requests that reach a Warden that restarts are lost (R433). -/
theorem execMailboxDoorbell_of_on (v : Word) (haccess : hostAccess s = true) (hon : mailboxOn s = true) :
    execMailboxDoorbell v s = .next (s.onWarden (fun w => { w with
      reqTail := v.toNat % 64, reqHead := if w.up then w.reqHead else v.toNat % 64 })) := by
  rw [execMailboxDoorbell, occurs_of_true (by rw [haccess, hon]; rfl), bitsOf_five_zero]

theorem execRspHeadWrite_of_access (v : Word) (haccess : hostAccess s = true) :
    execRspHeadWrite v s = .next (s.onWarden (fun w => { w with rspHead := v.toNat % 64 })) := by
  rw [execRspHeadWrite, occurs_of_true haccess, bitsOf_five_zero]

/-- What lies between the host-interface registers and those of the Event Tray is reserved. -/
theorem bar0Reg_of_reserved {off : Nat} (hlow : 0x1000 ≤ off) (hhigh : off < 0x2000) : bar0Reg s off = 0 := by
  rw [bar0Reg, if_neg (by omega), if_pos hhigh]

/-- What lies beyond the rings is reserved. -/
theorem bar0Reg_of_beyond {off : Nat} (hoff : 0x900000 ≤ off) : bar0Reg s off = 0 := by
  unfold bar0Reg
  iterate 10 rw [if_neg (by omega)]

end

/-- Settles O7: each clause is the law of its command or of the register that is read. That a write at 0x100000 to
0x8FFFFF, the completion rings included, is stored is the model's choice (log entry 24). -/
theorem hostWindowAnswers : Obligations.HostWindowAnswers := by
  refine ⟨?base, ?baseBeyond, ?read, ?write, ?etBase, ?ring, ?reserved, ?doorbell, ?doorbellRestarting, ?rspHead,
    ?registers⟩
  case base =>
    intro s v hlink hd0 hinside
    exact execBar2BaseWrite_of_inside (hostAccess_of_d0 hlink hd0) hinside
  case baseBeyond =>
    intro s v hbeyond
    exact execBar2BaseWrite_of_beyond hbeyond
  case read =>
    intro s off n hlink hd0 hwindow hinside
    exact execBar2Access_read_of_inside (hostAccess_of_d0 hlink hd0) hwindow hinside
  case write =>
    intro s off bs hlink hd0 hwf hwindow hinside
    obtain ⟨t, hnext, hnear⟩ := execBar2Access_write_of_inside (hostAccess_of_d0 hlink hd0) hwindow hinside
    refine ⟨t, hnext, ?_, fun a ha => ?_⟩
    · rw [hnear, memRead_memWrite_same _ _ _ hwf]
    · rw [hnear, memGet_memWrite_outside _ _ _ _ hwf ha]
  case etBase =>
    intro s v hlink hd0 hoff
    rw [exec_genericRegisterWrite, execGenericRegisterWrite_bar0 _ _ (hostAccess_of_d0 hlink hd0),
      writeBar0_etBase v hoff]
  case ring =>
    intro s off bs hlink hd0 hlow hhigh
    rw [exec_genericRegisterWrite, execGenericRegisterWrite_bar0 _ _ (hostAccess_of_d0 hlink hd0),
      writeBar0_rings hlow hhigh]
  case reserved =>
    intro s off bs hoff
    exact execGenericRegisterWrite_reserved bs hoff
  case doorbell =>
    intro s v hlink hd0 hen hstate hup
    rw [exec_mailboxDoorbell,
      execMailboxDoorbell_of_on v (hostAccess_of_d0 hlink hd0) (mailboxOn_of_enabled hlink hen hstate)]
    simp only [State.onWarden, hup, if_true]
  case doorbellRestarting =>
    intro s v hlink hd0 hen hstate hdown
    rw [exec_mailboxDoorbell,
      execMailboxDoorbell_of_on v (hostAccess_of_d0 hlink hd0) (mailboxOn_of_enabled hlink hen hstate)]
    simp only [State.onWarden, hdown, Bool.false_eq_true, if_false]
  case rspHead =>
    intro s v hlink hd0
    exact execRspHeadWrite_of_access v (hostAccess_of_d0 hlink hd0)
  case registers =>
    intro s
    exact ⟨rfl, rfl, rfl, rfl, fun off => bar0Reg_of_reserved, fun off => bar0Reg_of_beyond⟩

end Sys2Proof.Machine
end

section
/-! SUPPORT and PROOFS. The queue commands that answer at once (R354, R355, R358 to R360, R363, R364, R366, R424):
admission, the capacity block, snapshots, COPY and FENCE_QUEUE. -/

namespace Sys2Proof.Machine

section
variable {s t : State} {c : HostCmd} {r : Recipe}

/-! ### ADMIT_RECIPE (R363) -/

/-- ADMIT_RECIPE with none that waits: the next entry is decided, or waits. -/
theorem execAdmitRecipe_of_taken (hheld : heldAdmission s = none) (h : Taken s 1 c t) :
    execAdmitRecipe s = .next (if admitWaits t then holdCmd c t else admitImage c t) := by
  simp only [execAdmitRecipe, hheld]
  exact onEntry_of_taken _ h

/-- ADMIT_RECIPE with one that waits: it is decided, and no entry is taken. -/
theorem execAdmitRecipe_of_held (hheld : heldAdmission s = some c) : execAdmitRecipe s = .next (admitImage c s) := by
  simp only [execAdmitRecipe, hheld]

/-- An admission waits for MAINTENANCE or for the Warden (log entry 67). -/
theorem admitWaits_iff : admitWaits t = true ↔ t.life.maintenanceWaiting = true ∨ t.warden.up = false := by
  simp [admitWaits]

/-- Where nothing holds admissions up, the entry is decided. -/
theorem execAdmitRecipe_of_decided (hheld : heldAdmission s = none) (h : Taken s 1 c t)
    (hmaint : t.life.maintenanceWaiting = false) (hup : t.warden.up = true) :
    execAdmitRecipe s = .next (admitImage c t) := by
  rw [execAdmitRecipe_of_taken hheld h, if_neg (by simp [admitWaits_iff, hmaint, hup])]

/-- An image that fails one of the checks 1 to 6 is refused with the code of the first that fails. -/
theorem admitImage_of_bad {code : Nat} (himage : imageCheck t (leAt c.entry 8 8) = .error code) :
    admitImage c t = refuse c code t := by
  simp only [admitImage, himage]

/-- An image that fails a check of the Gate, made after the updates older than it (log entry 40). -/
theorem admitImage_of_refused {code : Nat} (himage : imageCheck t (leAt c.entry 8 8) = .ok r)
    (hgate : gateCheck (applyPending t) r = some code) : admitImage c t = refuse c code (applyPending t) := by
  simp only [admitImage, himage, hgate]

/-- An image that passes every check is installed under the next handle. -/
theorem admitImage_of_good (himage : imageCheck t (leAt c.entry 8 8) = .ok r)
    (hgate : gateCheck (applyPending t) r = none) : admitImage c t = finish c
      { status := 0, recipe := (applyPending t).gate.nextHandle, gen := (applyPending t).gate.gen }
      (installRecipe (applyPending t).gate.nextHandle r (applyPending t)) := by
  simp only [admitImage, himage, hgate]

/-! ### SNAPSHOT_NOW (R358, R364) -/

/-- SNAPSHOT_NOW of a recipe that captures something, with snapshots on. -/
theorem execSnapshotNow_of_recipe (h : Taken s 5 c t) (hserving : t.serving = true)
    (hr : t.recipe? c.recipe = some r) (hretiring : retiring t c.recipe = false)
    (hrind : t.warden.stored.rindEnable = true) (hcapt : r.capt ≠ []) :
    execSnapshotNow s = .next (finish c { status := 0, recipe := c.recipe, step := nextBegun r }
      (t.onRecipe c.recipe (fun r => { r with snapNow := true }))) := by
  rw [execSnapshotNow, onEntry_of_taken _ h, if_neg (not_not_intro hserving)]
  simp only [hr, hretiring, hrind, List.isEmpty_iff, hcapt, Bool.false_eq_true, not_true_eq_false, or_self, if_false]

/-! ### COPY (R358, R359) -/

variable {e : Option Nat}

/-- COPY with a space or a range that it may not have. -/
theorem execCopy_of_refused {code : Nat} (h : Taken s 4 c t) (hrefusal : copyRefusal t c = some code) :
    execCopy e s = .next (refuse c code t) := by
  rw [execCopy, onEntry_of_taken _ h]
  simp only [hrefusal]

/-- COPY that is not refused runs where an engine is free and none waits before it, and else waits. -/
theorem execCopy_of_accepted (h : Taken s 4 c t) (hrefusal : copyRefusal t c = none) :
    execCopy e s = .next (if (copyEngineFree t).isSome && !t.host.cmds.any (fun d => d.opc == 4 && !d.begun)
      then runCopy c e t else holdCmd c t) := by
  rw [execCopy, onEntry_of_taken _ h]
  simp only [hrefusal]

/-- COPY_QUEUED_BEGIN with an engine free: the oldest COPY that waits runs. -/
theorem execCopyQueuedBegin_of_free (hc : s.host.cmds.find? (fun d => d.opc == 4 && !d.begun) = some c)
    (hfree : (copyEngineFree s).isSome = true) : execCopyQueuedBegin e s = .next (runCopy c e (beginCmd c s)) := by
  simp only [execCopyQueuedBegin, hc]
  exact occurs_of_true hfree _ s

/-! ### FENCE_QUEUE (R360) -/

/-- What a fence of mode 1 flushes: the commands of its target queue that wait, then the entries not taken. -/
def fenceFlush (c : HostCmd) (waiting : List HostCmd) (t : State) : State :=
  flushEntries ((forEach waiting flushCmd t).queue (leAt c.entry 8 1)).size (leAt c.entry 8 1)
    (forEach waiting flushCmd t)

/-- FENCE_QUEUE of mode 0 flushes nothing. -/
theorem execFenceQueue_of_wait (h : Taken s 8 c t) (hmode : leAt c.entry 9 1 = 0) :
    execFenceQueue s = .next (fencesCheck t.host.cmds.length t) := by
  rw [execFenceQueue, onEntry_of_taken _ h]
  simp only [hmode, zero_ne_one, if_false]

/-- FENCE_QUEUE of mode 1 flushes first. -/
theorem execFenceQueue_of_flush {waiting : List HostCmd} (h : Taken s 8 c t) (hmode : leAt c.entry 9 1 = 1)
    (hwaiting : t.host.cmds.filter (fun d => d.q == leAt c.entry 8 1 && !d.begun && leAt c.entry 8 1 != c.q) = waiting) :
    execFenceQueue s =
      .next (fencesCheck (fenceFlush c waiting t).host.cmds.length (fenceFlush c waiting t)) := by
  rw [execFenceQueue, onEntry_of_taken _ h]
  simp only [hmode, if_true, hwaiting, fenceFlush]

/-- A queue that holds no entry has none to flush. -/
theorem flushEntries_of_noEntry (n : Nat) {q : Nat} (hnone : hasEntry (s.queue q) = false) :
    flushEntries n q s = s := by
  cases n with
  | zero => rfl
  | succ n => rw [flushEntries, if_neg (by simp [hnone])]

end

/-- Settles O10: each entry is taken, and its command answers, is refused or waits. That pending updates are applied
before the Gate's check (log entry 40), that an admission waits taken (log entries 31 and 67), and that COPY moves all
its bytes at once (log entry 48), are the model's choices. -/
theorem queueCommandsAnswer : Obligations.QueueCommandsAnswer := by
  refine ⟨?invalid, ?admitBad, ?admitGood, ?admitRefused, ?admitWaits, ?admitHeld, ?capacity, ?snapshot, ?copyRefused,
    ?copyRuns, ?copyWaits, ?copyQueued, ?fenceWaits, ?fenceEntries, ?fenceWaiting⟩
  case invalid =>
    intro s c t h
    rw [exec_invalidSubmissionEntry, execInvalidSubmissionEntry, onEntry_of_taken _ h]
  case admitBad =>
    intro s c t code hheld h hmaint hup himage
    rw [exec_admitRecipe, execAdmitRecipe_of_decided hheld h hmaint hup, admitImage_of_bad himage, refuse]
  case admitGood =>
    intro s c t r hheld h hmaint hup himage hgate
    rw [exec_admitRecipe, execAdmitRecipe_of_decided hheld h hmaint hup, admitImage_of_good himage hgate]
  case admitRefused =>
    intro s c t r code hheld h hmaint hup himage hgate
    rw [exec_admitRecipe, execAdmitRecipe_of_decided hheld h hmaint hup, admitImage_of_refused himage hgate, refuse]
  case admitWaits =>
    intro s c t hheld h hwaits
    rw [exec_admitRecipe, execAdmitRecipe_of_taken hheld h, if_pos (admitWaits_iff.mpr hwaits), holdCmd]
  case admitHeld =>
    intro s c hheld
    exact execAdmitRecipe_of_held hheld
  case capacity =>
    intro s c t h
    rw [exec_queryCapacity, execQueryCapacity, onEntry_of_taken _ h]
  case snapshot =>
    intro s c t r h hserving hr hretiring hrind hcapt
    exact execSnapshotNow_of_recipe h hserving hr hretiring hrind hcapt
  case copyRefused =>
    intro s c t e code h hrefusal
    exact execCopy_of_refused h hrefusal
  case copyRuns =>
    intro s c t e h hrefusal hfree hnone
    rw [exec_copy, execCopy_of_accepted h hrefusal, if_pos (by rw [hfree, hnone]; rfl)]
  case copyWaits =>
    intro s c t e h hrefusal hbusy
    rw [exec_copy, execCopy_of_accepted h hrefusal, if_neg (by simp [hbusy]), holdCmd]
  case copyQueued =>
    intro s c e hc hfree
    exact execCopyQueuedBegin_of_free hc hfree
  case fenceWaits =>
    intro s c t h hmode
    exact execFenceQueue_of_wait h hmode
  case fenceEntries =>
    intro s c t u h hmode hwaiting hu
    subst hu
    exact execFenceQueue_of_flush h hmode hwaiting
  case fenceWaiting =>
    intro s c d t u h hmode hwaiting hnone hu
    subst hu
    have hflush : fenceFlush c [d] t = finishOne d { status := 4, recipe := d.recipe } t :=
      flushEntries_of_noEntry _ hnone
    rw [exec_fenceQueue, execFenceQueue_of_flush h hmode hwaiting, hflush]

end Sys2Proof.Machine
end

section
/-! SUPPORT and PROOFS. The host link and its function (R346, R349, R352, R367, R368, R420, R478, R515): training,
errors, the reset of the function, and the registers after reset. -/

namespace Sys2Proof.Machine

section
variable {s : State}

/-! ### Training and errors (R346, R368, R420) -/

/-- HOST_LINK_TRAINING of a device that has not failed. -/
theorem execHostLinkTraining_of_notFailed (w r : Nat) (q : Bool) (hdown : s.host.linkUp = false)
    (hon : pcieOn s = true) (hstate : s.life.state ≠ .failed) :
    execHostLinkTraining w r q s = .next (degrade (linkTrained w r q s)) := by
  rw [execHostLinkTraining, occurs_of_true (by rw [hdown, hon]; rfl), if_neg (fun hfailed => hstate hfailed.1)]

/-- HOST_LINK_TRAINING that qualifies the link of a device that has failed: Stage 8 runs again. -/
theorem execHostLinkTraining_of_failed (w r : Nat) (hdown : s.host.linkUp = false) (hon : pcieOn s = true)
    (hstate : s.life.state = .failed) : execHostLinkTraining w r true s =
      .next ((linkTrained w r true s).onLife (fun l => { l with stage := some 8, stageStart := s.now })) := by
  rw [execHostLinkTraining, occurs_of_true (by rw [hdown, hon]; rfl), if_pos ⟨hstate, rfl⟩]

/-- HOST_LINK_ERROR of a trained link: a correctable error is counted and judged by the hour, another is posted. -/
theorem execHostLinkError_of_up (correctable : Bool) (hup : s.host.linkUp = true) :
    execHostLinkError correctable s = .next (if correctable then
      postAbove false 1000 (3600 * 10 ^ 9) 1 0x423 hostUnit 0 []
        (s.onHost (fun h => { h with corrErr := satAdd 32 h.corrErr 1 }))
      else post 0x424 hostUnit 0 [] (s.onHost (fun h => { h with uncorrErr := satAdd 32 h.uncorrErr 1 }))) :=
  occurs_of_true hup _ s

/-! ### The reset of the function (R367, R515) -/

/-- HOST_FUNCTION_RESET by a function level reset keeps the link. -/
theorem execHostFunctionReset_flr (hup : s.host.linkUp = true) : execHostFunctionReset .flr s = .next (hostReset s) :=
  occurs_of_true hup _ s

/-- HOST_FUNCTION_RESET by any other cause drops the link. -/
theorem execHostFunctionReset_of_ne_flr {c : HostResetCause} (hup : s.host.linkUp = true) (hc : c ≠ .flr) :
    execHostFunctionReset c s = .next (dropLink s) := by
  rw [execHostFunctionReset, occurs_of_true hup]
  cases c with
  | flr => exact absurd rfl hc
  | _ => rfl

/-- Posting a detector loses no record. -/
@[simp] theorem post_events_lost (det unit code : Nat) (detail : List Byte) (s : State) :
    (post det unit code detail s).events.lost = s.events.lost := by
  unfold post sendRec
  split_ifs <;> rfl

@[simp] theorem resetFunction_life (s : State) : (resetFunction s).life = s.life := rfl

@[simp] theorem resetFunction_near (s : State) : (resetFunction s).near = s.near := rfl

@[simp] theorem resetFunction_rind (s : State) : (resetFunction s).rind = s.rind := rfl

@[simp] theorem resetFunction_lost (s : State) : (resetFunction s).events.lost = s.events.lost := rfl

/-- The reset of the function of a device that runs no recipe is complete at once. -/
theorem hostReset_of_noRecipes (hnone : s.recipes = []) : hostReset s =
    (resetFunction (post 0x422 hostUnit 0 [] s)).onHost (fun h => { h with
      resetting := false, rdy := s.life.reached }) := by
  have hrecipes : (resetFunction (post 0x422 hostUnit 0 [] s)).recipes = [] := by
    rw [resetFunction_recipes, post_recipes, hnone]
  have hlife : (resetFunction (post 0x422 hostUnit 0 [] s)).life = s.life := by
    rw [resetFunction_life, post_life]
  rw [hostReset]
  simp only [hrecipes, List.map_nil, forEach, List.foldl_nil, hostResetDone, List.isEmpty_nil, Bool.and_true, hlife]
  exact if_pos rfl

end

/-- What the reset of a function leaves where no recipe is left to end: its queues, commands and registers cleared, and
the settings, the near tier and the rind as they were (R349, R367). -/
def FunctionCleared (s t : State) : Prop :=
  t.host.queues = List.replicate 16 Queue.reset ∧ t.host.cmds = [] ∧ t.host.bar2Base = 0 ∧ t.host.droppedDb = 0 ∧
    t.events.en = false ∧ t.events.lost = s.events.lost ∧ t.near = s.near ∧ t.rind = s.rind ∧
    t.warden.stored = s.warden.stored ∧ t.host.hostPower = .d0 ∧ t.host.rdy = s.life.reached

section
variable {s : State}

theorem hostReset_functionCleared (hnone : s.recipes = []) : FunctionCleared s (hostReset s) := by
  have hstored := hostReset_stored_of_noRecipes hnone
  rw [hostReset_of_noRecipes hnone] at hstored ⊢
  refine ⟨rfl, rfl, rfl, rfl, rfl, ?lost, ?near, ?rind, hstored, rfl, rfl⟩
  case lost => rw [State.onHost_events, resetFunction_lost, post_events_lost]
  case near => rw [State.onHost_near, resetFunction_near, post_near]
  case rind => rw [State.onHost_rind, resetFunction_rind, post_rind]

/-- A link that drops takes its function with it. -/
theorem dropLink_functionCleared (hup : s.host.linkUp = true) (hnone : s.recipes = []) :
    FunctionCleared s (dropLink s) := by
  rw [dropLink, if_pos hup]
  exact hostReset_functionCleared (s := s.onHost (fun h => { h with linkUp := false, qualified := false })) hnone

end

/-- Settles O56: the reset of the function, by a function level reset or with the link. That RDY follows the states
reached since the device left OFF is the model's reading (log entry 84), and that the function is in D0 is presumed (log
entry 78). -/
theorem hostFunctionResetClears : Obligations.HostFunctionResetClears := by
  intro s c hup hnone
  by_cases hc : c = .flr
  · subst hc
    exact ⟨_, execHostFunctionReset_flr hup, hostReset_functionCleared hnone⟩
  · exact ⟨_, execHostFunctionReset_of_ne_flr hup hc, dropLink_functionCleared hup hnone⟩

/-- Settles O38: each clause is the law of its command. That a function level reset keeps the link and any other drops it
is the model's choice (log entry 33). -/
theorem hostLinkAnswers : Obligations.HostLinkAnswers := by
  refine ⟨?training, ?trainingFailed, ?flr, ?drop, ?uncorrectable, ?correctable⟩
  case training =>
    intro s w r q hdown hon hstate
    exact execHostLinkTraining_of_notFailed w r q hdown hon (by rw [hstate]; decide)
  case trainingFailed =>
    intro s w r hdown hon _ hstate
    exact execHostLinkTraining_of_failed w r hdown hon hstate
  case flr =>
    intro s hup
    exact execHostFunctionReset_flr hup
  case drop =>
    intro s c hup hc
    exact execHostFunctionReset_of_ne_flr hup hc
  case uncorrectable =>
    intro s hup
    exact execHostLinkError_of_up false hup
  case correctable =>
    intro s hup
    exact execHostLinkError_of_up true hup

/-! ### After reset (R349, R352, R478) -/

/-- Every queue of the state after reset is at its reset value, within the sixteen and beyond them. -/
theorem queue_reset (q : Nat) : State.reset.queue q = Queue.reset := by
  have hqueues : State.reset.host.queues = List.replicate 16 Queue.reset := rfl
  rw [State.queue, nth, hqueues, List.getElem?_replicate]
  split_ifs <;> rfl

/-- Settles O59: the reset values of the function, of each queue and of the Event Tray. -/
theorem hostRegistersAfterReset : Obligations.HostRegistersAfterReset := by
  refine ⟨rfl, rfl, rfl, rfl, rfl, fun q _ => ?queues, rfl, rfl, rfl, rfl, rfl, rfl, rfl, rfl⟩
  case queues =>
    rw [queue_reset]
    decide

end Sys2Proof.Machine
end

section
/-! SUPPORT and PROOFS. The factory data (R457), and the Event Tray with its detectors (R476 to R482, R485, R486): the
collector and its ring, the registers of the tray, injection, and the severities of the catalogue. -/

namespace Sys2Proof.Machine

/-! ### The factory data (R457) -/

/-- Settles O4: the factory data is part of what every step keeps fixed. -/
theorem stepKeepsFactoryData : Obligations.StepKeepsFactoryData := by
  intro s t hs hstep
  obtain ⟨cs, n, hkept⟩ := step_kept hs
  exact congrArg Fixed.factory (hkept.kept_of_next hstep).fixed

/-! ### Event records (R476) -/

/-- A padded list has the length it is padded to. -/
@[simp] theorem length_padTo (n : Nat) (l : List Byte) : (padTo n l).length = n := by
  simp only [padTo, List.length_append, List.length_take, List.length_replicate]
  omega

@[simp] theorem length_recordBytes (r : EventRec) : (recordBytes r).length = 32 := by
  simp only [recordBytes, List.length_append, length_leBytes, length_padTo]

/-! ### The collector (R480) -/

section
variable (s : State) (r : EventRec)

/-- The near tier, the records on their way, ET_TAIL, ET_LOST and FULL: what interrupts and the Warden's copy leave alone. -/
def State.ring (s : State) : Memory × List EventRec × Nat × Nat × Bool :=
  (s.near, s.events.transit, s.events.tail, s.events.lost, s.events.full)

@[simp] theorem locWrite_near_events (a : Nat) (bs : List Byte) : (locWrite (.near a) bs s).events = s.events := rfl

@[simp] theorem raiseMsix_ring (v : Nat) : (raiseMsix v s).ring = s.ring := rfl

/-- A signal counts the records and raises the interrupt. -/
@[simp] theorem etSignal_ring : (etSignal s).ring = s.ring := by
  simp only [etSignal]
  split
  · rw [raiseMsix_ring]
    rfl
  · rfl

/-- The Warden's log and MODULE_ALERT_N lie beside the ring. -/
theorem ring_logged (l : Events → List EventRec) (b : Events → Bool) :
    (s.onEvents (fun e => { e with log := l e, alertLow := b e })).ring = s.ring := rfl

@[simp] theorem wardenCopy_ring : (wardenCopy r s).ring = s.ring := by
  unfold wardenCopy
  split
  · exact ring_logged s (fun e => (e.log ++ [r]).drop (e.log.length + 1 - 65536)) _
  · rfl

/-- While the ring is enabled every record at the collector goes to it. -/
theorem collect_ring (hen : s.events.en = true) : (collect r s).ring = (ringWrite r s).ring := by
  rw [collect, if_pos hen, wardenCopy_ring]

variable {s r}

/-- A record that arrives at a ring with room is written at ET_TAIL. -/
theorem collect_ring_of_room (hen : s.events.en = true) (hroom : etIsFull s.events = false) : (collect r s).ring =
    (memWrite s.near (s.events.base.toNat + 32 * s.events.tail) (recordBytes r), s.events.transit,
      (s.events.tail + 1) % etSize s.events, s.events.lost, s.events.full) := by
  rw [collect_ring s r hen, ringWrite, if_neg (by rw [hroom]; exact Bool.false_ne_true), etSignal_ring, State.ring,
    State.onEvents_near, State.onEvents_events, locWrite_near_near, locWrite_near_events]

/-- A record that finds the ring full is counted. -/
theorem collect_ring_of_full (hen : s.events.en = true) (hfull : etIsFull s.events = true) : (collect r s).ring =
    (s.near, s.events.transit, s.events.tail, satAdd 64 s.events.lost 1, true) := by
  rw [collect_ring s r hen, ringWrite, if_pos hfull]
  simp only [countLost, State.ring, State.onEvents_near, State.onEvents_events]

/-- EVENT_COLLECTOR_WRITE of the oldest record on its way: no record of its producer comes before it. -/
theorem execEventCollectorWrite_oldest {rs : List EventRec} (htransit : s.events.transit = r :: rs) :
    execEventCollectorWrite 0 s = .next (collect r (s.onEvents (fun e => { e with transit := rs }))) := by
  simp only [execEventCollectorWrite, htransit, List.getElem?_cons_zero, List.take_zero, List.any_nil, Bool.not_false,
    occurs_true, State.onEvents, List.eraseIdx_cons_zero]

end

/-- Settles O54: the record is written over the 32 bytes at ET_TAIL, or counted. -/
theorem eventsReachTheRing : Obligations.EventsReachTheRing := by
  intro s r rs htransit hen hwf
  refine ⟨_, execEventCollectorWrite_oldest htransit, ?_⟩
  cases hring : etIsFull s.events with
  | false =>
    have hafter := collect_ring_of_room (s := s.onEvents (fun e => { e with transit := rs })) (r := r) hen hring
    simp only [State.ring, Prod.mk.injEq] at hafter
    obtain ⟨hnear, hrest, htail, hlost, -⟩ := hafter
    have hread := memRead_memWrite_same (recordBytes r) s.near (s.events.base.toNat + 32 * s.events.tail) hwf
    rw [length_recordBytes] at hread
    refine ⟨hrest, fun _ => ⟨?written, fun a ha => ?other, htail, hlost⟩, fun h => absurd h Bool.false_ne_true⟩
    case written =>
      rw [hnear]
      exact hread
    case other =>
      rw [hnear]
      exact memGet_memWrite_outside _ _ _ _ hwf (by rwa [length_recordBytes])
  | true =>
    have hafter := collect_ring_of_full (s := s.onEvents (fun e => { e with transit := rs })) (r := r) hen hring
    simp only [State.ring, Prod.mk.injEq] at hafter
    obtain ⟨hnear, hrest, htail, hlost, hflag⟩ := hafter
    exact ⟨hrest, fun h => absurd h.symm Bool.false_ne_true, fun _ => ⟨hnear, htail, hflag, hlost⟩⟩

/-! ### The registers of the tray (R478, R479, R480) -/

section
variable {s : State} {v : Word}

/-- The ring just applied takes the backlog; with none there is nothing to write. -/
theorem deliverBacklog_of_nil (hnone : s.events.backlog = []) : deliverBacklog s = s := by
  have hsame : s.onEvents (fun e => { e with backlog := [] }) = s := by rw [← hnone]; rfl
  rw [deliverBacklog, hnone, hsame]
  rfl

/-- ET_CFG_WRITE that enables a good ring, with nothing in the Warden's backlog. -/
theorem execEtCfgWrite_of_good (haccess : hostAccess s = true) (hoff : s.events.en = false) (hset : v.getLsbD 0 = true)
    (hgood : etEnableOk s v.toNat = true) (hnone : s.events.backlog = []) :
    execEtCfgWrite v s = .next (s.onEvents (fun e => { e with
      cfg := v, en := true, cfgErr := false, tail := 0, head := 0, unsignalled := 0,
      firstUnsignalled := none, backlog := [] })) := by
  rw [execEtCfgWrite, occurs_of_true haccess]
  simp only [hoff, bitOf_toNat_zero, hset, hgood, Bool.false_eq_true, Bool.not_true, if_false, if_true]
  rw [deliverBacklog_of_nil (by exact hnone)]
  simp only [State.onEvents, hnone]

/-- A word whose lowest bit is set, without that bit. -/
theorem ofNat_toNat_sub_one (hset : v.getLsbD 0 = true) : BitVec.ofNat 64 (v.toNat - 1) = v - 1 := by
  have hodd : v.toNat % 2 = 1 := by simpa [BitVec.getLsbD, Nat.testBit_zero] using hset
  bv_omega

/-- ET_CFG_WRITE of a ring that R479 refuses: EN stays clear and CFGERR is set. -/
theorem execEtCfgWrite_of_bad (haccess : hostAccess s = true) (hoff : s.events.en = false) (hset : v.getLsbD 0 = true)
    (hbad : etEnableOk s v.toNat = false) :
    execEtCfgWrite v s = .next (s.onEvents (fun e => { e with cfg := v - 1, cfgErr := true })) := by
  rw [execEtCfgWrite, occurs_of_true haccess]
  simp only [hoff, bitOf_toNat_zero, hset, hbad, Bool.false_eq_true, Bool.not_true, if_false, ofNat_toNat_sub_one hset]

/-- ET_HEAD_WRITE within the records that have been written, on a ring that is not full. -/
theorem execEtHeadWrite_of_written (haccess : hostAccess s = true) (hroom : s.events.full = false)
    (hinside : v.toNat % 2 ^ 20 < etSize s.events)
    (hwritten : (v.toNat % 2 ^ 20 + etSize s.events - s.events.head) % etSize s.events ≤
      (s.events.tail + etSize s.events - s.events.head) % etSize s.events) :
    execEtHeadWrite v s = .next (s.onEvents (fun e => { e with head := v.toNat % 2 ^ 20 })) := by
  have hindex : bitsOf v.toNat 19 0 = v.toNat % 2 ^ 20 := by simp [bitsOf]
  simp only [execEtHeadWrite, hindex]
  rw [occurs_of_true (by rw [haccess, decide_eq_true hinside, decide_eq_true hwritten]; rfl)]
  simp only [hroom, Bool.false_and, Bool.false_eq_true, if_false]

end

/-- Settles O8: the law of each command. -/
theorem eventTrayAnswers : Obligations.EventTrayAnswers := by
  refine ⟨?good, ?bad, ?head, ?collector⟩
  case good =>
    intro s v hlink hd0 hoff hset hgood hnone
    exact execEtCfgWrite_of_good (hostAccess_of_d0 hlink hd0) hoff hset hgood hnone
  case bad =>
    intro s v hlink hd0 hoff hset hbad
    exact execEtCfgWrite_of_bad (hostAccess_of_d0 hlink hd0) hoff hset hbad
  case head =>
    intro s v hlink hd0 hroom hinside hwritten
    exact execEtHeadWrite_of_written (hostAccess_of_d0 hlink hd0) hroom hinside hwritten
  case collector =>
    intro s r rs htransit
    exact execEventCollectorWrite_oldest htransit

/-! ### Injection (R485, R486) -/

section
variable {s : State} {d : Nat} {p : InjPoint}

/-- The only point is the point of its detector. -/
theorem pointOf_of_points (hpoints : s.events.points = [(d, p)]) : pointOf s d = some p := by
  simp [pointOf, hpoints]

/-- INJECTION_TICK under the permit, of a detector whose injection halts nothing: the tick of its point. -/
theorem execInjectionTick_of_permit (hpoint : pointOf s d = some p) (hup : s.warden.up = true)
    (hpermit : s.events.permit = true) (hflow : d ≠ 0x100) (htrip : d ≠ 0x101) :
    execInjectionTick d s = .next (injectionTick d p s) := by
  simp only [execInjectionTick, hpoint]
  rw [occurs_of_true (by rw [hup, hpermit]; rfl)]
  simp [hflow, htrip]

/-- INJECTION_TICK without the permit. -/
theorem execInjectionTick_of_noPermit (hpermit : s.events.permit = false) : execInjectionTick d s = .next s := by
  unfold execInjectionTick
  cases pointOf s d with
  | none => rfl
  | some p => simp only [hpermit, Bool.and_false, occurs_false]

/-- The tick of the only point, in mode 1: it fires and is off. -/
theorem injectionTick_once (hpoints : s.events.points = [(d, p)]) (hmode : p.mode = 1) :
    injectionTick d p s = injectRecord d (p.seq + 1) (s.onEvents (fun e => { e with points := [] })) := by
  simp [injectionTick, pointFires, hmode, hpoints, unput]

/-- The tick of the only point, in mode 3: it fires and stays. -/
theorem injectionTick_always (hpoints : s.events.points = [(d, p)]) (hmode : p.mode = 3) :
    injectionTick d p s = injectRecord d (p.seq + 1) (s.onEvents (fun e => { e with
      points := [(d, { p with ticks := p.ticks + 1, seq := p.seq + 1 })] })) := by
  simp [injectionTick, pointFires, hmode, hpoints, put]

end

/-- Settles O42: a tick comes about with the permit alone, and the point's mode says what it does. -/
theorem injectionTicksAnswer : Obligations.InjectionTicksAnswer := by
  refine ⟨?once, ?always, ?noPermit⟩
  case once =>
    intro s d p hpoints hup hpermit hmode hflow htrip
    rw [exec_injectionTick, execInjectionTick_of_permit (pointOf_of_points hpoints) hup hpermit hflow htrip,
      injectionTick_once hpoints hmode]
  case always =>
    intro s d p hpoints hup hpermit hmode hflow htrip
    rw [exec_injectionTick, execInjectionTick_of_permit (pointOf_of_points hpoints) hup hpermit hflow htrip,
      injectionTick_always hpoints hmode]
  case noPermit =>
    intro s d hpermit
    exact execInjectionTick_of_noPermit hpermit

/-! ### Severities (R482) -/

section
variable {d : Nat}

/-- The two ranges of severity 3 hold no detector of severity 5 or 4. -/
theorem severity_eq_three_of_range (h : (0x7E0 ≤ d ∧ d ≤ 0x7E9) ∨ (0x800 ≤ d ∧ d ≤ 0x820)) :
    severity d = 3 := by
  unfold severity
  rw [if_neg (by simp only [List.mem_cons, List.not_mem_nil, or_false]; omega),
    if_neg (by simp only [List.mem_cons, List.not_mem_nil, or_false]; omega), if_pos (.inr h)]

/-- The range of severity 2 holds no detector of a higher severity. -/
theorem severity_eq_two_of_range (hlow : 0x600 ≤ d) (hhigh : d ≤ 0x607) : severity d = 2 := by
  unfold severity
  rw [if_neg (by simp only [List.mem_cons, List.not_mem_nil, or_false]; omega),
    if_neg (by simp only [List.mem_cons, List.not_mem_nil, or_false]; omega),
    if_neg (by simp only [List.mem_cons, List.not_mem_nil, or_false]; omega), if_pos (.inr ⟨hlow, hhigh⟩)]

/-- After reset the configuration of a detector is its default. -/
theorem detConfig_reset (d : Nat) : detConfig State.reset.events d = if severity d = 5 then 3 else 1 := rfl

theorem postsOf_reset (d : Nat) : postsOf State.reset.events d = true := by
  rw [postsOf, detConfig_reset]
  split_ifs <;> rfl

theorem alertsOf_reset_iff (d : Nat) : alertsOf State.reset.events d = true ↔ severity d = 5 := by
  rw [alertsOf, detConfig_reset]
  split_ifs with hsev
  · exact iff_of_true rfl hsev
  · exact iff_of_false Bool.false_ne_true hsev

end

/-- Settles O47: the lists of the catalogue are finite, and the ranges lie outside the lists of higher severity. -/
theorem severitiesAreFixed : Obligations.SeveritiesAreFixed := by
  refine ⟨?five, ?four, ?three, ?threeLow, ?threeHigh, ?two, ?twoRange, ?one, ?defaults⟩
  case five => decide
  case four => decide
  case three => decide
  case threeLow =>
    intro d hlow hhigh
    exact severity_eq_three_of_range (.inl ⟨hlow, hhigh⟩)
  case threeHigh =>
    intro d hlow hhigh
    exact severity_eq_three_of_range (.inr ⟨hlow, hhigh⟩)
  case two => decide
  case twoRange =>
    intro d hlow hhigh
    exact severity_eq_two_of_range hlow hhigh
  case one => decide
  case defaults =>
    intro d
    exact ⟨postsOf_reset d, alertsOf_reset_iff d⟩

end Sys2Proof.Machine
end

section
/-! SUPPORT and PROOFS. The Object Access Protocol (R436 to R448): the order of the checks before a request's effect, what
reads and subscriptions answer, the frame of what only reads, the transfer of blocks, and the owner lock. -/

namespace Sys2Proof.Machine

/-! ### Every request goes through one service (R441, R442) -/

/-- A command of the protocol is its frame, served with its act after the checks that all requests share. -/
theorem exec_of_oapOf {i : Instr} {src : OapSrc} {row : Row} (h : oapOf i = some (src, row)) :
    ∃ act, ∀ s, exec i s = serve src row act s := by
  unfold oapOf at h
  split at h
  case h_41 => exact absurd h nofun
  all_goals
    obtain ⟨rfl, rfl⟩ := Prod.mk.inj (Option.some.inj h)
    exact ⟨_, fun _ => rfl⟩

section
variable {s t : State} {src : OapSrc} {row : Row} {r : Req} {act : Act} {p : Peer} {b : List Byte}

/-- A whole frame of the command, at a Warden that answers, is answered. -/
theorem serve_of_frame (hframe : frameOf s src = some (p, b)) (hawake : awake s = true) (hgood : frameBad b = false)
    (hrow : rowOf s (parseFrame p b) = row) (hrom : s.life.romFailed = false) :
    serve src row act s = .next (answerReq src (parseFrame p b) act (takeFrame src s)) := by
  simp only [serve, hframe]
  exact occurs_of_true (by simp [hawake, hgood, hrow, hrom]) _ s

/-- A request that finds 32 waiting. -/
theorem answerReq_of_queueFull (hfull : 32 ≤ waitingAt src) : answerReq src r act t =
    reply r (statusAns 0x0D) (t.onWarden (fun w => { w with queueFull := satAdd 32 w.queueFull 1 })) :=
  if_pos hfull

/-- A request that repeats the operation that runs. -/
theorem answerReq_of_repeat (hroom : waitingAt src < 32) (hrepeat : repeatsRunning t r = true) :
    answerReq src r act t = reply r (busyAns t) t := by
  rw [answerReq, if_neg (Nat.not_le.mpr hroom), if_pos hrepeat, reply]

/-- A request whose response is cached. -/
theorem answerReq_of_cached {c : Cached} (hroom : waitingAt src < 32) (hrepeat : repeatsRunning t r = false)
    (hcache : cachedFor t r = some c) : answerReq src r act t = sendFrame r.peer c.frame t := by
  simp only [answerReq, if_neg (Nat.not_le.mpr hroom), hrepeat, Bool.false_eq_true, if_false, hcache]

/-- A request that fails a check. -/
theorem answerReq_of_refused {a : Ans} (hroom : waitingAt src < 32) (hrepeat : repeatsRunning t r = false)
    (hcache : cachedFor t r = none) (hcheck : precheck t r = .error a) : answerReq src r act t = reply r a t := by
  simp only [answerReq, if_neg (Nat.not_le.mpr hroom), hrepeat, Bool.false_eq_true, if_false, hcache, hcheck, reply]

/-- A command whose request fails a check of R441. -/
theorem serve_of_refused {a : Ans} (h : FrameTaken s src row r t) (hcheck : precheck t r = .error a) :
    serve src row act s = .next (reply r a t) := by
  obtain ⟨p, b, hframe, rfl, rfl, hawake, hgood, hrow, hrom, hroom, hrepeat, hcache⟩ := h
  rw [serve_of_frame hframe hawake hgood hrow hrom, answerReq_of_refused hroom hrepeat hcache hcheck]

end

/-- Settles O12: the rules of the service that come before a request's act, in their order. -/
theorem requestsAreCheckedBeforeTheirEffect : Obligations.RequestsAreCheckedBeforeTheirEffect := by
  intro i src row hi
  obtain ⟨act, hexec⟩ := exec_of_oapOf hi
  refine ⟨?queueFull, ?cached, ?busy, ?refused⟩
  case queueFull =>
    intro s p b hframe hawake hgood hrow hrom hfull
    rw [hexec, serve_of_frame hframe hawake hgood hrow hrom, answerReq_of_queueFull hfull, statusAns]
  case cached =>
    intro s p b c hframe hawake hgood hrow hrom hroom hrepeat hcache
    rw [hexec, serve_of_frame hframe hawake hgood hrow hrom, answerReq_of_cached hroom hrepeat hcache, parseFrame]
  case busy =>
    intro s p b hframe hawake hgood hrow hrom hroom hrepeat
    rw [hexec, serve_of_frame hframe hawake hgood hrow hrom, answerReq_of_repeat hroom hrepeat]
  case refused =>
    intro s r t a htaken hcheck
    rw [hexec, serve_of_refused htaken hcheck]

/-! ### READ, PROBE and EXECUTE (R439, R441, R448, R473, R484) -/

section
variable {s t : State} {src : OapSrc} {r : Req} {f : Info}

/-- READ answers with the object's value. -/
theorem execRead_of_accepted (h : Accepted s src .read r f t) : execRead src s = .next (reply r
    { status := 0, pay := readPayload t f r.obj (beAt r.pay 0 r.pay.length) r.whole } (readDrawn r.obj t)) :=
  serve_of_accepted h rfl

/-- The READ that clears ALERT releases MODULE_ALERT_N too. -/
theorem execAlertClearingRead_of_accepted (h : Accepted s src .alertRead r f t) : execAlertClearingRead src s =
    .next (reply r { status := 0, pay := readPayload t f r.obj (beAt r.pay 0 r.pay.length) r.whole }
      ((readDrawn r.obj t).onEvents (fun e => { e with alertLow := false }))) :=
  serve_of_accepted h rfl

/-- A PROBE of this node is served on either path. -/
theorem execProbe_toOne (src : OapSrc) (s : State) : execProbe src false s =
    serve src .probe (fun _ _ s => (s, some { status := 0, pay := probeBlock s })) s := by
  cases src <;> rfl

theorem execProbe_of_accepted (h : Accepted s src .probe r f t) :
    execProbe src false s = .next (reply r { status := 0, pay := probeBlock t } t) := by
  rw [execProbe_toOne]
  exact serve_of_accepted h rfl

/-- No WRITE is the command EXECUTE. -/
theorem writeRow_ne_execute (s : State) (r : Req) : writeRow s r ≠ .execute := by
  unfold writeRow byValue farRow
  dsimp only
  repeat' split
  all_goals exact nofun

/-- A frame that is the command EXECUTE has its opcode. -/
theorem op_of_rowOf_execute (h : rowOf s r = .execute) : r.op = 3 := by
  unfold rowOf at h
  split at h
  · exact absurd h nofun
  · split at h
    case h_3 hop => exact hop
    case h_2 => exact absurd h (writeRow_ne_execute s r)
    case h_1 => split_ifs at h
    case h_7 => split_ifs at h
    all_goals cases h

/-- EXECUTE of an object that is no command fails the check of its access. -/
theorem precheck_of_execute (hop : r.op = 3) (hver : r.ver = 1) (hflags : bitsOf r.flags 7 3 = 0)
    (hidle : t.warden.run = none) (hobj : objInfo t r.obj = some f) (hacc : f.acc ≠ .cmd) :
    precheck t r = .error (statusAns 4) := by
  have hsupported : unsupported r = false := by simp [unsupported, hop, hver, hflags]
  have haccess : accessBad t f r = true := by simp [accessBad, hop, hacc]
  simp [precheck, hver, hidle, hsupported, hop, hobj, haccess]

theorem execExecute_of_noCommand (h : FrameTaken s src .execute r t) (hver : r.ver = 1)
    (hflags : bitsOf r.flags 7 3 = 0) (hidle : t.warden.run = none) (hobj : objInfo t r.obj = some f)
    (hacc : f.acc ≠ .cmd) : execExecute src s = .next (reply r (statusAns 4) t) := by
  have hop : r.op = 3 := by
    obtain ⟨p, b, -, -, -, -, -, hrow, -⟩ := h
    exact op_of_rowOf_execute hrow
  exact serve_of_refused h (precheck_of_execute hop hver hflags hidle hobj hacc)

/-! ### Subscriptions and discarded frames (R437, R444, R445) -/

/-- The first subscription, as SUBSCRIBE enters it. -/
def firstSub (r : Req) (t : State) : Sub :=
  { peer := r.peer, obj := r.obj, period := beAt r.pay 0 4, lifetime := beAt r.pay 4 4, since := t.now, lastSent := t.now,
    seq := 0, number := t.warden.nextSub, lastValue := [] }

/-- SUBSCRIBE where nobody subscribes: the subscription is entered and its first notification sent at once, before the
response (R444; that order is the model's choice, log entry 23). -/
theorem execSubscribe_of_none (h : Accepted s src .subscribe r f t) (hlife : beAt r.pay 4 4 ≠ 0)
    (hnone : t.warden.subs = []) : execSubscribe src s =
      .next (reply r { status := 0, pay := beBytes 4 t.warden.nextSub } (notify 0 (t.onWarden (fun w => { w with
        subs := [firstSub r t], nextSub := (w.nextSub + 1) % 2 ^ 32 })))) :=
  serve_of_accepted h (by simp [subscribeAct, hnone, hlife, State.onWarden, firstSub])

theorem execNotificationPeriod_of_due {k : Nat} {x : Sub} (hx : s.warden.subs[k]? = some x) (haux : s.power.aux = true)
    (hup : s.warden.up = true) (hperiod : x.period ≠ 0) (hdue : x.lastSent + x.period * 10 ^ 6 ≤ s.now) :
    execNotificationPeriod k s = .next (notify k s) := by
  simp only [execNotificationPeriod, hx]
  exact occurs_of_true
    (by rw [haux, hup, bne_iff_ne.mpr hperiod, decide_eq_true hdue, Bool.and_self, Bool.or_true]; rfl) _ s

theorem execSubscriptionExpiry_of_late {k : Nat} {x : Sub} (hx : s.warden.subs[k]? = some x)
    (hlate : x.since + x.lifetime * 10 ^ 9 ≤ s.now) :
    execSubscriptionExpiry k s = .next (s.onWarden (fun w => { w with subs := w.subs.eraseIdx k })) := by
  simp only [execSubscriptionExpiry, hx]
  exact occurs_of_true (decide_eq_true hlate) _ s

theorem execFrameDiscard_of_bad {p : Peer} {b : List Byte} (hframe : frameOf s src = some (p, b)) (hawake : awake s = true)
    (hbad : frameBad b = true) : execFrameDiscard src s = .next (countDiscard p.mailbox (takeFrame src s)) := by
  simp only [execFrameDiscard, hframe]
  exact occurs_of_true (by rw [hawake, hbad]; rfl) _ s

end

/-- Settles O13: the law of each command. That the first notification goes before the response to SUBSCRIBE is the model's
choice (log entry 23). -/
theorem readsAndSubscriptionsAnswer : Obligations.ReadsAndSubscriptionsAnswer := by
  refine ⟨?read, ?alert, ?probe, ?execute, ?subscribe, ?period, ?expiry, ?discard⟩
  case read =>
    intro s src r f t h
    exact execRead_of_accepted h
  case alert =>
    intro s src r f t h
    exact execAlertClearingRead_of_accepted h
  case probe =>
    intro s src r f t h
    exact execProbe_of_accepted h
  case execute =>
    intro s src r t f h hver hflags hidle hobj hacc
    exact execExecute_of_noCommand h hver hflags hidle hobj hacc
  case subscribe =>
    intro s src r f t h hlife hnone
    exact ⟨_, execSubscribe_of_none h hlife hnone, rfl⟩
  case period =>
    intro s k x hx haux hup hperiod hdue
    exact execNotificationPeriod_of_due hx haux hup hperiod hdue
  case expiry =>
    intro s k x hx hlate
    exact execSubscriptionExpiry_of_late hx hlate
  case discard =>
    intro s src p b hframe hawake hbad
    exact execFrameDiscard_of_bad hframe hawake hbad

end Sys2Proof.Machine
end

section
/-! SUPPORT and PROOFS. What reads, subscriptions and discarded frames leave unchanged (R440, R442, R444, R448), the transfer
of blocks (R443), and the owner lock (R452, R453). -/

namespace Sys2Proof.Machine

/-! ### The frame of what only reads -/

/-- The state apart from the host interface, the Event Tray, what the Warden does not store and the supply of free values:
what no read changes. -/
def State.besidesTables (s : State) : State := { s.besidesRegisters with free := 0 }

/-- States that agree besides the tables differ in the four parts alone, and store the same. -/
theorem eq_of_besidesTables_eq {s t : State} (h : t.besidesTables = s.besidesTables) :
    t = { s with host := t.host, events := t.events, warden := t.warden, free := t.free } ∧
      t.warden.stored = s.warden.stored :=
  ⟨congrArg (fun u : State => { u with host := t.host, events := t.events, warden := t.warden, free := t.free }) h,
    (congrArg (fun u : State => u.warden.stored) h :)⟩

/-- What changes the registers alone changes the tables alone. -/
theorem besidesTables_of_besidesRegisters {s t : State} (h : t.besidesRegisters = s.besidesRegisters) :
    t.besidesTables = s.besidesTables :=
  congrArg (fun u : State => { u with free := 0 }) h

/-! #### Frames and their answers -/

@[simp] theorem besidesTables_onEvents (f : Events → Events) (s : State) :
    (s.onEvents f).besidesTables = s.besidesTables := rfl

/-- A change of the Warden that leaves what it stores. -/
theorem besidesTables_onWarden {f : Warden → Warden} {s : State} (hf : (f s.warden).stored = s.warden.stored) :
    (s.onWarden f).besidesTables = s.besidesTables :=
  besidesTables_of_besidesRegisters (besidesRegisters_onWarden s hf)

@[simp] theorem besidesTables_takeFrame (src : OapSrc) (s : State) :
    (takeFrame src s).besidesTables = s.besidesTables := by
  cases src with
  | mailbox => exact besidesTables_onWarden rfl
  | field _ _ _ _ => rfl

@[simp] theorem besidesTables_sendFrame (p : Peer) (b : List Byte) (s : State) :
    (sendFrame p b s).besidesTables = s.besidesTables := by
  unfold sendFrame
  split_ifs
  · exact besidesTables_of_besidesRegisters ((besidesRegisters_raiseMsix _ _).trans (besidesRegisters_onWarden s rfl))
  · rfl
  · exact besidesTables_onWarden rfl

/-- A response goes to its requester and to the cache. -/
@[simp] theorem besidesTables_respond (p : Peer) (op seq obj : Nat) (a : Ans) (s : State) :
    (respond p op seq obj a s).besidesTables = s.besidesTables := by
  unfold respond
  dsimp only
  split
  · exact (besidesTables_onWarden rfl).trans (besidesTables_sendFrame p _ s)
  · exact besidesTables_sendFrame p _ s

/-- A READ takes from the supply of free values. -/
@[simp] theorem besidesTables_readDrawn (obj : Nat) (s : State) :
    (readDrawn obj s).besidesTables = s.besidesTables := by
  unfold readDrawn
  split_ifs <;> rfl

/-- A request whose act leaves the device leaves it: what comes before and after the act answers, counts and caches. -/
theorem besidesTables_answerReq {act : Act} (hact : ∀ r f u, (act r f u).1.besidesTables = u.besidesTables) (src : OapSrc)
    (r : Req) (s : State) : (answerReq src r act s).besidesTables = s.besidesTables := by
  unfold answerReq
  split
  · exact (besidesTables_respond _ _ _ _ _ _).trans (besidesTables_onWarden rfl)
  split
  · exact besidesTables_respond _ _ _ _ _ _
  split
  · exact besidesTables_sendFrame _ _ _
  split
  · exact besidesTables_respond _ _ _ _ _ _
  dsimp only
  split
  · exact (besidesTables_respond _ _ _ _ _ _).trans (hact _ _ _)
  · exact hact _ _ _

theorem serve_frame {src : OapSrc} {row : Row} {act : Act} {s t : State}
    (hact : ∀ r f u, (act r f u).1.besidesTables = u.besidesTables) (h : serve src row act s = .next t) :
    t.besidesTables = s.besidesTables := by
  unfold serve at h
  split at h
  · obtain rfl := Host.Outcome.next.inj h
    rfl
  · exact occurs_unchanged State.besidesTables
      (fun u => (besidesTables_answerReq hact src _ _).trans (besidesTables_takeFrame src u)) h

/-! #### Notices -/

@[simp] theorem besidesTables_sendNotice (p : Peer) (b : List Byte) (s : State) :
    (sendNotice p b s).besidesTables = s.besidesTables := by
  unfold sendNotice
  split
  · split
    · rfl
    split
    · exact besidesTables_onWarden rfl
    · exact besidesTables_of_besidesRegisters
        ((besidesRegisters_raiseMsix _ _).trans (besidesRegisters_onWarden s rfl))
  · exact besidesTables_onWarden rfl

/-- A notification is sent and marked at its subscription. -/
@[simp] theorem besidesTables_notify (k : Nat) (s : State) : (notify k s).besidesTables = s.besidesTables := by
  unfold notify
  split
  · rfl
  · next x _ =>
    calc _ = (sendNotice x.peer _ (readDrawn x.obj s)).besidesTables := besidesTables_onWarden rfl
      _ = s.besidesTables := (besidesTables_sendNotice _ _ _).trans (besidesTables_readDrawn x.obj s)

/-- SUBSCRIBE changes the list of subscriptions, and notifies the one that starts or is renewed. -/
theorem besidesTables_subscribeAct (r : Req) (f : Info) (s : State) :
    (subscribeAct r f s).1.besidesTables = s.besidesTables := by
  unfold subscribeAct
  dsimp only
  split
  · split_ifs
    · exact besidesTables_onWarden rfl
    · exact (besidesTables_notify _ _).trans (besidesTables_onWarden rfl)
  · split_ifs
    · rfl
    · rfl
    · exact (besidesTables_notify _ _).trans (besidesTables_onWarden rfl)

@[simp] theorem besidesTables_sendRec (r : EventRec) (s : State) : (sendRec r s).besidesTables = s.besidesTables := by
  unfold sendRec
  split_ifs <;> rfl

/-- A discarded frame is counted, and above its limit posted. -/
@[simp] theorem besidesTables_countDiscard (mailbox : Bool) (s : State) :
    (countDiscard mailbox s).besidesTables = s.besidesTables := by
  unfold countDiscard
  extract_lets
  split
  · rw [besidesTables_sendRec]
    exact besidesTables_onWarden rfl
  · exact besidesTables_onWarden rfl

/-! #### The commands -/

section
variable {s t : State}

theorem execRead_frame {src : OapSrc} (h : execRead src s = .next t) : t.besidesTables = s.besidesTables :=
  serve_frame (fun r _ u => besidesTables_readDrawn r.obj u) h

theorem execAlertClearingRead_frame {src : OapSrc} (h : execAlertClearingRead src s = .next t) :
    t.besidesTables = s.besidesTables :=
  serve_frame (fun r _ u => (besidesTables_onEvents _ (readDrawn r.obj u)).trans (besidesTables_readDrawn r.obj u)) h

theorem execProbe_frame {src : OapSrc} {allNodes : Bool} (h : execProbe src allNodes s = .next t) :
    t.besidesTables = s.besidesTables := by
  unfold execProbe at h
  split at h
  · obtain rfl := Host.Outcome.next.inj h
    rfl
  · exact serve_frame (fun _ _ _ => rfl) h

theorem execSubscribe_frame {src : OapSrc} (h : execSubscribe src s = .next t) : t.besidesTables = s.besidesTables :=
  serve_frame besidesTables_subscribeAct h

theorem execNotificationPeriod_frame {k : Nat} (h : execNotificationPeriod k s = .next t) :
    t.besidesTables = s.besidesTables := by
  unfold execNotificationPeriod at h
  split at h
  · obtain rfl := Host.Outcome.next.inj h
    rfl
  · exact occurs_unchanged State.besidesTables (besidesTables_notify k) h

theorem execSubscriptionExpiry_frame {k : Nat} (h : execSubscriptionExpiry k s = .next t) :
    t.besidesTables = s.besidesTables := by
  unfold execSubscriptionExpiry at h
  split at h
  · obtain rfl := Host.Outcome.next.inj h
    rfl
  · exact occurs_unchanged State.besidesTables (fun _ => besidesTables_onWarden rfl) h

theorem execFrameDiscard_frame {src : OapSrc} (h : execFrameDiscard src s = .next t) :
    t.besidesTables = s.besidesTables := by
  unfold execFrameDiscard at h
  split at h
  · obtain rfl := Host.Outcome.next.inj h
    rfl
  · exact occurs_unchanged State.besidesTables
      (fun u => (besidesTables_countDiscard _ _).trans (besidesTables_takeFrame src u)) h

end

/-- Settles O53: the frame of each command. -/
theorem readsLeaveTheDevice : Obligations.ReadsLeaveTheDevice := by
  intro i s t hi h
  apply eq_of_besidesTables_eq
  rcases hi with ⟨p, rfl⟩ | ⟨p, b, rfl⟩ | ⟨p, rfl⟩ | ⟨p, rfl⟩ | ⟨k, rfl⟩ | ⟨k, rfl⟩ | ⟨p, rfl⟩
  · exact execRead_frame h
  · exact execProbe_frame h
  · exact execAlertClearingRead_frame h
  · exact execSubscribe_frame h
  · exact execNotificationPeriod_frame h
  · exact execSubscriptionExpiry_frame h
  · exact execFrameDiscard_frame h

/-! ### The transfer of blocks (R443) -/

section
variable {s t : State} {src : OapSrc} {r : Req} {f : Info} {x : Session}

/-- BLOCK_BEGIN of the route table where no session is open. -/
theorem execBlockBegin_of_routes (h : Accepted s src .blockBegin r f t) (hroutes : isRoutes r.obj = true)
    (htotal : totalOk r.obj (beAt r.pay 1 4) = true) (hnone : t.warden.sessions = []) :
    execBlockBegin src s = .next (reply r okAns (t.onWarden (fun w => { w with
      sessions := [{ obj := r.obj, total := beAt r.pay 1 4, data := [], lastOff := 0, lastChunk := [],
                     lastTime := t.now }] }))) := by
  have hmanifest : isManifest r.obj = false := by
    rw [isRoutes, beq_iff_eq] at hroutes
    rw [isManifest, beq_eq_false_iff_ne]
    rintro hobj
    rw [hobj] at hroutes
    exact absurd hroutes (by decide)
  refine serve_of_accepted h ?_
  simp [blockBeginAct, htotal, hroutes, hmanifest, hnone, closeSession, State.onWarden]

/-- BLOCK_DATA at the length of the only session, which is the object's: its bytes are appended. -/
theorem execBlockData_of_next (h : Accepted s src .blockData r f t) (hsession : t.warden.sessions = [x])
    (hobj : x.obj = r.obj) (hoff : beAt r.pay 1 4 = x.data.length) :
    execBlockData src s = .next (reply r okAns (t.onWarden (fun w => { w with
      sessions := [{ x with data := x.data ++ r.pay.drop 5, lastOff := beAt r.pay 1 4, lastChunk := r.pay.drop 5,
                            lastTime := t.now }] }))) := by
  refine serve_of_accepted h ?_
  simp [blockDataAct, sessionOf, hsession, hobj, hoff, modFirst, State.onWarden]

/-- BLOCK_END of a session that is not whole, or whose CRC differs. -/
theorem execBlockEnd_of_bad (h : Accepted s src .blockEnd r f t) (hsession : sessionOf t r.obj = some x)
    (hbad : x.data.length ≠ x.total ∨ crc32c x.data ≠ beAt r.pay 1 4) :
    execBlockEnd src s = .next (reply r { status := 0x0E, pay := beBytes 4 0 } (closeSession r.obj t)) :=
  serve_of_accepted h (by simp only [blockEndAct, hsession, if_pos hbad, blockError])

/-- The END of a route table is answered at once (R466). -/
theorem routesEnd_answers (b : List Byte) (s : State) : ∃ a u, routesEnd b s = (u, some a) := by
  unfold routesEnd
  dsimp only
  split
  · exact ⟨_, _, rfl⟩
  split
  · exact ⟨_, _, rfl⟩
  · exact ⟨_, _, rfl⟩

/-- BLOCK_END of a whole route table: it is answered as R466 says of its contents. -/
theorem execBlockEnd_of_routes {a : Ans} {u : State} (h : Accepted s src .blockEnd r f t)
    (hsession : sessionOf t r.obj = some x) (hwhole : x.data.length = x.total)
    (hcrc : crc32c x.data = beAt r.pay 1 4) (hroutes : isRoutes r.obj = true)
    (hend : routesEnd x.data (closeSession r.obj t) = (u, some a)) :
    execBlockEnd src s = .next (reply r a u) := by
  have hgood : ¬ (x.data.length ≠ x.total ∨ crc32c x.data ≠ beAt r.pay 1 4) := by simp [hwhole, hcrc]
  exact serve_of_accepted h (by simp only [blockEndAct, hsession, if_neg hgood, if_pos hroutes, hend])

theorem execBlockSessionTimeout_of_late {obj : Nat} (hsession : sessionOf s obj = some x) (hup : s.warden.up = true)
    (hlate : x.lastTime + 60 * 10 ^ 9 ≤ s.now) : execBlockSessionTimeout obj s = .next (closeSession obj s) := by
  simp only [execBlockSessionTimeout, hsession]
  exact occurs_of_true (by rw [hup, decide_eq_true hlate]; rfl) _ s

end

/-- Settles O14: the law of each command. -/
theorem blockTransfersAnswer : Obligations.BlockTransfersAnswer := by
  refine ⟨?begin, ?data, ?bad, ?routes, ?timeout⟩
  case begin =>
    intro s src r f t h hroutes htotal hnone
    exact execBlockBegin_of_routes h hroutes htotal hnone
  case data =>
    intro s src r f t x h hsession hobj hoff
    exact execBlockData_of_next h hsession hobj hoff
  case bad =>
    intro s src r f t x h hsession hbad
    exact ⟨_, execBlockEnd_of_bad h hsession hbad, rfl⟩
  case routes =>
    intro s src r f t x h hsession hwhole hcrc hroutes
    obtain ⟨a, u, hend⟩ := routesEnd_answers x.data (closeSession r.obj t)
    exact ⟨a, u, hend, execBlockEnd_of_routes h hsession hwhole hcrc hroutes hend⟩
  case timeout =>
    intro s obj x hsession hup hlate
    exact execBlockSessionTimeout_of_late hsession hup hlate

/-! ### The owner lock (R452, R453) -/

section
variable {s t : State} {src : OapSrc} {r : Req} {f : Info}

theorem lockedOut_of_none (hnone : t.warden.lockout = none) : lockedOut t = false := by
  rw [lockedOut, hnone]

theorem lockedOut_of_some {e : Nat} (hlockout : t.warden.lockout = some e) : lockedOut t = decide (t.now < e) := by
  rw [lockedOut, hlockout]

/-- OWNER_LOCK_WRITE of 1 on the clear lock sets it with the code given. -/
theorem execOwnerLockWrite_of_clear (h : Accepted s src .lock r f t) (hopen : lockedOut t = false)
    (hclear : t.warden.stored.lock = false) (hset : beAt r.pay 0 1 = 1) :
    execOwnerLockWrite src s = .next (reply r okAns
      (t.onStored (fun x => { x with lock := true, ownerCode := beAt r.pay 1 4 }))) :=
  serve_of_accepted h (by simp [hopen, hclear, hset, stored])

/-- OWNER_LOCK_WRITE of 0 on the set lock with its code opens it. -/
theorem execOwnerLockWrite_of_code (h : Accepted s src .lock r f t) (hopen : lockedOut t = false)
    (hlock : t.warden.stored.lock = true) (hzero : beAt r.pay 0 1 = 0)
    (hcode : beAt r.pay 1 4 = t.warden.stored.ownerCode) :
    execOwnerLockWrite src s = .next (reply r okAns (t.onStored (fun x => { x with lock := false }))) :=
  serve_of_accepted h (by simp [hopen, hlock, hzero, hcode, stored])

/-- OWNER_LOCK_WRITE with another code, of 0 or of 1, is refused and counted (that of 1 too is the model's choice, log
entry 28). -/
theorem execOwnerLockWrite_of_wrongCode (h : Accepted s src .lock r f t) (hopen : lockedOut t = false)
    (hlock : t.warden.stored.lock = true) (hcode : beAt r.pay 1 4 ≠ t.warden.stored.ownerCode) :
    execOwnerLockWrite src s = .next (reply r (refusedAns 0x0501) (wrongCode t)) :=
  serve_of_accepted h (by simp [hopen, hlock, hcode, refusedAct])

/-- OWNER_LOCK_WRITE while the lockout lasts. -/
theorem execOwnerLockWrite_of_lockedOut (h : Accepted s src .lock r f t) (hlocked : lockedOut t = true) :
    execOwnerLockWrite src s = .next (reply r (refusedAns 0x0501) t) :=
  serve_of_accepted h (if_pos hlocked)

/-- A wrong code is counted among the Warden's own values: nothing that it stores changes. -/
@[simp] theorem wrongCode_stored (t : State) : (wrongCode t).warden.stored = t.warden.stored := by
  unfold wrongCode
  dsimp only
  split_ifs
  · simp only [wpost_warden, State.onWarden_warden]
  · simp only [wpost_warden, State.onWarden_warden]

/-- The first wrong code is posted, and is not the fifth. -/
theorem wrongCode_of_first (hfirst : t.warden.wrongCodes = []) : wrongCode t =
    wpost 0xA10 wardenUnit 0 [] (t.onWarden (fun w => { w with wrongCodes := [t.now] })) := by
  simp [wrongCode, hfirst]

theorem execOwnerLockLockoutEnd_of_late {e : Nat} (hlockout : s.warden.lockout = some e) (hlate : e ≤ s.now) :
    execOwnerLockLockoutEnd s = .next (s.onWarden (fun w => { w with lockout := none })) :=
  occurs_of_true (by rw [lockedOut_of_some hlockout, hlockout, decide_eq_false (Nat.not_lt.mpr hlate)]; rfl) _ s

end

/-- Settles O16: the lock's own checks in their order. That a wrong code counts and is refused also when 1 is written on
the set lock is the model's choice (log entry 28). -/
theorem ownerLockAnswers : Obligations.OwnerLockAnswers := by
  refine ⟨?set, ?opens, ?refused, ?first, ?lockedOut, ?ends⟩
  case set =>
    intro s src r f t h hnone hclear hset
    exact execOwnerLockWrite_of_clear h (lockedOut_of_none hnone) hclear hset
  case opens =>
    intro s src r f t h hnone hlock hzero hcode
    exact execOwnerLockWrite_of_code h (lockedOut_of_none hnone) hlock hzero hcode
  case refused =>
    intro s src r f t h hnone hlock hcode
    exact ⟨_, execOwnerLockWrite_of_wrongCode h (lockedOut_of_none hnone) hlock hcode, wrongCode_stored t⟩
  case first =>
    intro s src r f t h hnone hlock hcode hfirst
    have hwrong := execOwnerLockWrite_of_wrongCode h (lockedOut_of_none hnone) hlock hcode
    rwa [wrongCode_of_first hfirst] at hwrong
  case lockedOut =>
    intro s src r f t e h hlockout hlasts
    exact execOwnerLockWrite_of_lockedOut h ((lockedOut_of_some hlockout).trans (decide_eq_true hlasts))
  case ends =>
    intro s e hlockout hlate
    exact execOwnerLockLockoutEnd_of_late hlockout hlate

end Sys2Proof.Machine
end

section
/-! SUPPORT and PROOFS. Heat and coolant (R371, R385 to R392, R512): junctions, regions, the inlet, the flow and trips; and
margins (R396, R400 to R403): monitor samples and replans. -/

namespace Sys2Proof.Machine

/-! ### Junctions and regions (R385, R386) -/

section
variable {s : State} {d : Nat}

/-- JUNCTION_SAMPLE above the soft limit, of a domain that has its rail. -/
theorem execJunctionSample_of_hot {h : Rat} (m : Rat) (hd : d < 34) (haux : s.power.aux = true)
    (hrails : s.power.rails = true) (hgov : governed s d = true) (hhot : (s.warden.stored.softLimit : Rat) < h) :
    execJunctionSample d h m s = .next (limitStep (10 ^ 6) d (postArising true 0x102 (domUnit d) 0 []
      (s.onPower (fun p => { p with junction := put p.junction d (h, m), hot := insertNew p.hot d })))) := by
  rw [execJunctionSample, occurs_of_true (by rw [decide_eq_true hd, haux]; rfl)]
  dsimp only
  rw [if_neg (not_not_intro ⟨hgov, hrails⟩), if_pos hhot]
  rfl

/-- JUNCTION_SAMPLE at or below the soft limit, of a domain that is not hot: it is kept. -/
theorem execJunctionSample_of_cool {h : Rat} (m : Rat) (hd : d < 34) (haux : s.power.aux = true)
    (hnotHot : d ∉ s.power.hot) (hcool : h ≤ (s.warden.stored.softLimit : Rat)) :
    execJunctionSample d h m s = .next (s.onPower (fun p => { p with junction := put p.junction d (h, m) })) := by
  have hout : s.power.hot.contains d = false := by simpa using hnotHot
  rw [execJunctionSample, occurs_of_true (by rw [decide_eq_true hd, haux]; rfl)]
  simp only [if_neg (not_lt.mpr hcool), hout, Bool.false_and, Bool.false_eq_true, if_false, ite_self]

/-- REGIONAL_PULL_STEP of a pair of wheels whose temperatures lie too far apart: the pull begins. -/
theorem execRegionalPullStep_of_apart {x y : Nat} (hrails : s.power.rails = true)
    (hpair : isPair .temperature (min x y) (max x y) = true)
    (hfree : (PullKind.temperature, min x y, max x y) ∉ s.power.pulled)
    (hapart : 20 < pairDiff s .temperature (min x y) (max x y)) :
    execRegionalPullStep .temperature x y s = .next (pullStep .temperature (min x y) (max x y)
      (wpost 0x121 (domUnit (min x y)) 0 [] (s.onPower (fun p => { p with
        pulled := p.pulled ++ [(PullKind.temperature, min x y, max x y)] })))) := by
  have hout : s.power.pulled.contains (PullKind.temperature, min x y, max x y) = false := by simpa using hfree
  rw [execRegionalPullStep, occurs_of_true (by rw [hrails, hpair]; rfl)]
  simp only [hout, Bool.false_eq_true, if_false, if_pos hapart]

/-! ### The inlet (R389, R390) -/

/-- The state as a sample of the inlet is noted. -/
def inletNoted (c o : Rat) (s : State) : State :=
  s.onPower (fun p => { p with inletSamples := (c :: p.inletSamples).take 10, outlet := o })

/-- INLET_SAMPLE that leaves the applied limit: 0x112 arises or is absent by the average below 20 °C. -/
theorem execInletSample_of_unmoved {c o : Rat} (haux : s.power.aux = true) (hup : s.warden.up = true)
    (hstill : inletMoved (inletT (inletNoted c o s)) (inletNoted c o s) = false) :
    execInletSample c o s = .next (if inletT (inletNoted c o s) < 20
      then postArising true 0x112 0 0 [] (inletGuard (inletT (inletNoted c o s)) (inletNoted c o s))
      else absentEpisode 0x112 0 (inletGuard (inletT (inletNoted c o s)) (inletNoted c o s))) := by
  unfold inletNoted at hstill ⊢
  rw [execInletSample, occurs_of_true (by rw [haux, hup]; rfl)]
  simp only [hstill, Bool.false_eq_true, if_false]

theorem execInletRecoveryTimer_of_late {t : Nat} (hhot : s.power.inletHot = true) (hcool : s.power.coolSince = some t)
    (hlate : t + 60 * 10 ^ 9 ≤ s.now) :
    execInletRecoveryTimer s = .next (queueUpdate (viewChange [.inletHot false]) (endEpisode 0x111 0
      (s.onPower (fun p => { p with inletHot := false, coolSince := none })))) :=
  occurs_of_true (by simp only [hhot, hcool, decide_eq_true hlate, Bool.and_self]) _ s

/-! ### Flow and trips (R371, R391, R512) -/

theorem execFlowLoss_of_flow (hflow : s.power.flowOk = true) (haux : s.power.aux = true) :
    execFlowLoss s = .next (realTrip .flowLost
      (wpost 0x100 0 0 [] (s.onPower (fun p => { p with flowOk := false })))) :=
  occurs_of_true (by rw [hflow, haux]; rfl) _ s

theorem execJunctionTrip_of_domain (haux : s.power.aux = true) (hd : d < 34) :
    execJunctionTrip d s = .next (realTrip .junctionTrip (wpost 0x101 (domUnit d) 0 [] s)) :=
  occurs_of_true (by rw [haux, decide_eq_true hd]; rfl) _ s

/-- A trip with the rails on halts. -/
theorem realTrip_of_rails (c : HaltCause) (hrails : s.power.rails = true) : realTrip c s = coolantHalt c false s :=
  if_pos hrails

/-- A trip with the rails off finds nothing to halt. -/
theorem realTrip_of_railsOff (c : HaltCause) (hrails : s.power.rails = false) (hreal : s.power.haltInjected = false) :
    realTrip c s = s := by
  simp only [realTrip, hrails, hreal, Bool.false_eq_true, and_false, if_false]

theorem execTrayFlowOkAssert_of_noFlow (haux : s.power.aux = true) (hflow : s.power.flowOk = false) :
    execTrayFlowOkAssert s = .next (s.onPower (fun p => { p with flowOk := true, flowSince := s.now })) :=
  occurs_of_true (by rw [haux, hflow]; rfl) _ s

end

/-- Settles O34: the law of each command and of a trip. -/
theorem coolingAnswers : Obligations.CoolingAnswers := by
  refine ⟨?hot, ?cool, ?region, ?inlet, ?recovery, ?flow, ?junction, ?halts, ?nothing, ?returns⟩
  case hot =>
    intro s d h m hd haux hrails hgov hhot
    exact execJunctionSample_of_hot m hd haux hrails hgov hhot
  case cool =>
    intro s d h m hd haux hnotHot hcool
    exact execJunctionSample_of_cool m hd haux hnotHot hcool
  case region =>
    rintro s x y _ _ hrails rfl rfl hpair hfree hapart
    exact execRegionalPullStep_of_apart hrails hpair hfree hapart
  case inlet =>
    rintro s c o _ haux hup rfl hstill
    have hnext := execInletSample_of_unmoved haux hup hstill
    exact ⟨fun hcold => hnext.trans (congrArg _ (if_pos hcold)),
      fun hwarm => hnext.trans (congrArg _ (if_neg (not_lt.mpr hwarm)))⟩
  case recovery =>
    intro s t hhot hcool hlate
    exact execInletRecoveryTimer_of_late hhot hcool hlate
  case flow =>
    intro s hflow haux
    exact execFlowLoss_of_flow hflow haux
  case junction =>
    intro s d haux hd
    exact execJunctionTrip_of_domain haux hd
  case halts =>
    intro s c hrails
    exact realTrip_of_rails c hrails
  case nothing =>
    intro s c hrails hreal
    exact realTrip_of_railsOff c hrails hreal
  case returns =>
    intro s haux hflow
    exact execTrayFlowOkAssert_of_noFlow haux hflow

/-! ### Monitor samples (R396, R403) -/

section
variable {s : State} {d w n : Nat} {m : Rat}

/-- MONITOR_SAMPLE of a domain with enough margin. -/
theorem execMonitorSample_of_enough (hrails : s.power.rails = true) (hup : s.warden.up = true)
    (hgov : governed s d = true) (hm : 4 ≤ m) : execMonitorSample d m s = .next (absentEpisode 0x200 (domUnit d) s) := by
  rw [execMonitorSample, occurs_of_true (by rw [hrails, hup, hgov]; rfl)]
  exact congrArg _ (if_pos hm)

/-- A floor raised by 10 mV, to 850 mV at most; one above stays. -/
def raiseFloor (p : Plan) : Plan := { p with floor := max p.floor (min 850 (p.floor + 10)) }

/-- The state after a sample below 4%: the floor raised, and the replan of the wheel due. -/
def marginLow (d : Nat) (s : State) : State :=
  s.onAgeing (fun a => { a with
    plans := modAt a.plans d raiseFloor,
    dueSince := a.dueSince.set (d % 8) (some ((replanDue s (d % 8)).getD (poweredHours s))) })

theorem floorOf_marginLow_other {e : Nat} (he : e ≠ d) : floorOf (marginLow d s) e = floorOf s e :=
  congrArg Plan.floor (nth_modAt_other s.ageing.plans he raiseFloor Plan.reset)

theorem floorOf_marginLow_same (hd : d < s.ageing.plans.length) :
    floorOf (marginLow d s) d = max (floorOf s d) (min 850 (floorOf s d + 10)) :=
  congrArg Plan.floor (nth_modAt_same hd raiseFloor Plan.reset)

/-- A floor that stands at 850 mV stays there. -/
theorem floorOf_marginLow_of_top (htop : 850 ≤ floorOf s d) : floorOf (marginLow d s) d = floorOf s d := by
  by_cases hd : d < s.ageing.plans.length
  · rw [floorOf_marginLow_same hd]
    omega
  · have hsame : modAt s.ageing.plans d raiseFloor = s.ageing.plans := by
      simp [modAt, List.getElem?_eq_none (not_lt.mp hd)]
    exact congrArg (fun l => (nth l d Plan.reset).floor) hsame

/-- MONITOR_SAMPLE below 4% at the highest floor: 0x200 for its episode, and 0x201. -/
theorem execMonitorSample_of_top (hrails : s.power.rails = true) (hup : s.warden.up = true)
    (hgov : governed s d = true) (hm : m < 4) (htop : 850 ≤ floorOf s d) :
    execMonitorSample d m s = .next (wpost 0x201 (domUnit d) 0 []
      (if episodeOn s 0x200 (domUnit d) = true then episodeHolds 0x200 (domUnit d) (marginLow d s)
       else postEpisode true 0x200 (domUnit d) 0 (leBytes 2 (floorOf (marginLow d s) d)) (marginLow d s))) := by
  rw [execMonitorSample, occurs_of_true (by rw [hrails, hup, hgov]; rfl)]
  simp only [if_neg (not_le.mpr hm), decide_eq_true htop, Bool.true_and, if_true]
  rfl

/-- MONITOR_SAMPLE below 4%, below the highest floor: the episode of 0x200 alone. -/
theorem execMonitorSample_of_low (hrails : s.power.rails = true) (hup : s.warden.up = true)
    (hgov : governed s d = true) (hm : m < 4) (hlow : floorOf s d < 850) :
    execMonitorSample d m s = .next
      (postEpisode true 0x200 (domUnit d) 0 (leBytes 2 (floorOf (marginLow d s) d)) (marginLow d s)) := by
  rw [execMonitorSample, occurs_of_true (by rw [hrails, hup, hgov]; rfl)]
  simp only [if_neg (not_le.mpr hm), decide_eq_false (not_le.mpr hlow), Bool.false_and, Bool.false_eq_true, if_false]
  rfl

/-! ### Replans (R400, R401) -/

/-- IDLE_WINDOW_REPLAN of a usable wheel whose replan is due and that has been idle for 1 s; a submitted START_STEP of it
stops it (that it does is the model's choice, log entry 86). -/
theorem execIdleWindowReplan_of_due (x : WheelScan) (hw : w < 8) (hrails : s.power.rails = true)
    (hserving : s.serving = true) (hup : s.warden.up = true) (hon : w ∉ s.power.wheelsOff)
    (husable : nth s.gate.view.wheels w .fenced = .usable) (hdue : replanDue s w = some n) (hidle : wheelBusy s w = false)
    (hsince : (s.wheel w).idleSince + 10 ^ 9 ≤ s.now) :
    execIdleWindowReplan w x s = .next (if startSubmitted s w then stopReplan w s else replanWheel w x s) := by
  have hoff : s.power.wheelsOff.contains w = false := by simpa using hon
  exact occurs_of_true (by
    rw [decide_eq_true hw, hrails, hserving, hup, hoff, husable, hdue, hidle, decide_eq_true hsince]; rfl) _ s

theorem execReplanOverdue_of_late (hw : w < 8) (hup : s.warden.up = true) (hnew : nth s.ageing.overduePosted w false = false)
    (hdue : replanDue s w = some n) (hlate : n + 168 ≤ poweredHours s) :
    execReplanOverdue w s = .next (wpost 0x211 (unitId 1 w 0) 0 [] (s.onAgeing (fun a => { a with
      replan := a.replan.set w .overdue, overduePosted := a.overduePosted.set w true }))) :=
  occurs_of_true (by simp only [decide_eq_true hw, hup, hnew, hdue, decide_eq_true hlate]; rfl) _ s

end

/-- Settles O36: the law of each command. That a submitted START_STEP of the wheel stops the replan is the model's choice
(log entry 86). -/
theorem marginsAnswer : Obligations.MarginsAnswer := by
  refine ⟨?enough, ?top, ?low, ?replan, ?stopped, ?overdue⟩
  case enough =>
    intro s d m hrails hup hgov hm
    exact execMonitorSample_of_enough hrails hup hgov hm
  case top =>
    intro s d m hrails hup hgov hm htop
    exact ⟨marginLow d s, execMonitorSample_of_top hrails hup hgov hm htop, floorOf_marginLow_of_top htop, rfl⟩
  case low =>
    intro s d m hrails hup hgov hm hlow hd
    refine ⟨marginLow d s, execMonitorSample_of_low hrails hup hgov hm hlow, ?_, fun e he => floorOf_marginLow_other he⟩
    rw [floorOf_marginLow_same hd]
    omega
  case replan =>
    intro s w n x hw hrails hserving hup hon husable hdue hidle hsince hfree
    have hnext := execIdleWindowReplan_of_due x hw hrails hserving hup hon husable hdue hidle hsince
    rwa [hfree] at hnext
  case stopped =>
    intro s w n x hw hrails hserving hup hon husable hdue hidle hsince hstart
    have hnext := execIdleWindowReplan_of_due x hw hrails hserving hup hon husable hdue hidle hsince
    rwa [hstart] at hnext
  case overdue =>
    intro s w n hw hup hnew hdue hlate
    exact execReplanOverdue_of_late hw hup hnew hdue hlate

end Sys2Proof.Machine
end

section
/-! SUPPORT and PROOFS. Bring-up (R414 to R423), drains (R425 to R427), the restarts of the Warden (R433 to R435), and the
standby sense (R509). -/

namespace Sys2Proof.Machine

/-! ### The stages of bring-up -/

section
variable {s : State}

/-- The Warden is at a stage of bring-up, as a command asks it. -/
theorem stage_beq {n : Nat} (hstage : s.life.stage = some n) : (s.life.stage == some n) = true :=
  beq_iff_eq.mpr hstage

theorem execAuxPowerUp_of_stage (ok m : Bool) (h i : Nat) (hstage : s.life.stage = some 0) (haux : s.power.aux = true) :
    execAuxPowerUp ok h m i s = .next (stage0 ok h m i s) :=
  occurs_of_true (by rw [stage_beq hstage, haux]; rfl) _ s

theorem execStage1Firmware_of_stage (a b : SlotCheck) (hstage : s.life.stage = some 1) (haux : s.power.aux = true)
    (hstart : s.life.stageStart ≤ s.now) :
    execStage1Firmware a b s = .next (stage1 (if s.warden.slotB then b else a) s) :=
  occurs_of_true (by rw [stage_beq hstage, haux, decide_eq_true hstart]; rfl) _ s

theorem execStage2Rails_of_met (r : Stage2Result) (hstage : s.life.stage = some 2) (hmet : stage2Missing s = []) :
    execStage2Rails r s = .next (stage2 r false s) := by
  rw [execStage2Rails, occurs_of_true (stage_beq hstage), hmet]

theorem execStage2Rails_of_missing (r : Stage2Result) (hstage : s.life.stage = some 2) (hmissing : stage2Missing s ≠ []) :
    execStage2Rails r s = .next (stage2Waits (stage2Missing s) s) := by
  obtain ⟨d, ds, hlist⟩ := List.exists_cons_of_ne_nil hmissing
  rw [execStage2Rails, occurs_of_true (stage_beq hstage), hlist]

theorem execStage3Spares_of_stage (hstage : s.life.stage = some 3) (hrails : s.power.rails = true) :
    execStage3Spares s = .next (stage3 false s) :=
  occurs_of_true (by rw [stage_beq hstage, hrails]; rfl) _ s

theorem execStage4Hbm_of_stage (r : Stage4Result) (hstage : s.life.stage = some 4) (hrails : s.power.rails = true) :
    execStage4Hbm r s = .next (stage4 r false s) :=
  occurs_of_true (by rw [stage_beq hstage, hrails]; rfl) _ s

theorem execStage5Tests_of_stage (r : Stage5Result) (hstage : s.life.stage = some 5) (hrails : s.power.rails = true) :
    execStage5Tests r s = .next (stage5 r false s) :=
  occurs_of_true (by rw [stage_beq hstage, hrails]; rfl) _ s

/-- STAGE_6_LINKS once the host link has qualified or its wait has expired. -/
theorem execStage6Links_of_host (r : Stage6Result) (hstage : s.life.stage = some 6) (hrails : s.power.rails = true)
    (hhost : hostQualified s = true ∨ s.life.hostWaitExpired = true) :
    execStage6Links r s = .next (stage6 r false s) := by
  have hready : (hostQualified s || s.life.hostWaitExpired) = true := by simpa using hhost
  exact occurs_of_true (by rw [stage_beq hstage, hrails, hready]; rfl) _ s

theorem execStage7Plan_of_scanned (l : List (Nat × WheelScan)) (hstage : s.life.stage = some 7)
    (hrails : s.power.rails = true)
    (hscans : (plannedWheels s).all (fun w => l.any (fun p => p.1 == w)) = true) :
    execStage7Plan l s = .next (stage7 l false s) :=
  occurs_of_true (by rw [stage_beq hstage, hrails, hscans]; rfl) _ s

theorem execStage8Decision_of_stage (hstage : s.life.stage = some 8) :
    execStage8Decision s = .next (stage8 false s) :=
  occurs_of_true (stage_beq hstage) _ s

theorem execHostLinkWaitExpiry_of_late (hstage : s.life.stage = some 6) (hhost : hostQualified s = false)
    (hnew : s.life.hostWaitExpired = false)
    (hlate : s.life.stageStart + s.warden.stored.hostWait * 10 ^ 9 ≤ s.now) :
    execHostLinkWaitExpiry s = .next (s.onLife (fun l => { l with hostWaitExpired := true })) :=
  occurs_of_true (by rw [stage_beq hstage, hhost, hnew, decide_eq_true hlate]; rfl) _ s

/-- STAGE_TIMEOUT of a stage whose time counts whatever the conditions of R371: all but Stage 2. -/
theorem execStageTimeout_of_late {n : Nat} (hstage : s.life.stage = some n) (haux : s.power.aux = true) (hn : n ≠ 2)
    (hlate : stageClock s + stageMax s n * 10 ^ 6 < s.now) : execStageTimeout s = .next (lateStage n s) := by
  simp only [execStageTimeout, hstage]
  exact occurs_of_true (by rw [haux, decide_eq_true hlate, bne_iff_ne.mpr hn]; rfl) _ s

end

/-- Settles O37: each stage comes about in its turn. -/
theorem bringupStagesAnswer : Obligations.BringupStagesAnswer := by
  refine ⟨?zero, ?one, ?two, ?twoWaits, ?three, ?four, ?five, ?six, ?seven, ?eight, ?hostWait, ?timeout⟩
  case zero =>
    intro s ok r m i hstage haux
    exact execAuxPowerUp_of_stage ok r m i hstage haux
  case one =>
    intro s a b hstage haux hstart
    exact execStage1Firmware_of_stage a b hstage haux hstart
  case two =>
    intro s r hstage hmet
    exact execStage2Rails_of_met r hstage hmet
  case twoWaits =>
    intro s r hstage hmissing
    exact execStage2Rails_of_missing r hstage hmissing
  case three =>
    intro s hstage hrails
    exact execStage3Spares_of_stage hstage hrails
  case four =>
    intro s r hstage hrails
    exact execStage4Hbm_of_stage r hstage hrails
  case five =>
    intro s r hstage hrails
    exact execStage5Tests_of_stage r hstage hrails
  case six =>
    intro s r hstage hrails hhost
    exact execStage6Links_of_host r hstage hrails hhost
  case seven =>
    intro s l hstage hrails hscans
    exact execStage7Plan_of_scanned l hstage hrails hscans
  case eight =>
    intro s hstage
    exact execStage8Decision_of_stage hstage
  case hostWait =>
    intro s hstage hhost hnew hlate
    exact execHostLinkWaitExpiry_of_late hstage hhost hnew hlate
  case timeout =>
    intro s n hstage haux hn hlate
    exact execStageTimeout_of_late hstage haux hn hlate

/-! ### Drains (R425 to R427) -/

section
variable {s : State} {k w : Nat} {d : Drain}

/-- The only drain, changed. -/
theorem onDrain_of_single (f : Drain → Drain) (hdrains : s.gate.drains = [d]) :
    onDrain 0 f s = s.onGate (fun g => { g with drains := [f d] }) := by
  simp [onDrain, State.onGate, modAt, hdrains]

/-- DRAIN_END of a scope with no work in flight. -/
theorem execDrainEnd_of_done (hdrain : s.gate.drains[k]? = some d) (hnew : d.absorbing = false) (hbegun : d.begun = true)
    (hdone : inFlight s d.scope = false) :
    execDrainEnd k s = .next (onDrain k (fun x => { x with absorbing := true }) s) := by
  simp only [execDrainEnd, hdrain]
  exact occurs_of_true (by rw [hbegun, hnew, hdone]; rfl) _ s

/-- DRAIN_DEADLINE of a drain whose deadline has passed. -/
theorem execDrainDeadline_of_late (hdrain : s.gate.drains[k]? = some d) (hnew : d.absorbing = false)
    (hbegun : d.begun = true) (hlate : d.began + d.deadline * 1000 ≤ s.now) :
    execDrainDeadline k s = .next (onDrain k (fun x => { x with absorbing := true }) s) := by
  simp only [execDrainDeadline, hdrain]
  exact occurs_of_true (by rw [hbegun, hnew, decide_eq_true hlate]; rfl) _ s

theorem execAbsorptionComplete_of_absorbing (hdrain : s.gate.drains[k]? = some d) (habsorbing : d.absorbing = true) :
    execAbsorptionComplete k s =
      .next (finishDrain d (s.onGate (fun g => { g with drains := g.drains.eraseIdx k }))) := by
  simp only [execAbsorptionComplete, hdrain]
  exact occurs_of_true habsorbing _ s

/-- The event of an escalation: the new unit, with the old and the new unit ID (that detail is the model's choice, log entry
37). -/
def escalationPosted (d : Drain) (s : State) : State :=
  post 0x550 (scopeUnit (nextScope s d)) 0 (leBytes 4 (scopeUnit d.scope) ++ leBytes 4 (scopeUnit (nextScope s d))) s

/-- RESET_ESCALATION of a step's end: it goes on beside the reset of the unit it is stuck on. -/
theorem execResetEscalation_of_recipe {h : Nat} (hdrain : s.gate.drains[k]? = some d) (hscope : d.scope = .recipe h)
    (hbegun : d.begun = true) (hlate : d.began + d.deadline * 1000 + 10 ^ 6 ≤ s.now) :
    execResetEscalation k s = .next (beginScope (nextScope s d)
      (onDrain k (fun x => { x with began := s.now }) (escalationPosted d s))) := by
  simp only [execResetEscalation, hdrain]
  rw [occurs_of_true (by rw [hbegun, decide_eq_true hlate, hscope]; rfl)]
  simp only [escalationPosted, hscope, if_true]

/-- RESET_ESCALATION of a wheel: the larger reset takes its place. -/
theorem execResetEscalation_of_wheel (hdrain : s.gate.drains[k]? = some d) (hscope : d.scope = .wheel w)
    (hbegun : d.begun = true) (hlate : d.began + d.deadline * 1000 + 10 ^ 6 ≤ s.now) :
    execResetEscalation k s = .next (beginScope (nextScope s d)
      ((escalationPosted d s).onGate (fun g => { g with drains := g.drains.eraseIdx k }))) := by
  simp only [execResetEscalation, hdrain]
  rw [occurs_of_true (by rw [hbegun, decide_eq_true hlate, hscope]; rfl)]
  simp only [escalationPosted, hscope, Bool.false_eq_true, if_false]

/-- A wheel after the test that follows its reset: what failed is entered, and the spares are applied again (R425). -/
def wheelTested (w : Nat) (r : Stage5Result) (s : State) : State :=
  (postSubstitutions s (respare s w (enterParts ((stage5Parts r).filter (fun p => bitsOf p.1 15 13 == w)) s))).onWheel w
    (fun x => { x with resetTest := false })

theorem execWheelUsableAgain_of_tested (r : Stage5Result) (hw : w < 8) (htest : (s.wheel w).resetTest = true) :
    ∃ found : List Byte, execWheelUsableAgain w r s = .next (endRun (od 0x20 (0x101 + 0x10 * w) 0) found
      (queueUpdate (viewChange [.wheel w
        (if (wheelTested w r s).life.fencedWheels.contains w then .fenced else .usable)]) (wheelTested w r s))) :=
  ⟨_, occurs_of_true (by rw [decide_eq_true hw, htest]; rfl) _ s⟩

end

/-- Settles O39: the law of each command. That the detail of 0x550 is the old and the new unit ID is the model's choice (log
entry 37). -/
theorem drainsAnswer : Obligations.DrainsAnswer := by
  refine ⟨?ends, ?deadline, ?absorbed, ?recipe, ?wheel, ?usable⟩
  case ends =>
    intro s d hdrains hnew hbegun hdone
    rw [exec_drainEnd, execDrainEnd_of_done (by rw [hdrains]; rfl) hnew hbegun hdone, onDrain_of_single _ hdrains]
  case deadline =>
    intro s d hdrains hnew hbegun hlate
    rw [exec_drainDeadline, execDrainDeadline_of_late (by rw [hdrains]; rfl) hnew hbegun hlate,
      onDrain_of_single _ hdrains]
  case absorbed =>
    intro s k d hdrain habsorbing
    exact execAbsorptionComplete_of_absorbing hdrain habsorbing
  case recipe =>
    intro s k h d hdrain hscope hbegun hlate
    exact execResetEscalation_of_recipe hdrain hscope hbegun hlate
  case wheel =>
    intro s k w d hdrain hscope hbegun hlate
    exact execResetEscalation_of_wheel hdrain hscope hbegun hlate
  case usable =>
    rintro s _ w r hw htest rfl
    exact execWheelUsableAgain_of_tested r hw htest

/-! ### Restarts of the Warden (R433 to R435) -/

section
variable {s : State}

theorem execLockstepMismatch_of_up (haux : s.power.aux = true) (hup : s.warden.up = true) :
    execLockstepMismatch s = .next (restartWarden 0xA00 s) :=
  occurs_of_true (by rw [haux, hup]; rfl) _ s

theorem execWardenWatchdogExpiry_of_up (haux : s.power.aux = true) (hup : s.warden.up = true) :
    execWardenWatchdogExpiry s = .next (restartWarden 0xA01 s) :=
  occurs_of_true (by rw [haux, hup]; rfl) _ s

/-- PLCA_BEACON_LOSS: the network goes on by CSMA/CD, and the episode ends at once (that it does is the model's choice, log
entry 39). -/
theorem execPlcaBeaconLoss_of_up (haux : s.power.aux = true) (hup : s.warden.up = true) :
    execPlcaBeaconLoss s = .next (absentEpisode 0xA20 wardenUnit (postEpisode true 0xA20 wardenUnit 0 []
      (s.onWarden (fun w => { w with csma := true })))) :=
  occurs_of_true (by rw [haux, hup]; rfl) _ s

/-- A Warden that is up again posts the detector of its restart. -/
theorem postRestart_of_some {d : Nat} (hdet : s.warden.restartDet = some d) :
    postRestart s = wpost d wardenUnit 0 [] (s.onWarden (fun w => { w with restartDet := none })) := by
  simp only [postRestart, hdet]

/-- WARDEN_RESTART_COMPLETE outside bring-up. -/
theorem execWardenRestartComplete_of_down {d : Nat} (hdet : s.warden.restartDet = some d) (haux : s.power.aux = true)
    (hdown : s.warden.up = false) (hstage : s.life.stage = none) :
    execWardenRestartComplete s =
      .next (wpost d wardenUnit 0 [] (s.onWarden (fun w => { w with up := true, restartDet := none }))) := by
  rw [execWardenRestartComplete, occurs_of_true (by rw [hdet, haux, hdown, hstage]; rfl),
    postRestart_of_some (s := s.onWarden (fun w => { w with up := true })) hdet]
  rfl

end

/-- Settles O40: the law of each command. That the episode of 0xA20 ends at once while CSMA/CD stays is the model's choice
(log entry 39). -/
theorem wardenRestartsAnswer : Obligations.WardenRestartsAnswer := by
  refine ⟨fun s haux hup => ⟨?lockstep, ?watchdog, ?beacon⟩, ?complete⟩
  case lockstep => exact execLockstepMismatch_of_up haux hup
  case watchdog => exact execWardenWatchdogExpiry_of_up haux hup
  case beacon => exact execPlcaBeaconLoss_of_up haux hup
  case complete =>
    intro s d hdet haux hdown hstage
    exact execWardenRestartComplete_of_down hdet haux hdown hstage

/-! ### The standby sense (R509) -/

/-- The third bit of OD 01.030 is the level of STBY12_SENSE. -/
theorem trayBits_testBit_three (s : State) : (trayBits s).testBit 3 = s.power.stby12 := by
  have hsum : ∀ a b c x e : Bool, (bit a + 2 * bit b + 4 * bit c + 8 * bit x + 16 * bit e).testBit 3 = x := by decide
  exact hsum _ _ _ _ _

/-- Settles O45: the level is kept, and OD 01.030 reads it. -/
theorem standbySenseIsOnlyReported : Obligations.StandbySenseIsOnlyReported := by
  intro s b haux
  exact ⟨_, execStby12SenseChange_of_aux b haux, rfl, trayBits_testBit_three _⟩

end Sys2Proof.Machine
end
